-- ==== Sys2Proof/Word.lean ====
section
/-! DEFINITION. The word types of the ZA-960 and nothing else (R5, R57, R74, R167). -/

namespace Sys2Proof

/-- One byte of memory. -/
abbrev Byte := BitVec 8
/-- One 32-bit lane of a vector register, an `m` register or `em` (R5, R167). -/
abbrev Lane := BitVec 32
/-- A 64-bit word: a scalar register, an instruction word, a header word (R57, R167). -/
abbrev Word := BitVec 64
/-- The 128 bytes of a vector register, lane `t` in bits `32t` to `32t+31` (R5, R74). -/
abbrev VReg := BitVec 1024
/-- A vector register number (R68). -/
abbrev RegNo := BitVec 8
/-- A scalar register number, positions 0 to 63 (R68, R167). -/
abbrev SReg := BitVec 6

end Sys2Proof
end

