-- ==== Sys2Proof/Syntax.lean ====
section
/-! DEFINITION. The steps of the ZA-960: one constructor for each row of spec/opcode_table.json, the instructions first
and then the events of the device, with the operand types they use (R57-R73, R95 of the step list). -/

namespace Sys2Proof

/-! ## Codes that several instructions share -/

/-- The type codes of TY (R66). -/
inductive Ty where
  | b32 | s32 | n32 | s16x2 | n16x2 | s8x4 | n8x4 | s4x8
  | f32 | f16x2 | bf16x2 | f64 | e4m3x4 | e5m2x4 | s64 | n64
  deriving DecidableEq, Repr, Inhabited

/-- The rounding modes of RM (R67, R128). -/
inductive Rm where
  | rne | rtz | rup | rdn | rna | rsr | dyn
  deriving DecidableEq, Repr, Inhabited

/-- The condition codes of CND (R61). -/
inductive Cnd where
  | al | eq | ne | lt | ge | le | gt | any | all | none
  deriving DecidableEq, Repr, Inhabited

/-- A scalar position: `s0`-`s63`, `m0`-`m7` or `em` (R68). -/
inductive SPos where
  | s (n : SReg)
  | m (n : BitVec 3)
  | em
  deriving DecidableEq, Repr, Inhabited

/-- A source that is a vector register or a scalar position (BS and CK of R58). -/
inductive Opnd where
  | v (r : RegNo)
  | s (p : SPos)
  deriving DecidableEq, Repr, Inhabited

/-- The NR, IA, ID and IXN fields of the V format (R58, R89). -/
structure VMode where
  nr : Bool := false
  ia : Bool := false
  id : Bool := false
  ixn : BitVec 2 := 0
  deriving DecidableEq, Repr, Inhabited

/-- Destination of a compare or classification: a mask register or a vector register (R111, R152, R153). -/
inductive CmpDst where
  | mask (k : BitVec 3) (any : Bool)
  | vec (d : RegNo)
  deriving DecidableEq, Repr, Inhabited

/-- Shift operations (R109). -/
inductive ShiftOp where
  | shl | shr | sra | rol
  deriving DecidableEq, Repr, Inhabited

/-- Conditions of VCMP (R111). -/
inductive ICond where
  | eq | ne | lt | le | gt | ge
  deriving DecidableEq, Repr, Inhabited

/-- Operations of VMIN (R113). -/
inductive MinOp where
  | min | max | adf | clmp
  deriving DecidableEq, Repr, Inhabited

/-- Unary operations (R114). -/
inductive UniOp where
  | abs | neg | not | pop | clz | ctz | brev | bswp
  deriving DecidableEq, Repr, Inhabited

/-- Operations of GRED and GSCN (R120). -/
inductive RedOp where
  | add | min | max | and | or | xor
  deriving DecidableEq, Repr, Inhabited

/-- Modes of SHFL (R117). -/
inductive ShflMode where
  | idx | xor | up | dn
  deriving DecidableEq, Repr, Inhabited

/-- Granularity of SLIDE (R118). -/
inductive Gran where
  | w | h | b
  deriving DecidableEq, Repr, Inhabited

/-- The lane chosen by BCST (R119). -/
inductive BcstSel where
  | lane (k : BitVec 5)
  | sca (p : SPos)
  | first
  deriving DecidableEq, Repr, Inhabited

/-- Modes of VIDX (R97). -/
inductive IdxMode where
  | lane | group | grid
  deriving DecidableEq, Repr, Inhabited

/-- Operations of FMIN (R151). -/
inductive FMinOp where
  | min | max | minp | maxp
  deriving DecidableEq, Repr, Inhabited

/-- Conditions of FCMP (R152). -/
inductive FCond where
  | eq | ne | lt | le | gt | ge | un | ord
  deriving DecidableEq, Repr, Inhabited

/-- Destination of a reduction or a rounding that is a vector register or a scalar register (R120, R163). -/
inductive RedDst where
  | v (d : RegNo)
  | s (d : SReg)
  deriving DecidableEq, Repr, Inhabited

/-- The second operand of scalar arithmetic: IMM32 or a scalar position (R178). -/
inductive SOp where
  | imm (v : BitVec 32)
  | pos (p : SPos)
  deriving DecidableEq, Repr, Inhabited

/-- Operations of SLOG (R178). -/
inductive SLogOp where
  | and | or | xor | andn
  deriving DecidableEq, Repr, Inhabited

/-- Operations of SBIT (R178). -/
inductive SBitOp where
  | ext | pop | clz | ctz
  deriving DecidableEq, Repr, Inhabited

/-- Forms of SMOVI (R179). -/
inductive MoviForm where
  | whole | hi | lo
  deriving DecidableEq, Repr, Inhabited

/-- The control registers (R173). -/
inductive Ctl where
  | rm | fte | mmode | burnauto | shuntauto | tvt | balth | baltt | baldly | dampmin | bias
  deriving DecidableEq, Repr, Inhabited

/-- The selectors that SRD reads (R175). -/
inductive Sel where
  | lane | group | role | team | grid | core | cluster | flue | tier | flmis | clmis | time | cyc | cap
  | part | ctx | window | depth | live
  | perf (i : BitVec 4)
  | ctl (c : Ctl)
  deriving DecidableEq, Repr, Inhabited

/-- Destination of SRD: the scalar form, or the vector form of 32 or 64 bits (R182). -/
inductive SrdDst where
  | sca (d : SReg)
  | vec (wide : Bool) (d : RegNo)
  deriving DecidableEq, Repr, Inhabited

/-- Operations of SWR (R183). -/
inductive SwrOp where
  | write | set | clr
  deriving DecidableEq, Repr, Inhabited

/-- Operations of EMSET (R187). -/
inductive EmOp where
  | set | and | or | andn
  deriving DecidableEq, Repr, Inhabited

/-- Operations of VOTE (R189). -/
inductive VoteOp where
  | ballot | any | all | uni
  deriving DecidableEq, Repr, Inhabited

/-- Sizes of memory accesses (R62). -/
inductive Sz where
  | b1 | b2 | b4 | b8 | b16 | b32
  deriving DecidableEq, Repr, Inhabited

/-- Retention hints (R62, R205). -/
inductive Hint where
  | dflt | strm | stky | byp
  deriving DecidableEq, Repr, Inhabited

/-- Orders of memory accesses (R62, R208). -/
inductive MOrd where
  | rlx | acq | rel | ar | sc
  deriving DecidableEq, Repr, Inhabited

/-- Scopes of memory accesses (R62, R209). -/
inductive Scope where
  | core | clus | dev | sys
  deriving DecidableEq, Repr, Inhabited

/-- The address operand: per-lane addresses in a vector register, or a scalar base with a per-lane offset register,
0 for none (R233). -/
inductive Base where
  | vec (a : RegNo)
  | sca (a : SPos) (idx : RegNo)
  deriving DecidableEq, Repr, Inhabited

/-- The address operand of ATOM and ATMF, whose B field is data (R233). -/
inductive ABase where
  | vec (a : RegNo)
  | sca (a : SPos)
  deriving DecidableEq, Repr, Inhabited

/-- Functions of ATOM (R244). -/
inductive AtomFn where
  | add | and | or | xor | smin | smax | nmin | nmax | xchg | cas
  deriving DecidableEq, Repr, Inhabited

/-- Functions of ATMF (R245). -/
inductive AtmfFn where
  | add | min | max | exact | exactb
  deriving DecidableEq, Repr, Inhabited

/-- Functions of CMNT (R249). -/
inductive CmntFn where
  | dmt | stky | drop | evict
  deriving DecidableEq, Repr, Inhabited

/-- Modes of an SRAM bank (R200). -/
inductive BankMode where
  | cache | spad | fifo
  deriving DecidableEq, Repr, Inhabited

/-- The operand of NAP and of the BAL forms: an immediate or a scalar position (R258, R357). -/
inductive TOp where
  | imm (v : BitVec 32)
  | pos (p : SPos)
  deriving DecidableEq, Repr, Inhabited

/-- Operand formats of the matrix engine (R63). -/
inductive FA where
  | e4m3 | e5m2 | bf16 | f16 | s8 | n8 | f32
  deriving DecidableEq, Repr, Inhabited

/-- The count of MMAL and MSCL: IMM12, or a scalar position (R63, R319, R320). -/
inductive MCnt where
  | imm (n : BitVec 12)
  | pos (p : SPos)
  deriving DecidableEq, Repr, Inhabited

/-- Kinds of collective (R299). -/
inductive CollKind where
  | allReduce | reduceScatter | allGather | broadcast
  deriving DecidableEq, Repr, Inhabited

/-! ## Operands of events -/

/-- A thermal state of a memory stack (R337). -/
inductive Thermal where
  | normal | hot | cap
  deriving DecidableEq, Repr, Inhabited

/-- A clean copy that an error struck (R393): a line of a cluster cache or of its home slice, or an entry of a table by its place: the reuse
table or the translations of a core, those of a cluster, the pointers of a die, the scales of a matrix engine. -/
inductive CleanCopy where
  | clusterLine (k line : Nat)
  | sliceLine (line : Nat)
  | reuse (core i : Nat)
  | tlb (core i : Nat)
  | clusterTlb (k i : Nat)
  | pointer (die i : Nat)
  | scale (engine i : Nat)
  deriving DecidableEq, Repr, Inhabited

/-- Where an uncorrectable error struck (R277, R393). -/
inductive ErrSite where
  | cleanCopy (c : CleanCopy)
  | latent (pa : Nat)                       -- a sector of a save area, found when it is read
  | contextState (part ctx : Nat)           -- registers, a window, a FIFO or a live exact cell of the context
  | sector (part ctx : Nat) (pa : Nat)      -- a device-memory sector of the context
  | logOrSave (part ctx : Nat)              -- the log or the save area of the context
  | shared                                  -- shared state
  deriving DecidableEq, Repr, Inhabited

/-- What a peer sends over Flowen (R407, R408): loads, stores, atomics, release notices and blocks of a collective; and word that it refuses
this device's requests from now on, or takes them again. -/
inductive PeerReq where
  | load (pa : Nat) (n : Nat)
  | store (pa : Nat) (data : List Byte)
  | atom (fn : AtomFn) (pa : Nat) (wide : Bool) (operand keep : Word)
  | atmf (fn : AtmfFn) (sz : Sz) (pa : Nat) (operand : Word)
  | notice (line : Nat)
  | block (pa : Nat) (data : List Byte)
  | refuses (yes : Bool)
  deriving DecidableEq, Repr, Inhabited

/-- The agent kinds that keep eight or sixteen performance counters (R360). -/
inductive CtrBlock where
  | core (n : Nat) | slice (n : Nat) | engine (n : Nat) | mxEngine (n : Nat)
  deriving DecidableEq, Repr, Inhabited

/-- Clause classes (R50, R69). -/
inductive Eng where
  | general | matrix | engine | system
  deriving DecidableEq, Repr, Inhabited

/-- The operands of `mzro.grant`: its TILE field, which may be any and selects nothing, and the count of tiles (R316, R317). -/
structure GrantArg where
  tile : BitVec 4
  k : BitVec 5
  deriving DecidableEq, Repr

/-- The fields of a clause header; `cnt` is the number of instructions less 1, and `seta`, `setb` are 15 for none (R50). -/
structure Header where
  eng : Eng := .general
  cnt : BitVec 4 := 0
  wait : BitVec 12 := 0
  seta : BitVec 4 := 15
  setb : BitVec 4 := 15
  cur : BitVec 4 := 0
  yld : Bool := false
  brk : Bool := false
  deriving DecidableEq, Repr, Inhabited

/-- Why a word is no instruction: its opcode is unassigned, or a field breaks the entry (R72, checks 4a and 4d). -/
inductive DecErr where
  | illop | illenc
  deriving DecidableEq, Repr

/-! ## The steps -/

/-- One constructor for each row of spec/opcode_table.json. -/
inductive Instr where
  -- Registers IV: control transfer, masks, flags (R184-R192)
  | nop (nr : Bool)
  | bra (off : BitVec 16)
  | brx (a : SReg)
  | brc (cnd : Cnd) (a : SPos) (off : BitVec 16)
  | bdv (cnd : Cnd) (a : RegNo) (off1 off2 : BitVec 16)
  | join
  | call (d : SReg) (off : BitVec 16)
  | ret (a : SReg)
  | exit
  | exitLanes
  | emsav (d : SPos) (nr : Bool)
  | emset (op : EmOp) (b : Opnd) (nr : Bool)
  | mlog (d a b c : SPos) (lut : BitVec 8) (nr : Bool)
  | vote (op : VoteOp) (d : SPos) (a : RegNo) (nr : Bool)
  | tfence (nr : Bool)
  | trap (e : BitVec 32)
  | yield (n : BitVec 4) (nr : Bool)
  -- Registers IV: scalar arithmetic and moves (R178-R183)
  | sadd (ty : Ty) (d a : SPos) (b : SOp)
  | ssub (ty : Ty) (d a : SPos) (b : SOp)
  | smul (ty : Ty) (hi : Bool) (d a : SPos) (b : SOp)
  | slog (op : SLogOp) (d a : SPos) (b : SOp)
  | sshf (ty : Ty) (op : ShiftOp) (d a : SPos) (b : SOp)
  | scmp (ty : Ty) (d a : SPos) (b : SOp)
  | smin (ty : Ty) (max : Bool) (d a : SPos) (b : SOp)
  | sbit (ty : Ty) (op : SBitOp) (d a : SPos) (b : SOp)
  | sdiv (ty : Ty) (rem : Bool) (d a : SPos) (b : SOp)
  | smov (d b : SPos) (nr : Bool)
  | smovLane (wide : Bool) (d : SReg) (a : RegNo) (k : BitVec 5) (nr : Bool)
  | smovi (form : MoviForm) (zext : Bool) (d : SPos) (imm : BitVec 32)
  | ssel (d a b c : SPos) (nr : Bool)
  | srd (sel : Sel) (d : SrdDst) (nr : Bool)
  | swr (op : SwrOp) (c : Ctl) (b : SPos) (nr : Bool)
  -- Memories III: uniform accesses (R242)
  | sld (sz : Sz) (sx : Bool) (hint : Hint) (ord : MOrd) (sco : Scope) (prm : Bool) (d : SReg) (a : SPos) (off : BitVec 16)
  | sst (sz : Sz) (hint : Hint) (ord : MOrd) (sco : Scope) (d : SReg) (a : SPos) (off : BitVec 16)
  -- Registers II: integer lanes (R106-R115), Registers I: moves (R94-R97)
  | vadd (ty : Ty) (sat : Bool) (d a : RegNo) (b : Opnd) (m : VMode)
  | vsub (ty : Ty) (sat : Bool) (d a : RegNo) (b : Opnd) (m : VMode)
  | vmul (ty : Ty) (hi sat : Bool) (d a : RegNo) (b : Opnd) (m : VMode)
  | vmad (ty : Ty) (sat : Bool) (d a : RegNo) (b c : Opnd) (m : VMode)
  | vdot (ty : Ty) (sat : Bool) (d a : RegNo) (b c : Opnd) (m : VMode)
  | vlog (wide : Bool) (d a : RegNo) (b c : Opnd) (lut : BitVec 8) (m : VMode)
  | vshf (ty : Ty) (op : ShiftOp) (uni sat : Bool) (d a : RegNo) (b : Opnd) (m : VMode)
  | vcmp (ty : Ty) (cond : ICond) (d : CmpDst) (a : RegNo) (b : Opnd) (m : VMode)
  | vsel (ty : Ty) (d a : RegNo) (b c : Opnd) (m : VMode)
  | vmin (ty : Ty) (op : MinOp) (d a : RegNo) (b c : Opnd) (m : VMode)
  | vuni (ty : Ty) (op : UniOp) (sat : Bool) (d a : RegNo) (m : VMode)
  | vbit (ty : Ty) (ins : Bool) (d a : RegNo) (b c : Opnd) (m : VMode)
  | vmov (wide : Bool) (d : RegNo) (src : Opnd) (m : VMode)
  | vmovi (ty : Ty) (d : RegNo) (imm : BitVec 32)
  | vnrw (ty : Ty) (rm : Rm) (sat : Bool) (d a : RegNo) (b : Opnd) (el : BitVec 3) (m : VMode)
  | vidx (wide : Bool) (mode : IdxMode) (d : RegNo) (nr : Bool)
  -- Registers III: floating point (R147-R154)
  | fadd (ty : Ty) (rm : Rm) (sat : Bool) (d a : RegNo) (b : Opnd) (m : VMode)
  | fsub (ty : Ty) (rm : Rm) (sat : Bool) (d a : RegNo) (b : Opnd) (m : VMode)
  | fmul (ty : Ty) (rm : Rm) (sat : Bool) (d a : RegNo) (b : Opnd) (m : VMode)
  | ffma (ty : Ty) (rm : Rm) (sat negp negc : Bool) (d a : RegNo) (b c : Opnd) (m : VMode)
  | fmin (ty : Ty) (op : FMinOp) (d a : RegNo) (b : Opnd) (m : VMode)
  | fcmp (ty : Ty) (cond : FCond) (d : CmpDst) (a : RegNo) (b : Opnd) (m : VMode)
  | fcls (ty : Ty) (d : CmpDst) (a : RegNo) (set : SPos) (m : VMode)
  | frcp (ty : Ty) (rm : Rm) (sat : Bool) (d a : RegNo) (m : VMode)
  | frsq (ty : Ty) (rm : Rm) (sat : Bool) (d a : RegNo) (m : VMode)
  | fsqt (ty : Ty) (rm : Rm) (sat : Bool) (d a : RegNo) (m : VMode)
  | fex2 (ty : Ty) (rm : Rm) (sat : Bool) (d a : RegNo) (m : VMode)
  | flg2 (ty : Ty) (rm : Rm) (sat : Bool) (d a : RegNo) (m : VMode)
  | ftrg (ty : Ty) (rm : Rm) (sat cos : Bool) (d a : RegNo) (m : VMode)
  | fdiv (ty : Ty) (rm : Rm) (sat : Bool) (d a : RegNo) (b : Opnd) (m : VMode)
  | fcvt (dst src : Ty) (rm : Rm) (sat : Bool) (d a : RegNo) (el : BitVec 3) (nr : Bool)
  | icvt (dst src : Ty) (n4 : Bool) (rm : Rm) (sat : Bool) (d a : RegNo) (el : BitVec 3) (nr : Bool)
  | dadd (sub : Bool) (rm : Rm) (sat : Bool) (d a : RegNo) (b : Opnd) (nr : Bool)
  | dmul (rm : Rm) (sat : Bool) (d a : RegNo) (b : Opnd) (nr : Bool)
  | dfma (rm : Rm) (sat negp negc : Bool) (d a : RegNo) (b c : Opnd) (nr : Bool)
  | scvn (e5m2 : Bool) (rm : Rm) (sat : Bool) (d a : RegNo) (b : Opnd) (el : BitVec 3) (nr : Bool)
  | scvw (e5m2 : Bool) (rm : Rm) (sat : Bool) (d a : RegNo) (b : Opnd) (el : BitVec 3) (nr : Bool)
  | kclr (k : BitVec 2) (nr : Bool)
  | kadd (ty : Ty) (k : BitVec 2) (a : RegNo) (nr : Bool)
  | krnd (ty : Ty) (rm : Rm) (sat clr : Bool) (k : BitVec 2) (d : RedDst) (nr : Bool)
  | kscn (ty : Ty) (rm : Rm) (sat excl : Bool) (k : BitVec 2) (d a : RegNo) (nr : Bool)
  | kmovGet (k : BitVec 2) (d : RegNo) (nr : Bool)
  | kmovSet (k : BitVec 2) (a : RegNo) (nr : Bool)
  | kmovCpy (k j : BitVec 2) (nr : Bool)
  | kmovAdd (k j : BitVec 2) (nr : Bool)
  | fsrGet (d : SReg) (nr : Bool)
  | fsrSet (b : SPos) (nr : Bool)
  | fsrClr (b : SPos) (nr : Bool)
  | fsrOr (b : SPos) (nr : Bool)
  | ixset (k : BitVec 2) (a : RegNo) (b : Opnd) (nr : Bool)
  | ixadd (k : BitVec 2) (b : Opnd) (wrap nr : Bool)
  -- Registers II: cross-lane (R116-R121)
  | shfl (wide : Bool) (mode : ShflMode) (d a : RegNo) (b : Opnd) (fill : Option Opnd) (nr : Bool)
  | slide (wide : Bool) (up : Bool) (gran : Gran) (d a : RegNo) (b : Opnd) (k : BitVec 5) (nr : Bool)
  | bcst (wide : Bool) (d a : RegNo) (sel : BcstSel) (nr : Bool)
  | gred (ty : Ty) (op : RedOp) (sat : Bool) (d : RedDst) (a : RegNo) (nr : Bool)
  | gscn (ty : Ty) (op : RedOp) (sat excl : Bool) (d a : RegNo) (nr : Bool)
  | perm (byte zero : Bool) (d a b c : RegNo) (nr : Bool)
  -- Memories III: loads, stores, atomics, fences, lines (R240-R249)
  | ld (sz : Sz) (hint : Hint) (inv sx prm : Bool) (ord : MOrd) (sco : Scope) (d : RegNo) (base : Base) (off : BitVec 16)
  | st (sz : Sz) (hint : Hint) (ord : MOrd) (sco : Scope) (d : RegNo) (base : Base) (off : BitVec 16)
  | lds (sz : Sz) (sx : Bool) (ord : MOrd) (sco : Scope) (d : RegNo) (base : Base) (off : BitVec 16)
  | sts (sz : Sz) (ord : MOrd) (sco : Scope) (d : RegNo) (base : Base) (off : BitVec 16)
  | atom (fn : AtomFn) (wide spad : Bool) (hint : Hint) (ord : MOrd) (sco : Scope) (prm : Bool) (d : RegNo) (base : ABase)
      (b : RegNo) (off : BitVec 12)
  | atmf (fn : AtmfFn) (sz : Sz) (hint : Hint) (ord : MOrd) (sco : Scope) (prm : Bool) (d : RegNo) (base : ABase)
      (b : RegNo) (off : BitVec 12)
  | fence (ord : MOrd) (sco : Scope)
  | fenceFlushx
  | prf (hint : Hint) (base : Base) (off : BitVec 16)
  | cmnt (fn : CmntFn) (base : Base) (off : BitVec 12)
  | fqput (d : RegNo) (a : SPos)
  | fqget (d : RegNo) (a : SPos)
  | bankRequest (mode : BankMode) (d : SReg) (b : SPos) (nr : Bool)
  | bankQuery (d : SReg) (b : SPos) (nr : Bool)
  -- Memories III: barriers and sleeping (R254-R258), events (R303)
  | bar (n : BitVec 4) (cnt : Option SPos) (nr : Bool)
  | barv (n : BitVec 4) (cnt : Option SPos) (nr : Bool)
  | barw (n : BitVec 4) (nr : Bool)
  | evwt (eq wide spad : Bool) (ord : MOrd) (sco : Scope) (prm : Bool) (d : SReg) (a b : SPos) (timeout : BitVec 16)
  | evps (d : SReg) (a b c : SPos) (tag : BitVec 16)
  | nap (n : TOp)
  -- Counters I: BAL (R357)
  | balBurn (x : TOp)
  | balShunt (x : TOp)
  | balMatch (x : TOp)
  | balCeil (x : TOp)
  -- Memories IV and Counters II (R267, R371)
  | wmark (d : SReg) (nr : Bool)
  | dbrk (code : BitVec 8) (nr : Bool)
  | snap (d : SReg) (nr : Bool)
  -- Queues II: the matrix engine (R316-R324)
  | mlda (fa : FA) (a : RegNo)
  | mma (fa : FA) (keep : Bool) (tile : BitVec 4) (a c sid : SReg)
  | mmal (fa : FA) (keep hold : Bool) (slot : BitVec 2) (tile : BitVec 4) (a : SReg) (n : MCnt) (c sid : SReg)
  | mdrn (spad latch : Bool) (tile : BitVec 4) (a : SReg)
  | mfil (spad latch : Bool) (tile : BitVec 4) (a : SReg)
  | mzroGrant (a : GrantArg)
  | mzro (tile : BitVec 4)
  | msts (fa : FA) (sat spad : Bool) (tile : BitVec 4) (a c : SReg)
  | mscl (pin : Bool) (a : SReg) (n : MCnt) (sid : SReg)
  | mrel
  | msta (clr status : Bool) (d : SReg)
  -- Queues I: engine commands (R292-R302)
  | cpy (rows ev hold : Bool) (slot : BitVec 2) (d : SReg) (a b : SPos) (tag : BitVec 16)
  | gath (ev hold : Bool) (slot : BitVec 2) (d : SReg) (a b c : SPos) (tag : BitVec 16)
  | scat (ev hold : Bool) (slot : BitVec 2) (d : SReg) (a b c : SPos) (tag : BitVec 16)
  | bin (n16 ev : Bool) (d : SReg) (a b c : SPos) (tag : BitVec 16)
  | ptch (floor ev : Bool) (slot : BitVec 2) (d : SReg) (a b c : SPos) (tag : BitVec 16)
  | rlse (ev : Bool) (slot : BitVec 2) (d : SReg) (tag : BitVec 16)
  | coll (kind : CollKind) (ev : Bool) (d : SReg) (a b c : SPos) (tag : BitVec 16)
  | lnch (ev : Bool) (d : SReg) (a : SPos) (tag : BitVec 16)
  | ecan (d : SReg) (a : SPos) (tag : BitVec 16)
  | ecanSlot (slot : BitVec 2) (d : SReg) (tag : BitVec 16)
  | eqrd (d : SReg) (tag : BitVec 16)
  | eqrdWait (d : SReg) (tag : BitVec 16)
  -- Traps: system instructions (R395-R402), RWND (R273)
  | tlbiRng (a b : SReg)
  | tlbiAsid (b : SReg)
  | tlbiAll
  | ctxsStop (d a : SReg)
  | ctxsSave (d a : SReg)
  | ctxsEvict (d a : SReg)
  | ctxsTeam (d a b : SReg)
  | ctxlCreate (d a b : SReg)
  | ctxlResume (d a : SReg)
  | ctxlKill (d a : SReg)
  | ctxlUpd (d a b : SReg)
  | ctxlEres (d a : SReg)
  | ctxlEfail (d a : SReg)
  | tret
  | prack (mat : Bool) (b : SReg)
  | prackRet
  | rwnd (force : Bool) (d a b : SReg)
  | rwndChk (d a b : SReg)
  | rwndCmt (d a : SReg)
  | pcfg (d a b : SReg)
  | halt
  | haltOff (d a : SReg)
  | haltOn (d a : SReg)
  -- Events of the device: scheduling of groups and completions
  | clauseSelect (core pipe : Nat)
  | loadComplete (op : Nat)
  | asyncCommandComplete (id : Nat)
  | compaction (core group toPipe : Nat)
  | stackSpillComplete (group : Nat)
  | bufferEntryPerform (core entry : Nat)
  -- Undo log
  | logBurstWrite (stack : Nat)
  | logBurstTimeout (stack : Nat)
  | automaticWindowOpen (part ctx : Nat)
  | wmarkComplete (grid : Nat)
  | rewindFinish (part ctx : Nat)
  | ordrTimeout (slice : Nat)
  -- Memory ordering and waits
  | promote (core slice line : Nat)
  | ownedLineRecall (line : Nat)
  | flushxComplete (group : Nat)
  | evwtWake (group : Nat)
  | evwtPoll (group : Nat)
  | evwtTimeout (group : Nat)
  | napDeadline (group : Nat)
  | fqputRoom (cluster bank : Nat)
  | fqgetMatch (cluster bank : Nat)
  | bankRelease (cluster bank : Nat)
  | bankConvertEnd (cluster bank : Nat)
  | issueLimitAdjust (core : Nat)
  | translationWalk (core asid va : Nat) (write : Bool)
  | tlbiComplete (group : Nat)
  -- Streams, launches, teams, grids
  | streamWake (stream : Nat)
  | streamSlotPoll (stream : Nat)
  | packetNop (stream : Nat)
  | packetLaunch (stream : Nat)
  | packetWait (stream : Nat)
  | waitSatisfied (stream : Nat)
  | packetMark (stream : Nat)
  | packetBadpkt (stream : Nat)
  | teamPlacement (grid team : Nat)
  | halfActiveFlue (cluster flue : Nat)
  | teamRetire (grid team : Nat)
  | gridComplete (grid : Nat)
  | completionRecordPost (stream : Nat)
  | eventQueuePost (cluster : Nat)
  -- Engines
  | engineCommandStart (engine : Nat)
  | ecanAnswer (group : Nat)
  | collJoinTimeout (engine : Nat) (id : BitVec 32)
  | matrixPass (engine : Nat)
  | scaleFillReturn (engine : Nat)
  | grantServed (engine : Nat)
  -- Balance, clocks, temperature
  | balanceSample (cluster : Nat) (raw : List Int)
  | damperTick (cluster : Nat)
  | balRequestLapse (group : Nat)
  | bodyBiasStep (cluster : Nat)
  | frequencyInterval (cluster : Nat)
  | frequencyStep (cluster : Nat) (headroom : Bool)
  | thermalStateChange (stack : Nat) (next : Thermal)
  | stallSample (core : Nat)
  -- Pre-emption, errors, counters
  | timeSliceEnd (grid team : Nat)
  | budgetExpiry (grid team : Nat)
  | teamSave (grid team : Nat)
  | uncorrectableError (site : ErrSite)
  | contextStopComplete (part ctx : Nat)
  | counterLowRead (block : CtrBlock) (i : Nat)
  | counterHighRead (block : CtrBlock) (i : Nat)
  -- Host registers, live update, links
  | streamEntryWrite (stream word : Nat) (value : Word)
  | statbaseWrite (value : Word)
  | fwctlGo (verified : Bool)
  | mmioRegisterWrite (off : Nat) (value : Word)
  | hostCxlMemWrite (pa : Nat) (data : List Byte)
  | hostCxlMemRead (pa n : Nat)
  | hostSnoop (line : Nat) (data : List Byte)
  | peerRequest (dev : Nat) (req : PeerReq)
  | peerAck (window : Nat)
  | flitReplay (port : Nat) (ok : Bool)
  -- Security block
  | challenge (nonce : BitVec 256)
  | getMeasurements (nonce : BitVec 256)
  | keyExchange (pub : Word)
  | ideKm (key : BitVec 256)
  -- Clock transition, timer
  | frequencyTransitionEnd (cluster : Nat)
  | timerForwardStep (ns : Nat)
  -- Events without operands: snapshots, live update, security block, reset (last, so that every constructor can be compiled)
  | hostSnapshotTrigger
  | snapshotStatusRead
  | snapshotArm
  | liveUpdateHeartbeat
  | liveUpdateTimeout
  | heartbeat
  | getVersion
  | getCapabilities
  | negotiateAlgorithms
  | getDigests
  | getCertificate
  | finish
  | endSession
  | deviceReset
  | cxlReset
  deriving DecidableEq, Repr

end Sys2Proof
end

