-- ==== Sys2Proof/Machine/IntOps.lean ====
section
/-! DEFINITION. Integer operations on elements of `w` bits, shared by the scalar and the vector instructions (R103, R106-R114,
R178): operands as numbers, results reduced modulo 2^w or clamped. -/

namespace Sys2Proof.Machine

/-- The value of the low `w` bits of a number, signed or unsigned (R125). -/
def readInt (signed : Bool) (w : Nat) (x : Nat) : Int :=
  let y := x % 2 ^ w
  if signed && 2 ^ (w - 1) ≤ y then (y : Int) - 2 ^ w else y

/-- A number reduced modulo 2^w. -/
def wrapInt (w : Nat) (x : Int) : Nat := (x % 2 ^ w).toNat

/-- The nearest number of the range of `w` bits, and whether it differs (R103). -/
def clampInt (signed : Bool) (w : Nat) (x : Int) : Int × Bool :=
  let lo : Int := if signed then -(2 ^ (w - 1)) else 0
  let hi : Int := if signed then 2 ^ (w - 1) - 1 else 2 ^ w - 1
  if x < lo then (lo, true) else if hi < x then (hi, true) else (x, false)

/-- A shift of the `w` bits `x` by `n` (R109). -/
def shiftBits (op : ShiftOp) (w x n : Nat) : Nat :=
  let x := x % 2 ^ w
  match op with
  | .shl => if n < w then x * 2 ^ n % 2 ^ w else 0
  | .shr => if n < w then x / 2 ^ n else 0
  | .sra => wrapInt w (readInt true w x / 2 ^ (min n w))
  | .rol => let k := n % w; (x * 2 ^ k % 2 ^ w) + x / 2 ^ (w - k)

/-- A bit field: `len` bits of `x` from `pos`, sign-extended to `w` bits where `signed` (R110). -/
def extField (signed : Bool) (w x pos len : Nat) : Nat :=
  if w ≤ pos || len = 0 then 0
  else
    let l := min len (w - pos)
    wrapInt w (readInt signed l (x % 2 ^ w / 2 ^ pos))

/-- `c` with the field of `len` bits at `pos` replaced by the low bits of `x` (R110). -/
def insField (w x c pos len : Nat) : Nat :=
  if w ≤ pos || len = 0 then c % 2 ^ w
  else
    let l := min len (w - pos)
    let c := c % 2 ^ w
    c / 2 ^ (pos + l) * 2 ^ (pos + l) + x % 2 ^ l * 2 ^ pos + c % 2 ^ pos

/-- The ones among the low `n` bits. -/
def countOnes (x : Nat) : Nat → Nat
  | 0 => 0
  | n + 1 => countOnes x n + (if x.testBit n then 1 else 0)

/-- Leading zeros of `n` bits. -/
def leadZeros (x : Nat) : Nat → Nat
  | 0 => 0
  | n + 1 => if x.testBit n then 0 else 1 + leadZeros x n

/-- Trailing zeros of `n` bits from bit `i` upward. -/
def trailZeros (x i : Nat) : Nat → Nat
  | 0 => 0
  | n + 1 => if x.testBit i then 0 else 1 + trailZeros x (i + 1) n

/-- The `n` bits of `x` in reverse order. -/
def revBits (x : Nat) : Nat → Nat
  | 0 => 0
  | n + 1 => (if x.testBit 0 then 2 ^ n else 0) + revBits (x / 2) n

/-- The `n` bytes of `x` in reverse order. -/
def swapBytes (x : Nat) : Nat → Nat
  | 0 => 0
  | n + 1 => x % 256 * 2 ^ (8 * n) + swapBytes (x / 256) n

/-- The quotient truncated toward zero; a divisor of 0 gives all ones (R178). -/
def divInt (w : Nat) (a b : Int) : Nat := if b = 0 then 2 ^ w - 1 else wrapInt w (a.tdiv b)

/-- The remainder with the sign of `a`; a divisor of 0 gives `a` (R178). -/
def remInt (w : Nat) (a b : Int) : Nat := if b = 0 then wrapInt w a else wrapInt w (a.tmod b)

/-- A three-input function of bits: bit `4a + 2b + c` of the table (R108). -/
def lutBits (lut : BitVec 8) (a b c : Nat) : Nat → Nat
  | 0 => 0
  | n + 1 => lutBits lut a b c n +
      (if lut.getLsbD (4 * (a.testBit n).toNat + 2 * (b.testBit n).toNat + (c.testBit n).toNat) then 2 ^ n else 0)

end Sys2Proof.Machine
end

