-- ==== Sys2Proof/WellFormed.lean ====
section
/-! DEFINITION. What makes an instruction well formed: check 4d of the fetch checks (R72), entry by entry (R57, R66, R100,
R140, R178-R189, R232, R293, R316, R357, R395). For an event, that it names things the device has. -/

namespace Sys2Proof

/-! ## Classes of types -/

/-- The integer and bit types of Registers II (R100). -/
def Ty.isInt : Ty → Bool
  | .b32 | .s32 | .n32 | .s16x2 | .n16x2 | .s8x4 | .n8x4 | .s4x8 | .s64 | .n64 => true
  | .f32 | .f16x2 | .bf16x2 | .f64 | .e4m3x4 | .e5m2x4 => false

/-- The types that occupy an even-odd register pair (R66). -/
def Ty.isPair : Ty → Bool
  | .f64 | .s64 | .n64 => true
  | .b32 | .s32 | .n32 | .s16x2 | .n16x2 | .s8x4 | .n8x4 | .s4x8 | .f32 | .f16x2 | .bf16x2 | .e4m3x4 | .e5m2x4 => false

/-- The elements per lane of a type, counting a 64-bit type as one (R101, R155). -/
def Ty.elems : Ty → Nat
  | .b32 | .s32 | .n32 | .f32 | .f64 | .s64 | .n64 => 1
  | .s16x2 | .n16x2 | .f16x2 | .bf16x2 => 2
  | .s8x4 | .n8x4 | .e4m3x4 | .e5m2x4 => 4
  | .s4x8 => 8

/-- The FP32 and packed 16-bit types of most floating-point instructions, TY 8 to 10 (R140). -/
def Ty.isF3 : Ty → Bool
  | .f32 | .f16x2 | .bf16x2 => true
  | _ => false

/-- TY 8 to 11 (R140). -/
def Ty.isF4 (t : Ty) : Bool := t.isF3 || t == .f64

/-- The floating-point types, TY 8 to 13 (R156). -/
def Ty.isFloat : Ty → Bool
  | .f32 | .f16x2 | .bf16x2 | .f64 | .e4m3x4 | .e5m2x4 => true
  | _ => false

/-- The packed integer types, TY 3 to 7 (R107). -/
def Ty.isPackedInt : Ty → Bool
  | .s16x2 | .n16x2 | .s8x4 | .n8x4 | .s4x8 => true
  | _ => false

/-- The types of scalar arithmetic, TY 0, 1, 2, 14 and 15 (R178). -/
def Ty.isScalar : Ty → Bool
  | .b32 | .s32 | .n32 | .s64 | .n64 => true
  | _ => false

/-! ## Operand checks -/

/-- A register number is a multiple of `n` (R66, R234). -/
def multOf (n : Nat) (r : RegNo) : Bool := r.toNat % n == 0

/-- A register that holds a value of type `t` is even where the type takes a pair (R66). -/
def pairOk (t : Ty) (r : RegNo) : Bool := !t.isPair || multOf 2 r

/-- The same for an operand that may be a scalar (R66, R102). -/
def pairOkO (t : Ty) : Opnd → Bool
  | .v r => pairOk t r
  | .s _ => true

/-- The IA, ID and IXN fields where the entry allows indexing of A or of D only as given (R58, R102, R141). -/
def VMode.ok (m : VMode) (ia id : Bool) : Bool :=
  (ia || !m.ia) && (id || !m.id) && (m.ia || m.id || m.ixn == 0)

/-- Indexing as the elementwise integer instructions allow it (R102). -/
def VMode.okInt (m : VMode) (t : Ty) : Bool := m.ok (!t.isPair) (!t.isPair)

/-- Indexing as 0x30 to 0x3D allow it (R141). -/
def VMode.okF (m : VMode) (t : Ty) : Bool := m.ok t.isF3 t.isF3

/-- A position other than `em`, 0 to 71. -/
def SPos.notEm : SPos → Bool
  | .em => false
  | _ => true

/-- A position 0 to 63. -/
def SPos.isS : SPos → Bool
  | .s _ => true
  | _ => false

/-- A field C that the entry does not use holds 0 with CK 0 (R57). -/
def Opnd.isZero (o : Opnd) : Bool := o == .v 0

/-- The registers per lane of an access of a size (R234). -/
def Sz.regs : Sz → Nat
  | .b1 | .b2 | .b4 => 1
  | .b8 => 2
  | .b16 => 4
  | .b32 => 8

/-- Bytes of an access of a size (R62). -/
def Sz.bytes : Sz → Nat
  | .b1 => 1
  | .b2 => 2
  | .b4 => 4
  | .b8 => 8
  | .b16 => 16
  | .b32 => 32

/-- SX may be 1 only with SZ 0 or 1 (R232). -/
def sxOk (sx : Bool) (sz : Sz) : Bool := !sx || sz == .b1 || sz == .b2

/-- Orders of loads, of stores (R232), and those that include an acquire (R236). -/
def MOrd.isLoad (o : MOrd) : Bool := o == .rlx || o == .acq || o == .sc
def MOrd.isStore (o : MOrd) : Bool := o == .rlx || o == .rel || o == .sc
def MOrd.acquires (o : MOrd) : Bool := o == .acq || o == .ar || o == .sc
def MOrd.releases (o : MOrd) : Bool := o == .rel || o == .ar || o == .sc

/-- Where PRM may be 1 (R236). -/
def prmOk (prm : Bool) (o : MOrd) (sco : Scope) (global : Bool) : Bool :=
  !prm || (o.acquires && sco != .core && global)

/-- A per-lane global address takes an even pair (R233). -/
def Base.okGlobal : Base → Bool
  | .vec a => multOf 2 a
  | .sca _ _ => true

def ABase.ok (global : Bool) : ABase → Bool
  | .vec a => !global || multOf 2 a
  | .sca _ => true

/-- The element number of a conversion (R155). -/
def elOk (src dst : Ty) (el : Nat) : Bool :=
  el < max src.elems dst.elems / min src.elems dst.elems

/-- The formats of the A and B operands (R316). -/
def FA.isOperand (f : FA) : Bool := f != .f32

/-- AMT and K of the immediate form of BAL (R357). -/
def balAmt (v : BitVec 32) : Nat := v.toNat / 2 ^ 20
def balK (v : BitVec 32) : Nat := v.toNat % 2 ^ 20

/-- A compare's destination: `.any` only with a packed type, an even register with a pair (R111, R152). -/
def CmpDst.ok (t : Ty) : CmpDst → Bool
  | .mask _ any => !any || 1 < t.elems
  | .vec d => pairOk t d

/-- D may be indexed only where it names a vector register (R102, R141). -/
def CmpDst.isVec : CmpDst → Bool
  | .mask _ _ => false
  | .vec _ => true

def RedDst.ok (t : Ty) : RedDst → Bool
  | .v d => pairOk t d
  | .s _ => true

/-- Type, saturation and pairs of an elementwise integer instruction (R100, R102). -/
def intOk (ty : Ty) (sat : Bool) (d a : RegNo) (b : Opnd) (m : VMode) : Bool :=
  ty.isInt && (!sat || ty != .b32) && pairOk ty d && pairOk ty a && pairOkO ty b && m.okInt ty

/-- Type and pairs of an elementwise floating-point instruction (R140, R141). -/
def fltOk (ty : Ty) (b : Opnd) (m : VMode) : Bool := ty.isF3 && pairOkO ty b && m.okF ty

/-- Well-formedness of a step. -/
def Instr.wf : Instr → Bool
  | .nop _ | .bra _ | .brx _ | .join | .call _ _ | .ret _ | .exit | .exitLanes | .tfence _ | .trap _ | .yield _ _ => true
  | .brc cnd a _ => cnd != .al && ((cnd == .any || cnd == .all || cnd == .none) → !a.isS)
  | .bdv cnd _ _ _ => cnd != .al && cnd != .any && cnd != .all && cnd != .none
  | .emsav d _ => d.notEm
  | .emset _ _ _ => true
  | .mlog _ _ _ _ _ _ => true
  | .vote _ d _ _ => d.notEm
  | .sadd ty d _ _ | .ssub ty d _ _ | .smul ty _ d _ _ | .sshf ty _ d _ _ | .scmp ty d _ _ | .smin ty _ d _ _
  | .sdiv ty _ d _ _ => ty.isScalar && d.notEm
  | .slog _ _ _ _ => true
  | .sbit ty op d _ b => ty.isScalar && d.notEm && (op == .ext || b == .imm 0)
  | .smov _ _ _ => true
  | .smovLane wide _ a _ _ => !wide || multOf 2 a
  | .smovi form zext d _ => form == .whole || (!zext && d.isS)
  | .ssel d _ _ _ _ => d.notEm
  | .srd sel d _ => match d with
    | .sca _ => sel != .lane
    | .vec wide r => !wide || multOf 2 r
  | .swr _ _ _ _ => true
  | .sld sz sx _ ord sco prm _ _ _ =>
      (sz == .b1 || sz == .b2 || sz == .b4 || sz == .b8) && sxOk sx sz && ord.isLoad && prmOk prm ord sco true
  | .sst sz _ ord _ _ _ _ => (sz == .b1 || sz == .b2 || sz == .b4 || sz == .b8) && ord.isStore
  | .vadd ty sat d a b m | .vsub ty sat d a b m => intOk ty sat d a b m
  | .vmul ty hi sat d a b m => intOk ty sat d a b m && !(sat && hi) && !(hi && ty == .b32)
  | .vmad ty sat d a b c m => intOk ty sat d a b m && pairOkO ty c
  | .vdot ty _ d a b _ m => ty.isPackedInt && intOk ty false d a b m
  | .vlog wide d a b c _ m =>
      let t := if wide then Ty.s64 else Ty.b32
      intOk t false d a b m && pairOkO t c
  | .vshf ty op _ sat d a b m => intOk ty sat d a b m && (!sat || op == .shl)
  | .vcmp ty cond d a b m =>
      ty.isInt && d.ok ty && pairOk ty a && pairOkO ty b && (ty != .b32 || cond == .eq || cond == .ne)
        && m.ok (!ty.isPair && d.isVec) (!ty.isPair && d.isVec)
  | .vsel ty d a b c m => intOk ty false d a b m && pairOkO ty c
  | .vmin ty op d a b c m => intOk ty false d a b m && ty != .b32 && pairOkO ty c && (op == .clmp || c.isZero)
  | .vuni ty op sat d a m =>
      intOk ty sat d a (.v 0) m && (ty != .b32 || (op != .abs && op != .neg)) && (!sat || op == .abs || op == .neg)
        && (op != .bswp || ty.isScalar)
  | .vbit ty ins d a b c m => ty.isScalar && intOk ty false d a b m && pairOkO ty c && (ins || c.isZero)
  | .vmov wide d src m =>
      let t := if wide then Ty.s64 else Ty.b32
      pairOk t d && pairOkO t src && (match src with
        | .v _ => m.ok true true
        | .s _ => m.ok false false)
  | .vmovi ty d _ => (ty.isScalar || ty == .f32) && pairOk ty d
  | .vnrw ty rm _ _ a _ el m =>
      ty.isInt && !ty.isPair && ty != .b32 && (rm == .rne || rm == .rtz || rm == .rup || rm == .rdn || rm == .rna)
        && el.toNat < ty.elems && ((ty != .s32 && ty != .n32) || multOf 2 a) && m.ok true true
  | .vidx wide _ d _ => !wide || multOf 2 d
  | .fadd ty _ _ _ _ b m | .fsub ty _ _ _ _ b m | .fmul ty _ _ _ _ b m | .fdiv ty _ _ _ _ b m => fltOk ty b m
  | .ffma ty _ _ _ _ _ _ b _ m => fltOk ty b m
  | .fmin ty _ d a b m => ty.isF4 && pairOk ty d && pairOk ty a && pairOkO ty b && m.okF ty
  | .fcmp ty _ d a b m =>
      ty.isF4 && d.ok ty && pairOk ty a && pairOkO ty b && m.ok ty.isF3 (ty.isF3 && d.isVec)
  | .fcls ty d a set m =>
      ty.isF4 && d.ok ty && pairOk ty a && (!d.isVec || set == .s 0) && m.ok ty.isF3 (ty.isF3 && d.isVec)
  | .frcp ty _ _ _ _ m | .frsq ty _ _ _ _ m | .fsqt ty _ _ _ _ m | .fex2 ty _ _ _ _ m | .flg2 ty _ _ _ _ m =>
      fltOk ty (.v 0) m
  | .ftrg ty _ _ _ _ _ m => fltOk ty (.v 0) m
  | .fcvt dst src _ _ d a el _ =>
      dst.isFloat && src.isFloat && dst != src && pairOk dst d && pairOk src a && elOk src dst el.toNat
  | .icvt dst src n4 _ sat d a el _ =>
      (dst.isFloat != src.isFloat) && dst != .b32 && src != .b32 && pairOk dst d && pairOk src a && elOk src dst el.toNat
        && (!n4 || dst == .s4x8 || src == .s4x8) && (!sat || dst.isFloat)
  | .dadd _ _ _ d a b _ => multOf 2 d && multOf 2 a && pairOkO .f64 b
  | .dmul _ _ d a b _ => multOf 2 d && multOf 2 a && pairOkO .f64 b
  | .dfma _ _ _ _ d a b c _ => multOf 2 d && multOf 2 a && pairOkO .f64 b && pairOkO .f64 c
  | .scvn _ _ _ _ _ _ el _ | .scvw _ _ _ _ _ _ el _ => el.toNat < 4
  | .kclr _ _ => true
  | .kadd ty _ _ _ => ty.isF3
  | .krnd ty _ _ _ _ d _ => ty.isF4 && d.ok ty
  | .kscn ty _ _ _ _ _ _ _ => ty.isF3
  | .kmovGet _ _ _ | .kmovSet _ _ _ | .kmovCpy _ _ _ | .kmovAdd _ _ _ => true
  | .fsrGet _ _ | .fsrSet _ _ | .fsrClr _ _ | .fsrOr _ _ => true
  | .ixset _ _ _ _ | .ixadd _ _ _ _ => true
  | .shfl wide _ d a _ fill _ => !wide || (multOf 2 d && multOf 2 a && (match fill with
      | some f => pairOkO .s64 f
      | none => true))
  | .slide wide _ gran d a b _ _ => !wide || (gran == .w && multOf 2 d && multOf 2 a && pairOkO .s64 b)
  | .bcst wide d a _ _ => !wide || (multOf 2 d && multOf 2 a)
  | .gred ty op sat d a _ =>
      ty.isInt && d.ok ty && pairOk ty a && (ty != .b32 || (op != .min && op != .max && !sat)) && (!sat || op == .add)
  | .gscn ty op sat _ d a _ =>
      ty.isInt && pairOk ty d && pairOk ty a && (ty != .b32 || (op != .min && op != .max && !sat)) && (!sat || op == .add)
  | .perm byte zero _ _ _ _ _ => !(byte && zero)
  | .ld sz _ inv sx prm ord sco d base _ =>
      multOf sz.regs d && base.okGlobal && sxOk sx sz && ord.isLoad && (!inv || ord == .rlx) && prmOk prm ord sco true
  | .st sz _ ord _ d base _ => multOf sz.regs d && base.okGlobal && ord.isStore
  | .lds sz sx ord _ d _ _ => multOf sz.regs d && sxOk sx sz && ord.isLoad
  | .sts sz ord _ d _ _ => multOf sz.regs d && ord.isStore
  | .atom _ wide spad hint ord sco prm d base b _ =>
      (!wide || (multOf 2 d && multOf 2 b)) && base.ok (!spad) && prmOk prm ord sco (!spad)
        && (!spad || (hint == .dflt && (sco == .core || sco == .clus)))
  | .atmf fn sz _ ord sco prm d base b _ =>
      base.ok true && prmOk prm ord sco true && (match fn with
        | .add | .min | .max => sz == .b4 || (sz == .b8 && multOf 2 d && multOf 2 b)
        | .exact => (sz == .b4 || sz == .b2) && d == 0 && (ord == .rlx || ord == .rel) && (sco == .dev || sco == .sys)
        | .exactb => sz == .b2 && d == 0 && (ord == .rlx || ord == .rel) && (sco == .dev || sco == .sys))
  | .fence ord _ => ord != .rlx
  | .fenceFlushx => true
  | .prf _ base _ => base.okGlobal
  | .cmnt _ base _ => base.okGlobal
  | .fqput d _ | .fqget d _ => multOf 8 d
  | .bankRequest _ _ _ _ | .bankQuery _ _ _ => true
  | .bar _ _ _ | .barv _ _ _ | .barw _ _ => true
  | .evwt _ _ spad ord sco prm _ _ _ _ => (ord == .rlx || ord == .acq) && prmOk prm ord sco (!spad)
  | .evps _ _ _ _ _ => true
  | .nap _ => true
  | .balBurn x => match x with
    | .imm v => balAmt v ≤ 32
    | .pos _ => true
  | .balShunt x => match x with
    | .imm v => balAmt v ≤ 400
    | .pos _ => true
  | .balMatch x => match x with
    | .imm v => balAmt v == 0
    | .pos _ => true
  | .balCeil x => match x with
    | .imm v => 1 ≤ balAmt v && balAmt v ≤ 32 && balK v == 0
    | .pos _ => true
  | .wmark _ _ | .dbrk _ _ | .snap _ _ => true
  | .mlda fa _ => fa.isOperand
  | .mma fa _ _ _ _ _ => fa.isOperand
  | .mmal fa _ _ _ _ _ _ _ _ => fa.isOperand
  | .mdrn _ latch tile _ | .mfil _ latch tile _ => !latch || tile == 0
  | .mzroGrant a => 1 ≤ a.k.toNat && a.k.toNat ≤ 16
  | .mzro _ => true
  | .msts fa _ _ _ _ _ => fa != .s8 && fa != .n8
  | .mscl _ _ n _ => match n with
    | .imm k => k != 0
    | .pos _ => true
  | .mrel => true
  | .msta clr status _ => !(clr && status)
  | .cpy _ _ _ _ _ _ _ _ | .gath _ _ _ _ _ _ _ _ | .scat _ _ _ _ _ _ _ _ | .bin _ _ _ _ _ _ _
  | .ptch _ _ _ _ _ _ _ _ | .rlse _ _ _ _ | .coll _ _ _ _ _ _ _ | .lnch _ _ _ _ | .ecan _ _ _ | .ecanSlot _ _ _ => true
  | .eqrd d _ | .eqrdWait d _ => d.toNat % 2 == 0
  | .tlbiRng _ _ | .tlbiAsid _ | .tlbiAll | .ctxsStop _ _ | .ctxsSave _ _ | .ctxsEvict _ _ | .ctxsTeam _ _ _
  | .ctxlCreate _ _ _ | .ctxlResume _ _ | .ctxlKill _ _ | .ctxlUpd _ _ _ | .ctxlEres _ _ | .ctxlEfail _ _ | .tret
  | .prack _ _ | .prackRet | .rwnd _ _ _ _ | .rwndChk _ _ _ | .rwndCmt _ _ | .pcfg _ _ _ | .halt | .haltOff _ _
  | .haltOn _ _ => true
  | .clauseSelect core pipe => core < 404 && pipe < 32
  | .loadComplete _ | .asyncCommandComplete _ | .stackSpillComplete _ | .bufferEntryPerform _ _ | .wmarkComplete _
  | .flushxComplete _ | .evwtWake _ | .evwtPoll _ | .evwtTimeout _ | .napDeadline _ | .tlbiComplete _ | .ecanAnswer _
  | .balRequestLapse _ | .gridComplete _ => true
  | .compaction core _ toPipe => core < 384 && toPipe < 32
  | .logBurstWrite stack | .logBurstTimeout stack | .thermalStateChange stack _ => stack < 8
  | .automaticWindowOpen part ctx | .rewindFinish part ctx | .contextStopComplete part ctx => part < 48 && ctx < 64
  | .ordrTimeout slice => slice < 128
  | .promote core slice _ => core < 384 && slice < 128
  | .ownedLineRecall _ => true
  | .fqputRoom cluster bank | .fqgetMatch cluster bank | .bankRelease cluster bank | .bankConvertEnd cluster bank =>
      cluster < 16 && bank < 48
  | .issueLimitAdjust core | .stallSample core => core < 384
  | .translationWalk core asid va _ => core < 384 && asid < 4096 && va < 2 ^ 56
  | .streamWake stream | .streamSlotPoll stream | .packetNop stream | .packetLaunch stream | .packetWait stream
  | .waitSatisfied stream | .packetMark stream | .packetBadpkt stream | .completionRecordPost stream => stream < 4096
  | .teamPlacement _ _ | .teamRetire _ _ | .timeSliceEnd _ _ | .budgetExpiry _ _ | .teamSave _ _ => true
  | .halfActiveFlue cluster flue => cluster < 16 && flue < 12
  | .eventQueuePost cluster | .damperTick cluster | .bodyBiasStep cluster | .frequencyInterval cluster
  | .frequencyStep cluster _ | .frequencyTransitionEnd cluster => cluster < 16
  | .engineCommandStart engine => engine < 256
  | .collJoinTimeout engine _ => engine < 256
  | .matrixPass engine | .scaleFillReturn engine | .grantServed engine => engine < 96
  | .balanceSample cluster raw => cluster < 16 && raw.length == 12
  | .uncorrectableError site => match site with
    | .cleanCopy c => match c with
      | .clusterLine k line => k < 16 && line < 2 ^ 52 && line % 128 == 0
      | .sliceLine line => line < 2 ^ 52 && line % 128 == 0
      | .reuse core _ | .tlb core _ => core < 384
      | .clusterTlb k _ => k < 16
      | .pointer die _ => die < 2
      | .scale engine _ => engine < 96
    | .shared => true
    | .latent pa => pa < 2 ^ 39
    | .contextState part ctx | .logOrSave part ctx => part < 48 && ctx < 64
    | .sector part ctx pa => part < 48 && ctx < 64 && pa < 2 ^ 39
  | .hostSnapshotTrigger | .snapshotStatusRead | .snapshotArm => true
  | .counterLowRead block i | .counterHighRead block i => match block with
    | .core n => n < 384 && i < 16
    | .slice n => n < 128 && i < 8
    | .engine n => n < 256 && i < 8
    | .mxEngine n => n < 96 && i < 8
  | .streamEntryWrite stream word _ => stream < 4096 && word < 3
  | .statbaseWrite _ | .fwctlGo _ | .liveUpdateHeartbeat | .liveUpdateTimeout | .heartbeat => true
  | .mmioRegisterWrite off _ => off < 2 ^ 24 && off % 8 == 0
  | .hostCxlMemWrite pa data => pa + data.length ≤ 2 ^ 39
  | .hostCxlMemRead pa n => pa + n ≤ 2 ^ 39 || (2 ^ 48 ≤ pa && pa < 2 ^ 48 + 2 ^ 24 && (n == 4 || n == 8) && pa % n == 0)
  | .hostSnoop line data => line % 128 == 0 && 2 ^ 50 ≤ line && line < 2 ^ 51 && data.length ≤ 128
  | .peerRequest dev _ => dev < 16384
  | .peerAck window => window < 4096
  | .flitReplay port _ => port < 12
  | .getVersion | .getCapabilities | .negotiateAlgorithms | .getDigests | .getCertificate | .challenge _
  | .getMeasurements _ | .keyExchange _ | .finish | .endSession | .ideKm _ => true
  | .deviceReset | .cxlReset => true
  | .timerForwardStep _ => true

end Sys2Proof
end

