-- ==== Sys2Proof/Decode.lean ====
section
/-! DEFINITION. Instruction words and clause headers: the decoder, and after it the encoder it is checked against
(R49-R73 and the encoding tables of every entry). A word is an instruction when its opcode is assigned and encoding the
instruction its fields name gives the word back, so that a reserved field or value is refused (R57). -/

namespace Sys2Proof

/-! ## Fields -/

/-- Field of `len` bits from bit `lo` (R5). -/
def fld (w : Word) (lo len : Nat) : BitVec len := w.extractLsb' lo len

/-- One bit of a word as a Boolean. -/
def bitAt (w : Word) (i : Nat) : Bool := w.getLsbD i

/-! ## Codes -/

/-- Codes of `Ty` (R66). -/
def Ty.code : Ty → BitVec 4
  | .b32 => 0
  | .s32 => 1
  | .n32 => 2
  | .s16x2 => 3
  | .n16x2 => 4
  | .s8x4 => 5
  | .n8x4 => 6
  | .s4x8 => 7
  | .f32 => 8
  | .f16x2 => 9
  | .bf16x2 => 10
  | .f64 => 11
  | .e4m3x4 => 12
  | .e5m2x4 => 13
  | .s64 => 14
  | .n64 => 15

def Ty.ofCode (x : BitVec 4) : Ty :=
  match x.toNat with
  | 0 => .b32
  | 1 => .s32
  | 2 => .n32
  | 3 => .s16x2
  | 4 => .n16x2
  | 5 => .s8x4
  | 6 => .n8x4
  | 7 => .s4x8
  | 8 => .f32
  | 9 => .f16x2
  | 10 => .bf16x2
  | 11 => .f64
  | 12 => .e4m3x4
  | 13 => .e5m2x4
  | 14 => .s64
  | _ => .n64

/-- Codes of `Rm` (R67). -/
def Rm.code : Rm → BitVec 3
  | .rne => 0
  | .rtz => 1
  | .rup => 2
  | .rdn => 3
  | .rna => 4
  | .rsr => 5
  | .dyn => 6

def Rm.ofCode (x : BitVec 3) : Rm :=
  match x.toNat with
  | 0 => .rne
  | 1 => .rtz
  | 2 => .rup
  | 3 => .rdn
  | 4 => .rna
  | 5 => .rsr
  | _ => .dyn

/-- Codes of `Cnd` (R61). -/
def Cnd.code : Cnd → BitVec 4
  | .al => 0
  | .eq => 1
  | .ne => 2
  | .lt => 3
  | .ge => 4
  | .le => 5
  | .gt => 6
  | .any => 7
  | .all => 8
  | .none => 9

def Cnd.ofCode (x : BitVec 4) : Cnd :=
  match x.toNat with
  | 0 => .al
  | 1 => .eq
  | 2 => .ne
  | 3 => .lt
  | 4 => .ge
  | 5 => .le
  | 6 => .gt
  | 7 => .any
  | 8 => .all
  | _ => .none

/-- Codes of `ShiftOp` (R109). -/
def ShiftOp.code : ShiftOp → BitVec 2
  | .shl => 0
  | .shr => 1
  | .sra => 2
  | .rol => 3

def ShiftOp.ofCode (x : BitVec 2) : ShiftOp :=
  match x.toNat with
  | 0 => .shl
  | 1 => .shr
  | 2 => .sra
  | _ => .rol

/-- Codes of `ICond` (R111). -/
def ICond.code : ICond → BitVec 3
  | .eq => 0
  | .ne => 1
  | .lt => 2
  | .le => 3
  | .gt => 4
  | .ge => 5

def ICond.ofCode (x : BitVec 3) : ICond :=
  match x.toNat with
  | 0 => .eq
  | 1 => .ne
  | 2 => .lt
  | 3 => .le
  | 4 => .gt
  | _ => .ge

/-- Codes of `MinOp` (R113). -/
def MinOp.code : MinOp → BitVec 2
  | .min => 0
  | .max => 1
  | .adf => 2
  | .clmp => 3

def MinOp.ofCode (x : BitVec 2) : MinOp :=
  match x.toNat with
  | 0 => .min
  | 1 => .max
  | 2 => .adf
  | _ => .clmp

/-- Codes of `UniOp` (R114). -/
def UniOp.code : UniOp → BitVec 3
  | .abs => 0
  | .neg => 1
  | .not => 2
  | .pop => 3
  | .clz => 4
  | .ctz => 5
  | .brev => 6
  | .bswp => 7

def UniOp.ofCode (x : BitVec 3) : UniOp :=
  match x.toNat with
  | 0 => .abs
  | 1 => .neg
  | 2 => .not
  | 3 => .pop
  | 4 => .clz
  | 5 => .ctz
  | 6 => .brev
  | _ => .bswp

/-- Codes of `RedOp` (R120). -/
def RedOp.code : RedOp → BitVec 3
  | .add => 0
  | .min => 1
  | .max => 2
  | .and => 3
  | .or => 4
  | .xor => 5

def RedOp.ofCode (x : BitVec 3) : RedOp :=
  match x.toNat with
  | 0 => .add
  | 1 => .min
  | 2 => .max
  | 3 => .and
  | 4 => .or
  | _ => .xor

/-- Codes of `ShflMode` (R117). -/
def ShflMode.code : ShflMode → BitVec 2
  | .idx => 0
  | .xor => 1
  | .up => 2
  | .dn => 3

def ShflMode.ofCode (x : BitVec 2) : ShflMode :=
  match x.toNat with
  | 0 => .idx
  | 1 => .xor
  | 2 => .up
  | _ => .dn

/-- Codes of `Gran` (R118). -/
def Gran.code : Gran → BitVec 2
  | .w => 0
  | .h => 1
  | .b => 2

def Gran.ofCode (x : BitVec 2) : Gran :=
  match x.toNat with
  | 0 => .w
  | 1 => .h
  | _ => .b

/-- Codes of `IdxMode` (R97). -/
def IdxMode.code : IdxMode → BitVec 8
  | .lane => 0
  | .group => 1
  | .grid => 2

def IdxMode.ofCode (x : BitVec 8) : IdxMode :=
  match x.toNat with
  | 0 => .lane
  | 1 => .group
  | _ => .grid

/-- Codes of `FMinOp` (R151). -/
def FMinOp.code : FMinOp → BitVec 2
  | .min => 0
  | .max => 1
  | .minp => 2
  | .maxp => 3

def FMinOp.ofCode (x : BitVec 2) : FMinOp :=
  match x.toNat with
  | 0 => .min
  | 1 => .max
  | 2 => .minp
  | _ => .maxp

/-- Codes of `FCond` (R152). -/
def FCond.code : FCond → BitVec 3
  | .eq => 0
  | .ne => 1
  | .lt => 2
  | .le => 3
  | .gt => 4
  | .ge => 5
  | .un => 6
  | .ord => 7

def FCond.ofCode (x : BitVec 3) : FCond :=
  match x.toNat with
  | 0 => .eq
  | 1 => .ne
  | 2 => .lt
  | 3 => .le
  | 4 => .gt
  | 5 => .ge
  | 6 => .un
  | _ => .ord

/-- Codes of `SLogOp` (R178). -/
def SLogOp.code : SLogOp → BitVec 2
  | .and => 0
  | .or => 1
  | .xor => 2
  | .andn => 3

def SLogOp.ofCode (x : BitVec 2) : SLogOp :=
  match x.toNat with
  | 0 => .and
  | 1 => .or
  | 2 => .xor
  | _ => .andn

/-- Codes of `SBitOp` (R178). -/
def SBitOp.code : SBitOp → BitVec 2
  | .ext => 0
  | .pop => 1
  | .clz => 2
  | .ctz => 3

def SBitOp.ofCode (x : BitVec 2) : SBitOp :=
  match x.toNat with
  | 0 => .ext
  | 1 => .pop
  | 2 => .clz
  | _ => .ctz

/-- Codes of `MoviForm` (R179). -/
def MoviForm.code : MoviForm → BitVec 3
  | .whole => 0
  | .hi => 1
  | .lo => 2

def MoviForm.ofCode (x : BitVec 3) : MoviForm :=
  match x.toNat with
  | 0 => .whole
  | 1 => .hi
  | _ => .lo

/-- Codes of `SwrOp` (R183). -/
def SwrOp.code : SwrOp → BitVec 8
  | .write => 0
  | .set => 1
  | .clr => 2

def SwrOp.ofCode (x : BitVec 8) : SwrOp :=
  match x.toNat with
  | 0 => .write
  | 1 => .set
  | _ => .clr

/-- Codes of `EmOp` (R187). -/
def EmOp.code : EmOp → BitVec 8
  | .set => 0
  | .and => 1
  | .or => 2
  | .andn => 3

def EmOp.ofCode (x : BitVec 8) : EmOp :=
  match x.toNat with
  | 0 => .set
  | 1 => .and
  | 2 => .or
  | _ => .andn

/-- Codes of `VoteOp` (R189). -/
def VoteOp.code : VoteOp → BitVec 8
  | .ballot => 0
  | .any => 1
  | .all => 2
  | .uni => 3

def VoteOp.ofCode (x : BitVec 8) : VoteOp :=
  match x.toNat with
  | 0 => .ballot
  | 1 => .any
  | 2 => .all
  | _ => .uni

/-- Codes of `Sz` (R62). -/
def Sz.code : Sz → BitVec 4
  | .b1 => 0
  | .b2 => 1
  | .b4 => 2
  | .b8 => 3
  | .b16 => 4
  | .b32 => 5

def Sz.ofCode (x : BitVec 4) : Sz :=
  match x.toNat with
  | 0 => .b1
  | 1 => .b2
  | 2 => .b4
  | 3 => .b8
  | 4 => .b16
  | _ => .b32

/-- Codes of `Hint` (R62). -/
def Hint.code : Hint → BitVec 2
  | .dflt => 0
  | .strm => 1
  | .stky => 2
  | .byp => 3

def Hint.ofCode (x : BitVec 2) : Hint :=
  match x.toNat with
  | 0 => .dflt
  | 1 => .strm
  | 2 => .stky
  | _ => .byp

/-- Codes of `MOrd` (R62). -/
def MOrd.code : MOrd → BitVec 3
  | .rlx => 0
  | .acq => 1
  | .rel => 2
  | .ar => 3
  | .sc => 4

def MOrd.ofCode (x : BitVec 3) : MOrd :=
  match x.toNat with
  | 0 => .rlx
  | 1 => .acq
  | 2 => .rel
  | 3 => .ar
  | _ => .sc

/-- Codes of `Scope` (R62). -/
def Scope.code : Scope → BitVec 3
  | .core => 0
  | .clus => 1
  | .dev => 2
  | .sys => 3

def Scope.ofCode (x : BitVec 3) : Scope :=
  match x.toNat with
  | 0 => .core
  | 1 => .clus
  | 2 => .dev
  | _ => .sys

/-- Codes of `AtomFn` (R244). -/
def AtomFn.code : AtomFn → BitVec 4
  | .add => 0
  | .and => 1
  | .or => 2
  | .xor => 3
  | .smin => 4
  | .smax => 5
  | .nmin => 6
  | .nmax => 7
  | .xchg => 8
  | .cas => 9

def AtomFn.ofCode (x : BitVec 4) : AtomFn :=
  match x.toNat with
  | 0 => .add
  | 1 => .and
  | 2 => .or
  | 3 => .xor
  | 4 => .smin
  | 5 => .smax
  | 6 => .nmin
  | 7 => .nmax
  | 8 => .xchg
  | _ => .cas

/-- Codes of `AtmfFn` (R245). -/
def AtmfFn.code : AtmfFn → BitVec 4
  | .add => 0
  | .min => 1
  | .max => 2
  | .exact => 3
  | .exactb => 4

def AtmfFn.ofCode (x : BitVec 4) : AtmfFn :=
  match x.toNat with
  | 0 => .add
  | 1 => .min
  | 2 => .max
  | 3 => .exact
  | _ => .exactb

/-- Codes of `CmntFn` (R249). -/
def CmntFn.code : CmntFn → BitVec 4
  | .dmt => 0
  | .stky => 1
  | .drop => 2
  | .evict => 3

def CmntFn.ofCode (x : BitVec 4) : CmntFn :=
  match x.toNat with
  | 0 => .dmt
  | 1 => .stky
  | 2 => .drop
  | _ => .evict

/-- Codes of `BankMode` (R253). -/
def BankMode.code : BankMode → BitVec 8
  | .cache => 0
  | .spad => 1
  | .fifo => 2

def BankMode.ofCode (x : BitVec 8) : BankMode :=
  match x.toNat with
  | 0 => .cache
  | 1 => .spad
  | _ => .fifo

/-- Codes of `FA` (R63). -/
def FA.code : FA → BitVec 4
  | .e4m3 => 0
  | .e5m2 => 1
  | .bf16 => 2
  | .f16 => 3
  | .s8 => 4
  | .n8 => 5
  | .f32 => 6

def FA.ofCode (x : BitVec 4) : FA :=
  match x.toNat with
  | 0 => .e4m3
  | 1 => .e5m2
  | 2 => .bf16
  | 3 => .f16
  | 4 => .s8
  | 5 => .n8
  | _ => .f32

/-- Codes of `CollKind` (R299). -/
def CollKind.code : CollKind → BitVec 4
  | .allReduce => 0
  | .reduceScatter => 1
  | .allGather => 2
  | .broadcast => 3

def CollKind.ofCode (x : BitVec 4) : CollKind :=
  match x.toNat with
  | 0 => .allReduce
  | 1 => .reduceScatter
  | 2 => .allGather
  | _ => .broadcast

/-- Codes of `Eng` (R50). -/
def Eng.code : Eng → BitVec 3
  | .general => 0
  | .matrix => 1
  | .engine => 2
  | .system => 3

def Eng.ofCode (x : BitVec 3) : Eng :=
  match x.toNat with
  | 0 => .general
  | 1 => .matrix
  | 2 => .engine
  | _ => .system
/-- Scalar positions (R68). -/
def SPos.code : SPos → BitVec 8
  | .s n => 0#2 ++ n
  | .m n => 8#5 ++ n
  | .em => 72

def SPos.ofCode (x : BitVec 8) : SPos :=
  if x.toNat < 64 then .s (x.extractLsb' 0 6) else if x.toNat < 72 then .m (x.extractLsb' 0 3) else .em

/-- Codes of the control registers (R173). -/
def Ctl.code : Ctl → BitVec 8
  | .rm => 0x80
  | .fte => 0x81
  | .mmode => 0x82
  | .burnauto => 0x83
  | .shuntauto => 0x84
  | .tvt => 0x85
  | .balth => 0x88
  | .baltt => 0x89
  | .baldly => 0x8A
  | .dampmin => 0x8B
  | .bias => 0x8C

def Ctl.ofCode (x : BitVec 8) : Ctl :=
  match x.toNat with
  | 0x80 => .rm
  | 0x81 => .fte
  | 0x82 => .mmode
  | 0x83 => .burnauto
  | 0x84 => .shuntauto
  | 0x85 => .tvt
  | 0x88 => .balth
  | 0x89 => .baltt
  | 0x8A => .baldly
  | 0x8B => .dampmin
  | _ => .bias

/-- Codes of the selectors (R175). -/
def Sel.code : Sel → BitVec 8
  | .lane => 0x00
  | .group => 0x01
  | .role => 0x02
  | .team => 0x03
  | .grid => 0x04
  | .core => 0x05
  | .cluster => 0x06
  | .flue => 0x07
  | .tier => 0x08
  | .flmis => 0x09
  | .clmis => 0x0A
  | .time => 0x0B
  | .cyc => 0x0C
  | .cap => 0x0D
  | .part => 0x0E
  | .ctx => 0x0F
  | .window => 0x10
  | .depth => 0x11
  | .live => 0x12
  | .perf i => 4#4 ++ i
  | .ctl c => c.code

def Sel.ofCode (x : BitVec 8) : Sel :=
  if x.toNat / 16 = 4 then .perf (x.extractLsb' 0 4)
  else if 0x80 ≤ x.toNat then .ctl (Ctl.ofCode x)
  else match x.toNat with
    | 0x00 => .lane
    | 0x01 => .group
    | 0x02 => .role
    | 0x03 => .team
    | 0x04 => .grid
    | 0x05 => .core
    | 0x06 => .cluster
    | 0x07 => .flue
    | 0x08 => .tier
    | 0x09 => .flmis
    | 0x0A => .clmis
    | 0x0B => .time
    | 0x0C => .cyc
    | 0x0D => .cap
    | 0x0E => .part
    | 0x0F => .ctx
    | 0x10 => .window
    | 0x11 => .depth
    | _ => .live

/-- The operand field and its BS or CK bit (R58). -/
def Opnd.code : Opnd → BitVec 8
  | .v r => r
  | .s p => p.code

def Opnd.flag : Opnd → BitVec 1
  | .v _ => 0
  | .s _ => 1

def Opnd.ofCode (flag : BitVec 1) (x : BitVec 8) : Opnd := if flag = 1 then .s (SPos.ofCode x) else .v x

/-! ## The seven formats (R58-R65) -/

/-- V and S format (R58, R65). -/
def packV (op d a b c : BitVec 8) (ty : BitVec 4) (sat : BitVec 1) (rm : BitVec 3) (bs ck nr ia id : BitVec 1)
    (ixn : BitVec 2) (sub : BitVec 8) : Word :=
  op ++ d ++ a ++ b ++ c ++ ty ++ sat ++ rm ++ bs ++ ck ++ nr ++ ia ++ id ++ ixn ++ 0#1 ++ sub

/-- I format (R59). -/
def packI (op d a : BitVec 8) (ty : BitVec 4) (sat : BitVec 1) (sub3 : BitVec 3) (imm : BitVec 32) : Word :=
  op ++ d ++ a ++ ty ++ sat ++ sub3 ++ imm

/-- B format (R60). -/
def packB (op a : BitVec 8) (cnd sub : BitVec 4) (off1 off2 : BitVec 16) : Word :=
  op ++ a ++ cnd ++ sub ++ 0#8 ++ off1 ++ off2

/-- L format (R62). -/
def packL (op d a b : BitVec 8) (sz : BitVec 4) (hnt : BitVec 2) (inv as_ : BitVec 1) (ord sco : BitVec 3)
    (prm sx : BitVec 1) (off : BitVec 16) : Word :=
  op ++ d ++ a ++ b ++ sz ++ hnt ++ inv ++ as_ ++ ord ++ sco ++ prm ++ sx ++ off

/-- M format (R63). -/
def packM (op : BitVec 8) (tile fa : BitVec 4) (a b c sid : BitVec 8) (keep hold : BitVec 1) (slot : BitVec 2)
    (imm : BitVec 12) : Word :=
  op ++ tile ++ fa ++ a ++ b ++ c ++ sid ++ keep ++ hold ++ slot ++ imm

/-- E format (R64). -/
def packE (op d a b c : BitVec 8) (knd : BitVec 4) (ev hold : BitVec 1) (slot : BitVec 2) (tag : BitVec 16) : Word :=
  op ++ d ++ a ++ b ++ c ++ knd ++ ev ++ hold ++ slot ++ tag

/-- A Boolean as a field of one bit. -/
abbrev b1 (x : Bool) : BitVec 1 := BitVec.ofBool x

/-- A scalar register number as an operand field (R68). -/
abbrev s8 (r : SReg) : BitVec 8 := 0#2 ++ r

/-- V-format word of a vector or scalar instruction. -/
def encV (op : BitVec 8) (ty : Ty) (sat : Bool) (rm : Rm) (d a : BitVec 8) (b c : Opnd) (m : VMode) (sub : BitVec 8) : Word :=
  packV op d a b.code c.code ty.code (b1 sat) rm.code b.flag c.flag (b1 m.nr) (b1 m.ia) (b1 m.id) m.ixn sub

/-- The mode fields of an instruction that admits no index use. -/
abbrev nrOnly (nr : Bool) : VMode := ⟨nr, false, false, 0⟩

/-- D and SUB[4:3] of a compare (R111, R152, R153). -/
def CmpDst.code : CmpDst → BitVec 8
  | .mask k _ => 8#5 ++ k
  | .vec d => d

def CmpDst.bits : CmpDst → BitVec 2
  | .mask _ any => b1 any ++ 0#1
  | .vec _ => 1

def CmpDst.ofCode (d : BitVec 8) (bits : BitVec 2) : CmpDst :=
  if bits.extractLsb' 0 1 = 1 then .vec d else .mask (d.extractLsb' 0 3) (bits.getLsbD 1)

/-- D and SUB[7] of a reduction or rounding (R120, R163). -/
def RedDst.code : RedDst → BitVec 8
  | .v d => d
  | .s d => s8 d

def RedDst.flag : RedDst → BitVec 1
  | .v _ => 0
  | .s _ => 1

def RedDst.ofCode (d : BitVec 8) (flag : BitVec 1) : RedDst :=
  if flag = 1 then .s (d.extractLsb' 0 6) else .v d

/-- I-format word of scalar arithmetic (R178). -/
def encS (op : BitVec 8) (ty : Ty) (d a : SPos) (b : SOp) (f : BitVec 2) : Word :=
  match b with
  | .imm v => packI op d.code a.code ty.code 0 (0#1 ++ f) v
  | .pos p => packI op d.code a.code ty.code 0 (1#1 ++ f) (0#24 ++ p.code)

def SOp.ofWord (w : Word) : SOp :=
  if bitAt w 34 then .pos (SPos.ofCode (fld w 0 8)) else .imm (fld w 0 32)

/-- The immediate or register operand of NAP and BAL (R258, R357). -/
def encT (op : BitVec 8) (mode : BitVec 2) : TOp → Word
  | .imm v => packI op 0 0 0 0 (0#1 ++ mode) v
  | .pos p => packI op 0 0 0 0 (1#1 ++ mode) (0#24 ++ p.code)

def TOp.ofWord (w : Word) : TOp :=
  if bitAt w 34 then .pos (SPos.ofCode (fld w 0 8)) else .imm (fld w 0 32)

/-- A, B and AS of an address operand (R233). -/
def Base.aCode : Base → BitVec 8
  | .vec a => a
  | .sca a _ => a.code

def Base.bCode : Base → BitVec 8
  | .vec _ => 0
  | .sca _ i => i

def Base.flag : Base → BitVec 1
  | .vec _ => 0
  | .sca _ _ => 1

def Base.ofWord (w : Word) : Base :=
  if bitAt w 24 then .sca (SPos.ofCode (fld w 40 8)) (fld w 32 8) else .vec (fld w 40 8)

def ABase.aCode : ABase → BitVec 8
  | .vec a => a
  | .sca a => a.code

def ABase.flag : ABase → BitVec 1
  | .vec _ => 0
  | .sca _ => 1

def ABase.ofWord (w : Word) : ABase :=
  if bitAt w 24 then .sca (SPos.ofCode (fld w 40 8)) else .vec (fld w 40 8)

/-- B and IMM12 of a matrix count (R63). -/
def MCnt.code : MCnt → BitVec 8
  | .imm _ => 0xFF
  | .pos p => p.code

def MCnt.imm12 : MCnt → BitVec 12
  | .imm n => n
  | .pos _ => 0

def MCnt.ofWord (w : Word) : MCnt :=
  if fld w 32 8 = 0xFF then .imm (fld w 0 12) else .pos (SPos.ofCode (fld w 32 8))

/-- The lane choice of BCST in B, BS and SUB (R119). -/
def BcstSel.opnd : BcstSel → Opnd
  | .lane _ | .first => .v 0
  | .sca p => .s p

def BcstSel.sub : BcstSel → BitVec 8
  | .lane k => 0#3 ++ k
  | .sca _ => 0
  | .first => 0x80

def BcstSel.ofWord (w : Word) : BcstSel :=
  if bitAt w 7 then .first
  else if bitAt w 15 then .sca (SPos.ofCode (fld w 32 8))
  else .lane (fld w 0 5)

/-- The count operand of BAR and BARV (R254). -/
def encBar (op : BitVec 8) (n : BitVec 4) (cnt : Option SPos) (nr : Bool) : Word :=
  match cnt with
  | none => encV op .b32 false .rne 0 0 (.v 0) (.v 0) (nrOnly nr) (0#4 ++ n)
  | some p => encV op .b32 false .rne 0 0 (.s p) (.v 0) (nrOnly nr) (1#4 ++ n)

/-- S-format word with scalar registers in D, A and B (R395). -/
def encY (op d a b : BitVec 8) (bs : BitVec 1) (sub : BitVec 8) : Word :=
  packV op d a b 0 0 0 0 bs 0 0 0 0 0 sub

/-! ## The decoder: the instruction a word's fields name -/

/-- Fields of the V format (R58); D is common to most formats. -/
abbrev pD (w : Word) : BitVec 8 := fld w 48 8
abbrev pA (w : Word) : BitVec 8 := fld w 40 8
abbrev pB (w : Word) : BitVec 8 := fld w 32 8
abbrev pC (w : Word) : BitVec 8 := fld w 24 8
abbrev pTy (w : Word) : Ty := Ty.ofCode (fld w 20 4)
abbrev pWide (w : Word) : Bool := fld w 20 4 == 14
abbrev pSat (w : Word) : Bool := bitAt w 19
abbrev pRm (w : Word) : Rm := Rm.ofCode (fld w 16 3)
abbrev pOB (w : Word) : Opnd := Opnd.ofCode (fld w 15 1) (fld w 32 8)
abbrev pOC (w : Word) : Opnd := Opnd.ofCode (fld w 14 1) (fld w 24 8)
abbrev pNr (w : Word) : Bool := bitAt w 13
abbrev pMode (w : Word) : VMode := ⟨bitAt w 13, bitAt w 12, bitAt w 11, fld w 9 2⟩
abbrev pCmp (w : Word) : CmpDst := CmpDst.ofCode (fld w 48 8) (fld w 3 2)
abbrev pRed (w : Word) : RedDst := RedDst.ofCode (fld w 48 8) (fld w 7 1)
/-- Scalar positions and scalar registers in D, A, B and C. -/
abbrev pDp (w : Word) : SPos := SPos.ofCode (fld w 48 8)
abbrev pAp (w : Word) : SPos := SPos.ofCode (fld w 40 8)
abbrev pBp (w : Word) : SPos := SPos.ofCode (fld w 32 8)
abbrev pCp (w : Word) : SPos := SPos.ofCode (fld w 24 8)
abbrev pDs (w : Word) : SReg := fld w 48 6
abbrev pAs (w : Word) : SReg := fld w 40 6
abbrev pBs (w : Word) : SReg := fld w 32 6
/-- Fields of the I format (R59). -/
abbrev pITy (w : Word) : Ty := Ty.ofCode (fld w 36 4)
abbrev pImm (w : Word) : BitVec 32 := fld w 0 32
/-- Fields of the L format (R62). -/
abbrev pSz (w : Word) : Sz := Sz.ofCode (fld w 28 4)
abbrev pHint (w : Word) : Hint := Hint.ofCode (fld w 26 2)
abbrev pOrd (w : Word) : MOrd := MOrd.ofCode (fld w 21 3)
abbrev pSco (w : Word) : Scope := Scope.ofCode (fld w 18 3)
abbrev pOff (w : Word) : BitVec 16 := fld w 0 16
abbrev pOff12 (w : Word) : BitVec 12 := fld w 0 12
/-- Fields of the M format (R63). -/
abbrev pTile (w : Word) : BitVec 4 := fld w 52 4
abbrev pFA (w : Word) : FA := FA.ofCode (fld w 48 4)
abbrev pCs (w : Word) : SReg := fld w 24 6
abbrev pSid (w : Word) : SReg := fld w 16 6
abbrev pSlotM (w : Word) : BitVec 2 := fld w 12 2
/-- Fields of the E format (R64). -/
abbrev pEv (w : Word) : Bool := bitAt w 19
abbrev pHold (w : Word) : Bool := bitAt w 18
abbrev pSlotE (w : Word) : BitVec 2 := fld w 16 2
abbrev pTag (w : Word) : BitVec 16 := fld w 0 16
abbrev pK0 (w : Word) : Bool := bitAt w 20
/-- The count of BAR and BARV (R254). -/
abbrev pCnt (w : Word) : Option SPos := if bitAt w 4 then some (SPos.ofCode (fld w 32 8)) else none

/-- Opcodes 0x00 to 0x1F (R70). -/
def parseLow (w : Word) : Option Instr :=
  match (fld w 56 8).toNat with
  | 0x00 => some (.nop (pNr w))
  | 0x01 => some (.bra (fld w 16 16))
  | 0x02 => some (.brx (pDs w))
  | 0x03 => some (.brc (Cnd.ofCode (fld w 44 4)) (pDp w) (fld w 16 16))
  | 0x04 => some (.bdv (Cnd.ofCode (fld w 44 4)) (pD w) (fld w 16 16) (fld w 0 16))
  | 0x05 => some .join
  | 0x06 => some (.call (pDs w) (fld w 16 16))
  | 0x07 => some (.ret (pDs w))
  | 0x08 => some (if bitAt w 40 then .exitLanes else .exit)
  | 0x09 => some (.emsav (pDp w) (pNr w))
  | 0x0A => some (.emset (EmOp.ofCode (fld w 0 8)) (pOB w) (pNr w))
  | 0x0B => some (.mlog (pDp w) (pAp w) (pBp w) (pCp w) (fld w 0 8) (pNr w))
  | 0x0C => some (.vote (VoteOp.ofCode (fld w 0 8)) (pDp w) (pA w) (pNr w))
  | 0x0D => some (.tfence (pNr w))
  | 0x0E => some (.trap (pImm w))
  | 0x0F => some (.yield (fld w 0 4) (pNr w))
  | 0x10 => some (.sadd (pITy w) (pDp w) (pAp w) (SOp.ofWord w))
  | 0x11 => some (.ssub (pITy w) (pDp w) (pAp w) (SOp.ofWord w))
  | 0x12 => some (.smul (pITy w) (bitAt w 32) (pDp w) (pAp w) (SOp.ofWord w))
  | 0x13 => some (.slog (SLogOp.ofCode (fld w 32 2)) (pDp w) (pAp w) (SOp.ofWord w))
  | 0x14 => some (.sshf (pITy w) (ShiftOp.ofCode (fld w 32 2)) (pDp w) (pAp w) (SOp.ofWord w))
  | 0x15 => some (.scmp (pITy w) (pDp w) (pAp w) (SOp.ofWord w))
  | 0x16 => some (if bitAt w 7 then .smovLane (pWide w) (pDs w) (pA w) (fld w 0 5) (pNr w)
      else .smov (pDp w) (pBp w) (pNr w))
  | 0x17 => some (.smovi (MoviForm.ofCode (fld w 32 3)) (fld w 36 4 == 15) (pDp w) (pImm w))
  | 0x18 => some (.ssel (pDp w) (pAp w) (pBp w) (pCp w) (pNr w))
  | 0x19 => some (.smin (pITy w) (bitAt w 32) (pDp w) (pAp w) (SOp.ofWord w))
  | 0x1A => some (.sbit (pITy w) (SBitOp.ofCode (fld w 32 2)) (pDp w) (pAp w) (SOp.ofWord w))
  | 0x1B => some (.sdiv (pITy w) (bitAt w 32) (pDp w) (pAp w) (SOp.ofWord w))
  | 0x1C => some (.srd (Sel.ofCode (pA w)) (if bitAt w 0 then .vec (pWide w) (pD w) else .sca (pDs w)) (pNr w))
  | 0x1D => some (.swr (SwrOp.ofCode (fld w 0 8)) (Ctl.ofCode (pD w)) (pBp w) (pNr w))
  | 0x1E => some (.sld (pSz w) (bitAt w 16) (pHint w) (pOrd w) (pSco w) (bitAt w 17) (pDs w) (pAp w) (pOff w))
  | 0x1F => some (.sst (pSz w) (pHint w) (pOrd w) (pSco w) (pDs w) (pAp w) (pOff w))
  | _ => none

/-- Opcodes 0x20 to 0x2F. -/
def parseInt (w : Word) : Option Instr :=
  match (fld w 56 8).toNat with
  | 0x20 => some (.vadd (pTy w) (pSat w) (pD w) (pA w) (pOB w) (pMode w))
  | 0x21 => some (.vsub (pTy w) (pSat w) (pD w) (pA w) (pOB w) (pMode w))
  | 0x22 => some (.vmul (pTy w) (bitAt w 0) (pSat w) (pD w) (pA w) (pOB w) (pMode w))
  | 0x23 => some (.vmad (pTy w) (pSat w) (pD w) (pA w) (pOB w) (pOC w) (pMode w))
  | 0x24 => some (.vdot (pTy w) (pSat w) (pD w) (pA w) (pOB w) (pOC w) (pMode w))
  | 0x25 => some (.vlog (pWide w) (pD w) (pA w) (pOB w) (pOC w) (fld w 0 8) (pMode w))
  | 0x26 => some (.vshf (pTy w) (ShiftOp.ofCode (fld w 0 2)) (bitAt w 2) (pSat w) (pD w) (pA w) (pOB w) (pMode w))
  | 0x27 => some (.vcmp (pTy w) (ICond.ofCode (fld w 0 3)) (pCmp w) (pA w) (pOB w) (pMode w))
  | 0x28 => some (.vsel (pTy w) (pD w) (pA w) (pOB w) (pOC w) (pMode w))
  | 0x29 => some (.vmin (pTy w) (MinOp.ofCode (fld w 0 2)) (pD w) (pA w) (pOB w) (pOC w) (pMode w))
  | 0x2A => some (.vuni (pTy w) (UniOp.ofCode (fld w 0 3)) (pSat w) (pD w) (pA w) (pMode w))
  | 0x2B => some (.vbit (pTy w) (bitAt w 0) (pD w) (pA w) (pOB w) (pOC w) (pMode w))
  | 0x2C => some (.vmov (pWide w) (pD w) (if bitAt w 0 then .s (pBp w) else .v (pA w)) (pMode w))
  | 0x2D => some (.vmovi (pITy w) (pD w) (pImm w))
  | 0x2E => some (.vnrw (pTy w) (pRm w) (pSat w) (pD w) (pA w) (pOB w) (fld w 0 3) (pMode w))
  | 0x2F => some (.vidx (fld w 20 4 == 15) (IdxMode.ofCode (fld w 0 8)) (pD w) (pNr w))
  | _ => none

/-- Opcodes 0x30 to 0x4F. -/
def parseFlt (w : Word) : Option Instr :=
  match (fld w 56 8).toNat with
  | 0x30 => some (.fadd (pTy w) (pRm w) (pSat w) (pD w) (pA w) (pOB w) (pMode w))
  | 0x31 => some (.fsub (pTy w) (pRm w) (pSat w) (pD w) (pA w) (pOB w) (pMode w))
  | 0x32 => some (.fmul (pTy w) (pRm w) (pSat w) (pD w) (pA w) (pOB w) (pMode w))
  | 0x33 => some (.ffma (pTy w) (pRm w) (pSat w) (bitAt w 0) (bitAt w 1) (pD w) (pA w) (pOB w) (pOC w) (pMode w))
  | 0x34 => some (.fmin (pTy w) (FMinOp.ofCode (fld w 0 2)) (pD w) (pA w) (pOB w) (pMode w))
  | 0x35 => some (.fcmp (pTy w) (FCond.ofCode (fld w 0 3)) (pCmp w) (pA w) (pOB w) (pMode w))
  | 0x36 => some (.fcls (pTy w) (pCmp w) (pA w) (pBp w) (pMode w))
  | 0x37 => some (.frcp (pTy w) (pRm w) (pSat w) (pD w) (pA w) (pMode w))
  | 0x38 => some (.frsq (pTy w) (pRm w) (pSat w) (pD w) (pA w) (pMode w))
  | 0x39 => some (.fsqt (pTy w) (pRm w) (pSat w) (pD w) (pA w) (pMode w))
  | 0x3A => some (.fex2 (pTy w) (pRm w) (pSat w) (pD w) (pA w) (pMode w))
  | 0x3B => some (.flg2 (pTy w) (pRm w) (pSat w) (pD w) (pA w) (pMode w))
  | 0x3C => some (.ftrg (pTy w) (pRm w) (pSat w) (bitAt w 0) (pD w) (pA w) (pMode w))
  | 0x3D => some (.fdiv (pTy w) (pRm w) (pSat w) (pD w) (pA w) (pOB w) (pMode w))
  | 0x3E => some (.fcvt (pTy w) (Ty.ofCode (fld w 0 4)) (pRm w) (pSat w) (pD w) (pA w) (fld w 4 3) (pNr w))
  | 0x3F => some (.icvt (pTy w) (Ty.ofCode (fld w 0 4)) (bitAt w 7) (pRm w) (pSat w) (pD w) (pA w) (fld w 4 3) (pNr w))
  | 0x40 => some (.dadd (bitAt w 0) (pRm w) (pSat w) (pD w) (pA w) (pOB w) (pNr w))
  | 0x41 => some (.dmul (pRm w) (pSat w) (pD w) (pA w) (pOB w) (pNr w))
  | 0x42 => some (.dfma (pRm w) (pSat w) (bitAt w 0) (bitAt w 1) (pD w) (pA w) (pOB w) (pOC w) (pNr w))
  | 0x43 => some (.scvn (fld w 20 4 == 13) (pRm w) (pSat w) (pD w) (pA w) (pOB w) (fld w 4 3) (pNr w))
  | 0x44 => some (.scvw (fld w 0 4 == 13) (pRm w) (pSat w) (pD w) (pA w) (pOB w) (fld w 4 3) (pNr w))
  | 0x45 => some (.kclr (fld w 0 2) (pNr w))
  | 0x46 => some (.kadd (pTy w) (fld w 0 2) (pA w) (pNr w))
  | 0x47 => some (.krnd (pTy w) (pRm w) (pSat w) (bitAt w 2) (fld w 0 2) (pRed w) (pNr w))
  | 0x48 => some (.kscn (pTy w) (pRm w) (pSat w) (bitAt w 2) (fld w 0 2) (pD w) (pA w) (pNr w))
  | 0x49 => some (match (fld w 2 2).toNat with
    | 0 => .kmovGet (fld w 0 2) (pD w) (pNr w)
    | 1 => .kmovSet (fld w 0 2) (pA w) (pNr w)
    | 2 => .kmovCpy (fld w 0 2) (fld w 4 2) (pNr w)
    | _ => .kmovAdd (fld w 0 2) (fld w 4 2) (pNr w))
  | 0x4A => some (match (fld w 0 2).toNat with
    | 0 => .fsrGet (pDs w) (pNr w)
    | 1 => .fsrSet (pBp w) (pNr w)
    | 2 => .fsrClr (pBp w) (pNr w)
    | _ => .fsrOr (pBp w) (pNr w))
  | 0x4B => some (.ixset (fld w 0 2) (pA w) (pOB w) (pNr w))
  | 0x4C => some (.ixadd (fld w 0 2) (pOB w) (bitAt w 2) (pNr w))
  | _ => none

/-- Opcodes 0x50 to 0x7F. -/
def parseMem (w : Word) : Option Instr :=
  match (fld w 56 8).toNat with
  | 0x50 => some (.shfl (pWide w) (ShflMode.ofCode (fld w 0 2)) (pD w) (pA w) (pOB w)
      (if bitAt w 3 then some (pOC w) else none) (pNr w))
  | 0x51 => some (.slide (pWide w) (bitAt w 5) (Gran.ofCode (fld w 6 2)) (pD w) (pA w) (pOB w) (fld w 0 5) (pNr w))
  | 0x52 => some (.bcst (pWide w) (pD w) (pA w) (BcstSel.ofWord w) (pNr w))
  | 0x53 => some (.gred (pTy w) (RedOp.ofCode (fld w 0 3)) (pSat w) (pRed w) (pA w) (pNr w))
  | 0x54 => some (.gscn (pTy w) (RedOp.ofCode (fld w 0 3)) (pSat w) (bitAt w 3) (pD w) (pA w) (pNr w))
  | 0x55 => some (.perm (bitAt w 0) (bitAt w 1) (pD w) (pA w) (pB w) (pC w) (pNr w))
  | 0x60 => some (.ld (pSz w) (pHint w) (bitAt w 25) (bitAt w 16) (bitAt w 17) (pOrd w) (pSco w) (pD w) (Base.ofWord w) (pOff w))
  | 0x61 => some (.st (pSz w) (pHint w) (pOrd w) (pSco w) (pD w) (Base.ofWord w) (pOff w))
  | 0x62 => some (.lds (pSz w) (bitAt w 16) (pOrd w) (pSco w) (pD w) (Base.ofWord w) (pOff w))
  | 0x63 => some (.sts (pSz w) (pOrd w) (pSco w) (pD w) (Base.ofWord w) (pOff w))
  | 0x64 => some (.atom (AtomFn.ofCode (fld w 12 4)) (fld w 28 4 == 3) (bitAt w 25) (pHint w) (pOrd w) (pSco w) (bitAt w 17)
      (pD w) (ABase.ofWord w) (pB w) (pOff12 w))
  | 0x65 => some (.atmf (AtmfFn.ofCode (fld w 12 4)) (pSz w) (pHint w) (pOrd w) (pSco w) (bitAt w 17) (pD w) (ABase.ofWord w)
      (pB w) (pOff12 w))
  | 0x66 => some (if bitAt w 0 then .fenceFlushx else .fence (pOrd w) (pSco w))
  | 0x67 => some (.prf (pHint w) (Base.ofWord w) (pOff w))
  | 0x68 => some (.cmnt (CmntFn.ofCode (fld w 12 4)) (Base.ofWord w) (pOff12 w))
  | 0x69 => some (.fqput (pD w) (pAp w))
  | 0x6A => some (.fqget (pD w) (pAp w))
  | 0x6B => some (if bitAt w 2 then .bankQuery (pDs w) (pBp w) (pNr w)
      else .bankRequest (BankMode.ofCode (fld w 0 8)) (pDs w) (pBp w) (pNr w))
  | 0x70 => some (.bar (fld w 0 4) (pCnt w) (pNr w))
  | 0x71 => some (.barv (fld w 0 4) (pCnt w) (pNr w))
  | 0x72 => some (.barw (fld w 0 4) (pNr w))
  | 0x73 => some (.evwt (bitAt w 16) (fld w 28 4 == 3) (bitAt w 25) (pOrd w) (pSco w) (bitAt w 17) (pDs w) (pAp w) (pBp w) (pOff w))
  | 0x74 => some (.evps (pDs w) (pAp w) (pBp w) (pCp w) (pTag w))
  | 0x75 => some (.nap (TOp.ofWord w))
  | 0x76 => some (match (fld w 32 2).toNat with
    | 0 => .balBurn (TOp.ofWord w)
    | 1 => .balShunt (TOp.ofWord w)
    | 2 => .balMatch (TOp.ofWord w)
    | _ => .balCeil (TOp.ofWord w))
  | 0x77 => some (.wmark (pDs w) (pNr w))
  | 0x78 => some (.dbrk (fld w 0 8) (pNr w))
  | 0x79 => some (.snap (pDs w) (pNr w))
  | _ => none

/-- Opcodes 0x80 to 0x9F. -/
def parseEng (w : Word) : Option Instr :=
  match (fld w 56 8).toNat with
  | 0x80 => some (.mlda (pFA w) (pA w))
  | 0x81 => some (.mma (pFA w) (bitAt w 15) (pTile w) (pAs w) (pCs w) (pSid w))
  | 0x82 => some (.mmal (pFA w) (bitAt w 15) (bitAt w 14) (pSlotM w) (pTile w) (pAs w) (MCnt.ofWord w) (pCs w) (pSid w))
  | 0x83 => some (.mdrn (bitAt w 1) (bitAt w 2) (pTile w) (pAs w))
  | 0x84 => some (.mfil (bitAt w 1) (bitAt w 2) (pTile w) (pAs w))
  | 0x85 => some (if fld w 0 12 = 0 then .mzro (pTile w) else .mzroGrant ⟨pTile w, fld w 0 5⟩)
  | 0x86 => some (.msts (pFA w) (bitAt w 0) (bitAt w 1) (pTile w) (pAs w) (pCs w))
  | 0x87 => some (.mscl (bitAt w 15) (pAs w) (MCnt.ofWord w) (pSid w))
  | 0x88 => some .mrel
  | 0x89 => some (.msta (bitAt w 0) (bitAt w 1) (pAs w))
  | 0x90 => some (.cpy (pK0 w) (pEv w) (pHold w) (pSlotE w) (pDs w) (pAp w) (pBp w) (pTag w))
  | 0x91 => some (.gath (pEv w) (pHold w) (pSlotE w) (pDs w) (pAp w) (pBp w) (pCp w) (pTag w))
  | 0x92 => some (.scat (pEv w) (pHold w) (pSlotE w) (pDs w) (pAp w) (pBp w) (pCp w) (pTag w))
  | 0x93 => some (.bin (pK0 w) (pEv w) (pDs w) (pAp w) (pBp w) (pCp w) (pTag w))
  | 0x94 => some (.ptch (pK0 w) (pEv w) (pSlotE w) (pDs w) (pAp w) (pBp w) (pCp w) (pTag w))
  | 0x95 => some (.rlse (pEv w) (pSlotE w) (pDs w) (pTag w))
  | 0x96 => some (.coll (CollKind.ofCode (fld w 20 4)) (pEv w) (pDs w) (pAp w) (pBp w) (pCp w) (pTag w))
  | 0x97 => some (.lnch (pEv w) (pDs w) (pAp w) (pTag w))
  | 0x98 => some (if pK0 w then .ecanSlot (pSlotE w) (pDs w) (pTag w) else .ecan (pDs w) (pAp w) (pTag w))
  | 0x99 => some (if pK0 w then .eqrdWait (pDs w) (pTag w) else .eqrd (pDs w) (pTag w))
  | _ => none

/-- Opcodes 0xA0 to 0xA7. -/
def parseSys (w : Word) : Option Instr :=
  match (fld w 56 8).toNat with
  | 0xA0 => some (match (fld w 0 8).toNat with
    | 0 => .tlbiRng (pAs w) (pBs w)
    | 1 => .tlbiAsid (pBs w)
    | _ => .tlbiAll)
  | 0xA1 => some (match (fld w 0 8).toNat with
    | 0 => .ctxsStop (pDs w) (pAs w)
    | 1 => .ctxsSave (pDs w) (pAs w)
    | 2 => .ctxsEvict (pDs w) (pAs w)
    | _ => .ctxsTeam (pDs w) (pAs w) (pBs w))
  | 0xA2 => some (match (fld w 0 8).toNat with
    | 0 => .ctxlCreate (pDs w) (pAs w) (pBs w)
    | 1 => .ctxlResume (pDs w) (pAs w)
    | 2 => .ctxlKill (pDs w) (pAs w)
    | 3 => .ctxlUpd (pDs w) (pAs w) (pBs w)
    | 4 => .ctxlEres (pDs w) (pAs w)
    | _ => .ctxlEfail (pDs w) (pAs w))
  | 0xA3 => some .tret
  | 0xA4 => some (if bitAt w 0 then .prackRet else .prack (bitAt w 1) (pBs w))
  | 0xA5 => some (match (fld w 0 8).toNat with
    | 0 => .rwnd false (pDs w) (pAs w) (pBs w)
    | 1 => .rwnd true (pDs w) (pAs w) (pBs w)
    | 2 => .rwndChk (pDs w) (pAs w) (pBs w)
    | _ => .rwndCmt (pDs w) (pAs w))
  | 0xA6 => some (.pcfg (pDs w) (pAs w) (pBs w))
  | 0xA7 => some (match (fld w 0 8).toNat with
    | 0 => .halt
    | 1 => .haltOff (pDs w) (pAs w)
    | _ => .haltOn (pDs w) (pAs w))
  | _ => none

/-- The instruction a word's fields name; none where the opcode is unassigned (R70). -/
def parse (w : Word) : Option Instr :=
  let row := (fld w 60 4).toNat
  if row < 2 then parseLow w
  else if row < 3 then parseInt w
  else if row < 5 then parseFlt w
  else if row < 8 then parseMem w
  else if row < 10 then parseEng w
  else if row < 11 then parseSys w
  else none

/-! ## The encoder -/

/-- The word of an instruction; none for an event of the device (DEDUCED, log 18). -/
def encode : Instr → Option Word
  | .nop nr => some (encV 0x00 .b32 false .rne 0 0 (.v 0) (.v 0) (nrOnly nr) 0)
  | .bra off => some (packB 0x01 0 0 0 off 0)
  | .brx a => some (packB 0x02 (s8 a) 0 0 0 0)
  | .brc cnd a off => some (packB 0x03 a.code cnd.code 0 off 0)
  | .bdv cnd a off1 off2 => some (packB 0x04 a cnd.code 0 off1 off2)
  | .join => some (packB 0x05 0 0 0 0 0)
  | .call d off => some (packB 0x06 (s8 d) 0 0 off 0)
  | .ret a => some (packB 0x07 (s8 a) 0 0 0 0)
  | .exit => some (packB 0x08 0 0 0 0 0)
  | .exitLanes => some (packB 0x08 0 0 1 0 0)
  | .emsav d nr => some (encV 0x09 .b32 false .rne d.code 0 (.v 0) (.v 0) (nrOnly nr) 0)
  | .emset op b nr => some (encV 0x0A .b32 false .rne 0 0 b (.v 0) (nrOnly nr) op.code)
  | .mlog d a b c lut nr => some (encV 0x0B .b32 false .rne d.code a.code (.s b) (.s c) (nrOnly nr) lut)
  | .vote op d a nr => some (encV 0x0C .b32 false .rne d.code a (.v 0) (.v 0) (nrOnly nr) op.code)
  | .tfence nr => some (encV 0x0D .b32 false .rne 0 0 (.v 0) (.v 0) (nrOnly nr) 0)
  | .trap e => some (packI 0x0E 0 0 0 0 0 e)
  | .yield n nr => some (encV 0x0F .b32 false .rne 0 0 (.v 0) (.v 0) (nrOnly nr) (0#4 ++ n))
  | .sadd ty d a b => some (encS 0x10 ty d a b 0)
  | .ssub ty d a b => some (encS 0x11 ty d a b 0)
  | .smul ty hi d a b => some (encS 0x12 ty d a b (0#1 ++ b1 hi))
  | .slog op d a b => some (encS 0x13 .b32 d a b op.code)
  | .sshf ty op d a b => some (encS 0x14 ty d a b op.code)
  | .scmp ty d a b => some (encS 0x15 ty d a b 0)
  | .smov d b nr => some (encV 0x16 .b32 false .rne d.code 0 (.s b) (.v 0) (nrOnly nr) 0)
  | .smovLane wide d a k nr =>
      some (encV 0x16 (if wide then .s64 else .b32) false .rne (s8 d) a (.v 0) (.v 0) (nrOnly nr) (4#3 ++ k))
  | .smovi form zext d imm => some (packI 0x17 d.code 0 (if zext then Ty.n64 else Ty.b32).code 0 form.code imm)
  | .ssel d a b c nr => some (encV 0x18 .b32 false .rne d.code a.code (.s b) (.s c) (nrOnly nr) 0)
  | .smin ty max d a b => some (encS 0x19 ty d a b (0#1 ++ b1 max))
  | .sbit ty op d a b => some (encS 0x1A ty d a b op.code)
  | .sdiv ty rem d a b => some (encS 0x1B ty d a b (0#1 ++ b1 rem))
  | .srd sel d nr => some (match d with
    | .sca r => encV 0x1C .b32 false .rne (s8 r) sel.code (.v 0) (.v 0) (nrOnly nr) 0
    | .vec wide r => encV 0x1C (if wide then .s64 else .b32) false .rne r sel.code (.v 0) (.v 0) (nrOnly nr) 1)
  | .swr op c b nr => some (encV 0x1D .b32 false .rne c.code 0 (.s b) (.v 0) (nrOnly nr) op.code)
  | .sld sz sx hint ord sco prm d a off =>
      some (packL 0x1E (s8 d) a.code 0 sz.code hint.code 0 1 ord.code sco.code (b1 prm) (b1 sx) off)
  | .sst sz hint ord sco d a off => some (packL 0x1F (s8 d) a.code 0 sz.code hint.code 0 1 ord.code sco.code 0 0 off)
  | .vadd ty sat d a b m => some (encV 0x20 ty sat .rne d a b (.v 0) m 0)
  | .vsub ty sat d a b m => some (encV 0x21 ty sat .rne d a b (.v 0) m 0)
  | .vmul ty hi sat d a b m => some (encV 0x22 ty sat .rne d a b (.v 0) m (0#7 ++ b1 hi))
  | .vmad ty sat d a b c m => some (encV 0x23 ty sat .rne d a b c m 0)
  | .vdot ty sat d a b c m => some (encV 0x24 ty sat .rne d a b c m 0)
  | .vlog wide d a b c lut m => some (encV 0x25 (if wide then .s64 else .b32) false .rne d a b c m lut)
  | .vshf ty op uni sat d a b m => some (encV 0x26 ty sat .rne d a b (.v 0) m (0#5 ++ b1 uni ++ op.code))
  | .vcmp ty cond d a b m => some (encV 0x27 ty false .rne d.code a b (.v 0) m (0#3 ++ d.bits ++ cond.code))
  | .vsel ty d a b c m => some (encV 0x28 ty false .rne d a b c m 0)
  | .vmin ty op d a b c m => some (encV 0x29 ty false .rne d a b c m (0#6 ++ op.code))
  | .vuni ty op sat d a m => some (encV 0x2A ty sat .rne d a (.v 0) (.v 0) m (0#5 ++ op.code))
  | .vbit ty ins d a b c m => some (encV 0x2B ty false .rne d a b c m (0#7 ++ b1 ins))
  | .vmov wide d src m => some (match src with
    | .v a => encV 0x2C (if wide then .s64 else .b32) false .rne d a (.v 0) (.v 0) m 0
    | .s p => encV 0x2C (if wide then .s64 else .b32) false .rne d 0 (.s p) (.v 0) m 1)
  | .vmovi ty d imm => some (packI 0x2D d 0 ty.code 0 0 imm)
  | .vnrw ty rm sat d a b el m => some (encV 0x2E ty sat rm d a b (.v 0) m (0#5 ++ el))
  | .vidx wide mode d nr => some (encV 0x2F (if wide then .n64 else .n32) false .rne d 0 (.v 0) (.v 0) (nrOnly nr) mode.code)
  | .fadd ty rm sat d a b m => some (encV 0x30 ty sat rm d a b (.v 0) m 0)
  | .fsub ty rm sat d a b m => some (encV 0x31 ty sat rm d a b (.v 0) m 0)
  | .fmul ty rm sat d a b m => some (encV 0x32 ty sat rm d a b (.v 0) m 0)
  | .ffma ty rm sat negp negc d a b c m => some (encV 0x33 ty sat rm d a b c m (0#6 ++ b1 negc ++ b1 negp))
  | .fmin ty op d a b m => some (encV 0x34 ty false .rne d a b (.v 0) m (0#6 ++ op.code))
  | .fcmp ty cond d a b m => some (encV 0x35 ty false .rne d.code a b (.v 0) m (0#3 ++ d.bits ++ cond.code))
  | .fcls ty d a set m => some (match d with
    | .mask _ _ => encV 0x36 ty false .rne d.code a (.s set) (.v 0) m (0#3 ++ d.bits ++ 0#3)
    | .vec _ => encV 0x36 ty false .rne d.code a (.v 0) (.v 0) m (0#3 ++ d.bits ++ 0#3))
  | .frcp ty rm sat d a m => some (encV 0x37 ty sat rm d a (.v 0) (.v 0) m 0)
  | .frsq ty rm sat d a m => some (encV 0x38 ty sat rm d a (.v 0) (.v 0) m 0)
  | .fsqt ty rm sat d a m => some (encV 0x39 ty sat rm d a (.v 0) (.v 0) m 0)
  | .fex2 ty rm sat d a m => some (encV 0x3A ty sat rm d a (.v 0) (.v 0) m 0)
  | .flg2 ty rm sat d a m => some (encV 0x3B ty sat rm d a (.v 0) (.v 0) m 0)
  | .ftrg ty rm sat cos d a m => some (encV 0x3C ty sat rm d a (.v 0) (.v 0) m (0#7 ++ b1 cos))
  | .fdiv ty rm sat d a b m => some (encV 0x3D ty sat rm d a b (.v 0) m 0)
  | .fcvt dst src rm sat d a el nr => some (encV 0x3E dst sat rm d a (.v 0) (.v 0) (nrOnly nr) (0#1 ++ el ++ src.code))
  | .icvt dst src n4 rm sat d a el nr =>
      some (encV 0x3F dst sat rm d a (.v 0) (.v 0) (nrOnly nr) (b1 n4 ++ el ++ src.code))
  | .dadd sub rm sat d a b nr => some (encV 0x40 .f64 sat rm d a b (.v 0) (nrOnly nr) (0#7 ++ b1 sub))
  | .dmul rm sat d a b nr => some (encV 0x41 .f64 sat rm d a b (.v 0) (nrOnly nr) 0)
  | .dfma rm sat negp negc d a b c nr => some (encV 0x42 .f64 sat rm d a b c (nrOnly nr) (0#6 ++ b1 negc ++ b1 negp))
  | .scvn e5 rm sat d a b el nr =>
      some (encV 0x43 (if e5 then .e5m2x4 else .e4m3x4) sat rm d a b (.v 0) (nrOnly nr) (0#1 ++ el ++ 8#4))
  | .scvw e5 rm sat d a b el nr =>
      some (encV 0x44 .f32 sat rm d a b (.v 0) (nrOnly nr) (0#1 ++ el ++ (if e5 then Ty.e5m2x4 else Ty.e4m3x4).code))
  | .kclr k nr => some (encV 0x45 .b32 false .rne 0 0 (.v 0) (.v 0) (nrOnly nr) (0#6 ++ k))
  | .kadd ty k a nr => some (encV 0x46 ty false .rne 0 a (.v 0) (.v 0) (nrOnly nr) (0#6 ++ k))
  | .krnd ty rm sat clr k d nr => some (encV 0x47 ty sat rm d.code 0 (.v 0) (.v 0) (nrOnly nr) (d.flag ++ 0#4 ++ b1 clr ++ k))
  | .kscn ty rm sat excl k d a nr => some (encV 0x48 ty sat rm d a (.v 0) (.v 0) (nrOnly nr) (0#5 ++ b1 excl ++ k))
  | .kmovGet k d nr => some (encV 0x49 .b32 false .rne d 0 (.v 0) (.v 0) (nrOnly nr) (0#6 ++ k))
  | .kmovSet k a nr => some (encV 0x49 .b32 false .rne 0 a (.v 0) (.v 0) (nrOnly nr) (1#6 ++ k))
  | .kmovCpy k j nr => some (encV 0x49 .b32 false .rne 0 0 (.v 0) (.v 0) (nrOnly nr) (0#2 ++ j ++ 2#2 ++ k))
  | .kmovAdd k j nr => some (encV 0x49 .b32 false .rne 0 0 (.v 0) (.v 0) (nrOnly nr) (0#2 ++ j ++ 3#2 ++ k))
  | .fsrGet d nr => some (encV 0x4A .b32 false .rne (s8 d) 0 (.v 0) (.v 0) (nrOnly nr) 0)
  | .fsrSet b nr => some (encV 0x4A .b32 false .rne 0 0 (.s b) (.v 0) (nrOnly nr) 1)
  | .fsrClr b nr => some (encV 0x4A .b32 false .rne 0 0 (.s b) (.v 0) (nrOnly nr) 2)
  | .fsrOr b nr => some (encV 0x4A .b32 false .rne 0 0 (.s b) (.v 0) (nrOnly nr) 3)
  | .ixset k a b nr => some (encV 0x4B .b32 false .rne 0 a b (.v 0) (nrOnly nr) (0#6 ++ k))
  | .ixadd k b wrap nr => some (encV 0x4C .b32 false .rne 0 0 b (.v 0) (nrOnly nr) (0#5 ++ b1 wrap ++ k))
  | .shfl wide mode d a b fill nr => some (match fill with
    | none => encV 0x50 (if wide then .s64 else .b32) false .rne d a b (.v 0) (nrOnly nr) (0#6 ++ mode.code)
    | some c => encV 0x50 (if wide then .s64 else .b32) false .rne d a b c (nrOnly nr) (2#6 ++ mode.code))
  | .slide wide up gran d a b k nr =>
      some (encV 0x51 (if wide then .s64 else .b32) false .rne d a b (.v 0) (nrOnly nr) (gran.code ++ b1 up ++ k))
  | .bcst wide d a sel nr =>
      some (encV 0x52 (if wide then .s64 else .b32) false .rne d a sel.opnd (.v 0) (nrOnly nr) sel.sub)
  | .gred ty op sat d a nr => some (encV 0x53 ty sat .rne d.code a (.v 0) (.v 0) (nrOnly nr) (d.flag ++ 0#4 ++ op.code))
  | .gscn ty op sat excl d a nr => some (encV 0x54 ty sat .rne d a (.v 0) (.v 0) (nrOnly nr) (0#4 ++ b1 excl ++ op.code))
  | .perm byte zero d a b c nr =>
      some (encV 0x55 .b32 false .rne d a (.v b) (.v c) (nrOnly nr) (0#6 ++ b1 zero ++ b1 byte))
  | .ld sz hint inv sx prm ord sco d base off => some (packL 0x60 d base.aCode base.bCode sz.code hint.code (b1 inv) base.flag
      ord.code sco.code (b1 prm) (b1 sx) off)
  | .st sz hint ord sco d base off =>
      some (packL 0x61 d base.aCode base.bCode sz.code hint.code 0 base.flag ord.code sco.code 0 0 off)
  | .lds sz sx ord sco d base off =>
      some (packL 0x62 d base.aCode base.bCode sz.code 0 0 base.flag ord.code sco.code 0 (b1 sx) off)
  | .sts sz ord sco d base off => some (packL 0x63 d base.aCode base.bCode sz.code 0 0 base.flag ord.code sco.code 0 0 off)
  | .atom fn wide spad hint ord sco prm d base b off =>
      some (packL 0x64 d base.aCode b (if wide then Sz.b8 else Sz.b4).code hint.code (b1 spad) base.flag ord.code sco.code
        (b1 prm) 0 (fn.code ++ off))
  | .atmf fn sz hint ord sco prm d base b off =>
      some (packL 0x65 d base.aCode b sz.code hint.code 0 base.flag ord.code sco.code (b1 prm) 0 (fn.code ++ off))
  | .fence ord sco => some (packL 0x66 0 0 0 0 0 0 0 ord.code sco.code 0 0 0)
  | .fenceFlushx => some (packL 0x66 0 0 0 0 0 0 0 3 2 0 0 1)
  | .prf hint base off => some (packL 0x67 0 base.aCode base.bCode 0 hint.code 0 base.flag 0 0 0 0 off)
  | .cmnt fn base off => some (packL 0x68 0 base.aCode base.bCode 0 0 0 base.flag 0 0 0 0 (fn.code ++ off))
  | .fqput d a => some (packL 0x69 d a.code 0 5 0 0 1 0 0 0 0 0)
  | .fqget d a => some (packL 0x6A d a.code 0 5 0 0 1 0 0 0 0 0)
  | .bankRequest mode d b nr => some (encV 0x6B .b32 false .rne (s8 d) 0 (.s b) (.v 0) (nrOnly nr) mode.code)
  | .bankQuery d b nr => some (encV 0x6B .b32 false .rne (s8 d) 0 (.s b) (.v 0) (nrOnly nr) 4)
  | .bar n cnt nr => some (encBar 0x70 n cnt nr)
  | .barv n cnt nr => some (encBar 0x71 n cnt nr)
  | .barw n nr => some (encBar 0x72 n none nr)
  | .evwt eq wide spad ord sco prm d a b timeout =>
      some (packL 0x73 (s8 d) a.code b.code (if wide then Sz.b8 else Sz.b4).code 0 (b1 spad) 1 ord.code sco.code (b1 prm)
        (b1 eq) timeout)
  | .evps d a b c tag => some (packE 0x74 (s8 d) a.code b.code c.code 0 0 0 0 tag)
  | .nap n => some (encT 0x75 0 n)
  | .balBurn x => some (encT 0x76 0 x)
  | .balShunt x => some (encT 0x76 1 x)
  | .balMatch x => some (encT 0x76 2 x)
  | .balCeil x => some (encT 0x76 3 x)
  | .wmark d nr => some (encV 0x77 .b32 false .rne (s8 d) 0 (.v 0) (.v 0) (nrOnly nr) 0)
  | .dbrk code nr => some (encV 0x78 .b32 false .rne 0 0 (.v 0) (.v 0) (nrOnly nr) code)
  | .snap d nr => some (encV 0x79 .b32 false .rne (s8 d) 0 (.v 0) (.v 0) (nrOnly nr) 0)
  | .mlda fa a => some (packM 0x80 0 fa.code a 0xFF 0 0 0 0 0 0)
  | .mma fa keep tile a c sid => some (packM 0x81 tile fa.code (s8 a) 0xFF (s8 c) (s8 sid) (b1 keep) 0 0 0)
  | .mmal fa keep hold slot tile a n c sid =>
      some (packM 0x82 tile fa.code (s8 a) n.code (s8 c) (s8 sid) (b1 keep) (b1 hold) slot n.imm12)
  | .mdrn spad latch tile a => some (packM 0x83 tile 0 (s8 a) 0xFF 0 0 0 0 0 (0#9 ++ b1 latch ++ b1 spad ++ 0#1))
  | .mfil spad latch tile a => some (packM 0x84 tile 0 (s8 a) 0xFF 0 0 0 0 0 (0#9 ++ b1 latch ++ b1 spad ++ 0#1))
  | .mzroGrant a => some (packM 0x85 a.tile 0 0 0xFF 0 0 0 0 0 (0#7 ++ a.k))
  | .mzro tile => some (packM 0x85 tile 0 0 0xFF 0 0 0 0 0 0)
  | .msts fa sat spad tile a c => some (packM 0x86 tile fa.code (s8 a) 0xFF (s8 c) 0 0 0 0 (0#10 ++ b1 spad ++ b1 sat))
  | .mscl pin a n sid => some (packM 0x87 0 0 (s8 a) n.code 0 (s8 sid) (b1 pin) 0 0 n.imm12)
  | .mrel => some (packM 0x88 0 0 0 0xFF 0 0 0 0 0 0)
  | .msta clr status d => some (packM 0x89 0 0 (s8 d) 0xFF 0 0 0 0 0 (0#10 ++ b1 status ++ b1 clr))
  | .cpy rows ev hold slot d a b tag => some (packE 0x90 (s8 d) a.code b.code 0 (0#3 ++ b1 rows) (b1 ev) (b1 hold) slot tag)
  | .gath ev hold slot d a b c tag => some (packE 0x91 (s8 d) a.code b.code c.code 0 (b1 ev) (b1 hold) slot tag)
  | .scat ev hold slot d a b c tag => some (packE 0x92 (s8 d) a.code b.code c.code 0 (b1 ev) (b1 hold) slot tag)
  | .bin n16 ev d a b c tag => some (packE 0x93 (s8 d) a.code b.code c.code (0#3 ++ b1 n16) (b1 ev) 0 0 tag)
  | .ptch floor ev slot d a b c tag => some (packE 0x94 (s8 d) a.code b.code c.code (0#3 ++ b1 floor) (b1 ev) 0 slot tag)
  | .rlse ev slot d tag => some (packE 0x95 (s8 d) 0 0 0 0 (b1 ev) 0 slot tag)
  | .coll kind ev d a b c tag => some (packE 0x96 (s8 d) a.code b.code c.code kind.code (b1 ev) 0 0 tag)
  | .lnch ev d a tag => some (packE 0x97 (s8 d) a.code 0 0 0 (b1 ev) 0 0 tag)
  | .ecan d a tag => some (packE 0x98 (s8 d) a.code 0 0 0 0 0 0 tag)
  | .ecanSlot slot d tag => some (packE 0x98 (s8 d) 0 0 0 1 0 0 slot tag)
  | .eqrd d tag => some (packE 0x99 (s8 d) 0 0 0 0 0 0 0 tag)
  | .eqrdWait d tag => some (packE 0x99 (s8 d) 0 0 0 1 0 0 0 tag)
  | .tlbiRng a b => some (encY 0xA0 0 (s8 a) (s8 b) 1 0)
  | .tlbiAsid b => some (encY 0xA0 0 0 (s8 b) 1 1)
  | .tlbiAll => some (encY 0xA0 0 0 0 0 2)
  | .ctxsStop d a => some (encY 0xA1 (s8 d) (s8 a) 0 0 0)
  | .ctxsSave d a => some (encY 0xA1 (s8 d) (s8 a) 0 0 1)
  | .ctxsEvict d a => some (encY 0xA1 (s8 d) (s8 a) 0 0 2)
  | .ctxsTeam d a b => some (encY 0xA1 (s8 d) (s8 a) (s8 b) 1 3)
  | .ctxlCreate d a b => some (encY 0xA2 (s8 d) (s8 a) (s8 b) 1 0)
  | .ctxlResume d a => some (encY 0xA2 (s8 d) (s8 a) 0 0 1)
  | .ctxlKill d a => some (encY 0xA2 (s8 d) (s8 a) 0 0 2)
  | .ctxlUpd d a b => some (encY 0xA2 (s8 d) (s8 a) (s8 b) 1 3)
  | .ctxlEres d a => some (encY 0xA2 (s8 d) (s8 a) 0 0 4)
  | .ctxlEfail d a => some (encY 0xA2 (s8 d) (s8 a) 0 0 5)
  | .tret => some (encY 0xA3 0 0 0 0 0)
  | .prack mat b => some (encY 0xA4 0 0 (s8 b) 1 (0#6 ++ b1 mat ++ 0#1))
  | .prackRet => some (encY 0xA4 0 0 0 0 1)
  | .rwnd force d a b => some (encY 0xA5 (s8 d) (s8 a) (s8 b) 1 (0#7 ++ b1 force))
  | .rwndChk d a b => some (encY 0xA5 (s8 d) (s8 a) (s8 b) 1 2)
  | .rwndCmt d a => some (encY 0xA5 (s8 d) (s8 a) 0 0 4)
  | .pcfg d a b => some (encY 0xA6 (s8 d) (s8 a) (s8 b) 1 0)
  | .halt => some (encY 0xA7 0 0 0 0 0)
  | .haltOff d a => some (encY 0xA7 (s8 d) (s8 a) 0 0 1)
  | .haltOn d a => some (encY 0xA7 (s8 d) (s8 a) 0 0 2)
  | .clauseSelect _ _ | .loadComplete _ | .asyncCommandComplete _ | .compaction _ _ _ | .stackSpillComplete _
  | .bufferEntryPerform _ _ | .logBurstWrite _ | .logBurstTimeout _ | .automaticWindowOpen _ _ | .wmarkComplete _
  | .rewindFinish _ _ | .ordrTimeout _ | .promote _ _ _ | .ownedLineRecall _ | .flushxComplete _ | .evwtWake _
  | .evwtPoll _ | .evwtTimeout _ | .napDeadline _ | .fqputRoom _ _ | .fqgetMatch _ _ | .bankRelease _ _
  | .bankConvertEnd _ _ | .issueLimitAdjust _ | .translationWalk _ _ _ _ | .tlbiComplete _ | .streamWake _
  | .streamSlotPoll _ | .packetNop _ | .packetLaunch _ | .packetWait _ | .waitSatisfied _ | .packetMark _
  | .packetBadpkt _ | .teamPlacement _ _ | .halfActiveFlue _ _ | .teamRetire _ _ | .gridComplete _
  | .completionRecordPost _ | .eventQueuePost _ | .engineCommandStart _ | .ecanAnswer _ | .collJoinTimeout _ _
  | .matrixPass _ | .scaleFillReturn _ | .grantServed _ | .balanceSample _ _ | .damperTick _ | .balRequestLapse _
  | .bodyBiasStep _ | .frequencyInterval _ | .frequencyStep _ _ | .thermalStateChange _ _ | .stallSample _
  | .timeSliceEnd _ _ | .budgetExpiry _ _ | .teamSave _ _ | .uncorrectableError _ | .contextStopComplete _ _
  | .hostSnapshotTrigger | .snapshotStatusRead | .snapshotArm | .counterLowRead _ _ | .counterHighRead _ _
  | .streamEntryWrite _ _ _ | .statbaseWrite _ | .fwctlGo _ | .liveUpdateHeartbeat | .liveUpdateTimeout | .heartbeat
  | .mmioRegisterWrite _ _ | .hostCxlMemWrite _ _ | .hostCxlMemRead _ _ | .hostSnoop _ _ | .peerRequest _ _ | .peerAck _
  | .flitReplay _ _ | .getVersion | .getCapabilities | .negotiateAlgorithms | .getDigests | .getCertificate
  | .challenge _ | .getMeasurements _ | .keyExchange _ | .finish | .endSession | .ideKm _ | .deviceReset | .cxlReset
  | .frequencyTransitionEnd _ | .timerForwardStep _ => none

/-! ## Decoding -/

/-- Checks 4a and 4d of R72 on one word: an unassigned opcode is ILLOP; a word that its instruction's encoding does not give
back, or that breaks the entry, is ILLENC (R57) (DEDUCED, log 18). -/
def decode (w : Word) : Except DecErr Instr :=
  match parse w with
  | none => .error .illop
  | some i => if i.wf && encode i == some w then .ok i else .error .illenc

/-- The instruction read from table bits: one 64-bit word, bit 0 its least significant (R57). -/
def decodeTableWord (nbits w : Nat) : Option Instr :=
  if nbits ≤ 64 then
    match decode (BitVec.ofNat 64 w) with
    | .ok i => some i
    | .error _ => none
  else none

/-! ## Clause headers (R50, R72 check 2) -/

/-- The header word of its fields. -/
def encodeHeader (h : Header) : Word :=
  (10#4 ++ h.eng.code ++ h.cnt ++ h.wait ++ h.seta ++ h.setb ++ h.cur ++ b1 h.yld ++ b1 h.brk ++ 0#27 : BitVec 64)

/-- SETA and SETB: 0 to 11 or 15, and different unless both are 15 (R50, R72). -/
def Header.ok (h : Header) : Bool :=
  (h.seta.toNat < 12 || h.seta == 15) && (h.setb.toNat < 12 || h.setb == 15) && (h.seta != h.setb || h.seta == 15)

/-- The header a word holds; none where check 2 fails. -/
def decodeHeader (w : Word) : Option Header :=
  let h : Header :=
    { eng := Eng.ofCode (fld w 57 3), cnt := fld w 53 4, wait := fld w 41 12, seta := fld w 37 4, setb := fld w 33 4,
      cur := fld w 29 4, yld := bitAt w 28, brk := bitAt w 27 }
  if h.ok && encodeHeader h == w then some h else none

/-! ## Opcode classes (R69, R72, R73) -/

/-- The opcode of a word. -/
def opcode (w : Word) : Nat := (fld w 56 8).toNat

/-- The opcodes each clause class admits (R69). -/
def Eng.admits (e : Eng) (op : Nat) : Bool :=
  match e with
  | .general => op < 0x80 || op == 0xA4
  | .matrix => op < 0x20 || (0x80 ≤ op && op ≤ 0x89)
  | .engine => op < 0x20 || (0x90 ≤ op && op ≤ 0x99)
  | .system => op < 0x20 || (0xA0 ≤ op && op ≤ 0xA7)

/-- The opcodes a control or scheduler core admits (R73). -/
def controlAdmits (op : Nat) : Bool :=
  op ≤ 0x03 || (0x06 ≤ op && op ≤ 0x08) || op == 0x0E || op == 0x0F || (0x10 ≤ op && op ≤ 0x1F) || op == 0x66 || op == 0x73
    || op == 0x74 || op == 0x75 || op == 0x79 || (0x90 ≤ op && op ≤ 0x99) || (0xA0 ≤ op && op ≤ 0xA7)

/-- Control transfers and system opcodes stand last in their clause (R72 check 4e). -/
def mustBeLast (op : Nat) : Bool := (0x01 ≤ op && op ≤ 0x08) || (0xA0 ≤ op && op ≤ 0xA7)

/-- Privileged words: system opcodes other than PRACK, and SWR of codes 0x88 to 0x8C (R69, R173). -/
def privileged (w : Word) : Bool :=
  (0xA0 ≤ opcode w && opcode w ≤ 0xA7 && opcode w != 0xA4)
    || (opcode w == 0x1D && 0x88 ≤ (pD w).toNat && (pD w).toNat ≤ 0x8C)

end Sys2Proof
end

