-- ==== Sys2Proof/Config.lean ====
section
/-! DEFINITION. What an implementation fixes and the spec leaves open, as constants without a body: no proof sees their values.
Each is named in a log entry. -/

namespace Sys2Proof.Config

/-- The 48-bit hash of a vector result: implementation-specific, seen only through HASH_COLLISION and time (R75) (DESIGN CHOICE, log 8). -/
opaque hash48 : VReg → BitVec 48

/-- A free value: the n-th value that the spec leaves open in a run (DESIGN CHOICE, log 3). -/
opaque freeWord : Nat → Word

/-- The bytes of a firmware image that are not what an unlisted address reads as, by their offsets. -/
abbrev Image := List (Nat × Byte)

/-- The images that stand in the two slots of a new part (R412, R415) (DESIGN CHOICE, log 23). -/
opaque shippedImage : Bool → Image

/-- What an image says its version and its security version are, at places that the spec does not give (R411, R412) (DESIGN CHOICE, log 45). -/
opaque imageVersion : Image → Word
opaque imageSecurity : Image → Word

/-- An image carries a Falcon-1024 signature by a key with the given SHAKE256 digest (R412) (DESIGN CHOICE, log 45). -/
opaque imageSigned : Image → BitVec 512 → Bool

/-- What is fused into a part: the digest of the firmware key and the minimum of the security version (R412). -/
opaque fusedKey : BitVec 512
opaque fusedMinimum : Word

/-- SHAKE256 with a 64-byte output, over data given as numbers (R412). -/
opaque shake256 : List Nat → BitVec 512

/-- A Falcon-1024 signature by the device identity key (R412, R413). -/
opaque falconSign : List Nat → Nat

/-- The three certificates of SPDM slot 0: the Alaef root, the product authority and the device (R412). -/
opaque rootCert : List Nat
opaque authorityCert : List Nat
opaque deviceCert : List Nat

/-- The certificate chain, the root first. -/
def certChain : List Nat := rootCert ++ authorityCert ++ deviceCert

/-- ML-KEM-1024 encapsulation: ciphertext and shared key for a public value and a fresh number (R413). -/
opaque mlKem : Word → Nat → Nat × Word

/-- Measured contents that the spec does not list: the boot ROM with the base-die firmware, and the control-core firmware (R414). -/
opaque measured : Nat → List Nat

/-- A register whose MMIO offset the spec leaves to a capability entry or does not give. -/
inductive MmioUnit where
  | none
  | snapStatus
  | snapTrigger
  | snapReg (i : Nat)
  deriving DecidableEq, Repr, Inhabited

/-- What stands at an MMIO offset that the spec gives no number for (R366) (DESIGN CHOICE, log 31). -/
opaque mmioUnit : Nat → MmioUnit

/-- What an MMIO word reads as whose contents the spec does not give, capability entries among them (R410, R411) (DESIGN CHOICE, log 31). -/
opaque mmioWord : Nat → Word

/-- Words between a capability entry and the next, by the entry's place (R410). -/
opaque capGap : Nat → Nat

/-- VER of a capability entry, by its id (R410). -/
opaque capVer : Nat → BitVec 8

/-- Places of the slice and engine counters, which the COUNTERS entry gives (R360, R411). -/
opaque sliceGap : Nat
opaque engineGap : Nat

/-- The cause that a matrix request leaves in its grant where its access fails on its address, which R314's table does not list, by the
request's order (R294) (DESIGN CHOICE, log 109). -/
opaque mxCause : Nat → BitVec 8

/-- A byte of the block of another member of a collective (R299): a free number, the rank and the byte (DESIGN CHOICE, log 41). -/
opaque peerByte : Nat → Nat → Nat → Byte

/-- A byte that a copy writes whose source overlaps its destination (R295): a free number, the write and the byte. -/
opaque copyByte : Nat → Nat → Nat → Byte

/-- Value and status of an exact cell that operands of two formats have reached (R246): a free number. -/
opaque mixedCell : Nat → BitVec 384 × BitVec 3

/-- Which of sixteen entries that carry CH = 1 without forming a page an access goes through (R328): the entry and the address. -/
opaque chEntry : Nat → Nat → Nat

/-- Whether a sample ring that has gone round is full: the context and the records written (R364) (DESIGN CHOICE, log 67). -/
opaque ringFull : Nat → Nat → Bool

/-- What a sensor reads: the raw current difference of a flue in µA, by time, cluster and flue (R343); the burn current of a core whose pipes
have issued in the sample, in µA, by time and core (R345); a stack's temperature in °C, by stack and time (R337). -/
opaque flueDelta : Nat → Nat → Nat → Int
opaque burnCurrent : Nat → Nat → Nat
opaque temperature : Nat → Nat → Int

/-- The device number in its Flowen system (R411). -/
opaque deviceNumber : BitVec 14

/-- VER, MINVER and LEN of the hand-over structure that an image writes (R416) (DEDUCED, log 69). -/
opaque handOverHeader : Word

end Sys2Proof.Config
end

