-- ==== Sys2Proof/Machine/State.lean ====
section
/-! DEFINITION. The state of the ZA-960: groups, teams, grids, cores, clusters, contexts, streams, engines, tables, links and
memory, as plain data, and the machine after reset (INVENTORY.md lists each item with its rule). -/

namespace Sys2Proof.Machine

/-! ## Sparse tables -/

/-- A table keyed by number in which an unlisted key stands for a default the reader names; keys rise strictly. -/
abbrev Tbl (α : Type) := List (Nat × α)

/-- The entry of a key, or the default. -/
def Tbl.get {α : Type} (d : α) : Tbl α → Nat → α
  | [], _ => d
  | (k, v) :: t, n => if k = n then v else Tbl.get d t n

/-- The entry of a key, where it is listed. -/
def Tbl.find {α : Type} : Tbl α → Nat → Option α
  | [], _ => none
  | (k, v) :: t, n => if k = n then some v else Tbl.find t n

/-- Sets the entry of a key, in key order. -/
def Tbl.put {α : Type} : Tbl α → Nat → α → Tbl α
  | [], n, x => [(n, x)]
  | (k, v) :: t, n, x => if n < k then (n, x) :: (k, v) :: t else if n = k then (n, x) :: t else (k, v) :: Tbl.put t n x

/-- Removes a key. -/
def Tbl.del {α : Type} (t : Tbl α) (n : Nat) : Tbl α := t.filter (fun p => p.1 != n)

/-- The bytes of memory, keyed by address: strictly rising, no entry equal to what an unlisted address reads as. -/
abbrev Memory := List Host.Cell

/-! ## Groups (R16-R19, R52, R89, R126, R167-R174) -/

/-- A virtual address (R194). -/
abbrev Addr := BitVec 56

/-- One entry of the reconvergence stack, with the SMASK held beside it on chip (R170). -/
structure StackEntry where
  jpc : Addr
  ppc : Addr
  pmask : Lane
  rmask : Lane
  smask : Lane
  deriving DecidableEq, Repr

/-- A completion flag: pending, and its outstanding count (R52). -/
structure Flag where
  pending : Bool := false
  count : Nat := 0
  deriving DecidableEq, Repr

/-- A W384 accumulator: value, and status NANS, PINF, NINF in bits 0, 1, 2 (R126). -/
structure WAcc where
  val : BitVec 384 := 0
  st : BitVec 3 := 0
  deriving DecidableEq, Repr

/-- A reuse key (R83). Physical names stand by their contents, which name them. -/
structure ReuseKey where
  word : Word
  piece : Nat
  vsrc : List VReg
  ssrc : List Word
  em : Lane
  old : Option VReg
  rm : Nat
  tag : Option Nat
  part : Nat
  ctx : Nat
  deriving DecidableEq, Repr

/-- Where the data of an outstanding load goes (R53, R234). -/
inductive LoadDst where
  | vec (d : RegNo) (em : Lane) (vals : List VReg)
  | sca (d : SReg) (val : Word)
  | none
  deriving DecidableEq, Repr

/-- An outstanding load-class operation: its data, read when it performed, and the flags that count it (R52, R53). For an
FQGET that has not been matched, `fifo` names the FIFO it waits for (R252). `reuse` holds the keys that its completion installs
(R85), and `pc` the address of its word (R364). -/
structure LoadOp where
  id : Nat
  dst : LoadDst
  seta : BitVec 4
  setb : BitVec 4
  fifo : Option (Nat × Nat) := none
  reuse : List ReuseKey := []
  pc : Addr := 0
  deriving DecidableEq, Repr

/-- What a group waits for at an instruction (R27, R375). -/
inductive Wait where
  | none
  | bar (n : Nat) (phase : Nat)
  | evwt (eq wide spad prm : Bool) (va cmp : Word) (d : SReg) (last : Word) (deadline : Option Nat) (once : Bool)
  | nap (deadline : Nat)
  | wmark (d : SReg)
  | fqput (cluster bank : Nat) (data : BitVec 8192)
  | ecanSlot (d : SReg) (slot : Nat)
  | answer (d : SReg) (v : Word)
  | flushx
  | msta (clr status frozen : Bool) (d : SReg)
  | grant (k : Nat)
  | eqrd (d : SReg)
  | evps (cluster : Nat) (d : SReg) (rec : BitVec 128)
  | tlbi (form : Nat) (lo len : Nat) (asid : Nat)
  | stop (d : SReg) (part ctx : Nat)
  | evict (d : SReg) (part ctx : Nat)
  | haltOff (d : SReg) (core : Nat)
  | rewind (d : SReg) (part ctx : Nat) (target : Nat)
  | stackAccess (refill : Bool)
  | stall
  deriving DecidableEq, Repr

/-- What the agent behind a group record is (R208, R372). -/
inductive AgentKind where
  | compute
  | control (k : Nat)      -- control core of cluster k
  | scheduler (i : Nat)    -- scheduler core i
  deriving DecidableEq, Repr

/-- Whether a group runs (R26, R28, R368, R381). -/
inductive RunSt where
  | ready
  | stopping                        -- halts at its next clause boundary (R368, R381)
  | stopped (cause : Nat)           -- stopped at its resume point, for the supervisor or the debugger
  | acked (n : Nat) (mat : Bool)    -- acknowledged pre-emption by PRACK (R400)
  | ended
  | off                             -- a core that is halted or has not been started (R402)
  deriving DecidableEq, Repr

/-- A BAL request: its amount, and the thousandths of cycles until it lapses (R358). -/
structure BalReq where
  amt : Nat
  left : Nat
  deriving DecidableEq, Repr

/-- The open clause: its header's address and fields, and its words as the fetch read them (R49, R72). -/
structure Clause where
  hdr : Addr
  h : Header
  code : List Word
  deriving DecidableEq, Repr

/-- A cause recorded for the end of the clause: DBRK's code, or a watch with its number, address and index (R369, R371). -/
inductive Pend where
  | brk (code : Nat)
  | watch (n : Nat) (addr : Nat) (idx : Nat)
  deriving DecidableEq, Repr

/-- One group of 32 lanes. A control or scheduler core holds the scalar part of the same record (R73). -/
structure Group where
  gid : Nat := 0
  kind : AgentKind := .compute
  -- identity (R16-R24)
  part : Nat := 0
  ctx : Nat := 0
  grid : Nat := 0
  team : Nat := 0
  num : Nat := 0
  role : Nat := 0
  budget : Nat := 8
  core : Nat := 0
  slot : Nat := 0
  block : Nat := 0
  -- uniform registers (R167-R169)
  s : Vector Word 64 := Vector.replicate 64 0
  m : Vector Lane 8 := Vector.replicate 8 0
  em : Lane := 0xFFFFFFFF
  live : Lane := 0xFFFFFFFF
  fsr : Lane := 0
  -- per-thread registers: the contents that the register map names (R74), and the index registers (R89)
  v : Vector VReg 256 := Vector.replicate 256 0
  ix : Vector VReg 4 := Vector.replicate 4 0
  wa : Vector WAcc 4 := Vector.replicate 4 ⟨0, 0⟩
  cf : Vector Flag 12 := Vector.replicate 12 ⟨false, 0⟩
  srSeq : BitVec 28 := 0
  -- control registers of group scope (R174)
  rm : BitVec 3 := 0
  fte : BitVec 6 := 0
  mmode : Bool := false
  tvt : Addr := 0
  -- reconvergence stack: the entries on chip, newest first, and the number in memory (R170)
  stack : List StackEntry := []
  mdepth : Nat := 0
  -- program counter: the next clause's header, or the open clause and its next word (R49)
  pc : Addr := 0
  clause : Option Clause := none
  word : Nat := 0
  ahead : Option Clause := none   -- the next clause, fetched when the one before it ended (R72)
  -- a clause kept open across a stop: the flags it named (R55), and a resume at a word (R374)
  openSets : List Nat := []
  resume : Option Nat := none
  pend : Option Pend := none
  -- issue state (R26, R192, R206)
  run : RunSt := .ready
  wait : Wait := .none
  sat : Bool := false
  lastIssue : Nat := 0
  passed : Nat := 0
  yieldN : Nat := 0
  yielded : Bool := false
  memClause : Bool := false
  memFrom : Nat := 0              -- operations from this number on count for its memory clauses (R206)
  relFence : Bool := false        -- a core-scope release fence is behind it: its stores act as such releases (R219)
  took : Lane := 0                -- lanes of the store at hand that have taken their buffer entries (R211)
  brkHalt : Bool := false         -- halted because another group of its team took BRK or WATCH in its own handler (R51)
  -- pre-emption (R385, R387)
  preempt : Bool := false
  inHandler : Bool := false
  doneMask : Lane := 0
  -- outstanding load-class operations, oldest first (R53)
  loads : List LoadOp := []
  -- BAL requests (R358)
  burn : Option BalReq := none
  shunt : Option BalReq := none
  match_ : Option BalReq := none
  -- matrix: exception counters IVC OFC UFC SATC (R309), and the latch as issue order sees it (R306)
  mxc : Vector (BitVec 16) 4 := Vector.replicate 4 0
  latchIssue : Option (Option FA) := none
  deriving DecidableEq, Repr

/-! ## Teams and grids (R16-R23, R28, R255, R286, R297) -/

/-- A named barrier (R255). -/
structure Barrier where
  arrivals : Nat := 0
  expect : Option Nat := none
  phase : Nat := 0
  deriving DecidableEq, Repr

/-- Where a team is: on its core, or in its image with the save kind (R384, R386, R387). -/
inductive Residency where
  | resident
  | saved (coop : Bool)
  deriving DecidableEq, Repr

/-- A team: window, barriers, team-scope control registers and scheduling state. -/
structure Team where
  grid : Nat := 0
  team : Nat := 0
  core : Nat := 0
  at' : Residency := .resident
  winBase : Nat := 0
  winRows : Nat := 0
  winGen : Nat := 0
  winBanks : List Nat := []
  bars : Vector Barrier 16 := Vector.replicate 16 ⟨0, none, 0⟩
  burnAuto : Bool := true
  shuntAuto : Bool := true
  ceil : Nat := 32
  slotNo : Nat := 0
  frozen : Bool := false
  prio : Nat := 0
  placedAt : Nat := 0
  budgetAt : Option Nat := none
  pre : Bool := false                     -- a pre-emption is pending (R385)
  saveDue : Option Bool := none           -- its save, cooperative or not, waits for its stores to perform (R228)
  deriving DecidableEq, Repr

/-- A grid: what its launch packet gave it, and how far it has come. -/
structure Grid where
  id : Nat := 0
  part : Nat := 0
  ctx : Nat := 0
  stream : Nat := 0
  seq : Nat := 0
  entry : Addr := 0
  roles : List (Nat × Nat) := []          -- group count and budget of each role
  rows : Nat := 0
  map : List Nat := []
  teams : Nat := 1
  param : Addr := 0
  key : Word := 0
  coop : Bool := false
  alone : Bool := false
  exact : Bool := false
  log : Bool := false
  recAtom : Bool := false
  prio : Nat := 0
  pclass : Nat := 0
  cur : Nat := 0
  utag : BitVec 32 := 0
  placed : List Nat := []                 -- teams placed so far
  retired : List Nat := []
  passedOver : Nat := 0
  lnch : Option Word := none              -- the id of the LNCH command that launched it
  takenAt : Nat := 0                      -- the order in which launches were taken (R287)
  marked : List Nat := []                 -- groups that have arrived at the WMARK in progress
  fifos : List (Nat × Nat) := []          -- FIFOs published to or removed from for the grid (R269)
  spadB : Nat := 0                        -- scratchpad and FIFO banks its launch asks for in each cluster (R203)
  fifoB : Nat := 0
  deriving DecidableEq, Repr

/-! ## Cores (R74-R88, R206, R211, R330, R343-R360) -/

/-- A live storage register: name, contents, partition and last use (R74, R80). -/
structure Phys where
  name : Nat
  val : VReg
  part : Nat
  used : Nat
  deriving DecidableEq, Repr

/-- A reuse-table entry (R83). -/
structure ReuseEntry where
  key : ReuseKey
  res : VReg
  flags : Lane
  used : Nat
  deriving DecidableEq, Repr

/-- A write-through buffer entry: a 32-byte sector with its byte mask, the context and grid whose stores it holds, and the hint of the
latest (R205, R211, R238). `held` is the order in which its write arrived at the slice that holds it, and 0 where none does (R263). -/
structure BufEntry where
  sector : Nat
  mask : BitVec 32
  data : BitVec 256
  part : Nat
  ctx : Nat
  grid : Nat
  held : Nat := 0
  hint : Hint := .dflt
  deriving DecidableEq, Repr

/-- A cached translation (R328, R330). -/
structure TlbEntry where
  asid : Nat
  va : Nat
  size : Nat            -- page size in bytes
  pa : Nat
  w : Bool
  x : Bool
  s : Bool
  d : Bool
  deriving DecidableEq, Repr

/-- A victim tag (R206, R363). -/
structure VictimTag where
  line : Nat
  slot : Nat
  part : Nat
  by' : Nat
  deriving DecidableEq, Repr

/-- One damper: the fraction as its denominator 1, 2, 4 or 8, and the time of the next tick while ACTIVE (R349). It changes no order of
issue (DEDUCED, log 79). -/
structure Damper where
  den : Nat := 1
  tick : Option Nat := none
  deriving DecidableEq, Repr

/-- A core. -/
structure Core where
  phys : List Phys := []
  reuse : List ReuseEntry := []
  stamp : Nat := 0
  buf : List BufEntry := []
  tlb : List TlbEntry := []
  tags : List VictimTag := []
  limit : Nat := 64
  misses : Nat := 0
  lost : Nat := 0
  flueD : Damper := {}
  clusD : Damper := {}
  burn : Nat := 0                 -- slots
  shunt : Nat := 0                -- in microamperes
  issued : BitVec 32 := 0         -- the pipes that have issued since the last sample (R345, R346)
  stalled : Bool := false
  holdFlue : Bool := false        -- mismatch holds (R352)
  holdClus : Bool := false
  loop : Bool := false            -- loop engaged by R354
  inService : Bool := true
  cyc : Word := 0                 -- pipe cycles that its agents have spent (R25)
  counted : Word := 0             -- model: the pipe cycles that event 0x0B has counted (R361)
  clocked : Word := 0             -- model: the clock cycles that event 0x01 has counted (R361)
  ctrs : Vector Word 16 := Vector.replicate 16 0
  sels : Vector Word 16 := Vector.replicate 16 0
  sampler : Tbl Nat := []         -- the slot after the last one sampled, by context (R364)
  deriving DecidableEq, Repr

/-! ## Clusters (R200, R291, R343-R356) -/

/-- The states of a bank (R201). -/
inductive BankSt where
  | stable
  | pending (target : BankMode) (tested : Bool)
  | convert (target : BankMode) (held : Option BankMode)
  deriving DecidableEq, Repr

/-- An SRAM bank, with the entries of its FIFO, oldest first (R200, R250). -/
structure Bank where
  owner : Nat := 0
  mode : BankMode := .cache
  st : BankSt := .stable
  head : Nat := 0
  entries : List (BitVec 8192) := []
  deriving DecidableEq, Repr

/-- A line held in a cache: address, hint, the core, slot and partition whose load allocated it, its way, and the sectors that are there
(R200, R204-R206). A line that no load allocated names no core. Lists of lines are in order of use, newest first. -/
structure CacheLine where
  line : Nat
  hint : Hint
  core : Nat
  slot : Nat
  part : Nat
  way : Nat
  sectors : BitVec 4
  deriving DecidableEq, Repr

/-- The settings that govern a sample: the control registers as they stood when it began (R344). -/
structure BalSet where
  balth : Word := 2400#64 <<< 16 ||| 500
  baltt : Word := 3000#64 <<< 16 ||| 750
  baldly : Word := 20
  dampmin : Word := 3
  deriving DecidableEq, Repr

/-- A cluster: banks, cluster cache, event queue, balance machinery, body bias and clock. -/
structure Cluster where
  banks : Vector Bank 48 := Vector.replicate 48 {}
  lines : List CacheLine := []
  tlb : List TlbEntry := []
  queue : List (BitVec 128) := []
  cseq : Nat := 1
  lost : Nat := 0
  balth : Word := 2400#64 <<< 16 ||| 500
  baltt : Word := 3000#64 <<< 16 ||| 750
  baldly : Word := 20
  dampmin : Word := 3
  bias : Word := 0
  inForce : BalSet := {}
  sampledAt : Option Nat := none
  raw : Vector Int 12 := Vector.replicate 12 0
  flue : Vector Int 12 := Vector.replicate 12 0
  reading : Int := 0
  flOver : Vector Nat 12 := Vector.replicate 12 0     -- consecutive samples above the flue trap threshold
  flLow : Vector Nat 12 := Vector.replicate 12 0      -- consecutive samples at or below the flue throttle threshold
  clOver : Nat := 0
  clLow : Nat := 0
  biasUp : Int := 0                                  -- outputs of the body-bias generator, in steps of 25 mV
  biasLo : Int := 0
  ceil : Nat := 1500                                 -- MHz
  freq : Nat := 1500
  clk : Nat := 0                                     -- thousandths of cycles of its clock, up to `clkAt` (R175, R356)
  clkAt : Nat := 0
  passes : Nat := 0
  instrs : Nat := 0
  transition : Option Nat := none                    -- the frequency that a transition leads to (R356)
  deriving DecidableEq, Repr

/-! ## Home slices and stacks (R196, R220, R229, R246, R337, R360) -/

/-- A live exact cell (R229, R246). -/
structure Cell where
  loc : Nat
  fmt : Ty
  acc : WAcc
  base : Lane
  grid : Nat
  deriving DecidableEq, Repr

/-- A home slice. -/
structure Slice where
  lines : List CacheLine := []
  sharers : List (Nat × List Nat) := []
  cells : List Cell := []
  seq : Nat := 0
  ctrs : Vector Word 8 := Vector.replicate 8 0
  sels : Vector Word 8 := Vector.replicate 8 0
  deriving DecidableEq, Repr

/-- A memory stack: thermal state, the time of its last change, and its two thermal counters (R337, R361). -/
structure Stack where
  thermal : Thermal := .normal
  since : Nat := 0
  hotNs : Nat := 0
  capNs : Nat := 0
  deriving DecidableEq, Repr

/-! ## Contexts and their logs (R259-R277, R382, R383) -/

/-- The states of a context (R383). -/
inductive CtxSt where
  | live
  | stopped
  | dying
  deriving DecidableEq, Repr

/-- What a WMARK window holds: the grid with its teams and groups, its windows and FIFOs, and its cells (R269). -/
structure Snapshot where
  grid : Grid
  teams : List Team
  groups : List Group
  windows : List Host.Cell
  fifos : List (Nat × Nat × Bank)
  cells : List Cell
  spilled : List (Nat × Nat) := []            -- registers written as SPILL records, by group slot id and register (R270)
  deriving DecidableEq, Repr

/-- A retained window: its number, how it opened, its marks, and the stream positions or the snapshot (R264-R266). -/
structure Window where
  num : BitVec 16
  auto : Bool
  anch : Bool
  mark : Bool
  positions : List (Nat × Nat) := []
  snap : Option Snapshot := none
  past : Nat := 0             -- its ORDR records of earlier runs, which a replay has appended to again (R279)
  deriving DecidableEq, Repr

/-- A context that is not FREE. -/
structure Ctx where
  st : CtxSt := .live
  desc : Vector Word 16 := Vector.replicate 16 0
  windows : List Window := []                 -- oldest first; the last is the current one
  records : List (Nat × BitVec 512) := []     -- records of the retained windows with their segments, oldest first
  bursts : List (Nat × List (BitVec 512) × Nat) := []   -- segment, records gathered, time of the first
  fill : Vector Nat 8 := Vector.replicate 8 0 -- bytes in use in each segment
  pos : Vector Nat 8 := Vector.replicate 8 0  -- records written to each segment's ring
  seqs : Vector Nat 8 := Vector.replicate 8 0 -- sequence numbers of the snapshot records
  captured : List Nat := []                   -- sectors captured in the current window
  full : Bool := false
  rwact : Bool := false
  lastMark : Nat := 0
  shadows : List (Nat × BitVec 32) := []      -- high halves latched by a low read (R362)
  samples : Nat := 0                          -- records written to the sample ring (R364)
  stopReq : Bool := false
  stoppedStreams : List Nat := []             -- streams that a rewind set to STATE 2
  rewound : Option (Nat × Nat) := none        -- the rewind in progress: target and issuer
  orders : List (Nat × List (Nat × Nat × Nat)) := []  -- recorded atomics of a replay, by slice (R279)
  orderAt : Tbl Nat := []                     -- the time from which a slice waits for its next recorded atomic (R279)
  bound : Bool := false                       -- a command has completed since the last marker (R265)
  due : Bool := false                         -- SPILL records have come to its log, whose header follows in the next step (R260, R270)
  deriving DecidableEq, Repr

/-! ## Streams (R280-R285) -/

/-- A packet that is taken and not completed: its words, and the status it will complete with once its work is done. -/
structure Taken where
  seq : Nat
  words : List Word
  grid : Option Nat := none
  done : Option (Nat × Nat) := none        -- its status, and the order in which its work was done
  ord : Nat := 0                           -- the order in which packets were taken (R287)
  deriving DecidableEq, Repr

/-- A submission stream: its entry's three words and its progress. -/
structure Stream where
  w0 : Word := 0
  w1 : Word := 0
  w2 : Word := 1#64 <<< 32
  lastCpl : Nat := 0
  lastDone : Nat := 0
  lastTaken : Nat := 0
  taken : List Taken := []
  awake : Bool := false
  deriving DecidableEq, Repr

/-! ## Engines (R292-R303) -/

/-- The kinds of engine command. -/
inductive CmdOp where
  | cpy (rows : Bool)
  | gath
  | scat
  | bin (n16 : Bool)
  | ptch (floor : Bool) (slot : Nat)
  | rlse (slot : Nat)
  | ecanSlot (slot : Nat) (issuer : Nat) (d : SReg)
  | coll (kind : CollKind)
  | lnch
  deriving DecidableEq, Repr

/-- A write that a running command has still to make: device bytes of a line, scratchpad, FIFO or peer bytes, a register, or a collective's
store to a member, whose bytes are that device's (R224, R299). -/
structure EngWrite where
  space : Nat      -- 0 memory, 1 scratchpad, 2 FIFO, 3 peer window, 4 the issuing team's window, 5 a member's window, 6 MMIO
  at' : Nat
  bytes : List Byte
  entry : Word := 0    -- the entry of its peer window as it was when the command's accesses issued (R408)
  deriving DecidableEq, Repr

/-- How far a command has come: in its queue; started, with its first access waiting (R222, R224); writing; held on a fault; finished. -/
inductive CmdSt where
  | queued
  | waiting
  | running (writes : List EngWrite)
  | heldFault
  | finished (status : Nat)
  deriving DecidableEq, Repr

/-- An engine command (R292, R293). `gid` is the issuer, whose flags count it. -/
structure Cmd where
  id : Word
  op : CmdOp
  a : Word
  b : Word
  c : Word
  ev : Bool
  tag : BitVec 16
  gid : Nat
  part : Nat
  ctx : Nat
  grid : Nat
  team : Nat
  core : Nat
  cluster : Nat
  stream : Nat
  prio : Nat
  seta : BitVec 4
  setb : BitVec 4
  patched : Bool := false
  st : CmdSt := .queued
  issuedAt : Nat := 0
  ord : Nat := 0            -- the order of posts, over commands and matrix requests
  pc : Addr := 0
  win : Bool := false       -- it writes its own team's window (R28)
  begun : Bool := false     -- it has written its FIFO (R294), or its launch was taken (R300)
  lines : List Nat := []    -- the lines that it owns from its issue on (R224)
  fin : Nat := 0            -- the order in which it finished (R291)
  cut : Bool := false       -- it is cancelled and stops at a boundary (R301)
  mem : Bool := false       -- a long-latency operation of a clause that holds a memory instruction (R206)
  deriving DecidableEq, Repr

/-- An engine: its commands in queue order, its id count and its counters (R292, R360). -/
structure Engine where
  cmds : List Cmd := []
  count : Nat := 0
  ctrs : Vector Word 8 := Vector.replicate 8 0
  sels : Vector Word 8 := Vector.replicate 8 0
  deriving DecidableEq, Repr

/-! ## Matrix engines (R304-R324) -/

/-- The latch of a grant (R306, R322). -/
structure Latch where
  rows : BitVec 32768 := 0
  scales : BitVec 2048 := 0
  fa : BitVec 4 := 0        -- the code of the format; an image may hold one that is none (R322)
  valid : Bool := false
  keep : Bool := false
  deriving DecidableEq, Repr

/-- A grant: its tiles in relative order, latch and deferred fault (R305, R314). -/
structure Grant where
  gid : Nat
  tiles : List Nat
  latch : Latch := {}
  fault : Option (Nat × Nat) := none        -- cause and failing address
  deriving DecidableEq, Repr

/-- The requests of the reservation table (R311). -/
inductive MxOp where
  | mlda (fa : FA) (rows : BitVec 32768) (scales : BitVec 2048)
  | mma (fa : FA) (keep : Bool) (tile : Nat) (b : Word) (n : Nat) (c sid : Word) (done : Nat)
  | mdrn (spad latch : Bool) (tile : Nat) (a : Word)
  | mfil (spad latch : Bool) (tile : Nat) (a : Word)
  | mzro (tile : Nat)
  | msts (fa : FA) (sat spad : Bool) (tile : Nat) (a c : Word)
  | mscl (pin : Bool) (first : Word) (n : Nat) (tid : Nat)
  | mrel
  deriving DecidableEq, Repr

/-- An entry of the reservation table. `front` marks the separate order of a frozen team (R313). -/
structure MxEntry where
  gid : Nat
  part : Nat
  ctx : Nat
  grid : Nat
  team : Nat
  core : Nat
  op : MxOp
  seta : BitVec 4
  setb : BitVec 4
  hold : Bool := false
  slot : Nat := 0
  ord : Nat := 0
  patched : Bool := false
  front : Bool := false
  aged : Nat := 0            -- passes granted to others while eligible
  since : Nat := 0           -- order of becoming eligible; 0 while it is not
  scaleWait : Bool := false
  faultWait : Bool := false
  fill : Option (Nat × Lane) := none   -- a scale that found every way of its set pinned (R310, R320)
  pc : Addr := 0
  lines : List Nat := []     -- the lines that it owns from its issue on (R224)
  failed : Nat := 0          -- the address whose translation fault holds it (R314)
  mem : Bool := false        -- a long-latency operation of a clause that holds a memory instruction (R206)
  deriving DecidableEq, Repr

/-- The matrix state of a saved team: its entries with their positions, and its grants, whose tiles are in the image (R313, R384,
R386). -/
structure SavedMx where
  entries : List MxEntry := []
  grants : List Grant := []
  deriving DecidableEq, Repr

/-- A cached scale (R310). -/
structure Scale where
  part : Nat
  ctx : Nat
  tid : Nat
  num : Nat
  val : Lane
  pins : List Nat           -- the groups whose grants pin it (R320)
  deriving DecidableEq, Repr

/-- A matrix engine. -/
structure Matrix where
  tiles : Vector (BitVec 131072) 16 := Vector.replicate 16 0
  table : List MxEntry := []
  grants : List Grant := []
  grantQ : List (Nat × Nat) := []
  scales : List Scale := []
  order : Nat := 0
  last : Nat := 0
  partCyc : List (Nat × Nat) := []
  ctrs : Vector Word 8 := Vector.replicate 8 0
  sels : Vector Word 8 := Vector.replicate 8 0
  deriving DecidableEq, Repr

/-! ## Device, links, security, update (R365, R366, R403-R416) -/

/-- The snapshot status word's fields (R366). -/
structure SnapStatus where
  gen : BitVec 32 := 0
  lost : Nat := 0
  cause : BitVec 4 := 0
  arm : Bool := true
  deriving DecidableEq, Repr

/-- What every block's snapshot registers hold: counters, readings and damper state, queue occupancies, errors of clean copies (R366,
R393). -/
structure SnapRegs where
  coreCtrs : List (Nat × Vector Word 16) := []
  sliceCtrs : List (Nat × Vector Word 8) := []
  engineCtrs : List (Nat × Vector Word 8) := []
  mxCtrs : List (Nat × Vector Word 8) := []
  thermal : List (Nat × Nat × Nat) := []       -- stack, ns in HOT, ns in CAP
  commands : List (Nat × Nat) := []            -- engine, commands in its queue
  blockErrs : Tbl Nat := []
  readings : List (Nat × Vector Int 12 × Int) := []
  dampers : List (Nat × Damper × Damper) := []
  queues : List (Nat × Nat × Nat) := []        -- cluster, records, lost count
  tables : List (Nat × Nat) := []              -- matrix engine, entries
  grants : List (Nat × Nat) := []              -- matrix engine, grant requests that wait
  errors : Nat := 0
  deriving DecidableEq, Repr

/-- A Flowen port (R407, R411). -/
structure Port where
  up : Bool := true
  fails : Nat := 0
  replays : Nat := 0
  deriving DecidableEq, Repr

/-- A store to a peer that is not acknowledged, with the port that it went over, its place, and the window's entry as it was at its issue
(R230, R408, R409). -/
structure PeerReqOut where
  window : Nat
  gid : Nat
  port : Nat
  pa : Nat
  entry : Word
  key : Nat := 0             -- where it performs in the peer's memory, and what it wrote over
  old : List Byte := []
  deriving DecidableEq, Repr

/-- What the device sends to the outside: interrupts and error reports (R406), SPDM answers (R413), release of a snooped
line, answers to peers (R408), completions of the host's writes (R404). -/
inductive OutMsg where
  | msix (n : Nat)
  | aer
  | spdm (code : Nat) (body : List Nat)
  | readData (bytes : List Byte)
  | writeDone (pa n : Nat)
  | regData (v : Word)
  | peerAnswer (dev : Nat) (ok : Bool) (bytes : List Byte)
  deriving DecidableEq, Repr

/-- The SPDM responder (R413). -/
structure Spdm where
  version : Bool := false
  caps : Bool := false
  algs : Bool := false
  key : Option Word := none
  session : Bool := false
  ide : Option (BitVec 256) := none
  deriving DecidableEq, Repr

/-- The phase of a live update (R416). -/
inductive UpdPhase where
  | idle
  | started (at' : Nat) (hb : Word)
  deriving DecidableEq, Repr

/-- What an update hands over from the old image to the new (R416). -/
structure HandOver where
  header : Word := 0                            -- VER, MINVER and LEN
  streams : List (Nat × Nat × Nat) := []        -- NEXTSEQ and the last packet taken
  grids : List Grid := []                       -- the running launches with their placement
  packets : List (Nat × Nat) := []              -- pending WAIT and ORD packets: stream and SEQ
  ctxs : List (Nat × CtxSt × Vector Word 16) := []
  records : List (Nat × Nat × Nat) := []        -- held completion records: stream, SEQ, status
  deriving DecidableEq, Repr

/-- The device as a whole. -/
structure Dev where
  errc : Nat := 0
  upd : Bool := false
  slot : Bool := false
  devErr : Bool := false
  ready : Bool := false
  statbase : Word := 0
  heartbeat : Word := 0
  fwImg : Word := 0
  fwStat : Nat := 0
  snap : SnapStatus := {}
  snapAt : Option Nat := none              -- the tick of the latest snapshot (R366)
  snapRegs : SnapRegs := {}
  errCount : Nat := 0
  blockErrs : Tbl Nat := []                -- errors of clean copies, by block (R393)
  bad : List Nat := []                     -- sectors that an undetected uncorrectable error has struck (R170)
  peers : Tbl Word := []
  ports : Vector Port 12 := Vector.replicate 12 {}
  peerOut : List PeerReqOut := []
  out : List OutMsg := []
  spdm : Spdm := {}
  update : UpdPhase := .idle
  handOver : HandOver := {}
  schedRecs : List (BitVec 128) := []      -- records that go to scheduler core 0 (R380, R402)
  images : Tbl Config.Image := []          -- images that live updates have written, by slot 0 or 1 (R416)
  resetAt : Nat := 0                       -- the time of the latest device reset, from which the clusters' clocks count
  refusing : List Nat := []                -- peers that refuse this device's requests (R408)
  desc : Tbl Word := []                    -- partition descriptors that differ from reset
  quota : Tbl Word := []                   -- quota entries that differ from reset
  frames : Tbl Word := []                  -- trap frame words of control and scheduler cores (R380)
  pointers : Tbl (List (Nat × Nat × Word)) := []   -- pointer caches of the dies: address-space id, address, entry (R330)
  deriving DecidableEq, Repr

/-! ## The machine -/

/-- The machine. `run` is the agent inside a clause while `active` holds; `groups` has the other groups and cores. -/
structure State where
  active : Bool := false
  run : Group := {}
  groups : Tbl Group := []
  teams : Tbl Team := []
  grids : Tbl Grid := []
  cores : Tbl Core := []
  clusters : Tbl Cluster := []
  slices : Tbl Slice := []
  stks : Tbl Stack := []
  ctxs : Tbl Ctx := []
  streams : Tbl Stream := []
  engines : Tbl Engine := []
  matrix : Tbl Matrix := []
  savedMx : Tbl SavedMx := []              -- matrix state of saved teams, by team key (R384)
  patch : Tbl (List Cmd) := []             -- held commands of the patch slots: key 4 × team key + slot (R297)
  dev : Dev := {}
  time : Nat := 0                          -- the global timer in ns (R365)
  mem : Memory := []                       -- device, host and peer memory by physical address
  spad : Memory := []                      -- scratchpad, by 2^24 × cluster + 2^19 × core + offset
  agentCyc : Tbl Word := []                -- cycle counts of control and scheduler cores, by number (R175)
  nextId : Nat := 1                        -- model: names of operations
  freeCtr : Nat := 0                       -- model: names of free values
  rotor : Nat := 0                         -- model: the pipe that selects next
  turn : Nat := 0                          -- model: whose turn it is, and which due event goes first
  pending : List Instr := []               -- model: what the world does next
  deriving DecidableEq, Repr

/-- Why a step can stop. -/
inductive Fault where
  /-- Raised by `step` on an input of the world that names something the device does not have (`Instr.wf` fails). Safe: the
  device has no such event, so nothing is claimed of it. -/
  | illFormed
  deriving DecidableEq, Repr

/-- Why a step can be refused. -/
inductive Refusal where
  /-- Raised by `exec` on an instruction with no meaning yet. Safe: nothing is claimed of it. -/
  | notModelled (mnemonic : String)
  deriving DecidableEq, Repr

/-- The key of a context in `ctxs` (R333). -/
def ctxKey (part ctx : Nat) : Nat := 64 * part + ctx

/-- The key of a team in `teams` (R16). -/
def teamKey (grid team : Nat) : Nat := 2 ^ 24 * grid + team

/-- The records of the 16 control cores (gid 0-15) and the 4 scheduler cores (gid 16-19), not started (R8, R11): scheduler cores 0 and 1 lie on
the north die, 2 and 3 on the south die. `core` names the core whose caches they translate through (DESIGN CHOICE, log 16); `em` and LIVE are
all ones (DESIGN CHOICE, log 1). -/
def coreAgents : Tbl Group :=
  (List.range 16).map (fun k => (k, ({ gid := k, kind := .control k, core := 24 * k, run := .off } : Group))) ++
  (List.range 4).map (fun i => (16 + i, ({ gid := 16 + i, kind := .scheduler i, core := if i < 2 then 0 else 192, run := .off } : Group)))

/-- The machine right after reset; its first step is bring-up (R415). Nothing is resident, every table as R200, R334, R405 and R415 leave it (DESIGN CHOICE, log 1). -/
def State.reset : State := { groups := coreAgents }

end Sys2Proof.Machine
end

