-- ==== Sys2Proof/Machine/Ops.lean ====
section
/-! DEFINITION. The named operations over memory, registers and agents that the meanings share: canonical memory, the tables of
the state, scalar positions, vector lanes, the physical registers, translation, traps and their return. -/

namespace Sys2Proof.Machine

/-! ## Memory in canonical form -/

/-- What a byte that nothing has written reads as. DESIGN CHOICE (log 2): the spec gives memory no contents at reset. -/
def emptyByte : Byte := 0

/-- The byte at an address (DESIGN CHOICE, log 2). -/
def Memory.get : Memory → Nat → Byte
  | [], _ => emptyByte
  | (k, b) :: m, a => if k = a then b else Memory.get m a

/-- Writes a byte and keeps the canonical form: the value of an unlisted byte removes the entry. -/
def Memory.set : Memory → Nat → Byte → Memory
  | [], a, x => if x = emptyByte then [] else [(a, x)]
  | (k, b) :: m, a, x =>
    if a < k then (if x = emptyByte then (k, b) :: m else (a, x) :: (k, b) :: m)
    else if a = k then (if x = emptyByte then m else (a, x) :: m)
    else (k, b) :: Memory.set m a x

/-- Every address listed is above `lo`, addresses rise, and no entry holds the value of an unlisted byte. -/
def Memory.above : Nat → Memory → Bool
  | _, [] => true
  | lo, (k, b) :: m => lo ≤ k && b != emptyByte && Memory.above (k + 1) m

/-- The canonical form. -/
def Memory.wf (m : Memory) : Bool := Memory.above 0 m

/-- `n` bytes from an address upward. -/
def Memory.read (m : Memory) (a : Nat) : Nat → List Byte
  | 0 => []
  | n + 1 => Memory.get m a :: Memory.read m (a + 1) n

/-- Writes bytes from an address upward, in ascending order. -/
def Memory.write (m : Memory) (a : Nat) : List Byte → Memory
  | [] => m
  | b :: bs => Memory.write (Memory.set m a b) (a + 1) bs

/-- Writes the bytes that are given, leaving the others. -/
def Memory.writeMask (m : Memory) (a : Nat) : List (Option Byte) → Memory
  | [] => m
  | some b :: bs => Memory.writeMask (Memory.set m a b) (a + 1) bs
  | none :: bs => Memory.writeMask m (a + 1) bs

/-- Every byte of a range reads as nothing has written it. -/
def Memory.clear (m : Memory) (a n : Nat) : Memory := m.filter fun c => c.1 < a || a + n ≤ c.1

/-- The number that bytes hold, little-endian (R5). -/
def leNat : List Byte → Nat
  | [] => 0
  | b :: bs => b.toNat + 256 * leNat bs

/-- The low `n` bytes of a number, little-endian (R5). -/
def leBytes (x : Nat) : Nat → List Byte
  | 0 => []
  | n + 1 => BitVec.ofNat 8 x :: leBytes (x / 256) n

/-- A 64-bit word of memory. -/
def Memory.word (m : Memory) (a : Nat) : Word := BitVec.ofNat 64 (leNat (Memory.read m a 8))

/-- Sign extension of a byte, half or word number of `bits` bits to 64 bits. -/
def sext64 (bits : Nat) (x : Nat) : Word :=
  let y := x % 2 ^ bits
  if 2 ^ (bits - 1) ≤ y then BitVec.ofInt 64 ((y : Int) - 2 ^ bits) else BitVec.ofNat 64 y

/-- A field of a word. -/
def bitsOf (w : Word) (lo len : Nat) : Nat := (w.extractLsb' lo len).toNat

/-! ## Lanes (R5) -/

/-- A register from its 32 lanes, from lane `n - 1` down. -/
def mkLanesTo (f : Nat → Lane) : Nat → VReg
  | 0 => 0
  | n + 1 => mkLanesTo f n ||| ((f n).setWidth 1024 <<< (32 * n))

/-- A register from its 32 lanes. -/
def mkLanes (f : Nat → Lane) : VReg := mkLanesTo f 32

/-- Lane `t` of a register. -/
def lane (v : VReg) (t : Nat) : Lane := v.extractLsb' (32 * t) 32

/-- A masked write: active lanes from the result, inactive lanes from the old value (R91). -/
def mergeLanes (em : Lane) (new old : VReg) : VReg :=
  mkLanes fun t => if em.getLsbD t then lane new t else lane old t

/-- A mask from its 32 bits. -/
def mkMaskTo (p : Nat → Bool) : Nat → Lane
  | 0 => 0
  | n + 1 => mkMaskTo p n ||| (if p n then 1#32 <<< n else 0)

/-- A mask from its 32 bits. -/
def mkMask (p : Nat → Bool) : Lane := mkMaskTo p 32

/-- The number of ones. -/
def popTo {w : Nat} (x : BitVec w) : Nat → Nat
  | 0 => 0
  | n + 1 => popTo x n + (if x.getLsbD n then 1 else 0)

/-- The number of ones of a mask. -/
def popMask (x : Lane) : Nat := popTo x 32

/-- The lanes that are active, in ascending order. -/
def activeLanes (em : Lane) : List Nat := (List.range 32).filter fun t => em.getLsbD t

/-- Updates one element of a vector, where the index names one. -/
def vmod {α : Type} {n : Nat} (v : Vector α n) (i : Nat) (f : α → α) : Vector α n :=
  if h : i < n then v.set i (f v[i]) else v

/-! ## Tables of the state -/

def State.core (s : State) (n : Nat) : Core := Tbl.get {} s.cores n
def State.setCore (s : State) (n : Nat) (c : Core) : State := { s with cores := Tbl.put s.cores n c }
def State.cluster (s : State) (k : Nat) : Cluster := Tbl.get { clkAt := s.dev.resetAt } s.clusters k
def State.setCluster (s : State) (k : Nat) (c : Cluster) : State := { s with clusters := Tbl.put s.clusters k c }
def State.slice (s : State) (k : Nat) : Slice := Tbl.get {} s.slices k
def State.setSlice (s : State) (k : Nat) (c : Slice) : State := { s with slices := Tbl.put s.slices k c }
def State.stk (s : State) (k : Nat) : Stack := Tbl.get {} s.stks k
def State.setStk (s : State) (k : Nat) (c : Stack) : State := { s with stks := Tbl.put s.stks k c }
def State.stream (s : State) (k : Nat) : Stream := Tbl.get {} s.streams k
def State.setStream (s : State) (k : Nat) (c : Stream) : State := { s with streams := Tbl.put s.streams k c }
def State.engine (s : State) (k : Nat) : Engine := Tbl.get {} s.engines k
def State.setEngine (s : State) (k : Nat) (c : Engine) : State := { s with engines := Tbl.put s.engines k c }
def State.mx (s : State) (k : Nat) : Matrix := Tbl.get {} s.matrix k
def State.setMx (s : State) (k : Nat) (c : Matrix) : State := { s with matrix := Tbl.put s.matrix k c }
def State.ctx? (s : State) (part ctx : Nat) : Option Ctx := Tbl.find s.ctxs (ctxKey part ctx)
def State.setCtx (s : State) (part ctx : Nat) (c : Ctx) : State := { s with ctxs := Tbl.put s.ctxs (ctxKey part ctx) c }
def State.team? (s : State) (key : Nat) : Option Team := Tbl.find s.teams key
def State.setTeam (s : State) (key : Nat) (t : Team) : State := { s with teams := Tbl.put s.teams key t }
def State.grid? (s : State) (g : Nat) : Option Grid := Tbl.find s.grids g
def State.setGrid (s : State) (g : Nat) (x : Grid) : State := { s with grids := Tbl.put s.grids g x }
def State.bank (s : State) (k b : Nat) : Bank := (s.cluster k).banks.toList.getD b {}
def State.setBank (s : State) (k b : Nat) (x : Bank) : State :=
  let c := s.cluster k
  s.setCluster k { c with banks := c.banks.setIfInBounds b x }

/-- The context descriptor of a context; zeros where it is FREE (R382). -/
def State.desc (s : State) (part ctx : Nat) : Vector Word 16 :=
  match s.ctx? part ctx with
  | some c => c.desc
  | none => Vector.replicate 16 0

/-- Updates the running group. -/
def State.setRun (s : State) (g : Group) : State := { s with run := g }

/-- A group by its number, wherever it is. -/
def State.group? (s : State) (gid : Nat) : Option Group :=
  if s.active && s.run.gid = gid then some s.run else Tbl.find s.groups gid

/-- Stores a group back where it is. -/
def State.setGroup (s : State) (g : Group) : State :=
  if s.active && s.run.gid = g.gid then { s with run := g } else { s with groups := Tbl.put s.groups g.gid g }

/-- Runs an operation on behalf of an agent, which is put in the place of the running one for it. -/
def State.as (s : State) (g : Group) (f : State → State) : State :=
  if s.active && s.run.gid = g.gid then f s
  else
    let t := f { s with
      active := true, run := g
      groups := if s.active then Tbl.put (Tbl.del s.groups g.gid) s.run.gid s.run else Tbl.del s.groups g.gid }
    if s.active then
      { t with
        run := (Tbl.find t.groups s.run.gid).getD s.run
        groups := Tbl.put (Tbl.del t.groups s.run.gid) t.run.gid t.run }
    else { t with active := false, run := s.run, groups := Tbl.put t.groups t.run.gid t.run }

/-- The waiting group goes on with the word after the one it waits at. -/
def Group.wake (g : Group) : Group := { g with wait := .none, word := g.word + 1 }

/-- The core of a group whose team is not resident. -/
def noCore : Nat := 2 ^ 16

/-- Every group and core agent of the machine. -/
def State.allGroups (s : State) : List Group :=
  (if s.active then [s.run] else []) ++ s.groups.map (·.2)

/-- Applies an update to every group that meets a condition. -/
def State.mapGroups (s : State) (p : Group → Bool) (f : Group → Group) : State :=
  { s with
    run := if s.active && p s.run then f s.run else s.run
    groups := s.groups.map fun kv => if p kv.2 then (kv.1, f kv.2) else kv }

/-- The key of a group's team. -/
def Group.teamKey (g : Group) : Nat := Machine.teamKey g.grid g.team

/-- A compute group of a team. -/
def Group.inTeam (key : Nat) (g : Group) : Bool := g.kind == .compute && g.teamKey == key

/-- The cluster of an agent (R9, R11): for a scheduler core, 16 and above, which is none. -/
def Group.cluster (g : Group) : Nat :=
  match g.kind with
  | .compute => g.core / 24
  | .control k => k
  | .scheduler i => 16 + i

/-- Supervisor level: control cores, scheduler cores, and groups of a context whose descriptor sets SUP (R372). -/
def State.isSup (s : State) (g : Group) : Bool :=
  match g.kind with
  | .compute => (s.desc g.part g.ctx)[10].getLsbD 51
  | .control _ => true
  | .scheduler _ => true

/-- The level of the running agent (R372). -/
def State.sup (s : State) : Bool := s.isSup s.run

/-! ## Scalar positions (R167, R168) -/

/-- The enclosing mask Z (R168). -/
def Group.z (g : Group) : Lane :=
  if g.mmode then g.live else
    match g.stack with
    | [] => g.live
    | e :: _ => e.smask &&& g.live

/-- A scalar position as a 64-bit value: `m` registers and `em` are zero-extended (R167). -/
def Group.pos (g : Group) : SPos → Word
  | .s n => g.s[n.toNat]
  | .m n => (g.m[n.toNat]).setWidth 64
  | .em => g.em.setWidth 64

/-- Writes a 64-bit value to a scalar position: the low 32 bits to an `m` register, and to `em` ANDed with Z (R167, R168). -/
def Group.setPos (g : Group) (p : SPos) (x : Word) : Group :=
  match p with
  | .s n => { g with s := g.s.set n.toNat x }
  | .m n => { g with m := g.m.set n.toNat (x.setWidth 32) }
  | .em => { g with em := x.setWidth 32 &&& g.z }

/-- Writes a scalar register. -/
def Group.setS (g : Group) (n : SReg) (x : Word) : Group := { g with s := g.s.set n.toNat x }

/-- A vector register of the map (R74). -/
def Group.reg (g : Group) (r : Nat) : VReg := if h : r < 256 then g.v[r] else 0

/-- Sets what a vector register's map entry names. -/
def Group.setReg (g : Group) (r : Nat) (x : VReg) : Group := { g with v := g.v.setIfInBounds r x }

/-- A 64-bit lane of a pair (R66). -/
def Group.lane64 (g : Group) (r t : Nat) : Word := lane (g.reg (r + 1)) t ++ lane (g.reg r) t

/-! ## Counters of the core (R360-R362) -/

/-- Adds to a counter block every counter whose select names the event and the context (R360). -/
def bump {n : Nat} (ctrs sels : Vector Word n) (ev part ctx k : Nat) : Vector Word n :=
  Vector.ofFn fun i =>
    let w := sels[i]
    if (w.extractLsb' 0 8).toNat = ev && (w.extractLsb' 8 6).toNat = ctx && (w.extractLsb' 14 6).toNat = part
    then ctrs[i] + BitVec.ofNat 64 k else ctrs[i]

/-- Counts an event on a core. -/
def Core.count (c : Core) (ev part ctx k : Nat) : Core := { c with ctrs := bump c.ctrs c.sels ev part ctx k }

/-- Counts an event on a home slice. -/
def State.countSlice (s : State) (n ev part ctx k : Nat) : State :=
  let x := s.slice n
  s.setSlice n { x with ctrs := bump x.ctrs x.sels ev part ctx k }

/-- Charges cycles to the running agent's core (R25, R175) (DESIGN CHOICE, log 6). -/
def State.charge (s : State) (n : Nat) : State :=
  match s.run.kind with
  | .compute =>
    let c := s.core s.run.core
    s.setCore s.run.core { c with cyc := c.cyc + BitVec.ofNat 64 n }
  | _ => { s with agentCyc := Tbl.put s.agentCyc s.run.gid (Tbl.get 0 s.agentCyc s.run.gid + BitVec.ofNat 64 n) }

/-- An instruction completes: its cycles are charged and the group goes on to its next word (R25, R49). -/
def State.retire (s : State) (n : Nat) : State :=
  let t := s.charge n
  { t with run := { t.run with word := t.run.word + 1 } }

/-! ## The physical registers (R74-R80) -/

/-- The references to contents `x` of a partition: map entries of its groups on the core, reuse entries, and snapshots (R74).
Register 0, the zero register, is not counted. -/
def mapRefs (gs : List Group) (core part : Nat) (x : VReg) : Nat :=
  gs.foldl (fun n g => if g.kind == .compute && g.core == core && g.part == part && g.run != .off then
    n + (g.v.toList.take g.budget).countP (· == x) else n) 0

/-- References of a reuse entry to contents: each source and the result, once per entry that names it (R74). -/
def ReuseEntry.names (e : ReuseEntry) (part : Nat) (x : VReg) : Bool :=
  e.key.part == part && (e.res == x || e.key.vsrc.contains x || e.key.old == some x)

def reuseRefs (c : Core) (part : Nat) (x : VReg) : Nat := c.reuse.countP (·.names part x)

/-- The registers of a snapshot that hold contents `x` of a core, by group slot id and register; those spilled are held no
longer (R262, R270). -/
def Snapshot.holds (p : Snapshot) (core part : Nat) (x : VReg) : List (Nat × Nat) :=
  (p.groups.flatMap fun g =>
    if g.kind == .compute && g.core == core && g.part == part && g.run != .off then
      ((List.range g.budget).filter fun r => g.reg r == x).map fun r => (64 * (core % 48) + g.slot, r)
    else []).filter fun h => !p.spilled.contains h

/-- References of the snapshots of retained windows to contents of a core (R269, R270). -/
def snapRefs (ctxs : Tbl Ctx) (core part : Nat) (x : VReg) : Nat :=
  ctxs.foldl (fun n kc => kc.2.windows.foldl (fun n w =>
    match w.snap with
    | some p => n + (p.holds core part x).length
    | none => n) n) 0

/-- Every reference to contents of a partition on a core (R74). -/
def State.refs (s : State) (core part : Nat) (x : VReg) : Nat :=
  mapRefs s.allGroups core part x + reuseRefs (s.core core) part x + snapRefs s.ctxs core part x

/-- Frees the storage registers of a core whose count has fallen to zero (R74). -/
def State.freeRegs (s : State) (core : Nat) : State :=
  let c := s.core core
  s.setCore core { c with phys := c.phys.filter fun p => s.refs core p.part p.val != 0 }

/-- Frees the storage registers of every core whose count has fallen to zero: window snapshots have dropped references (R74). -/
def State.freeAll (s : State) : State := s.cores.foldl (fun t x => t.freeRegs x.1) s

/-- Drops the reuse entries of a core that depend on a tag which has lapsed, and their references (R74, R87, R88). -/
def State.lapse (s : State) (core tag : Nat) : State :=
  let c := s.core core
  if c.reuse.any (·.key.tag == some tag) then
    (s.setCore core { c with reuse := c.reuse.filter (·.key.tag != some tag) }).freeRegs core
  else s

/-- The lowest name from `n` upward that no live register has. -/
def freeName (ps : List Phys) : Nat → Nat → Nat
  | 0, n => n
  | k + 1, n => if ps.any (·.name == n) then freeName ps k (n + 1) else n

/-- The least recently used register of the retention pool: live, and named by no map (R79, R80) (DEDUCED, log 25). A use is a write that
creates or shares the register (DESIGN CHOICE, log 91). -/
def State.poolVictim (s : State) (core : Nat) : Option Phys :=
  ((s.core core).phys.filter fun p => mapRefs s.allGroups core p.part p.val = 0).foldl
    (fun best p => match best with
      | none => some p
      | some q => if p.used < q.used then some p else best) none

/-! ## The partition table and the address map (R195, R196, R334) -/

/-- A partition's descriptor: as written, or as reset leaves it (R334). -/
def State.partDesc (s : State) (p : Nat) : Word :=
  Tbl.get (if p = 0 then 1#64 <<< 32 ||| 255#64 <<< 24 ||| 255#64 <<< 16 ||| 0xFFFF else 0) s.dev.desc p

/-- The quota of partition `p` on device core `n` (R334). -/
def State.quotaWord (s : State) (n p : Nat) : Word :=
  Tbl.get (if p = 0 then 512#64 <<< 33 ||| 32#64 <<< 18 ||| 64#64 <<< 6 else 0) s.dev.quota (48 * n + p)

/-- The fields of a quota entry: SLOT0, SLOTN, ROW0, ROWN, SPAD0, SPADN (R334). -/
structure Quota where
  slot0 : Nat
  slotN : Nat
  row0 : Nat
  rowN : Nat
  spad0 : Nat
  spadN : Nat
  deriving DecidableEq, Repr

def Quota.ofWord (w : Word) : Quota :=
  ⟨(w.extractLsb' 0 6).toNat, (w.extractLsb' 6 7).toNat, (w.extractLsb' 13 5).toNat, (w.extractLsb' 18 6).toNat,
   (w.extractLsb' 24 9).toNat, (w.extractLsb' 33 10).toNat⟩

def State.quota (s : State) (n p : Nat) : Quota := Quota.ofWord (s.quotaWord n p)

/-- The regions of the physical address space (R195). -/
inductive Region where
  | dev | mmio | host | peer | reserved
  deriving DecidableEq, Repr

/-- The region of a physical address (R195). -/
def region (pa : Nat) : Region :=
  let r := pa / 2 ^ 48 % 16
  if r = 0 then (if pa < 2 ^ 39 then .dev else .reserved)
  else if r = 1 then .mmio
  else if r < 4 then .reserved
  else if r < 8 then .host
  else .peer

/-- The home slice of a line (R196). -/
def homeSlice (pa : Nat) : Nat :=
  (pa / 2 ^ 7 % 128) ^^^ (pa / 2 ^ 14 % 128) ^^^ (pa / 2 ^ 21 % 128) ^^^ (pa / 2 ^ 28 % 128) ^^^ (pa / 2 ^ 35 % 16)

/-- The key in `mem` of a byte of peer device `dev` (R408). -/
def peerKey (dev off : Nat) : Nat := 2 ^ 52 + dev * 2 ^ 39 + off

/-- The key in `spad` of a scratchpad byte (R197). -/
def spadKey (cluster core off : Nat) : Nat := cluster * 2 ^ 24 + core * 2 ^ 19 + off

/-! ## Event queues (R288-R291) -/

/-- A completion or event record without its CSEQ (R288). -/
def mkRecord (tag : Nat) (seq : Nat) (stream src kind status : Nat) : BitVec 128 :=
  BitVec.ofNat 32 tag ++ BitVec.ofNat 32 seq ++ BitVec.ofNat 12 stream ++ BitVec.ofNat 8 src ++ BitVec.ofNat 4 kind
    ++ BitVec.ofNat 8 status ++ 0#32

/-- The KIND of a record. -/
def recKind (r : BitVec 128) : Nat := (r.extractLsb' 40 4).toNat

/-- The next CSEQ: 1 to 2^32 - 1, then 1 (R289). -/
def nextCseq (n : Nat) : Nat := if n + 1 < 2 ^ 32 then n + 1 else 1

/-- Records of KIND 1 and 2 have room in a queue (R291). -/
def Cluster.queueRoom (c : Cluster) : Bool :=
  c.queue.countP (fun r => recKind r == 1 || recKind r == 2) < 960 && c.queue.length < 1024

/-- Appends a record with its CSEQ. -/
def Cluster.append (c : Cluster) (r : BitVec 128) : Cluster :=
  { c with queue := c.queue ++ [r ||| (BitVec.ofNat 32 c.cseq).setWidth 128], cseq := nextCseq c.cseq }

/-- Removes the first record that meets a condition. -/
def dropFirst (p : BitVec 128 → Bool) : List (BitVec 128) → List (BitVec 128)
  | [] => []
  | r :: rs => if p r then rs else r :: dropFirst p rs

/-- A system record never waits: it takes the place of the oldest record of KIND 2, or else of the oldest system record, and
the lost count counts it (R291). -/
def Cluster.postSystem (c : Cluster) (r : BitVec 128) : Cluster :=
  if c.queue.length < 1024 then c.append r
  else
    let q := if c.queue.any (recKind · == 2) then dropFirst (recKind · == 2) c.queue else dropFirst (recKind · == 3) c.queue
    { c with queue := q, lost := min 0xFFFF (c.lost + 1) }.append r

/-- Posts a system record to the control core of a cluster. -/
def State.postSystem (s : State) (k : Nat) (r : BitVec 128) : State := s.setCluster k ((s.cluster k).postSystem r)

/-- The supervisor's cluster of a context (R372). -/
def State.supCl (s : State) (part ctx : Nat) : Nat := ((s.desc part ctx)[10].extractLsb' 52 4).toNat

/-- The stream and sequence number of a group's launch (R377). -/
def State.launchOf (s : State) (g : Group) : Nat × Nat :=
  match g.kind, s.grid? g.grid with
  | .compute, some x => (x.stream, x.seq)
  | _, _ => (0xFFF, 0)

/-! ## The undo log: capture, marks, bursts (R259-R264, R271, R272) -/

/-- The log attribute of a context (R382). -/
def Ctx.logs (c : Ctx) : Bool := c.desc[1].getLsbD 15

/-- The number of the current window (R260). -/
def Ctx.curWin (c : Ctx) : BitVec 16 :=
  match c.windows.getLast? with
  | some w => w.num
  | none => 0

/-- Bytes of a segment: an eighth of the log after its header, in whole bursts (R259). -/
def Ctx.segSize (c : Ctx) : Nat := (((c.desc[2].extractLsb' 0 18).toNat * 2 ^ 19 - 4096) / 8) / 4096 * 4096

/-- The address of the log (R382). -/
def Ctx.logBase (c : Ctx) : Nat := (c.desc[1].extractLsb' 16 36).toNat * 2 ^ 16

/-- A log record (R261). -/
def mkLogRec (old : Nat) (seq mask win kind slice pa : Nat) : BitVec 512 :=
  BitVec.ofNat 512 (old % 2 ^ 256 * 2 ^ 256 + seq % 2 ^ 32 * 2 ^ 224 + mask % 2 ^ 32 * 2 ^ 192 + win % 2 ^ 16 * 2 ^ 176
    + kind % 16 * 2 ^ 172 + slice % 128 * 2 ^ 165 + pa % 2 ^ 52)

def recWin (r : BitVec 512) : BitVec 16 := r.extractLsb' 176 16
def recKindLog (r : BitVec 512) : Nat := (r.extractLsb' 172 4).toNat
def recPa (r : BitVec 512) : Nat := (r.extractLsb' 0 52).toNat
def recSlice (r : BitVec 512) : Nat := (r.extractLsb' 165 7).toNat
def recSeq (r : BitVec 512) : Nat := (r.extractLsb' 224 32).toNat
def recOld (r : BitVec 512) : BitVec 256 := r.extractLsb' 256 256

/-- A record joins its segment's burst, and counts as in use (R260, R263). -/
def Ctx.gather (c : Ctx) (seg : Nat) (r : BitVec 512) (now : Nat) : Ctx :=
  { c with
    records := c.records ++ [(seg, r)]
    fill := vmod c.fill seg (· + 64)
    bursts := match c.bursts.find? (·.1 == seg) with
      | some _ => c.bursts.map fun b => if b.1 == seg then (b.1, b.2.1 ++ [r], b.2.2) else b
      | none => c.bursts ++ [(seg, [r], now)] }

/-- There is room for `n` more records in a segment. -/
def Ctx.room (c : Ctx) (seg n : Nat) : Bool := c.fill.toList.getD seg 0 + 64 * n ≤ c.segSize

/-- A committed window's records leave their segments (R264). -/
def Ctx.discard (c : Ctx) (w : BitVec 16) : Ctx :=
  { c with
    records := c.records.filter fun r => recWin r.2 != w
    fill := Vector.ofFn fun i : Fin 8 => c.fill[i] - 64 * c.records.countP fun r => recWin r.2 == w && r.1 == i.val }

/-- Commits the oldest retained window (R264). -/
def Ctx.commitOldest (c : Ctx) : Ctx :=
  match c.windows with
  | [] => c
  | w :: ws => { c.discard w.num with windows := ws }

/-- The log header as the device writes it, words 0 to 9 (R260); the supervisor's PERIOD and HWM are kept from memory (DESIGN CHOICE, log 21). -/
def Ctx.header (c : Ctx) (word1 : Word) : List Word :=
  let old := match c.windows with
    | w :: _ => w.num
    | [] => 0
  let bits (p : Window → Bool) : Nat := (c.windows.zipIdx.map fun wi => if p wi.1 then 2 ^ wi.2 else 0).sum
  [BitVec.ofNat 64 (c.curWin.toNat * 2 ^ 48 + old.toNat * 2 ^ 32 + bits (·.mark) % 2 ^ 16 * 2 ^ 16 + bits (·.anch) % 2 ^ 16),
   (word1 &&& 0xFFFFFF00) ||| BitVec.ofNat 64 (c.windows.length % 32 * 8 + (if c.full then 4 else 0) + (if c.rwact then 2 else 0) + 1)]
  ++ c.fill.toList.map (BitVec.ofNat 64)

/-- Writes words to memory. -/
def Memory.words (m : Memory) (a : Nat) (ws : List Word) : Memory :=
  Memory.write m a (ws.flatMap fun w => leBytes w.toNat 8)

/-- The oldest window may be committed: more than one is retained, and it is not the target of a rewind in progress (R271, R275) (DEDUCED,
log 58). -/
def Ctx.mayCommit (c : Ctx) : Bool :=
  decide (1 < c.windows.length) && c.rewound.all fun r => c.windows.head?.any (·.num.toNat != r.1)

/-- A segment above the high watermark commits the oldest window, while more than one is retained (R271). -/
def Ctx.watermark (hwm : Nat) : Nat → Ctx → Ctx
  | 0, c => c
  | n + 1, c =>
    if c.mayCommit && c.fill.toList.any (fun x => decide (hwm * c.segSize < 256 * x)) then Ctx.watermark hwm n c.commitOldest else c

/-- The header's HWM, which the supervisor writes in memory (R260). -/
def State.logHwm (s : State) (c : Ctx) : Nat := ((Memory.word s.mem (c.logBase + 8)).extractLsb' 8 8).toNat

/-- Windows of a list that hold a snapshot and have left another list. -/
def snapsGone (old new : List Window) : Bool := old.any fun w => w.snap.isSome && !new.any fun x => x.num == w.num && x.snap.isSome

/-- Stores a context: a segment above the high watermark commits windows, the log header follows, and registers that dropped snapshots held
are freed (R74, R260, R264, R271) (DESIGN CHOICE, log 21). -/
def State.setCtxLog (s : State) (part ctx : Nat) (c : Ctx) : State :=
  if c.logs then
    let c := { Ctx.watermark (s.logHwm c) 16 c with due := false }
    let t := s.setCtx part ctx c
    let t := { t with mem := Memory.words s.mem c.logBase (c.header (Memory.word s.mem (c.logBase + 8))) }
    if (s.ctx? part ctx).any fun o => snapsGone o.windows c.windows then t.freeAll else t
  else s.setCtx part ctx c

/-- The logs to which Allocate has spilled registers: their windows and headers follow (R260, R270, R271) (DESIGN CHOICE, log 21). -/
def State.syncLogs (s : State) : State :=
  (s.ctxs.filter (·.2.due)).foldl (fun t k => t.setCtxLog (k.1 / 64) (k.1 % 64) { k.2 with due := false }) s

/-- A write that reached a log header leaves its fields as the device writes them: only PERIOD and HWM take it (R260). -/
def State.keepHeaders (s : State) (sector : Nat) : State :=
  match s.ctxs.find? fun x => x.2.logs && decide (x.2.logBase ≤ sector ∧ sector < x.2.logBase + 96) with
  | some x => { s with mem := Memory.words s.mem x.2.logBase (x.2.header (Memory.word s.mem (x.2.logBase + 8))) }
  | none => s

/-- A write that needs capture finds no room (R271): the oldest window is committed where more than one is retained; otherwise a
LOGFULL stall begins, FULL is set and the supervisor gets a record. -/
def State.logFull (s : State) (part ctx : Nat) (c : Ctx) : State :=
  if c.mayCommit then s.setCtxLog part ctx c.commitOldest
  else if c.full then s.setCtx part ctx c
  else (s.setCtxLog part ctx { c with full := true }).postSystem (s.supCl part ctx)
    (mkRecord (ctx * 2 ^ 15 + part * 2 ^ 21) 0 0xFFF 0xFF 3 0x41)

/-- Sets the irreversible mark of the current window and appends a MARK record (R272). -/
def State.mark (s : State) (part ctx cause addr : Nat) : State :=
  match s.ctx? part ctx with
  | none => s
  | some c =>
    if c.logs then
      let sl := homeSlice addr
      let q := s.slice sl
      let r := mkLogRec cause (q.seq + 1) 0 c.curWin.toNat 7 sl addr
      let ws := c.windows.dropLast ++ (c.windows.getLast?.map fun w => { w with mark := true }).toList
      (s.setSlice sl { q with seq := q.seq + 1 }).setCtxLog part ctx ({ c with windows := ws }.gather (sl / 16) r s.time)
    else s

/-- The mark of an effect of a grid or its commands; a control or scheduler core is no agent of the context (R272). -/
def State.markBy (s : State) (grid part ctx cause addr : Nat) : State := if grid = 0 then s else s.mark part ctx cause addr

/-- Whether a write to a sector is captured: the first in the current window, to device memory, of a grid launched with LOG in a
context with the log attribute (R238, R263, R286). -/
def State.captures (s : State) (sector part ctx grid : Nat) : Bool :=
  match s.ctx? part ctx with
  | none => false
  | some c => c.logs && ((s.grid? grid).elim false (·.log)) && region sector == .dev && !c.captured.contains sector

/-- Sectors whose records one segment has to take. -/
def segCount (seg : Nat) (sectors : List Nat) : Nat := sectors.countP fun a => homeSlice a / 16 == seg

/-- The log has room for the records of writes to the given sectors (R271). -/
def State.logRoom (s : State) (sectors : List Nat) (part ctx grid : Nat) : Bool :=
  match s.ctx? part ctx with
  | none => true
  | some c =>
    let new := (sectors.filter fun a => s.captures a part ctx grid).dedup
    new.isEmpty || (!c.full && (List.range 8).all fun seg =>
      segCount seg new = 0 || c.room seg (segCount seg new))

/-- The sectors that `n` bytes from an address touch. -/
def sectorsOf (pa n : Nat) : List Nat :=
  if n = 0 then [] else (List.range ((pa + n - 1) / 32 - pa / 32 + 1)).map fun i => (pa / 32 + i) * 32

/-- A write of bytes of one 32-byte sector performs at its home slice. Where it is captured (R238, R263), the sector's old
bytes are saved first; its record passes to the log-drain unit in the same step (DESIGN CHOICE, log 107). Callers see to it that
the log has room; without room nothing is written and FULL is set (R271). -/
def State.performSector (s : State) (pa : Nat) (data : List (Option Byte)) (capture : Bool) (part ctx grid : Nat) : State :=
  let sector := pa / 32 * 32
  let write (t : State) : State := { t with mem := Memory.writeMask t.mem pa data }.keepHeaders sector
  if capture && s.captures sector part ctx grid then
    match s.ctx? part ctx with
    | none => write s
    | some c =>
      let sl := homeSlice pa
      if c.full || !c.room (sl / 16) 1 then s.logFull part ctx c
      else
        let q := s.slice sl
        let mask := (data.zipIdx.map fun b => if b.1.isSome then 2 ^ (pa % 32 + b.2) else 0).sum
        let r := mkLogRec (leNat (Memory.read s.mem sector 32)) (q.seq + 1) mask c.curWin.toNat 0 sl sector
        let s1 := (s.setSlice sl { q with seq := q.seq + 1 }).countSlice sl 0x23 part ctx 1
        write (s1.setCtxLog part ctx { c.gather (sl / 16) r s.time with captured := sector :: c.captured })
  else write s

/-- Splits bytes at 32-byte sector boundaries: `room` bytes fit in the first sector. -/
def splitSectors (fuel : Nat) (pa : Nat) (data : List (Option Byte)) : List (Nat × List (Option Byte)) :=
  match fuel with
  | 0 => []
  | n + 1 =>
    if data.isEmpty then [] else
      let k := 32 - pa % 32
      (pa, data.take k) :: splitSectors n (pa + k) (data.drop k)

/-- A write of bytes to device or host memory performs, sector by sector. -/
def State.perform (s : State) (pa : Nat) (data : List (Option Byte)) (capture : Bool) (part ctx grid : Nat) : State :=
  (splitSectors (data.length + 1) pa data).foldl (fun t x => t.performSector x.1 x.2 capture part ctx grid) s

/-- Words the device itself writes to memory without capture: records, frames, images (R238). -/
def State.writeWords (s : State) (pa : Nat) (ws : List Word) : State := { s with mem := Memory.words s.mem pa ws }

/-! ## Cache lines (R200, R204-R206, R360-R363). They change no value that an access reads, only counters and the issue limit. -/

/-- The lines of bytes. -/
def linesOf (pa n : Nat) : List Nat := (List.range ((pa + n - 1) / 128 - pa / 128 + 1)).map fun i => (pa / 128 + i) * 128

/-- The sectors of a line that bytes touch (R196). -/
def sectorNeed (pa n line : Nat) : BitVec 4 :=
  BitVec.ofNat 4 (((List.range 4).filter fun i => (sectorsOf pa n).contains (line + 32 * i)).map (2 ^ ·)).sum

/-- The aligned pairs of sectors that hold some (R204). -/
def sectorPairs (m : BitVec 4) : BitVec 4 := (if m &&& 3 = 0 then 0 else 3) ||| (if m &&& 12 = 0 then 0 else 12)

/-- Sectors of a line are held. -/
def holdsLine (ls : List CacheLine) (line : Nat) (need : BitVec 4) : Bool := ls.any fun l => l.line == line && need &&& ~~~l.sectors == 0

/-- A write goes to a line of memory. -/
def EngWrite.inLine (w : EngWrite) (line : Nat) : Bool := w.space == 0 && w.at' / 128 * 128 == line

/-- A running command has still to write to a line. -/
def Cmd.writes (c : Cmd) (line : Nat) : Bool :=
  match c.st with
  | .running ws => ws.any (·.inLine line)
  | _ => false

/-- A command owns its destination lines from its issue on, and once it runs those that it has still to write (R224) (DEDUCED, log 34). -/
def Cmd.owns (c : Cmd) (line : Nat) : Bool :=
  match c.st with
  | .queued | .waiting | .heldFault => c.lines.contains line
  | .running ws => ws.any (·.inLine line)
  | .finished _ => false

/-- A line is owned by a command that runs, or by a command or a matrix request that issued before `ord`, where one is given: operations of
engines wait for one another in the order of their issue (R224) (DEDUCED, log 34). -/
def State.ownedBefore (s : State) (ord : Option Nat) (line : Nat) : Bool :=
  (s.engines.any fun e => e.2.cmds.any fun c => c.owns line && (c.writes line || ord.all (decide <| c.ord < ·)))
    || s.matrix.any fun m => m.2.table.any fun x => x.lines.contains line && !x.hold && ord.all (decide <| x.ord < ·)

/-- An engine owns a line (R224). -/
def State.engineOwns (s : State) (line : Nat) : Bool := s.ownedBefore none line

/-- The victim of a set of `ways` ways among the allowed ones, for a line with a hint (R205): streaming lines first, sticky ones last, the
least recently used of each first. Where the sticky lines, this one among them, would fill more than half the ways, the least recently used
of them counts as default. A line that is in use is no victim. `ls` are the set's lines, newest first. -/
def victim (ls : List CacheLine) (ways : Nat) (allowed : List Nat) (busy : Nat → Bool) (h : Hint) : Option CacheLine :=
  let mine := ls.filter fun l => allowed.contains l.way && !busy l.line
  let sticky := ls.filter (·.hint == .stky)
  let old := if ways < 2 * (sticky.length + (if h = .stky then 1 else 0)) then sticky.getLast? else none
  match (mine.filter (·.hint == .strm)).getLast? with
  | some l => some l
  | none =>
    match (mine.filter fun l => l.hint != .stky || some l == old).getLast? with
    | some l => some l
    | none => mine.getLast?

/-- A line enters a set of a cache: a free allowed way, or the victim's. The lines after, and the line displaced (DESIGN CHOICE, log 85). -/
def allocLine (ls : List CacheLine) (same : CacheLine → Bool) (ways : Nat) (allowed : List Nat) (busy : Nat → Bool) (x : CacheLine) :
    List CacheLine × Option CacheLine :=
  let set := ls.filter same
  match allowed.find? fun w => !set.any (·.way == w) with
  | some w => ({ x with way := w } :: ls, none)
  | none =>
    match victim set ways allowed busy x.hint with
    | some v => ({ x with way := v.way } :: ls.filter (· != v), some v)
    | none => (ls, none)

/-- A line that is held becomes the newest, with sectors more; a bypass access records no hint (R205) (DESIGN CHOICE, log 85). -/
def hitLine (ls : List CacheLine) (line : Nat) (more : BitVec 4) (h : Hint) : List CacheLine :=
  match ls.find? (·.line == line) with
  | some l => { l with hint := if h = .byp then l.hint else h, sectors := l.sectors ||| more } :: ls.filter (·.line != line)
  | none => ls

/-- The ways of a cluster's banks in cache mode (R200). -/
def Cluster.modeWays (c : Cluster) : Nat := 4 * c.banks.toList.countP fun b => b.mode == .cache && b.st == .stable

/-- The cache-mode ways of a cluster that a partition may allocate in (R200). -/
def Cluster.cacheWays (c : Cluster) (part : Nat) : List Nat :=
  (List.range 48).flatMap fun b =>
    let x := c.banks.toList.getD b {}
    if x.mode == .cache && x.st == .stable && x.owner == part then (List.range 4).map (4 * b + ·) else []

/-- An access reaches the home slice of a line: a hit or a miss, which a hint is recorded at (R204, R205, R361). -/
def State.reachSlice (s : State) (line : Nat) (need : BitVec 4) (part ctx : Nat) (h : Hint) : State :=
  let sl := homeSlice line
  let q := s.slice sl
  s.setSlice sl { q with
    lines := hitLine q.lines line 0 h
    ctrs := bump q.ctrs q.sels (if holdsLine q.lines line need then 0x20 else 0x21) part ctx 1 }

/-- A line with a live exact cell (R205, R249). -/
def Slice.cellIn (q : Slice) (line : Nat) : Bool := q.cells.any fun c => c.loc / 128 * 128 == line

/-- A line leaves its home slice, and with it the bits that say which of its sectors the current windows have captured (R263). -/
def State.forgetLine (s : State) (line : Nat) : State :=
  { s with ctxs := s.ctxs.map fun x => (x.1, { x.2 with captured := x.2.captured.filter fun a => a / 128 * 128 != line }) }

/-- An access that allocates reaches the home slice of a line, which fetches what is not there in aligned pairs of sectors (R196, R204,
R335). -/
def State.touchSlice (s : State) (line : Nat) (need : BitVec 4) (part ctx : Nat) (h : Hint) : State :=
  let s1 := s.reachSlice line need part ctx h
  if h = .byp then s1
  else
    let sl := homeSlice line
    let q := s1.slice sl
    if q.lines.any (·.line == line) then s1.setSlice sl { q with lines := hitLine q.lines line (sectorPairs need) h }
    else
      let allowed := (List.range 16).filter fun w => (s.partDesc part).getLsbD w
      let r := allocLine q.lines (fun l => l.line / 2 ^ 14 % 1024 == line / 2 ^ 14 % 1024) 16 allowed
        (fun x => q.cellIn x || s.engineOwns x) ⟨line, h, 0, 0, part, 0, sectorPairs need⟩
      match r.2 with
      | some v => (s1.setSlice sl { q with lines := r.1, ctrs := bump q.ctrs q.sels 0x22 part ctx 1 }).forgetLine v.line
      | none => s1.setSlice sl { q with lines := r.1 }

/-- An access that allocates nothing reaches the home slices of its bytes: an engine's, or one of a core without a cluster cache (R204, R361). -/
def State.reachBytes (s : State) (pa n part ctx : Nat) (h : Hint) : State :=
  (linesOf pa n).foldl (fun t x => t.reachSlice x (sectorNeed pa n x) part ctx h) s

/-- The eviction of a line that a core's loads allocated makes a victim tag (R206, R363). -/
def State.victimTag (s : State) (l : CacheLine) (by' : Nat) : State :=
  if l.core = noCore then s
  else
    let c := s.core l.core
    s.setCore l.core { c with tags := (⟨l.line, l.slot, l.part, by'⟩ :: c.tags).take 1024 }

/-- A line, or more sectors of one, enters the cluster cache; `core` is that of the load that allocates it, and none for a prefetch
(R200, R204-R206, R248). -/
def State.clusterFill (s : State) (g : Group) (line : Nat) (need : BitVec 4) (h : Hint) (core : Nat) : State :=
  let k := g.core / 24
  let c := s.cluster k
  if c.lines.any (·.line == line) then s.setCluster k { c with lines := hitLine c.lines line need h }
  else
    let r := allocLine c.lines (fun l => l.line / 128 % 256 == line / 128 % 256) c.modeWays (c.cacheWays g.part) s.engineOwns
      ⟨line, h, core, g.slot, g.part, 0, need⟩
    let s := s.setCluster k { c with lines := r.1 }
    match r.2 with
    | some v =>
      let s := s.victimTag v g.part
      s.setCore g.core ((s.core g.core).count 0x08 g.part g.ctx 1)
    | none => s

/-- An engine's line takes a way of a cluster's cache, where it is held exclusively, without a sector that others may read (R200, R204)
(DESIGN CHOICE, log 100). -/
def State.ownLine (s : State) (k part line : Nat) : State :=
  let c := s.cluster k
  let rest := c.lines.filter (·.line != line)
  let r := allocLine rest (fun l => l.line / 128 % 256 == line / 128 % 256) c.modeWays (c.cacheWays part) s.engineOwns ⟨line, .dflt, noCore, 0, part, 0, 0⟩
  let t := s.setCluster k { c with lines := r.1 }
  match r.2 with
  | some v => t.victimTag v part
  | none => t

/-- A load's miss in the cluster cache counts, and with a victim tag of its slot it is a lost-locality event (R206, R361, R363). -/
def State.loadMiss (s : State) (g : Group) (line : Nat) : State :=
  let x := s.core g.core
  let tag := x.tags.find? fun t => t.line == line && t.slot == g.slot
  let x := { x.count 0x07 g.part g.ctx 1 with misses := x.misses + 1 }
  let x := match tag with
    | some t =>
      let y := { x.count 0x0A g.part g.ctx 1 with tags := x.tags.filter (· != t), lost := x.lost + 1 }
      if t.by' = g.part then y else y.count 0x09 g.part g.ctx 1
    | none => x
  s.setCore g.core x

/-- A thread load's look-up of sectors of a line in the cluster cache and, on a miss, in the home slice (R204-R206, R363). -/
def State.touchLine (s : State) (g : Group) (line : Nat) (need : BitVec 4) (h : Hint) : State :=
  let k := g.core / 24
  let c := s.cluster k
  if holdsLine c.lines line need then s.setCluster k { c with lines := hitLine c.lines line 0 h }
  else
    let s := s.loadMiss g line
    (if h = .byp then s else s.clusterFill g line need h g.core).touchSlice line need g.part g.ctx h

/-- The look-ups of a thread load of bytes. -/
def State.touch (s : State) (g : Group) (pa n : Nat) (h : Hint) : State :=
  (linesOf pa n).foldl (fun t x => t.touchLine g x (sectorNeed pa n x) h) s

/-- A store records its hint in the cluster cache's copies of its lines, which are updated (R204, R205). -/
def State.storeHint (s : State) (k pa n : Nat) (h : Hint) : State :=
  (linesOf pa n).foldl (fun t x =>
    let c := t.cluster k
    if c.lines.any (·.line == x) then t.setCluster k { c with lines := hitLine c.lines x 0 h } else t) s

/-- A prefetch of a line: into the cluster cache and the home slice, or with `.byp` into the home slice alone, where a line that is held keeps
its hint (R205, R248). -/
def State.prefetch (s : State) (g : Group) (line : Nat) (h : Hint) : State :=
  if h = .byp then
    s.touchSlice line 15 g.part g.ctx (((s.slice (homeSlice line)).lines.find? (·.line == line)).elim .dflt (·.hint))
  else (s.clusterFill g line 15 h noCore).touchSlice line 15 g.part g.ctx h

/-- A store's home slice invalidates the copies in cluster caches that do not hold its data (R204). -/
def State.dropLine (s : State) (k line : Nat) : State :=
  let c := s.cluster k
  if c.lines.any (·.line == line) then s.setCluster k { c with lines := c.lines.filter (·.line != line) } else s

/-! ## The write-through buffer (R211) -/

/-- The bytes of a sector entry that are given. -/
def BufEntry.bytes (e : BufEntry) : List (Option Byte) :=
  (List.range 32).map fun i => if e.mask.getLsbD i then some (e.data.extractLsb' (8 * i) 8) else none

/-- A write of a context to a slice would overtake one that is held there and arrived earlier; `n` is its own number, 0 before it arrives
(R263). -/
def State.overtakes (s : State) (slice part ctx n : Nat) : Bool :=
  s.cores.any fun x => x.2.buf.any fun e =>
    e.held != 0 && e.part == part && e.ctx == ctx && homeSlice e.sector == slice && (n == 0 || decide (e.held < n))

/-- An entry that has not arrived at its slice finds its line owned by a command that runs: before one that has not started, it is
coherence-earlier (R224). -/
def State.ownedAhead (s : State) (e : BufEntry) : Bool :=
  e.held == 0 && s.engines.any fun x => x.2.cmds.any (·.writes (e.sector / 128 * 128))

/-- Entry `i` of a core's buffer is held at its slice from now on (R263). -/
def State.holdEntry (s : State) (core i : Nat) : State :=
  let c := s.core core
  let next := s.cores.foldl (fun n x => x.2.buf.foldl (fun n e => max n e.held) n) 0 + 1
  s.setCore core { c with buf := c.buf.modify i fun e => if e.held = 0 then { e with held := next } else e }

/-- Entry `i` performs at its home slice and leaves the buffer; a store to host memory marks its window (R211, R272). An older entry of its
sector goes first (R212), one that finds its line owned waits for the recall (R224), and where the log is full, or a write of its context is
held at the slice, it is held there (R263, R271). -/
def State.bufPerform (s : State) (core i : Nat) : State :=
  let c := s.core core
  match c.buf[i]? with
  | none => s
  | some e =>
    if (c.buf.take i).any (·.sector == e.sector) || s.ownedAhead e then s
    else if s.overtakes (homeSlice e.sector) e.part e.ctx e.held then s.holdEntry core i
    else if s.logRoom [e.sector] e.part e.ctx e.grid then
      let s1 := s.setCore core { c with buf := c.buf.eraseIdx i }
      let s2 := (s1.perform e.sector e.bytes true e.part e.ctx e.grid).touchSlice (e.sector / 128 * 128)
        (sectorNeed e.sector 32 (e.sector / 128 * 128)) e.part e.ctx e.hint
      if region e.sector == .host then s2.mark e.part e.ctx 1 e.sector else s2
    else
      match s.ctx? e.part e.ctx with
      | some x => (s.holdEntry core i).logFull e.part e.ctx x
      | none => s

/-- Every entry of a core's buffer that can performs, oldest first. -/
def State.drainFrom (s : State) (core : Nat) : Nat → State
  | 0 => s
  | n + 1 =>
    let k := (s.core core).buf.length
    if k ≤ n then s.drainFrom core n
    else (s.bufPerform core (k - (n + 1))).drainFrom core n

def State.drainBuf (s : State) (core : Nat) : State := s.drainFrom core (s.core core).buf.length

/-- A thread's bytes of one sector enter the buffer: they merge with the newest entry of the sector where it is of the same
context and grid, and otherwise take a new entry (R211). The store has waited for room (DEDUCED, log 26). -/
def State.bufStore (s : State) (core pa : Nat) (data : List Byte) (part ctx grid : Nat) (hint : Hint) : State :=
  let off := pa % 32
  let sector := pa - off
  let mask : BitVec 32 := BitVec.ofNat 32 ((2 ^ data.length - 1) * 2 ^ off)
  let bits : BitVec 256 := BitVec.ofNat 256 (leNat data * 2 ^ (8 * off))
  let cover : BitVec 256 := BitVec.ofNat 256 ((2 ^ (8 * data.length) - 1) * 2 ^ (8 * off))
  let c := s.core core
  match c.buf.reverse.findIdx? (·.sector == sector) with
  | some j =>
    let i := c.buf.length - 1 - j
    if c.buf[i]?.any fun e => e.part == part && e.ctx == ctx && e.grid == grid then
      s.setCore core { c with buf := c.buf.modify i fun e =>
        { e with mask := e.mask ||| mask, data := (e.data &&& ~~~cover) ||| bits, hint := if hint = .byp then e.hint else hint } }
    else s.setCore core { c with buf := c.buf ++ [{ sector, mask, data := bits, part, ctx, grid, hint }] }
  | none => s.setCore core { c with buf := c.buf ++ [{ sector, mask, data := bits, part, ctx, grid, hint }] }

/-- The byte a thread of a core reads: from the newest buffer entry that holds it, or from memory (R211). -/
def State.coreByte (s : State) (core pa : Nat) : Byte :=
  match (s.core core).buf.reverse.find? fun e => e.sector == pa / 32 * 32 && e.mask.getLsbD (pa % 32) with
  | some e => e.data.extractLsb' (8 * (pa % 32)) 8
  | none => Memory.get s.mem pa

/-! ## Register writes (R75, R80) -/

/-- Writes the four SPILL records of every register that the snapshots of some of a context's windows hold with contents `x`, and drops
those references (R80, R262, R270). The log's header follows in the next step (R260, R271) (DESIGN CHOICE, log 21). -/
def Ctx.spillRegs (c : Ctx) (which : Window → Bool) (core part : Nat) (x : VReg) (now : Nat) : Ctx :=
  let held (w : Window) : List (Nat × Nat) := match w.snap with
    | some p => if which w then p.holds core part x else []
    | none => []
  let recs := c.windows.flatMap fun w => (held w).flatMap fun h => (List.range 4).map fun q => (w.num, h, q)
  let seg := core / 48
  recs.foldl (fun c r =>
    { { c with due := true }.gather seg (mkLogRec (x.extractLsb' (256 * r.2.2) 256).toNat (c.seqs.toList.getD seg 0 + 1) 0 r.1.toNat 2 0
        (r.2.1.1 * 2 ^ 40 + r.2.1.2 * 2 ^ 32 + r.2.2)) now with seqs := vmod c.seqs seg (· + 1) })
    { c with windows := c.windows.map fun w =>
        { w with snap := w.snap.map fun p => { p with spilled := p.spilled ++ held w } } }

/-- Drops every reference to contents `x` of a core that is not a map's: its reuse entries, and its snapshot holders, once they are
spilled (R80). -/
def State.dropRefs (s : State) (core part : Nat) (x : VReg) : State :=
  let c := s.core core
  let s1 := s.setCore core { c with reuse := c.reuse.filter fun e => !e.names part x }
  { s1 with ctxs := s1.ctxs.map fun kc => (kc.1, kc.2.spillRegs (fun _ => true) core part x s.time) }

/-- Counts an event on a core. -/
def State.countCore (s : State) (core ev part ctx : Nat) : State := s.setCore core ((s.core core).count ev part ctx 1)

/-- Allocate() (R80): a free register, the lowest name; or the oldest of the pool after its references are dropped, which counts one
RETAIN_EVICT to the context that writes; or, with an empty pool, the old destination's own register, which only the destination holds once
its other references are dropped: that write is in place, as the flag says (DEDUCED, log 25). -/
def State.allocReg (s : State) (core part ctx : Nat) (x old : VReg) : State × Bool :=
  let take (s : State) (name : Nat) : State :=
    let c := s.core core
    s.setCore core { c with
      phys := c.phys.map fun (q : Phys) => if q.name = name then ⟨name, x, part, c.stamp⟩ else q
      stamp := c.stamp + 1 }
  let c := s.core core
  if c.phys.length < 8192 then
    (s.setCore core { c with phys := ⟨freeName c.phys c.phys.length 1, x, part, c.stamp⟩ :: c.phys, stamp := c.stamp + 1 }, false)
  else
    match s.poolVictim core with
    | some p => (take ((s.dropRefs core p.part p.val).countCore core 0x06 part ctx) p.name, false)
    | none =>
      match c.phys.find? fun q => q.part == part && q.val == old with
      | some q => (take (s.dropRefs core part old) q.name, true)
      | none => (s, false)

/-- WriteResult (R75) of register `r` of the running group: shared by content, written in place, or allocated. The flag says
whether the write is in place (DEDUCED, log 9). -/
def State.writeResult (s : State) (r : Nat) (x : VReg) (hit : Bool) : State × Bool :=
  let g := s.run
  let old := g.reg r
  let c := s.core g.core
  let s1 := s.setRun (g.setReg r x)
  if x = 0 || c.phys.any (fun p => p.val == x && p.part == g.part) then
    let c := { c with
      phys := c.phys.map fun p => if p.val == x && p.part == g.part then { p with used := c.stamp } else p
      stamp := c.stamp + 1 }
    let c := if hit then c else c.count 0x04 g.part g.ctx 1
    ((s1.setCore g.core c).freeRegs g.core, false)
  else
    let coll := Config.hash48 0 == Config.hash48 x || c.phys.any fun p => p.part == g.part && Config.hash48 p.val == Config.hash48 x
    let c := { c with ctrs := if coll then bump c.ctrs c.sels 0x05 g.part g.ctx 1 else c.ctrs }
    if old ≠ 0 ∧ s.refs g.core g.part old = 1 then
      (s1.setCore g.core { c with
        phys := c.phys.map fun p => if p.val == old && p.part == g.part then { p with val := x, used := c.stamp } else p
        stamp := c.stamp + 1 }, true)
    else
      let a := (s.setCore g.core c).allocReg g.core g.part g.ctx x old
      ((a.1.setRun (g.setReg r x)).freeRegs g.core, a.2)

/-! ## Translation (R194, R325-R330) -/

/-- How an access uses an address. -/
inductive Access where
  | rd | wr | ex
  deriving DecidableEq, Repr

/-- The leaf a walk ends at: where its entry lies, the entry, the page's base and size, and the level. -/
structure Leaf where
  entry : Nat
  word : Word
  pa : Nat
  size : Nat
  level : Nat
  deriving DecidableEq, Repr

/-- One level of the walk: shift of the index, and the levels below (R325-R327); `rd` reads a table entry. A failure gives PAGE and
the level. -/
def walkFrom (rd : Nat → Word) (va : Nat) (table level : Nat) : List Nat → Except (Nat × Nat) Leaf
  | [] => .error (0x10, 3)
  | sh :: rest =>
    let e := table + 8 * (va / 2 ^ sh % 2048)
    let w := rd e
    let addr := (w.extractLsb' 12 40).toNat * 4096
    let bad : Except (Nat × Nat) Leaf := .error (0x10, level)
    if !w.getLsbD 0 || w.extractLsb' 60 4 != 0 || w.extractLsb' 8 4 != 0 then bad
    else if w.getLsbD 1 then
      if level = 0 || (level ≠ 3 && w.getLsbD 7) || addr % 2 ^ sh != 0 then bad
      else .ok ⟨e, w, addr, 2 ^ sh, level⟩
    else if level = 3 || w.extractLsb' 2 6 != 0 || addr % 2 ^ 14 != 0 then bad
    else walkFrom rd va addr (level + 1) rest

/-- The page that a walk installs: where the sixteen entries about a level-3 leaf all have CH = 1, map consecutive pages from a 64 KiB
boundary and agree in W, X and S, it is their whole 64 KiB, and otherwise the leaf's own page (R328). Its base and size (DEDUCED, log 83). -/
def leafPage (rd : Nat → Word) (l : Leaf) : Nat × Nat :=
  let first := l.entry / 128 * 128
  let base := l.pa / 2 ^ 16 * 2 ^ 16
  let same (i : Nat) : Bool :=
    let w := rd (first + 8 * i)
    w.getLsbD 0 && w.getLsbD 1 && w.getLsbD 7 && w.extractLsb' 60 4 == 0 && w.extractLsb' 8 4 == 0
      && (w.extractLsb' 12 40).toNat * 4096 == base + 4096 * i && w.extractLsb' 2 3 == l.word.extractLsb' 2 3
  if l.level = 3 && (List.range 16).all same then (base, 2 ^ 16) else (l.pa, l.size)

/-- The leaf that an access goes through: its own, but where its entry carries CH = 1 without forming a page of 64 KiB any one of the
sixteen (R328). Which one is open, and one that is no leaf of a page is not taken (log 83). -/
def leafUsed (rd : Nat → Word) (l : Leaf) (va : Nat) : Leaf :=
  let e := l.entry / 128 * 128 + 8 * (Config.chEntry l.entry va % 16)
  let w := rd e
  if l.level = 3 && l.word.getLsbD 7 && (leafPage rd l).2 != 2 ^ 16
      && w.getLsbD 0 && w.getLsbD 1 && w.extractLsb' 60 4 == 0 && w.extractLsb' 8 4 == 0
    then { l with entry := e, word := w, pa := (w.extractLsb' 12 40).toNat * 4096 }
  else l

/-- Shifts of the four indices of an address (R325). -/
def walkShifts : List Nat := [45, 34, 23, 12]

/-- A walk of a context's tables (R325, R327). -/
def walk (m : Memory) (root va : Nat) : Except (Nat × Nat) Leaf := walkFrom (Memory.word m) va root 0 walkShifts

/-- The pointers that a walk passes, with their addresses. -/
def walkPointers (rd : Nat → Word) (va : Nat) (table : Nat) : List Nat → List (Nat × Word)
  | [] => []
  | sh :: rest =>
    let e := table + 8 * (va / 2 ^ sh % 2048)
    let w := rd e
    if w.getLsbD 0 && !w.getLsbD 1 && !rest.isEmpty then (e, w) :: walkPointers rd va ((w.extractLsb' 12 40).toNat * 4096) rest else []

/-- Permissions at the leaf (R327): a write needs W, a fetch needs X, the user level may use neither S pages nor MMIO. -/
def leafAllows (w x sOnly : Bool) (pa : Nat) (acc : Access) (user : Bool) : Bool :=
  (acc != .wr || w) && (acc != .ex || x) && !(user && (sOnly || region pa == .mmio))

/-- Keeps the newest entries of a translation cache (DEDUCED, log 84). -/
def tlbPut (cap : Nat) (t : List TlbEntry) (e : TlbEntry) : List TlbEntry := (e :: t).take cap

def tlbFind (t : List TlbEntry) (asid va : Nat) : Option TlbEntry :=
  t.find? fun e => e.asid == asid && e.va ≤ va && va < e.va + e.size

/-- The level that a page size belongs to (R326) (DEDUCED, log 19). -/
def sizeLevel (n : Nat) : Nat := if n = 2 ^ 34 then 1 else if n = 2 ^ 23 then 2 else 3

/-- Installs a translation in the core's and the cluster's cache (R330). -/
def State.install (s : State) (core : Nat) (e : TlbEntry) : State :=
  let same (x : TlbEntry) : Bool := x.asid == e.asid && x.va == e.va
  let c := s.core core
  let s1 := s.setCore core { c with tlb := tlbPut 256 (c.tlb.filter (! same ·)) e }
  let k := s1.cluster (core / 24)
  s1.setCluster (core / 24) { k with tlb := tlbPut 4096 (k.tlb.filter (! same ·)) e }

/-- The walker's update of A and D in a leaf, by compare-and-swap (R329) (DEDUCED, log 20). -/
def setAD (m : Memory) (l : Leaf) (d : Bool) : Memory :=
  let w := l.word ||| 0x20 ||| (if d then 0x40 else 0)
  if w = l.word then m else Memory.words m l.entry [w]

/-- An entry as the walkers of a core's die read it: a pointer may come from their cache (R330). -/
def State.tableWord (s : State) (core asid a : Nat) : Word :=
  match (Tbl.get [] s.dev.pointers (core / 192)).find? fun p => p.1 == asid && p.2.1 == a with
  | some p => p.2.2
  | none => Memory.word s.mem a

/-- A walk for a core through its die's pointer cache. -/
def State.coreWalk (s : State) (core asid root va : Nat) : Except (Nat × Nat) Leaf :=
  walkFrom (s.tableWord core asid) va root 0 walkShifts

/-- The pointers of a walk enter the pointer cache of the die, the newest first (R330). -/
def State.cachePointers (s : State) (core asid root va : Nat) : State :=
  let ps := (walkPointers (s.tableWord core asid) va root walkShifts).map fun p => (asid, p.1, p.2)
  let old := (Tbl.get [] s.dev.pointers (core / 192)).filter fun p => !ps.contains p
  { s with dev := { s.dev with pointers := Tbl.put s.dev.pointers (core / 192) ((ps ++ old).take 1024) } }

/-- The address-space id and the root of a context (R382). -/
def State.asid (s : State) (part ctx : Nat) : Nat := ((s.desc part ctx)[0].extractLsb' 52 12).toNat
def State.root (s : State) (part ctx : Nat) : Nat := ((s.desc part ctx)[0].extractLsb' 14 38).toNat * 2 ^ 14

/-- A walk on behalf of core `core` that installs what it finds (R327-R330) (DEDUCED, log 20). -/
def State.walkInstall (s : State) (core part ctx va : Nat) (acc : Access) (user : Bool) : State × Except (Nat × Nat) Nat :=
  let asid := s.asid part ctx
  match s.coreWalk core asid (s.root part ctx) va with
  | .error e => (s, .error e)
  | .ok l0 =>
    let l := leafUsed (Memory.word s.mem) l0 va
    let pa := l.pa + va % l.size
    if leafAllows (l.word.getLsbD 2) (l.word.getLsbD 3) (l.word.getLsbD 4) pa acc user then
      let dirty := acc == .wr || l.word.getLsbD 6
      let page := leafPage (Memory.word s.mem) l
      let s1 := s.cachePointers core asid (s.root part ctx) va
      (({ s1 with mem := setAD s.mem l (acc == Access.wr) }).install core
        ⟨asid, va - va % page.2, page.2, page.1, l.word.getLsbD 2, l.word.getLsbD 3, l.word.getLsbD 4, dirty⟩, .ok pa)
    else (s, .error (0x11, l.level))

/-- The translation that the core's cache or the cluster's holds for an address, and the state in which it is the one used last
(R330) (DEDUCED, log 84). -/
def State.cached (s : State) (core asid va : Nat) : Option (State × TlbEntry) :=
  let c := s.core core
  match tlbFind c.tlb asid va with
  | some e => some (s.setCore core { c with tlb := e :: c.tlb.filter (· != e) }, e)
  | none => (tlbFind (s.cluster (core / 24)).tlb asid va).map fun e => (s.install core e, e)

/-- Translates an address for a core: from its cache, the cluster's, or by a walk; a first write through a clean copy sets D
(R327-R330). A failure gives the cause and the level (DESIGN CHOICE, log 16) (DEDUCED, log 19). -/
def State.translate (s : State) (core part ctx va : Nat) (acc : Access) (user : Bool) : State × Except (Nat × Nat) Nat :=
  let asid := s.asid part ctx
  match s.cached core asid va with
  | none => s.walkInstall core part ctx va acc user
  | some (s, e) =>
    let pa := e.pa + (va - e.va)
    if !leafAllows e.w e.x e.s pa acc user then (s, .error (0x11, sizeLevel e.size))
    else if acc == .wr && !e.d then
      -- the walker sets D in the entry it finds; a changed entry is walked again
      match s.coreWalk core asid (s.root part ctx) va with
      | .error _ => s.walkInstall core part ctx va acc user
      | .ok l =>
        if l.pa + va % l.size = pa && l.word.getLsbD 2 == e.w && l.word.getLsbD 3 == e.x && l.word.getLsbD 4 == e.s then
          (({ s with mem := setAD s.mem l true }).install core { e with d := true }, .ok pa)
        else s.walkInstall core part ctx va acc user
    else (s, .ok pa)

/-! ## The matrix table: which entries are eligible (R222, R311-R313, R336) -/

/-- The oldest unfinished entry of a group: the separate order of a frozen team comes first (R311, R313). -/
def Matrix.head (m : Matrix) (gid : Nat) : Option MxEntry :=
  match m.table.find? fun x => x.gid == gid && x.front with
  | some x => some x
  | none => m.table.find? (·.gid == gid)

/-- A team is frozen (R313). -/
def State.frozen (s : State) (key : Nat) : Bool := (s.team? key).elim false (·.frozen)

/-- The FIFO that a request streams from, where it has steps to make. -/
def MxOp.fifo : MxOp → Option Nat
  | .mma _ _ _ b n _ _ k => if b.getLsbD 63 && k < n then some (b.extractLsb' 0 6).toNat else none
  | _ => none

/-- A request stores to memory. -/
def MxOp.stores : MxOp → Bool
  | .msts _ _ false _ _ _ => true
  | .mdrn false _ _ _ => true
  | _ => false

/-- The core's buffer holds stores of a context (R211). -/
def State.buffered (s : State) (core part ctx : Nat) : Bool :=
  core != noCore && (s.core core).buf.any fun e => e.part == part && e.ctx == ctx

/-- Writes of a context have to wait: its log is full, or earlier ones are held (R263, R271). -/
def State.logBlocked (s : State) (part ctx : Nat) : Bool :=
  (s.ctx? part ctx).elim false (·.full) || s.cores.any fun x => x.2.buf.any fun e => e.held != 0 && e.part == part && e.ctx == ctx

/-- A group has an FQGET that issued before an operation and is not matched: what follows it in program order waits for its removal (R214,
R222, R225). -/
def State.fqgetAhead (s : State) (gid ord : Nat) : Bool :=
  (s.group? gid).any fun g => g.loads.any fun o => o.fifo.isSome && decide (o.id < ord)

/-- An entry could take a pass, its partition's share apart (R312). Its first access waits for its group's earlier stores (R222), and a
store waits for its log (R271). -/
def State.mxReady (s : State) (m : Matrix) (x : MxEntry) : Bool :=
  m.head x.gid == some x && !x.hold && (x.front || !s.frozen (teamKey x.grid x.team)) && !x.scaleWait && !x.faultWait
    && (x.op.fifo.elim true fun n => !(s.bank (x.core / 24) n).entries.isEmpty) && !s.fqgetAhead x.gid x.ord
    && !(s.logBlocked x.part x.ctx && (s.buffered x.core x.part x.ctx || x.op.stores))

/-- Pass cycles of a partition in the current interval of 4,096 (R336). -/
def Matrix.taken (m : Matrix) (part : Nat) : Nat := Tbl.get 0 m.partCyc part

/-- The matrix share lets a partition take a pass (R336) (DESIGN CHOICE, log 49). -/
def State.shareOk (s : State) (m : Matrix) (part : Nat) : Bool :=
  let total := (m.partCyc.map (·.2)).sum
  let share (p : Nat) : Nat := ((s.partDesc p).extractLsb' 24 8).toNat * total
  256 * m.taken part ≤ share part || !m.table.any fun y => y.part != part && decide (256 * m.taken y.part < share y.part) && s.mxReady m y

/-- An entry is eligible (R312). -/
def State.mxEligible (s : State) (m : Matrix) (x : MxEntry) : Bool := s.mxReady m x && s.shareOk m x.part

/-- Entries that have become eligible are numbered in post order. One that is not starts anew, but for one that its partition's share
withholds: the passes granted while it was within the share still count (R312, R336). -/
def State.mxRefresh (s : State) (e : Nat) : State :=
  let m := s.mx e
  let r := m.table.foldl (fun (p : List MxEntry × Nat) x =>
    if !s.mxReady m x then (p.1 ++ [{ x with since := 0, aged := 0 }], p.2)
    else if x.since = 0 && s.shareOk m x.part then (p.1 ++ [{ x with since := p.2 + 1 }], p.2 + 1)
    else (p.1 ++ [x], p.2)) ([], m.order)
  s.setMx e { m with table := r.1, order := r.2 }

/-- Every engine looks at its table: a release, a FIFO entry, a freeze or a thaw has changed what is eligible. -/
def State.mxRefreshAll (s : State) : State := s.matrix.foldl (fun t m => t.mxRefresh m.1) s

/-- The class of an entry (R312). -/
def State.mxClass (s : State) (x : MxEntry) : Nat := min 7 ((s.grid? x.grid).elim 0 (·.prio) + x.aged / 8)

/-- The eligible entry of the highest class, and within it the one eligible longest (R312). -/
def State.mxChoose (s : State) (e : Nat) : Option MxEntry :=
  ((s.mx e).table.filter fun x => x.since != 0 && s.shareOk (s.mx e) x.part).foldl (fun best x => match best with
    | none => some x
    | some y => if s.mxClass y < s.mxClass x ∨ (s.mxClass y = s.mxClass x ∧ x.since < y.since) then some x else some y) none

/-! ## Causes and traps (R373-R381) -/

/-- Codes of R373. -/
abbrev cILLOP : Nat := 0x01
abbrev cILLENC : Nat := 0x02
abbrev cILLCLS : Nat := 0x03
abbrev cPRIV : Nat := 0x04
abbrev cIXBND : Nat := 0x05
abbrev cREGBND : Nat := 0x06
abbrev cPAGE : Nat := 0x10
abbrev cACCESS : Nat := 0x11
abbrev cALIGN : Nat := 0x12
abbrev cSCRBND : Nat := 0x13
abbrev cFIFOERR : Nat := 0x14
abbrev cARITH : Nat := 0x20
abbrev cBRK : Nat := 0x21
abbrev cTRAPI : Nat := 0x22
abbrev cPREEMPT : Nat := 0x31
abbrev cBUDGET : Nat := 0x32
abbrev cUNCORR : Nat := 0x40
abbrev cSTKSPILL : Nat := 0x42
abbrev cMATFAULT : Nat := 0x43
abbrev cENGFAULT : Nat := 0x44
abbrev cWATCH : Nat := 0x50
abbrev cHALTED : Nat := 0x61
/-- The model's own: no failure, but the access waits for a line that an engine owns (R224). -/
abbrev cWAIT : Nat := 0x100

/-- The model's own: an engine's access finds no live port to its peer (R409). -/
abbrev cPORT : Nat := 0x101

/-- A trap or fault of the running agent: what its frame says (R376), and its resume point (R374). -/
structure Trap where
  cause : Nat
  fpc : Addr
  fidx : Nat := 0
  addr : Nat := 0
  info : Nat := 0
  done : Lane := 0
  clause : Addr
  ridx : Nat
  deriving DecidableEq, Repr

/-- User kind (R373). -/
def userKind (cause : Nat) : Bool := cause == cARITH || cause == cBRK || cause == cTRAPI || cause == cWATCH

/-- The header address of the open clause, or of the next one. -/
def Group.hdr (g : Group) : Addr :=
  match g.clause with
  | some c => c.hdr
  | none => g.pc

/-- The address of the word the group is at (R49). -/
def Group.wordAddr (g : Group) : Addr := g.hdr + 8 + 8 * BitVec.ofNat 56 g.word

/-- The header of the clause after the open one in memory (R49). -/
def Group.nextHdr (g : Group) : Addr :=
  match g.clause with
  | some c => c.hdr + 8 * (BitVec.ofNat 56 (c.h.cnt.toNat + 2))
  | none => g.pc

/-- An exact fault at the instruction the group is at, which resumes there (R374). -/
def Group.exact (g : Group) (cause : Nat) (addr info : Nat) (done : Lane) : Trap :=
  ⟨cause, g.wordAddr, g.word, addr, info, done, g.hdr, g.word⟩

/-- The resume point after the instruction: its next word, or the next clause where the clause ends (R374). -/
def Group.after (g : Group) : Addr × Nat :=
  match g.clause with
  | some c => if g.word < c.h.cnt.toNat then (c.hdr, g.word + 1) else (g.nextHdr, 31)
  | none => (g.pc, 31)

/-- The sixteen words of a trap frame (R376). BUSY is set where a handler is entered, and clear on the supervisor path (DEDUCED, log 12). -/
def frameWords (g : Group) (t : Trap) (busy nest : Bool) : List Word :=
  [BitVec.ofNat 8 t.cause ++ t.fpc,
   BitVec.ofNat 8 (t.ridx % 32) ++ t.clause,
   g.em ++ t.done,
   BitVec.ofNat 64 t.addr,
   BitVec.ofNat 32 (t.fidx % 32) ++ BitVec.ofNat 32 t.info,
   g.s[63],
   BitVec.ofNat 64 ((if nest then 4 else 0) + (if busy then 2 else 0) + (if g.mmode then 1 else 0))] ++ List.replicate 9 0

/-- Ends the clause for the flags it named: those whose count is zero clear (R52, R55). -/
def Group.endFlags (g : Group) : Group :=
  { g with openSets := [], cf := g.openSets.foldl (fun cf n =>
      vmod cf n fun f => { f with pending := f.count != 0 }) g.cf }

/-- Entry to a handler: the frame's address in `s63`, explicit-mask mode, every live lane, the PC at the handler (R379). A group in a
handler counts as acknowledged for a pre-emption that was asked of it before (R385). -/
def Group.enter (g : Group) (frame : Nat) (handler : Addr) : Group :=
  { g.endFlags with
    s := g.s.set 63 (BitVec.ofNat 64 frame)
    mmode := true, em := g.live, pc := handler, clause := none, word := 0, ahead := none, resume := none, inHandler := true, preempt := false, pend := none
    doneMask := 0, wait := .none }

/-- A team freezes: its entries are not eligible any more (R313). -/
def State.freeze (s : State) (key : Nat) : State :=
  match s.team? key with
  | some t => (s.setTeam key { t with frozen := true }).mxRefreshAll
  | none => s

/-- The rest of a team halts at its next clause boundaries (R51, R368, R381); `brk` says that it halts for the time of a handler. -/
def State.haltTeam (s : State) (key gid : Nat) (brk : Bool) : State :=
  s.mapGroups (fun g => g.inTeam key && g.gid != gid) fun g =>
    let g := if brk then g else { g with brkHalt := false }
    if g.run == .ready then { g with run := if g.clause.isSome then .stopping else .stopped 0, brkHalt := brk } else g

/-- Groups that halted for the time of a handler go on once it returns, those that have a handler of their own to run first (DEDUCED, log 99). -/
def State.unhalt (s : State) (key : Nat) : State :=
  let mine (g : Group) : Bool := g.inTeam key && g.brkHalt
  let own := s.allGroups.any fun g => mine g && g.inHandler
  s.mapGroups (fun g => mine g && (!own || g.inHandler)) fun g =>
    { g with brkHalt := false, ahead := none, run := if g.run == .stopping || g.run == .stopped 0 then .ready else g.run }

/-- The TAG of a supervisor record (R377). -/
def Group.tag (g : Group) : Nat := g.core + g.slot * 2 ^ 9 + g.ctx * 2 ^ 15 + g.part * 2 ^ 21

/-- The record of R377. -/
def State.trapRecord (s : State) (g : Group) (cause : Nat) : BitVec 128 :=
  let l := s.launchOf g
  mkRecord g.tag l.2 l.1 0xFF 3 cause

/-- Where the supervisor-path frame of a group slot lies (R381, R384). -/
def State.frameAt (s : State) (part ctx core slot : Nat) : Nat :=
  ((s.desc part ctx)[7].extractLsb' 22 30).toNat * 2 ^ 22 + 0x100000 + 128 * (64 * core + slot)
def State.supFrame (s : State) (g : Group) : Nat := s.frameAt g.part g.ctx g.core g.slot

/-- The base of a team image slot (R384). -/
def State.imageBase (s : State) (part ctx slot : Nat) : Nat :=
  ((s.desc part ctx)[7].extractLsb' 22 30).toNat * 2 ^ 22 + 2 ^ 22 * (slot + 1)

/-- The image of a group's team (R384). -/
def State.teamImage (s : State) (g : Group) : Nat := s.imageBase g.part g.ctx ((s.team? g.teamKey).elim 0 (·.slotNo))

/-- Where an image holds register `r` of a group, and the window of a team (R384). -/
def State.regImage (s : State) (g : Group) (r : Nat) : Nat := s.teamImage g + 0x120000 + 0x8000 * g.num + 128 * r
def State.windowImage (s : State) (t : Team) : Nat :=
  (s.grid? t.grid).elim 0 fun g => s.imageBase g.part g.ctx t.slotNo + 0x220000

/-- A register's 128 bytes of memory. -/
def Memory.vreg (m : Memory) (a : Nat) : VReg := BitVec.ofNat 1024 (leNat (Memory.read m a 128))
def Memory.setVreg (m : Memory) (a : Nat) (x : VReg) : Memory := Memory.write m a (leBytes x.toNat 128)

/-- The group stops at a resume point; the clause stays open for the flags it named (R55, R374). `noFrame` is 256 for a stop that
writes no frame. -/
def Group.stopAt (g : Group) (t : Trap) (noFrame : Nat := 0) : Group :=
  { g with
    run := .stopped (t.cause + noFrame), pc := t.clause, clause := none, word := 0, ahead := none, pend := none
    resume := if t.ridx = 31 then none else some t.ridx }

/-- The supervisor path (R381) (DEDUCED, log 12). The stores of its completed lanes have performed (R237). -/
def State.supTrap (s : State) (t : Trap) (nest : Bool) : State :=
  let g := s.run
  let s1 := (s.drainBuf g.core).writeWords (s.supFrame g) (frameWords g t false nest)
  let s2 := (s1.setRun (g.stopAt t)).haltTeam g.teamKey g.gid false
  (s2.freeze g.teamKey).postSystem (s.supCl g.part g.ctx) (s.trapRecord g t.cause)

/-- The virtual address of a group's user frame (R379). -/
def State.userFrame (s : State) (g : Group) : Nat :=
  ((s.desc g.part g.ctx)[10].extractLsb' 0 44).toNat * 2 ^ 12 + 128 * (64 * g.core + g.slot)

/-- What became of an entry to a handler: made, or not, for a frame that is busy or cannot be written (R379). -/
inductive Entered where
  | made
  | busy
  | unwritten
  deriving DecidableEq, Repr

/-- Entry to a handler of a compute group through its frame (R379, R380): a frame that cannot be written or is busy gives the state
unchanged. The entry is a device-scope release, so the core's buffer performs first. -/
def State.frameEntry (s : State) (t : Trap) (handler : Addr) : State × Entered :=
  let g := s.run
  let f := s.userFrame g
  match s.translate g.core g.part g.ctx f .wr (!s.isSup g) with
  | (s1, .ok pa) =>
    if region pa == .dev || region pa == .host then
      if (s1.coreByte g.core (pa + 48)).getLsbD 1 then (s1, .busy)
      else (((s1.drainBuf g.core).writeWords pa (frameWords g t true false)).setRun (g.enter f handler) |>.freeze g.teamKey, .made)
    else (s1, .unwritten)
  | (s1, .error _) => (s1, .unwritten)

/-! ## Snapshots (R366) -/

/-- The thermal counters of a stack at a time: the ns that it has spent in HOT and in CAP (R337, R361). -/
def Stack.times (x : Stack) (now : Nat) : Nat × Nat :=
  (x.hotNs + (if x.thermal = .hot then now - x.since else 0), x.capNs + if x.thermal = .cap then now - x.since else 0)

/-- What a trigger latches in every block. -/
def State.snapLatch (s : State) : SnapRegs :=
  { coreCtrs := s.cores.map fun c => (c.1, c.2.ctrs)
    sliceCtrs := s.slices.map fun c => (c.1, c.2.ctrs)
    readings := s.clusters.map fun c => (c.1, c.2.flue, c.2.reading)
    dampers := s.cores.map fun c => (c.1, c.2.flueD, c.2.clusD)
    queues := s.clusters.map fun c => (c.1, c.2.queue.length, c.2.lost)
    tables := s.matrix.map fun c => (c.1, c.2.table.length)
    errors := s.dev.errCount
    engineCtrs := s.engines.map fun c => (c.1, c.2.ctrs)
    mxCtrs := s.matrix.map fun c => (c.1, c.2.ctrs)
    thermal := s.stks.map fun c => (c.1, c.2.times s.time)
    grants := s.matrix.map fun c => (c.1, c.2.grantQ.length)
    commands := s.engines.map fun c => (c.1, c.2.cmds.length)
    blockErrs := s.dev.blockErrs }

/-- The snapshot registers as words, block by block (R366) (DESIGN CHOICE, log 31). -/
def SnapRegs.words (r : SnapRegs) : List Word :=
  let nat (x : Nat) : Word := BitVec.ofNat 64 x
  (r.coreCtrs.flatMap fun c => nat c.1 :: c.2.toList) ++ (r.sliceCtrs.flatMap fun c => nat c.1 :: c.2.toList)
    ++ (r.engineCtrs.flatMap fun c => nat c.1 :: c.2.toList) ++ (r.mxCtrs.flatMap fun c => nat c.1 :: c.2.toList)
    ++ (r.readings.flatMap fun c => nat c.1 :: (c.2.1.toList.map (BitVec.ofInt 64) ++ [BitVec.ofInt 64 c.2.2]))
    ++ (r.dampers.flatMap fun c => [nat c.1, nat c.2.1.den, nat c.2.2.den])
    ++ (r.queues.flatMap fun c => [nat c.1, nat c.2.1, nat c.2.2]) ++ (r.commands.flatMap fun c => [nat c.1, nat c.2])
    ++ (r.tables.flatMap fun c => [nat c.1, nat c.2]) ++ (r.grants.flatMap fun c => [nat c.1, nat c.2])
    ++ (r.thermal.flatMap fun c => [nat c.1, nat c.2.1, nat c.2.2]) ++ (r.blockErrs.flatMap fun c => [nat c.1, nat c.2]) ++ [nat r.errors]

/-- A trigger with its cause bit: it latches where ARM = 1, joins the snapshot of its own tick, and otherwise counts as lost (DEDUCED, log 65). -/
def State.snapTrigger (s : State) (cause : BitVec 4) : State :=
  let n := s.dev.snap
  if n.arm then
    { s with dev := { s.dev with
        snap := { n with gen := n.gen + 1, cause := cause, arm := false }, snapRegs := s.snapLatch, snapAt := some s.time } }
  else if s.dev.snapAt = some s.time then { s with dev := { s.dev with snap := { n with cause := n.cause ||| cause } } }
  else { s with dev := { s.dev with snap := { n with lost := min 255 (n.lost + 1) } } }

/-- A device error triggers a snapshot (R393, R406). -/
def State.deviceError (s0 : State) (cause : Nat) : State :=
  let s := s0.snapTrigger 2
  { s with dev := { s.dev with
      devErr := true, errc := cause, out := s.dev.out ++ [.msix 0, .aer]
      fwStat := if s.dev.upd then 6 else s.dev.fwStat, upd := false, update := .idle } }

/-- The MMIO offset of a core agent's frame (R380). -/
def Group.ctlFrame (g : Group) : Nat :=
  match g.kind with
  | .compute => 0
  | .control k => 0x300000 + 128 * k
  | .scheduler i => 0x300800 + 128 * i

/-- Words of the control and scheduler cores' frames. -/
def putFrame (t : Tbl Word) (off : Nat) : List Word → Tbl Word
  | [] => t
  | w :: ws => putFrame (Tbl.put t off w) (off + 8) ws

/-- Entry to the handler of a control or scheduler core (R380). A busy frame halts a control core with a record to scheduler
core 0, and is a device error on a scheduler core (DEDUCED, log 14) (DESIGN CHOICE, log 22). -/
def State.ctlTrap (s : State) (t : Trap) : State :=
  let g := s.run
  let off := g.ctlFrame
  if (Tbl.get 0 s.dev.frames (off + 48)).getLsbD 1 then
    match g.kind with
    | .scheduler _ => (s.setRun { g with run := .off, clause := none }).deviceError t.cause
    | _ => { s with
        run := { g with run := .off, clause := none }
        dev := { s.dev with schedRecs := s.dev.schedRecs ++ [s.trapRecord g cHALTED] } }
  else
    { s with
      run := g.enter off g.tvt
      dev := { s.dev with frames := putFrame s.dev.frames off (frameWords g t true false) } }

/-- A supervisor-level group whose frame is busy stops, and its record goes to scheduler core 0 (R313, R380); BRK and WATCH halt the rest of
its team (R51, R368). -/
def State.stopBusy (s : State) (t : Trap) : State :=
  let g := s.run
  let s1 := { s with
    run := g.stopAt t 256
    dev := { s.dev with schedRecs := s.dev.schedRecs ++ [s.trapRecord g t.cause] } }
  (if t.cause == cBRK || t.cause == cWATCH then s1.haltTeam g.teamKey g.gid false else s1).freeze g.teamKey

/-- TAKING AN EXCEPTION: every trap and fault of the running agent is delivered here (R378-R381). A trap of user kind enters the handler
at `ctl.tvt`, unless that is 0, the frame is busy or cannot be written, or the debugger takes BRK and WATCH; BRK and WATCH halt the rest of
the team (R51, R368). A trap of system kind goes to the supervisor. A supervisor-level handler that faults stops its group, and a control or
scheduler core has its own frame (DEDUCED, log 15) (DEDUCED, log 75) (DEDUCED, log 99). -/
def State.takeTrap (s : State) (t : Trap) : State :=
  let g := s.run
  let stop := t.cause == cBRK || t.cause == cWATCH
  match g.kind with
  | .compute =>
    if s.isSup g && g.inHandler then s.stopBusy t
    else if userKind t.cause && g.tvt != 0 && !(stop && (s.desc g.part g.ctx)[10].getLsbD 49) then
      match s.frameEntry t g.tvt with
      | (s1, .made) => if stop then s1.haltTeam g.teamKey g.gid true else s1
      | (s1, .busy) => if s.isSup g then s1.stopBusy t else s1.supTrap t true
      | (s1, .unwritten) => s1.supTrap t true
    else s.supTrap t g.inHandler
  | _ => s.ctlTrap t

/-- An exact fault of the instruction the running agent is at. -/
def State.faultExact (s : State) (cause : Nat) (addr : Nat := 0) (info : Nat := 0) (done : Lane := 0) : State :=
  s.takeTrap (s.run.exact cause addr info done)

/-- The words of the running agent's frame at the address in `s63`: a virtual address of a compute group's context, or an MMIO offset of a
control or scheduler core (R379, R380, R399). -/
def State.frameRead (s : State) : State × Except (Nat × Nat) (Nat × List Word) :=
  let g := s.run
  match g.kind with
  | .compute =>
    let f := g.s[63].toNat
    match s.translate g.core g.part g.ctx (f % 2 ^ 56) .wr (!s.isSup g) with
    | (s1, .ok pa) => (s1, .ok (pa, (List.range 16).map fun i =>
        BitVec.ofNat 64 (leNat ((List.range 8).map fun j => s1.coreByte g.core (pa + 8 * i + j)))))
    | (s1, .error e) => (s1, .error e)
  | _ => (s, .ok (g.s[63].toNat, (List.range 16).map fun i => Tbl.get 0 s.dev.frames (g.s[63].toNat + 8 * i)))

/-- The header checks of R72, check 2. -/
def headerOk (w : Word) : Bool := (decodeHeader w).isSome

/-- Reads a word of code for the running agent (R72, check 1); a line that an engine owns makes it wait (R224) (DESIGN CHOICE, log 16). -/
def State.codeWord (s : State) (va : Addr) : State × Except (Nat × Nat) Word :=
  let g := s.run
  match s.translate g.core g.part g.ctx va.toNat .ex (!s.isSup g) with
  | (s1, .ok pa) =>
    if region pa == .dev || region pa == .host then
      if s1.engineOwns (pa / 128 * 128) then (s1, .error (cWAIT, 0)) else (s1, .ok (Memory.word s1.mem pa))
    else (s1, .error (cACCESS, 0))
  | (s1, .error e) => (s1, .error e)

/-- The agent waits at its instruction, and issues it anew. -/
def State.retry (s : State) : State := s.setRun { s.run with wait := .stall }

/-- The team thaws when no group of it is in a handler or stopped (R313). -/
def State.thaw (s : State) (key : Nat) : State :=
  if s.allGroups.any fun g => g.inTeam key && (g.inHandler || (match g.run with
      | .stopped _ => true
      | _ => false)) then s
  else match s.team? key with
    | some t => (s.setTeam key { t with frozen := false }).mxRefreshAll
    | none => s

/-- The trap that the end of a clause brings: DBRK or a watch, the first that came, or the BRK bit (R51, R368, R369, R371) (DEDUCED, log 75). The
group resumes where it would have gone on (R374). -/
def Group.endTrap (g : Group) (c : Clause) (pc : Addr) (ridx : Nat) : Option Trap :=
  match g.pend with
  | some (.brk code) => some ⟨cBRK, pc, 31, 0, code, 0, pc, ridx⟩
  | some (.watch n a i) => some ⟨cWATCH, c.hdr + 8 + 8 * BitVec.ofNat 56 i, i, a, n, 0, pc, ridx⟩
  | none => if c.h.brk then some ⟨cBRK, pc, 31, 0, 0, 0, pc, ridx⟩ else none

/-- The clause of a return ends with it: YLD and what stops the group at its boundary hold there too (R26, R51). -/
def State.endReturn (s : State) (old : Group) : State :=
  match old.clause with
  | none => s
  | some c =>
    let g := s.run
    let s1 := s.setRun { g with pend := none, yielded := false, lastIssue := if c.h.yld || old.yielded then s.turn else g.lastIssue }
    match old.endTrap c g.pc (g.resume.getD 31) with
    | some t => s1.takeTrap t
    | none => s1

/-- THE RETURN FROM AN EXCEPTION (R399, R400): `em`, `ctl.mmode` and `s63` from the frame, BUSY cleared, and the group goes on at
the frame's resume point, or halts there where it was told to (R51, R368). No busy frame gives ILLENC; a bad RIDX or CLAUSE gives ILLCLS
(DEDUCED, log 11). -/
def State.trapReturn (s : State) : State :=
  match s.frameRead with
  | (s1, .error e) => s1.faultExact e.1 s.run.s[63].toNat e.2
  | (s1, .ok (at_, ws)) =>
    let g := s1.run
    let w1 := ws.getD 1 0
    let w6 := ws.getD 6 0
    let ridx := (w1.extractLsb' 56 5).toNat
    let clause : Addr := w1.setWidth 56
    if !w6.getLsbD 1 then s1.faultExact cILLENC
    else if 16 ≤ ridx && ridx ≤ 30 then s1.faultExact cILLCLS clause.toNat
    else
      match s1.codeWord clause with
      | (s2, .error e) => if e.1 = cWAIT then s2.retry else s2.faultExact e.1 clause.toNat e.2
      | (s2, .ok h) =>
        if !headerOk h then s2.faultExact cILLCLS clause.toNat
        else
          let s2 := s2.charge 1
          let g1 := { g.endFlags with
            em := (ws.getD 2 0).extractLsb' 32 32 &&& g.z
            mmode := w6.getLsbD 0
            s := g.s.set 63 (ws.getD 5 0)
            pc := clause, clause := none, word := 0, inHandler := false
            run := if g.run == .stopping then .stopped 0 else g.run
            resume := if ridx = 31 then none else some ridx
            doneMask := if ridx = 31 then 0 else (ws.getD 2 0).setWidth 32 }
          let w6' := w6 &&& ~~~(2 : Word)
          (match g.kind with
            | .compute =>
              let s3 := ((s2.drainBuf g.core).writeWords (at_ + 48) [w6']).setRun g1
              (if g.brkHalt then s3 else s3.unhalt g.teamKey).thaw g.teamKey
            | _ => { s2 with run := g1, dev := { s2.dev with frames := Tbl.put s2.dev.frames (at_ + 48) w6' } }).endReturn g

/-! ## Clocks, and the end of a clause (R25, R26, R51, R175, R350, R356, R361) -/

/-- The groups that are resident on a core. -/
def State.coreGroups (s : State) (n : Nat) : List Group := s.allGroups.filter fun g => g.kind == .compute && g.core == n

/-- The fraction of a core, as its denominator (R349). -/
def Core.den (c : Core) : Nat := max c.flueD.den c.clusD.den

/-- The group's clause is over: its last word is behind it, or the group has ended or stopped. -/
def Group.isOver (g : Group) (c : Clause) : Bool :=
  decide (c.h.cnt.toNat < g.word) || match g.run with
    | .ready | .stopping | .acked _ _ => false
    | .stopped _ | .ended | .off => true

/-- The contexts that have a resident group on a core. -/
def State.ctxsOn (s : State) (n : Nat) : List (Nat × Nat) := ((s.coreGroups n).map fun g => (g.part, g.ctx)).dedup

/-- The cycles of 32 in which a pipe issues for a group: what the damper and the team's ceiling leave (R350). -/
def State.issueLimit (s : State) (g : Group) : Nat := max 1 (min (32 / (s.core g.core).den) ((s.team? g.teamKey).elim 32 (·.ceil)))

/-- The cycles of a cluster's clock since reset (R175, R356). -/
def Cluster.cycles (c : Cluster) (now : Nat) : Nat := (c.clk + (now - c.clkAt) * c.freq) / 1000

/-- The cluster's clock takes another frequency (R356). -/
def Cluster.setFreq (c : Cluster) (now f : Nat) : Cluster := { c with clk := c.clk + (now - c.clkAt) * c.freq, clkAt := now, freq := f }

/-- What `$cyc` reads: the cycles of the clock that have passed with the timer, and those that instructions have taken, for which the timer
stands (R25, R175) (DESIGN CHOICE, log 6). -/
def State.cycOf (s : State) (g : Group) : Word :=
  BitVec.ofNat 64 ((s.cluster g.cluster).cycles s.time) + if g.kind = .compute then (s.core g.core).cyc else Tbl.get 0 s.agentCyc g.gid

/-- The clock cycles of a core are counted for each context that has a resident group on it (event 0x01) (R361) (DESIGN CHOICE, log 6). -/
def State.countClock (s : State) (n : Nat) : State :=
  let now := BitVec.ofNat 64 ((s.cluster (n / 24)).cycles s.time) + (s.core n).cyc
  let k := (now - (s.core n).clocked).toNat
  s.setCore n { (s.ctxsOn n).foldl (fun c x => c.count 0x01 x.1 x.2 k) (s.core n) with clocked := now }

/-- The cycles that the running group's pipe has spent are counted, and those that it loses beside them to the damper or the ceiling (event 0x0B)
(R350, R361) (DESIGN CHOICE, log 6). -/
def State.countCycles (s : State) : State :=
  match s.run.kind with
  | .compute =>
    let n := s.run.core
    let k := ((s.core n).cyc - (s.core n).counted).toNat
    let l := s.issueLimit s.run
    let s1 := s.countClock n
    s1.setCore n { (s1.core n).count 0x0B s.run.part s.run.ctx (k * (32 - l) / l) with counted := (s1.core n).cyc }
  | _ => s

/-- The group at the boundary after a clause: the flags that the clause named end with it, YLD makes it count as having just issued, and
a group that was told to halt halts (R26, R52, R368, R381). -/
def Group.closed (g : Group) (c : Clause) (now : Nat) : Group :=
  { g.endFlags with
    clause := none, word := 0, doneMask := 0, pend := none, yielded := false
    lastIssue := if c.h.yld || g.yielded then now else g.lastIssue
    run := if g.run == .stopping then .stopped 0 else g.run }

/-- THE END OF A CLAUSE. -/
def State.endClause (s : State) (c : Clause) : State :=
  let g := s.run
  let s1 := s.countCycles.setRun (g.closed c s.turn)
  match g.run with
  | .ready | .stopping | .acked _ _ =>
    match g.endTrap c g.pc 31 with
    | some t => s1.takeTrap t
    | none => s1
  | .stopped _ | .ended | .off => s1

end Sys2Proof.Machine
end

