-- ==== Sys2Proof/Machine/Operands.lean ====
section
/-! DEFINITION. The operand forms: which registers a word names and how each is checked (R89, R90), how lanes are read and
written (R91, R102, R234), and how a vector instruction completes through WriteResult and the reuse table (R75, R83-R86). -/

namespace Sys2Proof.Machine

/-! ## Registers that an instruction names -/

/-- A vector operand: first register, how many, whether it is indexed, whether it is used whatever `em` holds (R90), and
whether it is the destination. -/
structure VOp where
  r : RegNo
  n : Nat := 1
  ix : Bool := false
  always : Bool := false
  dst : Bool := false
  deriving DecidableEq, Repr

/-- The vector operand of a field that may name a scalar instead. -/
def Opnd.vop (o : Opnd) (n : Nat) : List VOp :=
  match o with
  | .v r => [⟨r, n, false, false, false⟩]
  | .s _ => []

/-- The scalar position of a field that may name a vector register instead. -/
def Opnd.sop (o : Opnd) : List SPos :=
  match o with
  | .v _ => []
  | .s p => [p]

/-- Registers of an operand of a type: two for a pair (R66). -/
def tyRegs (t : Ty) : Nat := if t.isPair then 2 else 1

/-- A, B and D of an elementwise instruction. -/
def elemOps (t : Ty) (d a : RegNo) (rest : List VOp) (m : VMode) : List VOp :=
  ⟨a, tyRegs t, m.ia, false, false⟩ :: rest ++ [⟨d, tyRegs t, m.id, false, true⟩]

/-- The vector register of a compare's destination. -/
def CmpDst.vop (d : CmpDst) (t : Ty) (m : VMode) : List VOp :=
  match d with
  | .mask _ _ => []
  | .vec r => [⟨r, tyRegs t, m.id, false, true⟩]

def RedDst.vop (d : RedDst) (t : Ty) : List VOp :=
  match d with
  | .v r => [⟨r, tyRegs t, false, false, true⟩]
  | .s _ => []

/-- The registers of a memory instruction's address: a pair for per-lane global addresses (R233). -/
def Base.vop (b : Base) (global : Bool) : List VOp :=
  match b with
  | .vec a => [⟨a, if global then 2 else 1, false, false, false⟩]
  | .sca _ i => if i = 0 then [] else [⟨i, 1, false, false, false⟩]

def ABase.vop (b : ABase) (global : Bool) : List VOp :=
  match b with
  | .vec a => [⟨a, if global then 2 else 1, false, false, false⟩]
  | .sca _ => []

/-- The vector operands of an instruction, in the order A, B, C, D (R90). -/
def vops : Instr → List VOp
  | .bdv _ a _ _ => [⟨a, 1, false, false, false⟩]
  | .emset _ (.v b) _ => [⟨b, 1, false, true, false⟩]
  | .vote _ _ a _ => [⟨a, 1, false, false, false⟩]
  | .smovLane wide _ a _ _ => [⟨a, if wide then 2 else 1, false, true, false⟩]
  | .srd _ (.vec wide d) _ => [⟨d, if wide then 2 else 1, false, false, true⟩]
  | .vadd t _ d a b m | .vsub t _ d a b m => elemOps t d a (Opnd.vop b (tyRegs t)) m
  | .vmul t _ _ d a b m => elemOps t d a (Opnd.vop b (tyRegs t)) m
  | .vmad t _ d a b c m | .vdot t _ d a b c m | .vsel t d a b c m =>
      elemOps t d a (Opnd.vop b (tyRegs t) ++ Opnd.vop c (tyRegs t)) m
  | .vlog wide d a b c _ m =>
      let n := if wide then 2 else 1
      elemOps (if wide then .s64 else .b32) d a (Opnd.vop b n ++ Opnd.vop c n) m
  | .vshf t _ _ _ d a b m => elemOps t d a (Opnd.vop b (tyRegs t)) m
  | .vcmp t _ d a b m => ⟨a, tyRegs t, m.ia, false, false⟩ :: Opnd.vop b (tyRegs t) ++ CmpDst.vop d t m
  | .vmin t op d a b c m =>
      elemOps t d a (Opnd.vop b (tyRegs t) ++ if op = .clmp then Opnd.vop c (tyRegs t) else []) m
  | .vuni t _ _ d a m => elemOps t d a [] m
  | .vbit t ins d a b c m =>
      elemOps t d a (Opnd.vop b (tyRegs t) ++ if ins then Opnd.vop c (tyRegs t) else []) m
  | .vmov wide d (.v a) m => elemOps (if wide then .s64 else .b32) d a [] m
  | .vmov wide d (.s _) _ => [⟨d, if wide then 2 else 1, false, false, true⟩]
  | .vmovi t d _ => [⟨d, tyRegs t, false, false, true⟩]
  | .vnrw t _ _ d a b _ m =>
      ⟨a, if t = .s32 ∨ t = .n32 then 2 else 1, m.ia, false, false⟩ :: Opnd.vop b 1 ++ [⟨d, 1, m.id, false, true⟩]
  | .vidx wide _ d _ => [⟨d, if wide then 2 else 1, false, false, true⟩]
  | .fadd t _ _ d a b m | .fsub t _ _ d a b m | .fmul t _ _ d a b m | .fdiv t _ _ d a b m =>
      elemOps t d a (Opnd.vop b (tyRegs t)) m
  | .fmin t _ d a b m => elemOps t d a (Opnd.vop b (tyRegs t)) m
  | .ffma t _ _ _ _ d a b c m => elemOps t d a (Opnd.vop b (tyRegs t) ++ Opnd.vop c (tyRegs t)) m
  | .fcmp t _ d a b m => ⟨a, tyRegs t, m.ia, false, false⟩ :: Opnd.vop b (tyRegs t) ++ CmpDst.vop d t m
  | .fcls t d a _ m => ⟨a, tyRegs t, m.ia, false, false⟩ :: CmpDst.vop d t m
  | .frcp t _ _ d a m | .frsq t _ _ d a m | .fsqt t _ _ d a m | .fex2 t _ _ d a m | .flg2 t _ _ d a m =>
      elemOps t d a [] m
  | .ftrg t _ _ _ d a m => elemOps t d a [] m
  | .fcvt dst src _ _ d a _ _ => [⟨a, tyRegs src, false, false, false⟩, ⟨d, tyRegs dst, false, false, true⟩]
  | .icvt dst src _ _ _ d a _ _ => [⟨a, tyRegs src, false, false, false⟩, ⟨d, tyRegs dst, false, false, true⟩]
  | .dadd _ _ _ d a b _ | .dmul _ _ d a b _ => elemOps .f64 d a (Opnd.vop b 2) {}
  | .dfma _ _ _ _ d a b c _ => elemOps .f64 d a (Opnd.vop b 2 ++ Opnd.vop c 2) {}
  | .scvn _ _ _ d a b _ _ | .scvw _ _ _ d a b _ _ => elemOps .b32 d a (Opnd.vop b 1) {}
  | .kadd _ _ a _ => [⟨a, 1, false, false, false⟩]
  | .krnd t _ _ _ _ d _ => RedDst.vop d t
  | .kscn _ _ _ _ _ d a _ => [⟨a, 1, false, false, false⟩, ⟨d, 1, false, false, true⟩]
  | .kmovGet _ d _ => [⟨d, 1, false, false, true⟩]
  | .kmovSet _ a _ => [⟨a, 1, false, true, false⟩]
  | .ixset _ a b _ => ⟨a, 1, false, false, false⟩ :: Opnd.vop b 1
  | .ixadd _ b _ _ => Opnd.vop b 1
  | .shfl wide _ d a b fill _ =>
      let n := if wide then 2 else 1
      ⟨a, n, false, false, false⟩ :: Opnd.vop b 1 ++ (fill.elim [] (Opnd.vop · n)) ++ [⟨d, n, false, false, true⟩]
  | .slide wide _ _ d a b _ _ =>
      let n := if wide then 2 else 1
      ⟨a, n, false, false, false⟩ :: Opnd.vop b n ++ [⟨d, n, false, false, true⟩]
  | .bcst wide d a _ _ =>
      let n := if wide then 2 else 1
      [⟨a, n, false, false, false⟩, ⟨d, n, false, false, true⟩]
  | .gred t _ _ d a _ => ⟨a, tyRegs t, false, false, false⟩ :: RedDst.vop d t
  | .gscn t _ _ _ d a _ => [⟨a, tyRegs t, false, false, false⟩, ⟨d, tyRegs t, false, false, true⟩]
  | .perm _ _ d a b c _ =>
      [⟨a, 1, false, false, false⟩, ⟨b, 1, false, false, false⟩, ⟨c, 1, false, false, false⟩, ⟨d, 1, false, false, true⟩]
  | .ld sz _ _ _ _ _ _ d base _ => Base.vop base true ++ [⟨d, sz.regs, false, false, true⟩]
  | .lds sz _ _ _ d base _ => Base.vop base false ++ [⟨d, sz.regs, false, false, true⟩]
  | .st sz _ _ _ d base _ => Base.vop base true ++ [⟨d, sz.regs, false, false, false⟩]
  | .sts sz _ _ d base _ => Base.vop base false ++ [⟨d, sz.regs, false, false, false⟩]
  | .atom _ wide spad _ _ _ _ d base b _ =>
      let n := if wide then 2 else 1
      ABase.vop base (!spad) ++ [⟨b, n, false, false, false⟩, ⟨d, n, false, false, true⟩]
  | .atmf fn sz _ _ _ _ d base b _ =>
      ABase.vop base true ++ ⟨b, sz.regs, false, false, false⟩ ::
        (if fn = .exact ∨ fn = .exactb then [] else [⟨d, sz.regs, false, false, true⟩])
  | .prf _ base _ => Base.vop base true
  | .cmnt _ base _ => Base.vop base true
  | .fqput d _ => [⟨d, 8, false, false, false⟩]
  | .fqget d _ => [⟨d, 8, false, false, true⟩]
  | .mlda _ a => [⟨a, 34, false, true, false⟩]
  | _ => []

/-- Scalar positions of the second operand of scalar arithmetic. -/
def SOp.pos? : SOp → List SPos
  | .imm _ => []
  | .pos p => [p]

def TOp.pos? : TOp → List SPos
  | .imm _ => []
  | .pos p => [p]

def MCnt.pos? : MCnt → List SPos
  | .imm _ => []
  | .pos p => [p]

def Base.pos? : Base → List SPos
  | .vec _ => []
  | .sca a _ => [a]

def ABase.pos? : ABase → List SPos
  | .vec _ => []
  | .sca a => [a]

/-- The scalar positions an instruction reads or writes (R25). -/
def sops : Instr → List SPos
  | .brx a | .ret a => [.s a]
  | .brc _ a _ => [a]
  | .call d _ => [.s d]
  | .emsav d _ => [d]
  | .emset _ b _ => Opnd.sop b
  | .mlog d a b c _ _ => [d, a, b, c]
  | .vote _ d _ _ => [d]
  | .sadd _ d a b | .ssub _ d a b | .scmp _ d a b => [d, a] ++ SOp.pos? b
  | .smul _ _ d a b | .smin _ _ d a b | .sdiv _ _ d a b => [d, a] ++ SOp.pos? b
  | .slog _ d a b => [d, a] ++ SOp.pos? b
  | .sshf _ _ d a b => [d, a] ++ SOp.pos? b
  | .sbit _ _ d a b => [d, a] ++ SOp.pos? b
  | .smov d b _ => [d, b]
  | .smovLane _ d _ _ _ => [.s d]
  | .smovi _ _ d _ => [d]
  | .ssel d a b c _ => [d, a, b, c]
  | .srd _ (.sca d) _ => [.s d]
  | .swr _ _ b _ => [b]
  | .sld _ _ _ _ _ _ d a _ => [.s d, a]
  | .sst _ _ _ _ d a _ => [.s d, a]
  | .vadd _ _ _ _ b _ | .vsub _ _ _ _ b _ => Opnd.sop b
  | .vmul _ _ _ _ _ b _ => Opnd.sop b
  | .vmad _ _ _ _ b c _ | .vdot _ _ _ _ b c _ => Opnd.sop b ++ Opnd.sop c
  | .vsel _ _ _ b c _ => Opnd.sop b ++ Opnd.sop c
  | .vlog _ _ _ b c _ _ => Opnd.sop b ++ Opnd.sop c
  | .vshf _ _ _ _ _ _ b _ => Opnd.sop b
  | .vcmp _ _ (.mask k _) _ b _ => .m k :: Opnd.sop b
  | .vcmp _ _ (.vec _) _ b _ => Opnd.sop b
  | .vmin _ _ _ _ b c _ => Opnd.sop b ++ Opnd.sop c
  | .vbit _ _ _ _ b c _ => Opnd.sop b ++ Opnd.sop c
  | .vmov _ _ b _ => Opnd.sop b
  | .vnrw _ _ _ _ _ b _ _ => Opnd.sop b
  | .fadd _ _ _ _ _ b _ | .fsub _ _ _ _ _ b _ | .fmul _ _ _ _ _ b _ | .fdiv _ _ _ _ _ b _ => Opnd.sop b
  | .ffma _ _ _ _ _ _ _ b c _ => Opnd.sop b ++ Opnd.sop c
  | .fmin _ _ _ _ b _ => Opnd.sop b
  | .fcmp _ _ (.mask k _) _ b _ => .m k :: Opnd.sop b
  | .fcmp _ _ (.vec _) _ b _ => Opnd.sop b
  | .fcls _ (.mask k _) _ c _ => [.m k, c]
  | .dadd _ _ _ _ _ b _ => Opnd.sop b
  | .dmul _ _ _ _ b _ => Opnd.sop b
  | .dfma _ _ _ _ _ _ b c _ => Opnd.sop b ++ Opnd.sop c
  | .scvn _ _ _ _ _ b _ _ | .scvw _ _ _ _ _ b _ _ => Opnd.sop b
  | .krnd _ _ _ _ _ (.s d) _ => [.s d]
  | .fsrGet d _ => [.s d]
  | .fsrSet b _ | .fsrClr b _ | .fsrOr b _ => [b]
  | .ixset _ _ b _ => Opnd.sop b
  | .ixadd _ b _ _ => Opnd.sop b
  | .shfl _ _ _ _ b fill _ => Opnd.sop b ++ fill.elim [] Opnd.sop
  | .slide _ _ _ _ _ b _ _ => Opnd.sop b
  | .bcst _ _ _ (.sca p) _ => [p]
  | .gred _ _ _ (.s d) _ _ => [.s d]
  | .ld _ _ _ _ _ _ _ _ base _ => Base.pos? base
  | .st _ _ _ _ _ base _ => Base.pos? base
  | .lds _ _ _ _ _ base _ => Base.pos? base
  | .sts _ _ _ _ base _ => Base.pos? base
  | .atom _ _ _ _ _ _ _ _ base _ _ => ABase.pos? base
  | .atmf _ _ _ _ _ _ _ base _ _ => ABase.pos? base
  | .prf _ base _ => Base.pos? base
  | .cmnt _ base _ => Base.pos? base
  | .fqput _ a | .fqget _ a => [a]
  | .bankRequest _ d b _ => [.s d, b]
  | .bankQuery d b _ => [.s d, b]
  | .bar _ c _ | .barv _ c _ => c.toList
  | .evwt _ _ _ _ _ _ d a b _ => [.s d, a, b]
  | .evps d a b c _ => [.s d, a, b, c]
  | .nap n => TOp.pos? n
  | .balBurn x | .balShunt x | .balMatch x | .balCeil x => TOp.pos? x
  | .wmark d _ | .snap d _ => [.s d]
  | .mma _ _ _ a c sid => [.s a, .s c, .s sid]
  | .mmal _ _ _ _ _ a n c sid => [.s a, .s c, .s sid] ++ MCnt.pos? n
  | .mdrn _ _ _ a | .mfil _ _ _ a => [.s a]
  | .msts _ _ _ _ a c => [.s a, .s c]
  | .mscl _ a n sid => [.s a, .s sid] ++ MCnt.pos? n
  | .msta _ _ d => [.s d]
  | .cpy _ _ _ _ d a b _ => [.s d, a, b]
  | .gath _ _ _ d a b c _ | .scat _ _ _ d a b c _ => [.s d, a, b, c]
  | .bin _ _ d a b c _ => [.s d, a, b, c]
  | .ptch _ _ _ d a b c _ => [.s d, a, b, c]
  | .rlse _ _ d _ => [.s d]
  | .coll _ _ d a b c _ => [.s d, a, b, c]
  | .lnch _ d a _ => [.s d, a]
  | .ecan d a _ => [.s d, a]
  | .ecanSlot _ d _ => [.s d]
  | .eqrd d _ | .eqrdWait d _ => [.s d, .s (d + 1)]
  | .tlbiRng a b => [.s a, .s b]
  | .tlbiAsid b => [.s b]
  | .ctxsStop d a | .ctxsSave d a | .ctxsEvict d a | .ctxlResume d a | .ctxlKill d a | .ctxlEres d a | .ctxlEfail d a
  | .rwndCmt d a | .haltOff d a | .haltOn d a => [.s d, .s a]
  | .ctxsTeam d a b | .ctxlCreate d a b | .ctxlUpd d a b | .rwndChk d a b | .pcfg d a b => [.s d, .s a, .s b]
  | .rwnd _ d a b => [.s d, .s a, .s b]
  | .tret | .prackRet => [.s 63]
  | .prack _ b => [.s b]
  | _ => []

/-! ## Register checks (R89, R90) -/

/-- The index and the bound of index register `k` in lane `t` (R89). -/
def Group.ixIndex (g : Group) (k : BitVec 2) (t : Nat) : Nat := ((lane g.ix[k.toNat] t).extractLsb' 0 16).toNat
def Group.ixBound (g : Group) (k : BitVec 2) (t : Nat) : Nat := ((lane g.ix[k.toNat] t).extractLsb' 16 16).toNat

/-- The register number of an operand in lane `t` (R89) (DEDUCED, log 7). -/
def Group.opReg (g : Group) (k : BitVec 2) (ix : Bool) (r : RegNo) (t : Nat) : Nat :=
  if ix then r.toNat + g.ixIndex k t else r.toNat

/-- The checks of one operand: in each lane, lowest first, IXBND and then REGBND (R90) (DEDUCED, log 80). -/
def Group.checkOp (g : Group) (k : BitVec 2) (o : VOp) : Option Nat :=
  (if o.always then List.range 32 else activeLanes g.em).findSome? fun t =>
    if o.ix && decide (g.ixBound k t ≤ g.ixIndex k t) then some cIXBND
    else if g.budget < g.opReg k o.ix o.r t + o.n then some cREGBND
    else none

/-- The index register that a word of V format names. -/
def ixnOf (i : Instr) : BitVec 2 :=
  match encode i with
  | some w => fld w 9 2
  | none => 0

/-- The first operand check that fails, in the order A, B, C, D (R90) (DEDUCED, log 80). -/
def regFault (g : Group) (i : Instr) : Option Nat := (vops i).findSome? (g.checkOp (ixnOf i))

/-- Runs the rest of a meaning where the register checks pass, and takes the exact fault where one fails (R90). A control or scheduler core has
no vector registers: an SRD or SMOV there that names one is checked against a budget of 8 (R182) (DESIGN CHOICE, log 101). -/
def State.checked (s : State) (i : Instr) (k : State → State) : Host.Outcome State Fault Refusal :=
  match regFault s.run i with
  | some c => .next (s.faultExact c)
  | none => .next (k s)

/-- A register that the group's outstanding operation `o` has still to write (R25). -/
def LoadOp.writes (o : LoadOp) (g : Group) (i : Instr) : Bool :=
  match o.dst with
  | .vec d _ vals => (vops i).any fun x => (List.range 32).any fun t =>
      let r := g.opReg (ixnOf i) x.ix x.r t
      r < d.toNat + vals.length && d.toNat < r + x.n
  | .sca d _ => (sops i).contains (.s d)
  | .none => false

/-! ## Lanes of operands (R102, R141) -/

/-- A 32-bit operand in lane `t`: a register's lane, or the low 32 bits of a scalar in every lane. -/
def Group.op32 (g : Group) (o : Opnd) (t : Nat) : Lane :=
  match o with
  | .v r => lane (g.reg r.toNat) t
  | .s p => (g.pos p).setWidth 32

/-- A 64-bit operand in lane `t`: a pair's lane, or a scalar in every lane (R102). -/
def Group.op64 (g : Group) (o : Opnd) (t : Nat) : Word :=
  match o with
  | .v r => g.lane64 r.toNat t
  | .s p => g.pos p

/-- Operand A in lane `t`, through the index register where IA is set. -/
def Group.a32 (g : Group) (a : RegNo) (m : VMode) (t : Nat) : Lane := lane (g.reg (g.opReg m.ixn m.ia a t)) t
def Group.a64 (g : Group) (a : RegNo) (m : VMode) (t : Nat) : Word := g.lane64 (g.opReg m.ixn m.ia a t) t

/-- The writes of a 32-bit result: one register, or with ID each register that an active lane names, in ascending order (R76,
R89, R91). With no lane active nothing is written (DEDUCED, log 10). -/
def Group.put32 (g : Group) (d : RegNo) (m : VMode) (f : Nat → Lane) : List (Nat × VReg) :=
  if g.em = 0 then []
  else if m.id then
    (List.range 256).filterMap fun r =>
      let mask := mkMask fun t => g.em.getLsbD t && g.opReg m.ixn true d t == r
      if mask = 0 then none else some (r, mergeLanes mask (mkLanes f) (g.reg r))
  else [(d.toNat, mergeLanes g.em (mkLanes f) (g.reg d.toNat))]

/-- The writes of a 64-bit result: `vd` and `v(d+1)`, or with ID the pair that each active lane names, in ascending order (R76, R89,
R91, R94) (DEDUCED, log 10). -/
def Group.put64 (g : Group) (d : RegNo) (m : VMode) (f : Nat → Word) : List (Nat × VReg) :=
  if g.em = 0 then []
  else if m.id then
    (List.range 256).filterMap fun r =>
      let lo := mkMask fun t => g.em.getLsbD t && g.opReg m.ixn true d t == r
      let hi := mkMask fun t => g.em.getLsbD t && g.opReg m.ixn true d t + 1 == r
      if lo ||| hi = 0 then none
      else some (r, mergeLanes (lo ||| hi)
        (mkLanes fun t => if lo.getLsbD t then (f t).setWidth 32 else (f t).extractLsb' 32 32) (g.reg r))
  else [(d.toNat, mergeLanes g.em (mkLanes fun t => (f t).setWidth 32) (g.reg d.toNat)),
        (d.toNat + 1, mergeLanes g.em (mkLanes fun t => (f t).extractLsb' 32 32) (g.reg (d.toNat + 1)))]

/-- Applies writes to the register map's contents. -/
def setRegs (v : Vector VReg 256) : List (Nat × VReg) → Vector VReg 256
  | [] => v
  | (r, x) :: ws => setRegs (v.setIfInBounds r x) ws

/-! ## Completion of a vector instruction (R75, R83-R86) -/

/-- The instruction word of a reuse key: D and every field that names a vector register cleared (R83). In L format those are D, the
address register where it is no scalar, and the index register (R62, R233). -/
def keyWord (w : Word) : Word :=
  let a : Word := 0xFFFF <<< 40
  if 0x60 ≤ opcode w then
    if w.getLsbD 24 then w &&& ~~~(0xFF00FF <<< 32 : Word) else w &&& ~~~a
  else
  let b : Word := if w.getLsbD 15 then 0 else 0xFF <<< 32
  let c : Word := if w.getLsbD 14 then 0 else 0xFF <<< 24
  if fld w 56 8 = 0x2D then w &&& ~~~a else w &&& ~~~(a ||| b ||| c)

/-- The rounding mode that an RM field gives, `dyn` resolved from `ctl.rm` (R128). -/
def Group.rmOf (g : Group) (r : Rm) : Rm := if r = .dyn then Rm.ofCode g.rm else r

/-- Opcodes whose words round under the RM field (R140). -/
def roundsWith (w : Word) : Bool :=
  let op := (fld w 56 8).toNat
  op == 0x2E || (0x30 ≤ op && op ≤ 0x44)

/-- An instruction that may look up and install (R84): its word, and the group that executes it. -/
def Group.eligible (g : Group) (i : Instr) (w : Word) : Bool :=
  let op := (fld w 56 8).toNat
  let vform := (0x20 ≤ op && op ≤ 0x2F) || (0x30 ≤ op && op ≤ 0x44) || (0x50 ≤ op && op ≤ 0x55)
  let plain := op == 0x2D || (!w.getLsbD 13 && !w.getLsbD 12 && !w.getLsbD 11)
  let sr := roundsWith w && g.rmOf (Rm.ofCode (fld w 16 3)) == .rsr
  let special := match i with
    | .vidx _ mode _ _ => mode != .lane
    | .vmov _ _ (.v _) _ => g.em == 0xFFFFFFFF
    | _ => false
  vform && plain && !sr && !special && g.em != 0

/-- An instruction that writes only some elements of its destination, which is then a source of its key (R104, R144, R155). -/
def keepsElements : Instr → Bool
  | .vnrw _ _ _ _ _ _ _ _ => true
  | .fcvt dst src _ _ _ _ _ _ => decide (src.elems < dst.elems)
  | .icvt dst src _ _ _ _ _ _ _ => decide (src.elems < dst.elems)
  | .scvn _ _ _ _ _ _ _ _ => true
  | _ => false

/-- The contents that name the vector sources of an instruction, each register of a pair on its own; the old destination is one where
only some of its elements are written (R83, R104, R144). -/
def Group.keySrcs (g : Group) (i : Instr) : List VReg :=
  ((vops i).filter fun o => !o.dst || keepsElements i).flatMap fun o => (List.range o.n).map fun k => g.reg (o.r.toNat + k)

/-- The values of the scalar sources (R83). -/
def Group.keyScas (g : Group) (i : Instr) : List Word := (sops i).map g.pos

/-- The key of the `k`-th destination register (R83). -/
def Group.reuseKey (g : Group) (i : Instr) (w : Word) (tag : Option Nat) (k r : Nat) : ReuseKey :=
  { word := keyWord w, piece := k, vsrc := g.keySrcs i, ssrc := g.keyScas i, em := g.em
    old := if g.em = 0xFFFFFFFF then none else some (g.reg r)
    rm := if roundsWith w then (g.rmOf (Rm.ofCode (fld w 16 3))).code.toNat else 0
    tag := tag, part := g.part, ctx := g.ctx }

/-- The exclusive-or of the bytes of a number of `n` bytes. -/
def foldBytes : Nat → Nat → Nat
  | 0, _ => 0
  | n + 1, x => (x % 256) ^^^ foldBytes n (x / 256)

/-- The set of the reuse table that a key falls in: the exclusive-or of the bytes of its word and of its sources (R83) (DESIGN CHOICE, log 8). -/
def ReuseKey.set (k : ReuseKey) : Nat :=
  (k.vsrc.map fun v => foldBytes 128 v.toNat).foldl (· ^^^ ·) ((k.ssrc.map fun w => foldBytes 8 w.toNat).foldl (· ^^^ ·) (foldBytes 8 k.word.toNat))

/-- Installs an entry, replacing one with the same key, or the least recently used of a full set of eight ways (R83). While
the table holds fewer than eight entries no set is full. -/
def Core.installReuse (c : Core) (e : ReuseEntry) : Core :=
  let rest := c.reuse.filter (·.key != e.key)
  let out :=
    if rest.length < 8 then rest
    else
      let mine := rest.filter fun x => x.key.set == e.key.set
      if mine.length < 8 then rest
      else
        match mine.foldl (fun (b : Option ReuseEntry) x => match b with
            | none => some x
            | some y => if x.used < y.used then some x else some y) none with
        | some y => rest.filter (· != y)
        | none => rest
  { c with reuse := e :: out, stamp := c.stamp + 1 }

/-- The WriteResults of an instruction that misses, in ascending order, and its installs, which are dropped where a result was
written in place into a register that a key names (R75, R85). A key that names a register which those results released is installed all the
same, under the contents the register had (DESIGN CHOICE, log 92). -/
def State.missBook (s : State) (ws : List (Nat × VReg)) (keys : List (ReuseKey × VReg)) (flags : Lane) : State :=
  let g := s.run
  let r := ws.foldl (fun (t : State × List VReg) x =>
    match t.1.writeResult x.1 x.2 false with
    | (t1, inPlace) => (t1, if inPlace then g.reg x.1 :: t.2 else t.2)) (s, [])
  let drop := keys.any fun k => r.2.any fun o => k.1.vsrc.contains o || k.1.old == some o
  if drop then r.1
  else if keys.isEmpty then r.1
  else (r.1.setCore g.core (keys.foldl (fun c k => c.installReuse ⟨k.1, k.2, flags, c.stamp⟩) (r.1.core g.core))).freeRegs g.core

/-- What a vector instruction's completion does to the cores and the undo logs: the lookup, a hit's shares, or the WriteResults in
ascending order with the SPILL records of evicted registers, and the installs (R75, R80, R83-R86), and its pipe cycles (R25).
Nothing else of the machine changes. A control or scheduler core has no storage, and nothing is booked there (DESIGN CHOICE, log 101). -/
def State.vecBook (s : State) (i : Instr) (ws : List (Nat × VReg)) (flags : Lane) (cyc : Nat) : Tbl Core × Tbl Ctx :=
  let g := s.run
  let w := (encode i).getD 0
  let keys := if g.eligible i w then ws.zipIdx.map fun x => (g.reuseKey i w none x.2 x.1.1, x.1.2) else []
  let c := s.core g.core
  if g.kind != .compute then (s.cores, s.ctxs)
  else if !keys.isEmpty && keys.all (fun k => c.reuse.any (·.key == k.1)) then
    let s1 := ws.foldl (fun t x => (t.writeResult x.1 x.2 true).1) s
    let c1 := s1.core g.core
    let c2 := { c1 with
      reuse := c1.reuse.map fun (e : ReuseEntry) => if keys.any (·.1 == e.key) then { e with used := c1.stamp } else e
      stamp := c1.stamp + 1, cyc := c1.cyc + 2 }
    ((s1.setCore g.core (c2.count 0x03 g.part g.ctx 1)).cores, s1.ctxs)
  else
    let s1 := s.missBook ws keys flags
    let c1 := s1.core g.core
    ((s1.setCore g.core { c1 with cyc := c1.cyc + BitVec.ofNat 64 cyc }).cores, s1.ctxs)

/-- COMPLETION OF A VECTOR INSTRUCTION: its registers are written, its flags raised, and the group goes on to the next word. -/
def State.vecDone (s : State) (i : Instr) (ws : List (Nat × VReg)) (flags : Lane) (cyc : Nat) : State :=
  let b := s.vecBook i ws flags cyc
  { s with
    cores := b.1
    ctxs := b.2
    run := { s.run with v := setRegs s.run.v ws, fsr := s.run.fsr ||| flags, word := s.run.word + 1 } }

/-- Completion of an instruction that changes the group's own state and no vector register. -/
def State.done (s : State) (g : Group) (cyc : Nat) : State :=
  { s.charge cyc with run := { g with word := s.run.word + 1 } }

/-- Pipe cycles of most vector instructions: one for each active lane, and at least one (R25). -/
def Group.cyc (g : Group) : Nat := max 1 (popMask g.em)

/-- Pipe cycles of FP64 arithmetic, and of the four-cycle functions (R25). -/
def Group.cycN (g : Group) (n : Nat) : Nat := max 1 (n * popMask g.em)

end Sys2Proof.Machine
end

