-- ==== Sys2Proof/Machine/Control.lean ====
section
/-! DEFINITION. Registers IV: control transfers, the reconvergence stack, masks, flags, traps (R168-R172, R184-R192). -/

namespace Sys2Proof.Machine

/-! ## Control transfers (R72, R184) -/

/-- A fault of a taken transfer: it names the target and resumes at the branching instruction (R72, R184) (DEDUCED, log 13). -/
def Group.branchFault (g : Group) (cause : Nat) (target : Word) (info : Nat) : Trap :=
  ⟨cause, target.setWidth 56, 31, target.toNat, info, 0, g.hdr, g.word⟩

/-- The test of a target's header word before a transfer changes any state (R72): a register target must have bits [2:0] and
[63:56] zero. The rest `k` runs where it passes. -/
def State.toTarget (s : State) (target : Word) (k : State → State) : State :=
  if target.extractLsb' 0 3 != 0 || target.extractLsb' 56 8 != 0 then s.takeTrap (s.run.branchFault cILLCLS target 0)
  else
    match s.codeWord (target.setWidth 56) with
    | (s1, .error e) => if e.1 = cWAIT then s1.retry else s1.takeTrap (s1.run.branchFault e.1 target e.2)
    | (s1, .ok h) => if headerOk h then k s1 else s1.takeTrap (s1.run.branchFault cILLCLS target 0)

/-- The target of an offset in 8-byte units from the clause's header (R60). -/
def Group.target (g : Group) (off : BitVec 16) : Word := (g.hdr + 8 * off.signExtend 56).setWidth 64

/-- The transfer itself. -/
def State.jump (s : State) (target : Word) : State := s.done { s.run with pc := target.setWidth 56 } 1

def execNop (_nr : Bool) (s : State) : Host.Outcome State Fault Refusal := .next (s.done s.run 1)

def execBra (off : BitVec 16) (s : State) : Host.Outcome State Fault Refusal :=
  let t := s.run.target off
  .next (s.toTarget t (·.jump t))

def execBrx (a : SReg) (s : State) : Host.Outcome State Fault Refusal :=
  let t := s.run.pos (.s a)
  .next (s.toTarget t (·.jump t))

def execRet (a : SReg) (s : State) : Host.Outcome State Fault Refusal :=
  let t := s.run.pos (.s a)
  .next (s.toTarget t (·.jump t))

/-- CALL writes its link register only where the target passes (R72, R184). -/
def execCall (d : SReg) (off : BitVec 16) (s : State) : Host.Outcome State Fault Refusal :=
  let t := s.run.target off
  .next (s.toTarget t fun s => s.done { s.run.setS d (s.run.nextHdr.setWidth 64) with pc := t.setWidth 56 } 1)

/-- A condition on a value (R61, codes 1 to 6). -/
def cndValue (c : Cnd) (x : Int) : Bool :=
  match c with
  | .eq => x == 0
  | .ne => x != 0
  | .lt => x < 0
  | .ge => 0 ≤ x
  | .le => x ≤ 0
  | .gt => 0 < x
  | _ => true

/-- The condition of BRC: codes 1 to 6 test the 64-bit signed value, 7 to 9 the mask's bits of active lanes (R184). -/
def Group.cnd (g : Group) (c : Cnd) (a : SPos) : Bool :=
  let bits : Lane := (g.pos a).setWidth 32 &&& g.em
  match c with
  | .any => bits != 0
  | .all => bits == g.em
  | .none => bits == 0
  | c => cndValue c (g.pos a).toInt

def execBrc (cnd : Cnd) (a : SPos) (off : BitVec 16) (s : State) : Host.Outcome State Fault Refusal :=
  if s.run.cnd cnd a then
    let t := s.run.target off
    .next (s.toTarget t (·.jump t))
  else .next (s.done s.run 1)

/-! ## The reconvergence stack (R170, R171) -/

/-- The 32-byte layout of an entry (R170). -/
def StackEntry.bits (e : StackEntry) : BitVec 256 :=
  e.jpc.setWidth 256 <<< 144 ||| e.ppc.setWidth 256 <<< 80 ||| e.pmask.setWidth 256 <<< 32 ||| e.rmask.setWidth 256

/-- An entry read back from memory takes SMASK := RMASK ∧ ¬PMASK (R170). -/
def StackEntry.ofBits (x : BitVec 256) : StackEntry :=
  let pm := x.extractLsb' 32 32
  let rm := x.extractLsb' 0 32
  ⟨x.extractLsb' 144 56, x.extractLsb' 80 56, pm, rm, rm &&& ~~~pm⟩

/-- The address of entry `m` of the running group's stack in memory (R170, R384). -/
def State.stackAddr (s : State) (m : Nat) : Nat :=
  let g := s.run
  s.teamImage g + 0x20000 + 0x8000 * g.num + 32 * m

/-- A sector that an undetected uncorrectable error has struck; a write of the whole sector mends it (R170) (DESIGN CHOICE, log 94). -/
def State.isBad (s : State) (pa : Nat) : Bool := s.dev.bad.contains (pa / 32)
def State.mended (s : State) (pa : Nat) : State := { s with dev := { s.dev with bad := s.dev.bad.filter (· != pa / 32) } }

/-- The fault of a spill or a refill. Where it read data with an uncorrectable error, that is reported as well (R170, R393). -/
def State.stackFault (s : State) : State :=
  let g := s.run
  let t := s.faultExact cSTKSPILL
  if s.isBad (s.stackAddr (g.mdepth - 1)) then { t with pending := .uncorrectableError (.logOrSave g.part g.ctx) :: t.pending } else t

/-- A push. With 32 entries on chip the oldest spills to the save area, captured as R263 says, and the group waits for the
access; beyond 1,056 entries, or outside device memory, it fails (R170). -/
def State.push (s : State) (e : StackEntry) : Option State :=
  let g := s.run
  if g.stack.length < 32 then some (s.setRun { g with stack := e :: g.stack })
  else
    let pa := s.stackAddr g.mdepth
    if 1024 ≤ g.mdepth || region pa != .dev then none
    else
      let old := (g.stack.getLast?.map StackEntry.bits).getD 0
      some ((s.setRun { g with stack := e :: g.stack.dropLast, mdepth := g.mdepth + 1, wait := .stackAccess false }).perform pa
        ((leBytes old.toNat 32).map some) true g.part g.ctx g.grid |>.mended pa)

/-- A pop. When it leaves 31 entries and entries remain in memory, the newest of those is read back; it fails outside device memory and
where an uncorrectable error has struck the entry (R170). -/
def State.pop (s : State) : Option State :=
  let g := s.run
  let rest := g.stack.tail
  if rest.length = 31 ∧ 0 < g.mdepth then
    let pa := s.stackAddr (g.mdepth - 1)
    if region pa != .dev || s.isBad pa then none
    else
      let e := StackEntry.ofBits (BitVec.ofNat 256 (leNat (Memory.read s.mem pa 32)))
      some (s.setRun { g with stack := rest ++ [e], mdepth := g.mdepth - 1, wait := .stackAccess true })
  else some (s.setRun { g with stack := rest })

/-- The lanes of BDV's taken side (R171). -/
def Group.bdvTaken (g : Group) (cnd : Cnd) (a : RegNo) : Lane :=
  mkMask fun t => g.em.getLsbD t && cndValue cnd (lane (g.reg a.toNat) t).toInt

/-- BDV. A register past the budget gives REGBND, in explicit-mask mode too, where a valid one gives ILLENC (R90, R172) (DEDUCED, log 80).
With no lane on either side the header at JPC is tested as a taken branch's (R72, R171) (DEDUCED, log 80). -/
def execBdv (cnd : Cnd) (a : RegNo) (off1 off2 : BitVec 16) (s : State) : Host.Outcome State Fault Refusal :=
  s.checked (.bdv cnd a off1 off2) fun s =>
    let g := s.run
    if g.mmode then s.faultExact cILLENC
    else
      let t := g.bdvTaken cnd a
      let f := g.em &&& ~~~t
      let jpc := g.target off2
      let e (pm sm : Lane) : StackEntry := ⟨jpc.setWidth 56, g.nextHdr, pm, g.em, sm⟩
      let go (s : State) (e : StackEntry) (em : Lane) (pc : Addr) : State :=
        match s.push e with
        | some s1 => s1.done { s1.run with em := em, pc := pc } 1
        | none => s.faultExact cSTKSPILL
      if t != 0 then
        s.toTarget (g.target off1) fun s => go s (e f t) t ((g.target off1).setWidth 56)
      else if f != 0 then go s (e 0 f) f g.nextHdr
      else s.toTarget jpc fun s => go s (e 0 0) 0 (jpc.setWidth 56)

/-- JOIN. The header that it goes to is tested when it is fetched, and not here (R72, R171) (DEDUCED, log 80). -/
def execJoin (s : State) : Host.Outcome State Fault Refusal :=
  let g := s.run
  if g.mmode then .next (s.faultExact cILLENC)
  else
    match g.stack with
    | [] => .next (s.faultExact cILLCLS)
    | top :: rest =>
      if top.jpc != g.hdr then .next (s.faultExact cILLCLS)
      else
        let side := top.pmask &&& g.live
        if side != 0 then
          .next (s.done { g with em := side, stack := { top with smask := side, pmask := 0 } :: rest, pc := top.ppc } 1)
        else
          match s.pop with
          | some s1 => .next (s1.done { s1.run with em := top.rmask &&& g.live, pc := g.nextHdr } 1)
          | none => .next s.stackFault

/-! ## The end of a group (R185) -/

/-- The group ends: its requests lapse, and an FQGET that is not matched is cancelled (R28, R185, R252, R358). -/
def Group.endNow (g : Group) : Group :=
  { g with run := .ended, burn := none, shunt := none, match_ := none, loads := g.loads.filter (·.fifo.isNone) }

/-- EXIT. On a control or scheduler core it ends that core's agent for good (R73, R185) (DESIGN CHOICE, log 80). -/
def execExit (s : State) : Host.Outcome State Fault Refusal := .next (s.done s.run.endNow 1)

def execExitLanes (s : State) : Host.Outcome State Fault Refusal :=
  let g := s.run
  let g1 := { g with live := g.live &&& ~~~g.em, em := 0 }
  .next (s.done (if g1.live = 0 then g1.endNow else { g1 with pc := g.nextHdr }) 1)

/-! ## Masks and flags (R186-R190) -/

def execEmsav (d : SPos) (_nr : Bool) (s : State) : Host.Outcome State Fault Refusal :=
  .next (s.done (s.run.setPos d (s.run.em.setWidth 64)) 1)

/-- Every lane of a vector operand is read (R187). -/
def execEmset (op : EmOp) (b : Opnd) (nr : Bool) (s : State) : Host.Outcome State Fault Refusal :=
  s.checked (.emset op b nr) fun s =>
    let g := s.run
    let x : Lane := match b with
      | .s p => (g.pos p).setWidth 32
      | .v r => mkMask fun t => lane (g.reg r.toNat) t != 0
    let y := match op with
      | .set => x
      | .and => g.em &&& x
      | .or => g.em ||| x
      | .andn => g.em &&& ~~~x
    s.done (g.setPos .em (y.setWidth 64)) 1

def execMlog (d a b c : SPos) (lut : BitVec 8) (_nr : Bool) (s : State) : Host.Outcome State Fault Refusal :=
  let g := s.run
  let x := lutBits lut (g.pos a).toNat (g.pos b).toNat (g.pos c).toNat 32
  .next (s.done (g.setPos d (BitVec.ofNat 64 x)) 1)

def execVote (op : VoteOp) (d : SPos) (a : RegNo) (nr : Bool) (s : State) : Host.Outcome State Fault Refusal :=
  s.checked (.vote op d a nr) fun s =>
    let g := s.run
    let p := mkMask fun t => g.em.getLsbD t && lane (g.reg a.toNat) t != 0
    let ts := activeLanes g.em
    let x : Word := match op with
      | .ballot => p.setWidth 64
      | .any => if p != 0 then 1 else 0
      | .all => if p = g.em then 1 else 0
      | .uni => if ts.all fun t => lane (g.reg a.toNat) t == lane (g.reg a.toNat) (ts.headD 0) then 1 else 0
    s.done (g.setPos d x) 1

/-- TFENCE raises ARITH exactly at itself where an enabled sticky flag is set (R190). -/
def execTfence (_nr : Bool) (s : State) : Host.Outcome State Fault Refusal :=
  let g := s.run
  if (g.fsr &&& g.fte.setWidth 32) != 0 then
    .next (s.takeTrap ⟨cARITH, g.wordAddr, g.word, 0, 0, 0, g.after.1, g.after.2⟩)
  else .next (s.done g 1)

/-- TRAP raises TRAPI with IMM32 in the record; on a control core its record also goes to the supervisor of
context 0 of partition 0 (R191, R377) (DEDUCED, log 14; DESIGN CHOICE, log 102). -/
def execTrap (e : BitVec 32) (s : State) : Host.Outcome State Fault Refusal :=
  let g := s.run
  let s1 := if g.kind = .compute then s else s.postSystem (s.supCl g.part g.ctx) (s.trapRecord g cTRAPI)
  .next (s1.takeTrap ⟨cTRAPI, g.wordAddr, g.word, 0, e.toNat, 0, g.after.1, g.after.2⟩)

/-- The group is passed over for the next n choices at which its slot-mate is ready (R192). -/
def execYield (n : BitVec 4) (_nr : Bool) (s : State) : Host.Outcome State Fault Refusal :=
  .next (s.done { s.run with yieldN := n.toNat, yielded := true } 1)

end Sys2Proof.Machine
end

