-- ==== Sys2Proof/Machine/Flags.lean ====
section
/-! DEFINITION. Number formats, rounding and the sticky flags: every flag that an arithmetic condition raises (R122-R139). Values
are exact: a sign, a quotient of naturals and a power of two. -/

namespace Sys2Proof.Machine

/-! ## Sticky flags (R131, R169) -/

abbrev IV : Nat := 1
abbrev DZ : Nat := 2
abbrev OF : Nat := 4
abbrev UF : Nat := 8
abbrev NX : Nat := 16
abbrev SATF : Nat := 32

/-! ## Formats (R122-R124) -/

/-- A floating-point format: exponent bits, fraction bits, bias, and whether it has infinities (R123). -/
structure Fmt where
  k : Nat
  f : Nat
  bias : Nat
  inf : Bool := true
  deriving DecidableEq, Repr

def fmtF64 : Fmt := ⟨11, 52, 1023, true⟩
def fmtF32 : Fmt := ⟨8, 23, 127, true⟩
def fmtF16 : Fmt := ⟨5, 10, 15, true⟩
def fmtBF16 : Fmt := ⟨8, 7, 127, true⟩
def fmtE4M3 : Fmt := ⟨4, 3, 7, false⟩
def fmtE5M2 : Fmt := ⟨5, 2, 15, true⟩

/-- The format of a floating-point type's elements (R123). -/
def fmtOf : Ty → Fmt
  | .f64 => fmtF64
  | .f16x2 => fmtF16
  | .bf16x2 => fmtBF16
  | .e4m3x4 => fmtE4M3
  | .e5m2x4 => fmtE5M2
  | _ => fmtF32

/-- Bits of an encoding. -/
def Fmt.bits (q : Fmt) : Nat := 1 + q.k + q.f

/-- The largest finite value is `maxM × 2^maxE` (R123). -/
def Fmt.maxM (q : Fmt) : Nat := if q.inf then 2 ^ (q.f + 1) - 1 else 2 ^ (q.f + 1) - 2
def Fmt.maxE (q : Fmt) : Int := (if q.inf then 2 ^ q.k - 2 else 2 ^ q.k - 1 : Int) - q.bias - q.f

/-- What an encoding stands for: a NaN with its sign, quiet bit and fraction; an infinity; or `±m × 2^e`. -/
inductive FVal where
  | nan (s quiet : Bool) (frac : Nat)
  | inf (s : Bool)
  | fin (s : Bool) (m : Nat) (e : Int)
  deriving DecidableEq, Repr

def FVal.sign : FVal → Bool
  | .nan s _ _ => s
  | .inf s => s
  | .fin s _ _ => s

def FVal.isNan : FVal → Bool
  | .nan .. => true
  | _ => false

def FVal.isSnan : FVal → Bool
  | .nan _ q _ => !q
  | _ => false

def FVal.isZero : FVal → Bool
  | .fin _ 0 _ => true
  | _ => false

/-- Inverts the sign, of a NaN too (R147, R148). -/
def FVal.negIf (n : Bool) : FVal → FVal
  | .nan s q f => .nan (s != n) q f
  | .inf s => .inf (s != n)
  | .fin s m e => .fin (s != n) m e

/-- The reading of an encoding (R122, R124). -/
def Fmt.read (q : Fmt) (x : Nat) : FVal :=
  let s := x.testBit (q.k + q.f)
  let e := x / 2 ^ q.f % 2 ^ q.k
  let fr := x % 2 ^ q.f
  if q.inf && e == 2 ^ q.k - 1 then (if fr = 0 then .inf s else .nan s (fr.testBit (q.f - 1)) fr)
  else if !q.inf && e == 2 ^ q.k - 1 && fr == 2 ^ q.f - 1 then .nan s true fr
  else if e = 0 then .fin s fr (1 - (q.bias : Int) - q.f)
  else .fin s (2 ^ q.f + fr) ((e : Int) - q.bias - q.f)

/-- The sign bit in place. -/
def Fmt.signBit (q : Fmt) (s : Bool) : Nat := if s then 2 ^ (q.k + q.f) else 0

/-- A quiet NaN of a format with a fraction; E4M3 has no payload (R124). -/
def Fmt.nan (q : Fmt) (s : Bool) (frac : Nat) : Nat :=
  if q.inf then q.signBit s + (2 ^ q.k - 1) * 2 ^ q.f + (frac ||| 2 ^ (q.f - 1)) % 2 ^ q.f
  else q.signBit s + 2 ^ (q.k + q.f) - 1

/-- The canonical quiet NaN (R124). -/
def Fmt.cnan (q : Fmt) : Nat := q.nan false 0

/-- The largest finite value with a sign. -/
def Fmt.maxFin (q : Fmt) (s : Bool) : Nat :=
  q.signBit s + (if q.inf then (2 ^ q.k - 1) * 2 ^ q.f - 1 else 2 ^ (q.k + q.f) - 2)

/-- An infinite result: the infinity, with SAT the largest finite value, and without SAT in E4M3 a NaN (R131, R134). -/
def Fmt.deliverInf (q : Fmt) (sat s : Bool) : Nat × Nat :=
  if sat then (q.maxFin s, SATF ||| NX)
  else if q.inf then (q.signBit s + (2 ^ q.k - 1) * 2 ^ q.f, 0)
  else (q.nan s 0, IV)

/-- The first NaN of the operands, quieted, with IV where one of them is signalling (R135). -/
def Fmt.pickNan (q : Fmt) (xs : List FVal) : Option (Nat × Nat) :=
  match xs.find? FVal.isNan with
  | some (.nan s _ f) => some (q.nan s f, if xs.any FVal.isSnan then IV else 0)
  | _ => none

/-- The canonical NaN of an invalid operation (R135). -/
def Fmt.invalid (q : Fmt) : Nat × Nat := (q.cnan, IV)

/-! ## Rounding (R128-R132) -/

/-- `n × 2^e / d` as a quotient of naturals. -/
def scaleQ (n d : Nat) (e : Int) : Nat × Nat := if 0 ≤ e then (n * 2 ^ e.toNat, d) else (n, d * 2 ^ (-e).toNat)

/-- ⌊log2 (n/d)⌋ for positive n and d. -/
def log2Q (n d : Nat) : Int :=
  let l : Int := (Nat.log2 n : Int) - Nat.log2 d
  let p := scaleQ 1 1 l
  if n * p.2 < d * p.1 then l - 1 else l

/-- Whether the magnitude above `k` is chosen: the remainder is `r/d` of a unit (R128, R132). -/
def roundUp (rm : Rm) (s : Bool) (k r d w : Nat) : Bool :=
  match rm with
  | .rne => d < 2 * r || (2 * r == d && k % 2 == 1)
  | .rtz => false
  | .rup => r != 0 && !s
  | .rdn => r != 0 && s
  | .rna => d ≤ 2 * r
  | .rsr => 2 ^ 16 ≤ r * 2 ^ 16 / d + w
  | .dyn => false

/-- A finite result that overflows: OF and NX, or with SAT the largest finite value (R129, R134). -/
def Fmt.overflow (q : Fmt) (rm : Rm) (sat s : Bool) : Nat × Nat :=
  if sat then (q.maxFin s, SATF ||| NX)
  else if !q.inf then (q.nan s 0, OF ||| NX)
  else
    let infinite := match rm with
      | .rtz => false
      | .rup => !s
      | .rdn => s
      | _ => true
    (if infinite then q.signBit s + (2 ^ q.k - 1) * 2 ^ q.f else q.maxFin s, OF ||| NX)

/-- RoundTo(fmt, x, rm) for x = ±(n/d) × 2^e, with the word `w` of the stochastic mode, and SAT (R128-R134). A zero keeps the
sign given. -/
def Fmt.round (q : Fmt) (rm : Rm) (sat : Bool) (w : Nat) (s : Bool) (n d : Nat) (e : Int) : Nat × Nat :=
  if n = 0 then (q.signBit s, 0)
  else
    let ulp := max (log2Q n d + e - q.f) (1 - (q.bias : Int) - q.f)
    let p := scaleQ n d (e - ulp)
    let k := p.1 / p.2
    let r := p.1 % p.2
    let m := if roundUp rm s k r p.2 w then k + 1 else k
    let a := scaleQ m 1 (ulp - q.maxE)
    if q.maxM * a.2 < a.1 then q.overflow rm sat s
    else
      let nx := if r = 0 then 0 else NX
      if m < 2 ^ q.f then (q.signBit s + m, if r = 0 then 0 else NX ||| UF)
      else
        let c := if m = 2 ^ (q.f + 1) then (2 ^ q.f, ulp + 1) else (m, ulp)
        (q.signBit s + (c.2 + q.f + q.bias).toNat * 2 ^ q.f + (c.1 - 2 ^ q.f), nx)

/-- A real strictly between `v` and `v + 1` in units of 2^-p, which no rounding can tell from the middle (R154). -/
def Fmt.roundBetween (q : Fmt) (rm : Rm) (sat : Bool) (w : Nat) (s : Bool) (v p : Nat) (e : Int) : Nat × Nat :=
  q.round rm sat w s (2 * v + 1) 1 (e - p - 1)

/-- Rounds to an integer: the value and whether it was inexact (R137). -/
def roundInt (rm : Rm) (w : Nat) (s : Bool) (n : Nat) (e : Int) : Int × Bool :=
  let p := scaleQ n 1 e
  let k := p.1 / p.2
  let r := p.1 % p.2
  let m : Int := if roundUp rm s k r p.2 w then k + 1 else k
  (if s then -m else m, r != 0)

/-! ## Arithmetic (R147-R151) -/

/-- The signed integer that a finite value is, in units of 2^e0. -/
def finInt (s : Bool) (m : Nat) (e e0 : Int) : Int :=
  let x : Int := m * 2 ^ (e - e0).toNat
  if s then -x else x

/-- The exact sum of two finite values, rounded; an exact zero of opposite signs is +0, or -0 under rdn (R130). -/
def Fmt.addFin (q : Fmt) (rm : Rm) (sat : Bool) (w : Nat) (s1 : Bool) (m1 : Nat) (e1 : Int) (s2 : Bool) (m2 : Nat) (e2 : Int) :
    Nat × Nat :=
  let e0 := min e1 e2
  let x := finInt s1 m1 e1 e0 + finInt s2 m2 e2 e0
  if x = 0 then (q.signBit (if s1 = s2 then s1 else rm == .rdn), 0)
  else q.round rm sat w (x < 0) x.natAbs 1 e0

/-- a + b (R147). -/
def Fmt.add (q : Fmt) (rm : Rm) (sat : Bool) (w : Nat) (a b : FVal) : Nat × Nat :=
  match q.pickNan [a, b] with
  | some r => r
  | none =>
    match a, b with
    | .inf s, .inf t => if s = t then q.deliverInf sat s else q.invalid
    | .inf s, _ => q.deliverInf sat s
    | _, .inf t => q.deliverInf sat t
    | .fin s1 m1 e1, .fin s2 m2 e2 => q.addFin rm sat w s1 m1 e1 s2 m2 e2
    | _, _ => q.invalid

/-- a × b (R147). -/
def Fmt.mul (q : Fmt) (rm : Rm) (sat : Bool) (w : Nat) (a b : FVal) : Nat × Nat :=
  match q.pickNan [a, b] with
  | some r => r
  | none =>
    let s := a.sign != b.sign
    match a, b with
    | .fin _ m1 e1, .fin _ m2 e2 => q.round rm sat w s (m1 * m2) 1 (e1 + e2)
    | a, b => if a.isZero || b.isZero then q.invalid else q.deliverInf sat s

/-- a × b + c, rounded once (R148): a product 0 × ∞ with a NaN addend gives the addend's NaN and IV (R135). -/
def Fmt.fma (q : Fmt) (rm : Rm) (sat : Bool) (w : Nat) (a b c : FVal) : Nat × Nat :=
  let inv := match a, b with
    | .inf _, .fin _ 0 _ => true
    | .fin _ 0 _, .inf _ => true
    | _, _ => false
  match q.pickNan [a, b, c] with
  | some r => (r.1, if inv then r.2 ||| IV else r.2)
  | none =>
    let s := a.sign != b.sign
    if inv then q.invalid
    else
      match a, b, c with
      | .fin _ m1 e1, .fin _ m2 e2, .fin s3 m3 e3 => q.addFin rm sat w s (m1 * m2) (e1 + e2) s3 m3 e3
      | .fin _ _ _, .fin _ _ _, .inf t => q.deliverInf sat t
      | _, _, .inf t => if s = t then q.deliverInf sat s else q.invalid
      | _, _, _ => q.deliverInf sat s

/-- a ÷ b (R150). -/
def Fmt.div (q : Fmt) (rm : Rm) (sat : Bool) (w : Nat) (a b : FVal) : Nat × Nat :=
  match q.pickNan [a, b] with
  | some r => r
  | none =>
    let s := a.sign != b.sign
    match a, b with
    | .inf _, .inf _ => q.invalid
    | .inf _, _ => q.deliverInf sat s
    | _, .inf _ => (q.signBit s, 0)
    | .fin _ m1 e1, .fin _ m2 e2 =>
      if m2 = 0 then
        if m1 = 0 then q.invalid
        else
          let r := q.deliverInf sat s
          (r.1, r.2 ||| DZ)
      else q.round rm sat w s m1 m2 (e1 - e2)
    | _, _ => q.invalid

/-- The order of values with -0 below +0 (R151). -/
def FVal.le (a b : FVal) : Bool :=
  match a, b with
  | .inf s, _ => s || (b == .inf false)
  | _, .inf t => !t
  | .fin s1 m1 e1, .fin s2 m2 e2 =>
    let e0 := min e1 e2
    let x := finInt s1 m1 e1 e0
    let y := finInt s2 m2 e2 e0
    if x = y then (s1 || !s2) else x < y
  | _, _ => false

/-- Equality and order of numbers, with -0 equal to +0 (R152). -/
def FVal.cmp (a b : FVal) : Ordering :=
  if a.isZero && b.isZero then .eq
  else if a.le b then (if b.le a then .eq else .lt) else .gt

/-- FMIN on two encodings (R151) (DEDUCED, log 42). -/
def Fmt.minmax (q : Fmt) (op : FMinOp) (x y : Nat) : Nat × Nat :=
  let a := q.read x
  let b := q.read y
  let iv := if a.isSnan || b.isSnan then IV else 0
  let prefer := op == .min || op == .max
  let least := op == .min || op == .minp
  match a.isNan, b.isNan with
  | true, true => ((q.pickNan [a, b]).elim x (·.1), iv)
  | true, false => if prefer then (y, iv) else ((q.pickNan [a, b]).elim x (·.1), iv)
  | false, true => if prefer then (x, iv) else ((q.pickNan [a, b]).elim x (·.1), iv)
  | false, false => (if a.le b == least then x else y, 0)

/-- FCMP on two encodings: the condition, and IV (R152). -/
def Fmt.compare (q : Fmt) (c : FCond) (x y : Nat) : Bool × Nat :=
  let a := q.read x
  let b := q.read y
  let un := a.isNan || b.isNan
  let sig := if a.isSnan || b.isSnan then IV else 0
  let anyNan := if un then IV else 0
  let o := a.cmp b
  match c with
  | .eq => (!un && o == .eq, sig)
  | .ne => (un || o != .eq, sig)
  | .lt => (!un && o == .lt, anyNan)
  | .le => (!un && o != .gt, anyNan)
  | .gt => (!un && o == .gt, anyNan)
  | .ge => (!un && o != .lt, anyNan)
  | .un => (un, sig)
  | .ord => (!un, sig)

/-- The class of an encoding (R153). -/
def Fmt.classOf (q : Fmt) (x : Nat) : Nat :=
  match q.read x with
  | .nan _ quiet _ => if quiet then 1 else 0
  | .inf s => if s then 2 else 9
  | .fin s m _ =>
    if m = 0 then (if s then 5 else 6)
    else if m < 2 ^ q.f then (if s then 4 else 7)
    else (if s then 3 else 8)

/-! ## Single-operand functions (R154) -/

/-- 1/x. -/
def Fmt.rcp (q : Fmt) (rm : Rm) (sat : Bool) (w : Nat) (a : FVal) : Nat × Nat := q.div rm sat w (.fin false 1 0) a

/-- √x as a value in units of 2^-p between consecutive integers, exact or not. -/
def Fmt.rootRes (q : Fmt) (rm : Rm) (sat : Bool) (w : Nat) (n d p : Nat) (h : Int) : Nat × Nat :=
  -- the root of (n/d) × 4^h
  let y := n * 4 ^ p / d
  let v := Nat.sqrt y
  if v * v * d = n * 4 ^ p then q.round rm sat w false v 1 (h - p) else q.roundBetween rm sat w false v p h

/-- √x for a positive finite x. -/
def Fmt.sqrtFin (q : Fmt) (rm : Rm) (sat : Bool) (w m : Nat) (e : Int) : Nat × Nat :=
  if e % 2 = 0 then q.rootRes rm sat w m 1 40 (e / 2) else q.rootRes rm sat w (2 * m) 1 40 ((e - 1) / 2)

def Fmt.sqrt (q : Fmt) (rm : Rm) (sat : Bool) (w : Nat) (a : FVal) : Nat × Nat :=
  match a with
  | .nan .. => (q.pickNan [a]).getD q.invalid
  | .inf s => if s then q.invalid else q.deliverInf sat false
  | .fin s m e => if m = 0 then (q.signBit s, 0) else if s then q.invalid else q.sqrtFin rm sat w m e

/-- 1/√x: the root of 1/x. -/
def Fmt.rsqrt (q : Fmt) (rm : Rm) (sat : Bool) (w : Nat) (a : FVal) : Nat × Nat :=
  match a with
  | .nan .. => (q.pickNan [a]).getD q.invalid
  | .inf s => if s then q.invalid else (q.signBit false, 0)
  | .fin s m e =>
    if m = 0 then
      let r := q.deliverInf sat s
      (r.1, r.2 ||| DZ)
    else if s then q.invalid
    else if e % 2 = 0 then q.rootRes rm sat w 1 m 64 (-(e / 2)) else q.rootRes rm sat w 1 (2 * m) 64 (-((e - 1) / 2))

/-- Fixed-point bits of the series below. -/
def fxP : Nat := 640

/-- Σ 1/(k 2^k) from term `k` on: ln 2. -/
def ln2Series (k : Nat) : Nat → Nat
  | 0 => 0
  | n + 1 => 2 ^ fxP / (k * 2 ^ k) + ln2Series (k + 1) n
def fxLn2 : Nat := ln2Series 1 660

/-- e^y by its series: the sum of terms from the `k`-th, whose value is `t`. -/
def expSeries (y t k : Nat) : Nat → Nat
  | 0 => 0
  | n + 1 => t + expSeries y (t * y / 2 ^ fxP / k) (k + 1) n

/-- 2 atanh(u): the sum of 2u^k/k over odd k. -/
def atanhSeries (u2 t k : Nat) : Nat → Nat
  | 0 => 0
  | n + 1 => 2 * t / k + atanhSeries u2 (t * u2 / 2 ^ fxP) (k + 2) n

/-- atan(1/c), as the alternating sum, with the sign of the current term. -/
def atanSeries (c2 t k : Nat) (neg : Bool) : Nat → Int
  | 0 => 0
  | n + 1 => (if neg then -((t / k : Nat) : Int) else ((t / k : Nat) : Int)) + atanSeries c2 (t / c2) (k + 2) (!neg) n

/-- π, by Machin's formula. -/
def fxPi : Nat := (16 * atanSeries 25 (2 ^ fxP / 5) 1 false 145 - 4 * atanSeries 57121 (2 ^ fxP / 239) 1 false 45).toNat

/-- sin y by its series. -/
def sinSeries (y2 t k : Nat) (neg : Bool) : Nat → Int
  | 0 => 0
  | n + 1 => (if neg then -(t : Int) else t) + sinSeries y2 (t * y2 / 2 ^ fxP / ((k + 1) * (k + 2))) (k + 2) (!neg) n

/-- Bits of the series that are kept: the rest covers their truncation. -/
def fxKeep : Nat := 560

/-- 2^x (R154) (DEDUCED, log 17). -/
def Fmt.exp2 (q : Fmt) (rm : Rm) (sat : Bool) (w : Nat) (a : FVal) : Nat × Nat :=
  match a with
  | .nan .. => (q.pickNan [a]).getD q.invalid
  | .inf s => if s then (q.signBit false, 0) else q.deliverInf sat false
  | .fin s m e =>
    -- x in units of 2^-P; beyond ±2^12 every format overflows or underflows in the same way
    let p := scaleQ m 1 (e + fxP)
    let x : Int := if s then -((p.1 / p.2 : Nat) : Int) else (p.1 / p.2 : Nat)
    let n := max (-4096) (min 4096 (x / 2 ^ fxP))
    let r := (x % 2 ^ fxP).toNat
    if r = 0 then q.round rm sat w false 1 1 n
    else q.roundBetween rm sat w false (expSeries (r * fxLn2 / 2 ^ fxP) (2 ^ fxP) 1 140 / 2 ^ (fxP - fxKeep)) fxKeep n

/-- log2 x (R154) (DEDUCED, log 17). -/
def Fmt.log2 (q : Fmt) (rm : Rm) (sat : Bool) (w : Nat) (a : FVal) : Nat × Nat :=
  match a with
  | .nan .. => (q.pickNan [a]).getD q.invalid
  | .inf s => if s then q.invalid else q.deliverInf sat false
  | .fin s m e =>
    if m = 0 then
      let r := q.deliverInf sat true
      (r.1, r.2 ||| DZ)
    else if s then q.invalid
    else
      let l := Nat.log2 m
      let n : Int := l + e
      if m = 2 ^ l then q.round rm sat w (n < 0) n.natAbs 1 0
      else
        let u := (m - 2 ^ l) * 2 ^ fxP / (m + 2 ^ l)
        let ln := atanhSeries (u * u / 2 ^ fxP) u 1 220
        let x : Int := n * 2 ^ fxP + (ln * 2 ^ fxP / fxLn2 : Nat)
        q.roundBetween rm sat w (x < 0) (x.natAbs / 2 ^ (fxP - fxKeep)) fxKeep 0

/-- sin(π r) for 0 < r < 1/2, r = a/2^t, in units of 2^-fxP. -/
def sinPi (a t : Nat) : Nat :=
  let y := fxPi * a / 2 ^ t
  (sinSeries (y * y / 2 ^ fxP) y 1 false 140).toNat

/-- sin(π x) or cos(π x) (R154): x is reduced exactly to an angle in the first half quadrant pair. -/
def Fmt.trig (q : Fmt) (rm : Rm) (sat cos : Bool) (w : Nat) (a : FVal) : Nat × Nat :=
  match a with
  | .nan .. => (q.pickNan [a]).getD q.invalid
  | .inf _ => q.invalid
  | .fin s m e =>
    let t := (-e).toNat
    let x := m * 2 ^ e.toNat            -- |x| = x / 2^t
    if m = 0 then (if cos then q.round rm sat w false 1 1 0 else (q.signBit s, 0))
    else
      let one := 2 ^ t
      -- cos(πx) = sin(π(|x| + 1/2)); work in halves of 2^-t
      let y := if cos then (2 * x + one) % (4 * one) else 2 * x % (4 * one)     -- angle / π in units of 2^-(t+1), modulo 2
      let neg := (2 * one ≤ y) != (!cos && s)
      let z := y % (2 * one)
      let z := if one < z then 2 * one - z else z                               -- reflected into [0, 1/2]
      if z = 0 then (q.signBit (!cos && s), 0)
      else if z = one then q.round rm sat w neg 1 1 0
      else q.roundBetween rm sat w neg (sinPi z (t + 1) / 2 ^ (fxP - fxKeep)) fxKeep 0

/-! ## Conversions (R136-R138, R156-R159) -/

/-- A NaN converted to another format (R136). -/
def convNan (src dst : Fmt) (s : Bool) (frac : Nat) : Nat :=
  if src.inf then
    dst.nan s (if src.f ≤ dst.f then frac * 2 ^ (dst.f - src.f) else frac / 2 ^ (src.f - dst.f))
  else dst.nan s 0

/-- FCVT of one element (R156). -/
def convFloat (src dst : Fmt) (rm : Rm) (sat : Bool) (w x : Nat) : Nat × Nat :=
  match src.read x with
  | .nan s quiet f => (convNan src dst s f, if quiet then 0 else IV)
  | .inf s => dst.deliverInf sat s
  | .fin s m e => dst.round rm sat w s m 1 e

/-- A float converted to an integer of `n` bits (R137). -/
def convToInt (src : Fmt) (signed : Bool) (n : Nat) (rm : Rm) (w x : Nat) : Nat × Nat :=
  let lo : Int := if signed then -(2 ^ (n - 1)) else 0
  let hi : Int := if signed then 2 ^ (n - 1) - 1 else 2 ^ n - 1
  match src.read x with
  | .nan .. => (0, IV)
  | .inf s => (((if s then lo else hi) % 2 ^ n).toNat, IV)
  | .fin s m e =>
    let r := roundInt rm w s m e
    if hi < r.1 then ((hi % 2 ^ n).toNat, IV)
    else if r.1 < lo then ((lo % 2 ^ n).toNat, IV)
    else ((r.1 % 2 ^ n).toNat, if r.2 then NX else 0)

/-- An integer converted to a float (R157). -/
def convOfInt (dst : Fmt) (rm : Rm) (sat : Bool) (w : Nat) (x : Int) : Nat × Nat :=
  dst.round rm sat w (x < 0) x.natAbs 1 0

/-- A positive normal FP32 value, as its significand and exponent (R138). -/
def posNormal (x : Nat) : Option (Nat × Int) :=
  match fmtF32.read x with
  | .fin false m e => if 2 ^ 23 ≤ m then some (m, e) else none
  | _ => none

/-- SCVN of one element: x ÷ s rounded once (R138, R158). -/
def scaleNarrow (dst : Fmt) (rm : Rm) (sat : Bool) (w x scale : Nat) : Nat × Nat :=
  match posNormal scale with
  | none => (dst.cnan, IV)
  | some (ms, es) =>
    match fmtF32.read x with
    | .nan s quiet f => (convNan fmtF32 dst s f, if quiet then 0 else IV)
    | .inf s => dst.deliverInf sat s
    | .fin s m e => dst.round rm sat w s m ms (e - es)

/-- SCVW of one element: x × s rounded once (R159). -/
def scaleWiden (src : Fmt) (rm : Rm) (sat : Bool) (w x scale : Nat) : Nat × Nat :=
  match posNormal scale with
  | none => (fmtF32.cnan, IV)
  | some (ms, es) =>
    match src.read x with
    | .nan s quiet f => (convNan src fmtF32 s f, if quiet then 0 else IV)
    | .inf s => fmtF32.deliverInf sat s
    | .fin s m e => fmtF32.round rm sat w s (m * ms) 1 (e + es)

/-! ## The exact accumulator (R126, R127) -/

/-- ExactAdd: the accumulator, and IV for a signalling NaN. -/
def WAcc.add (a : WAcc) (x : FVal) : WAcc × Nat :=
  match x with
  | .nan _ quiet _ => ({ a with st := a.st ||| 1 }, if quiet then 0 else IV)
  | .inf s => ({ a with st := a.st ||| (if s then 4 else 2) }, 0)
  | .fin s m e => ({ a with val := a.val + BitVec.ofInt 384 (finInt s m e (-149)) }, 0)

/-- RoundW (R127). -/
def WAcc.round (a : WAcc) (q : Fmt) (rm : Rm) (sat : Bool) (w : Nat) : Nat × Nat :=
  if a.st.getLsbD 0 then (q.cnan, 0)
  else if a.st.getLsbD 1 && a.st.getLsbD 2 then q.invalid
  else if a.st.getLsbD 1 then q.deliverInf sat false
  else if a.st.getLsbD 2 then q.deliverInf sat true
  else
    let x := a.val.toInt
    q.round rm sat w (x < 0) x.natAbs 1 (-149)

/-! ## Stochastic words (R133) -/

/-- The mixing of SrWord (DEDUCED, log 89). -/
def srMix (key counter : Word) : Nat :=
  let x := key ^^^ (counter * 0x9E3779B97F4A7C15)
  let x := (x ^^^ (x >>> 30)) * 0xBF58476D1CE4E5B9
  let x := (x ^^^ (x >>> 27)) * 0x94D049BB133111EB
  let x := x ^^^ (x >>> 31)
  x.toNat % 2 ^ 16

/-- SrWord(t, e) of a group whose grid has launch key `key` (R133) (DEDUCED, log 89). -/
def Group.srWord (g : Group) (key : Word) (t e : Nat) : Nat :=
  srMix key (BitVec.ofNat 64 (g.team % 2 ^ 24 * 2 ^ 40 + g.num % 32 * 2 ^ 35 + t % 32 * 2 ^ 30 + e % 4 * 2 ^ 28
    + g.srSeq.toNat))

/-- The launch key of the running group's grid. -/
def State.launchKey (s : State) : Word := (s.grid? s.run.grid).elim 0 (·.key)

end Sys2Proof.Machine
end

