-- ==== Sys2Proof/Machine/Integer.lean ====
section
/-! DEFINITION. Registers I and II: moves, thread identities, index registers and the elementwise integer instructions (R94-R115). -/

namespace Sys2Proof.Machine

/-! ## Elements (R101-R103) -/

/-- The width of an element (R101). -/
def elW (t : Ty) : Nat :=
  match t with
  | .b32 | .s32 | .n32 | .f32 => 32
  | .s16x2 | .n16x2 | .f16x2 | .bf16x2 => 16
  | .s8x4 | .n8x4 | .e4m3x4 | .e5m2x4 => 8
  | .s4x8 => 4
  | .s64 | .n64 | .f64 => 64

/-- Whether an element reads as signed (R101). -/
def elSigned (t : Ty) : Bool :=
  match t with
  | .s32 | .s16x2 | .s8x4 | .s4x8 | .s64 => true
  | _ => false

/-- Element `e` of a lane's bits as a number (R101). -/
def el (t : Ty) (x e : Nat) : Int := readInt (elSigned t) (elW t) (x / 2 ^ (elW t * e))

/-- Element `e` of a lane's bits, unread. -/
def elBits (t : Ty) (x e : Nat) : Nat := x / 2 ^ (elW t * e) % 2 ^ elW t

/-- Fit(x): the element's bits, and whether it saturated (R103). -/
def fit (t : Ty) (sat : Bool) (x : Int) : Nat × Bool :=
  if sat then
    let c := clampInt (elSigned t) (elW t) x
    (wrapInt (elW t) c.1, c.2)
  else (wrapInt (elW t) x, false)

/-- A lane built from its elements, from element `n - 1` down. -/
def mapEls (w : Nat) (f : Nat → Nat × Bool) : Nat → Nat × Bool
  | 0 => (0, false)
  | n + 1 =>
    let r := mapEls w f n
    let x := f n
    (r.1 + x.1 * 2 ^ (w * n), r.2 || x.2)

/-- A lane of a type built from its elements. -/
def mapLane (t : Ty) (f : Nat → Nat × Bool) : Nat × Bool := mapEls (elW t) f t.elems

/-- The lane of an operand as a number, over the pair for a 64-bit type (R102). -/
def Group.aN (g : Group) (t : Ty) (a : RegNo) (m : VMode) (l : Nat) : Nat :=
  if t.isPair then (g.a64 a m l).toNat else (g.a32 a m l).toNat
def Group.oN (g : Group) (t : Ty) (o : Opnd) (l : Nat) : Nat :=
  if t.isPair then (g.op64 o l).toNat else (g.op32 o l).toNat

/-- The sticky flag SAT (R169). -/
def fSAT : Lane := 0x20

/-- An instruction that gives every active lane a value of a type completes: its registers are written and SAT is raised where
an element of an active lane saturated (R103, R104). -/
def State.lanesDone (s : State) (i : Instr) (t : Ty) (d : RegNo) (m : VMode) (f : Nat → Nat × Bool) (cyc : Nat) : State :=
  let g := s.run
  s.vecDone i
    (if t.isPair then g.put64 d m fun l => BitVec.ofNat 64 (f l).1 else g.put32 d m fun l => BitVec.ofNat 32 (f l).1)
    (if (activeLanes g.em).any fun l => (f l).2 then fSAT else 0) cyc

/-! ## Arithmetic, logic, shifts, fields (R106-R110) -/

/-- The elementwise operation of two operands. -/
def Group.bin (g : Group) (t : Ty) (a : RegNo) (b : Opnd) (m : VMode) (f : Int → Int → Nat × Bool) (l : Nat) : Nat × Bool :=
  mapLane t fun e => f (el t (g.aN t a m l) e) (el t (g.oN t b l) e)

def execVadd (ty : Ty) (sat : Bool) (d a : RegNo) (b : Opnd) (m : VMode) (s : State) : Host.Outcome State Fault Refusal :=
  s.checked (.vadd ty sat d a b m) fun s =>
    s.lanesDone (.vadd ty sat d a b m) ty d m (s.run.bin ty a b m fun x y => fit ty sat (x + y)) s.run.cyc

def execVsub (ty : Ty) (sat : Bool) (d a : RegNo) (b : Opnd) (m : VMode) (s : State) : Host.Outcome State Fault Refusal :=
  s.checked (.vsub ty sat d a b m) fun s =>
    s.lanesDone (.vsub ty sat d a b m) ty d m (s.run.bin ty a b m fun x y => fit ty sat (x - y)) s.run.cyc

def execVmul (ty : Ty) (hi sat : Bool) (d a : RegNo) (b : Opnd) (m : VMode) (s : State) : Host.Outcome State Fault Refusal :=
  s.checked (.vmul ty hi sat d a b m) fun s =>
    s.lanesDone (.vmul ty hi sat d a b m) ty d m
      (s.run.bin ty a b m fun x y => fit ty sat (if hi then x * y / 2 ^ elW ty else x * y))
      (if ty.isPair then s.run.cycN 2 else s.run.cyc)

def execVmad (ty : Ty) (sat : Bool) (d a : RegNo) (b c : Opnd) (m : VMode) (s : State) : Host.Outcome State Fault Refusal :=
  s.checked (.vmad ty sat d a b c m) fun s =>
    let g := s.run
    s.lanesDone (.vmad ty sat d a b c m) ty d m
      (fun l => mapLane ty fun e => fit ty sat (el ty (g.aN ty a m l) e * el ty (g.oN ty b l) e + el ty (g.oN ty c l) e))
      (if ty.isPair then g.cycN 2 else g.cyc)

/-- The products and the 32-bit accumulator are summed exactly and reduced once (R107). -/
def execVdot (ty : Ty) (sat : Bool) (d a : RegNo) (b c : Opnd) (m : VMode) (s : State) : Host.Outcome State Fault Refusal :=
  s.checked (.vdot ty sat d a b c m) fun s =>
    let g := s.run
    let acc : Ty := if elSigned ty then .s32 else .n32
    s.lanesDone (.vdot ty sat d a b c m) acc d m
      (fun l => fit acc sat ((List.range ty.elems).foldl (fun x e => x + el ty (g.a32 a m l).toNat e * el ty (g.op32 b l).toNat e)
        (el acc (g.op32 c l).toNat 0))) g.cyc

def execVlog (wide : Bool) (d a : RegNo) (b c : Opnd) (lut : BitVec 8) (m : VMode) (s : State) :
    Host.Outcome State Fault Refusal :=
  s.checked (.vlog wide d a b c lut m) fun s =>
    let g := s.run
    let t : Ty := if wide then .s64 else .b32
    s.lanesDone (.vlog wide d a b c lut m) t d m
      (fun l => (lutBits lut (g.aN t a m l) (g.oN t b l) (g.oN t c l) (elW t), false)) g.cyc

/-- The amount is an element of B read as unsigned, or with `.uni` the low 8 bits of B (R109). -/
def execVshf (ty : Ty) (op : ShiftOp) (uni sat : Bool) (d a : RegNo) (b : Opnd) (m : VMode) (s : State) :
    Host.Outcome State Fault Refusal :=
  s.checked (.vshf ty op uni sat d a b m) fun s =>
    let g := s.run
    s.lanesDone (.vshf ty op uni sat d a b m) ty d m
      (fun l => mapLane ty fun e =>
        let n := if uni then g.oN ty b l % 256 else elBits ty (g.oN ty b l) e
        if sat then
          let x := el ty (g.aN ty a m l) e
          fit ty true (if n < elW ty then x * 2 ^ n else x * 2 ^ elW ty)
        else (shiftBits op (elW ty) (elBits ty (g.aN ty a m l) e) n, false)) g.cyc

def execVbit (ty : Ty) (ins : Bool) (d a : RegNo) (b c : Opnd) (m : VMode) (s : State) : Host.Outcome State Fault Refusal :=
  s.checked (.vbit ty ins d a b c m) fun s =>
    let g := s.run
    s.lanesDone (.vbit ty ins d a b c m) ty d m
      (fun l =>
        let y := g.oN ty b l
        let x := g.aN ty a m l
        (if ins then insField (elW ty) x (g.oN ty c l) (y % 256) (y / 256 % 256)
         else extField (elSigned ty) (elW ty) x (y % 256) (y / 256 % 256), false)) g.cyc

/-! ## Comparison, selection, bounds, unary operations (R111-R114) -/

/-- A condition of VCMP. -/
def icond (c : ICond) (x y : Int) : Bool :=
  match c with
  | .eq => x == y
  | .ne => x != y
  | .lt => x < y
  | .le => x ≤ y
  | .gt => y < x
  | .ge => y ≤ x

/-- Completion of a compare or a classification with a mask destination: bits of active lanes are replaced (R111, R152). -/
def State.maskDone (s : State) (k : BitVec 3) (p : Nat → Bool) (flags : Lane) (cyc : Nat) : State :=
  let g := s.run
  let old := g.m[k.toNat]
  let new := mkMask fun t => if g.em.getLsbD t then p t else old.getLsbD t
  s.done { g with m := g.m.set k.toNat new, fsr := g.fsr ||| flags } cyc

/-- All ones or all zeros of an element. -/
def elMask (t : Ty) (p : Bool) : Nat × Bool := (if p then 2 ^ elW t - 1 else 0, false)

def execVcmp (ty : Ty) (cond : ICond) (d : CmpDst) (a : RegNo) (b : Opnd) (m : VMode) (s : State) :
    Host.Outcome State Fault Refusal :=
  s.checked (.vcmp ty cond d a b m) fun s =>
    let g := s.run
    let p (l e : Nat) : Bool := icond cond (el ty (g.aN ty a m l) e) (el ty (g.oN ty b l) e)
    match d with
    | .mask k any =>
      s.maskDone k (fun l => if any then (List.range ty.elems).any (p l) else (List.range ty.elems).all (p l)) 0 g.cyc
    | .vec r => s.lanesDone (.vcmp ty cond d a b m) ty r m (fun l => mapLane ty fun e => elMask ty (p l e)) g.cyc

/-- A scalar C selects whole lanes by its bits, a vector C element by element (R112). -/
def execVsel (ty : Ty) (d a : RegNo) (b c : Opnd) (m : VMode) (s : State) : Host.Outcome State Fault Refusal :=
  s.checked (.vsel ty d a b c m) fun s =>
    let g := s.run
    s.lanesDone (.vsel ty d a b c m) ty d m
      (fun l => match c with
        | .s p => (if (g.pos p).getLsbD l then g.aN ty a m l else g.oN ty b l, false)
        | .v _ => mapLane ty fun e =>
            (if elBits ty (g.oN ty c l) e != 0 then elBits ty (g.aN ty a m l) e else elBits ty (g.oN ty b l) e, false)) g.cyc

def execVmin (ty : Ty) (op : MinOp) (d a : RegNo) (b c : Opnd) (m : VMode) (s : State) : Host.Outcome State Fault Refusal :=
  s.checked (.vmin ty op d a b c m) fun s =>
    let g := s.run
    s.lanesDone (.vmin ty op d a b c m) ty d m
      (fun l => mapLane ty fun e =>
        let x := el ty (g.aN ty a m l) e
        let y := el ty (g.oN ty b l) e
        fit ty false (match op with
          | .min => min x y
          | .max => max x y
          | .adf => if x < y then y - x else x - y
          | .clmp => max y (min x (el ty (g.oN ty c l) e)))) g.cyc

/-- The bytes of a lane in reverse, over the pair for 64-bit types (R114). -/
def execVuni (ty : Ty) (op : UniOp) (sat : Bool) (d a : RegNo) (m : VMode) (s : State) : Host.Outcome State Fault Refusal :=
  s.checked (.vuni ty op sat d a m) fun s =>
    let g := s.run
    let w := elW ty
    s.lanesDone (.vuni ty op sat d a m) ty d m
      (fun l => mapLane ty fun e =>
        let x := el ty (g.aN ty a m l) e
        let bits := elBits ty (g.aN ty a m l) e
        match op with
        | .abs => fit ty sat (if x < 0 then -x else x)
        | .neg => fit ty sat (-x)
        | .not => (2 ^ w - 1 - bits, false)
        | .pop => (countOnes bits w, false)
        | .clz => (leadZeros bits w, false)
        | .ctz => (trailZeros bits 0 w, false)
        | .brev => (revBits bits w, false)
        | .bswp => (swapBytes bits (w / 8), false)) g.cyc

/-! ## Narrowing with rounding (R115) -/

/-- `x / 2^n` rounded to an integer (R115). -/
def roundShift (rm : Rm) (x : Int) (n : Nat) : Int :=
  let f := x / 2 ^ n
  let r := x - f * 2 ^ n
  let half : Int := 2 ^ n
  match rm with
  | .rne => if 2 * r < half then f else if half < 2 * r then f + 1 else if f % 2 = 0 then f else f + 1
  | .rtz => if x < 0 && r != 0 then f + 1 else f
  | .rup => if r = 0 then f else f + 1
  | .rna => if 2 * r < half then f else if half < 2 * r then f + 1 else if x < 0 then f else f + 1
  | _ => f

/-- One element of a lane replaced, the others kept (R115, R155). -/
def putEl (t : Ty) (old e new : Nat) : Nat :=
  (mapLane t fun k => (if k = e then new % 2 ^ elW t else elBits t old k, false)).1

/-- VNRW narrows the lane of A, or the pair that starts at the register A selects, into one element (R115) (DEDUCED, log 7). -/
def execVnrw (ty : Ty) (rm : Rm) (sat : Bool) (d a : RegNo) (b : Opnd) (e : BitVec 3) (m : VMode) (s : State) :
    Host.Outcome State Fault Refusal :=
  s.checked (.vnrw ty rm sat d a b e m) fun s =>
    let g := s.run
    let wide := ty = .s32 ∨ ty = .n32
    s.lanesDone (.vnrw ty rm sat d a b e m) ty d m
      (fun l =>
        let src := if wide then readInt (elSigned ty) 64 (g.lane64 (g.opReg m.ixn m.ia a l) l).toNat
          else readInt (elSigned ty) 32 (g.a32 a m l).toNat
        let old := lane (g.reg (g.opReg m.ixn m.id d l)) l
        let y := fit ty sat (roundShift rm src ((g.op32 b l).toNat % 64))
        (putEl ty old.toNat e.toNat y.1, y.2)) g.cyc

/-! ## Moves and identities (R94, R95, R97) -/

/-- What VMOV's mapping form does to the cores: Share, with no lookup and no DEDUP_SHARE (R94). -/
def State.mapBook (s : State) (ws : List (Nat × VReg)) (cyc : Nat) : Tbl Core :=
  let s1 := ws.foldl (fun t x => (t.writeResult x.1 x.2 true).1) s
  let c := s1.core s.run.core
  (s1.setCore s.run.core { c with cyc := c.cyc + BitVec.ofNat 64 cyc }).cores

def execVmov (wide : Bool) (d : RegNo) (src : Opnd) (m : VMode) (s : State) : Host.Outcome State Fault Refusal :=
  s.checked (.vmov wide d src m) fun s =>
    let g := s.run
    let t : Ty := if wide then .s64 else .b32
    let f (l : Nat) : Nat := match src with
      | .v a => g.aN t a m l
      | .s _ => g.oN t src l
    let ws := if wide then g.put64 d m fun l => BitVec.ofNat 64 (f l) else g.put32 d m fun l => BitVec.ofNat 32 (f l)
    let mapped := match src with
      | .v _ => g.em == 0xFFFFFFFF && !m.ia && !m.id
      | .s _ => false
    if mapped then
      { s with cores := s.mapBook ws g.cyc, run := { g with v := setRegs g.v ws, word := g.word + 1 } }
    else s.vecDone (.vmov wide d src m) ws 0 g.cyc

def execVmovi (ty : Ty) (d : RegNo) (imm : BitVec 32) (s : State) : Host.Outcome State Fault Refusal :=
  s.checked (.vmovi ty d imm) fun s =>
    let g := s.run
    s.vecDone (.vmovi ty d imm)
      (if ty.isPair then g.put64 d {} fun _ => if ty = .s64 then imm.signExtend 64 else imm.setWidth 64
       else g.put32 d {} fun _ => imm) 0 g.cyc

/-- The groups of the running group's team (R17, R97). -/
def State.teamGroups (s : State) : Nat := ((s.grid? s.run.grid).elim 1 fun g => (g.roles.map (·.1)).sum)

def execVidx (wide : Bool) (mode : IdxMode) (d : RegNo) (nr : Bool) (s : State) : Host.Outcome State Fault Refusal :=
  s.checked (.vidx wide mode d nr) fun s =>
    let g := s.run
    let x (t : Nat) : Nat := match mode with
      | .lane => t
      | .group => 32 * g.num + t
      | .grid => (g.team * s.teamGroups + g.num) * 32 + t
    s.vecDone (.vidx wide mode d nr)
      (if wide then g.put64 d {} fun t => BitVec.ofNat 64 (x t) else g.put32 d {} fun t => BitVec.ofNat 32 (x t)) 0 g.cyc

/-! ## Index registers (R98, R99) -/

/-- An index register updated in the active lanes. -/
def State.ixDone (s : State) (k : BitVec 2) (f : Nat → Lane) : State :=
  let g := s.run
  s.done { g with ix := g.ix.set k.toNat (mergeLanes g.em (mkLanes f) g.ix[k.toNat]) } g.cyc

def execIxset (k : BitVec 2) (a : RegNo) (b : Opnd) (nr : Bool) (s : State) : Host.Outcome State Fault Refusal :=
  s.checked (.ixset k a b nr) fun s =>
    let g := s.run
    s.ixDone k fun t => (g.op32 b t).setWidth 16 ++ (lane (g.reg a.toNat) t).setWidth 16

def execIxadd (k : BitVec 2) (b : Opnd) (wrap nr : Bool) (s : State) : Host.Outcome State Fault Refusal :=
  s.checked (.ixadd k b wrap nr) fun s =>
    let g := s.run
    s.ixDone k fun t =>
      let n := g.ixIndex k t + (g.op32 b t).toNat % 2 ^ 16
      let bound := g.ixBound k t
      let i := if !wrap then n % 2 ^ 16 else if bound = 0 then 0 else n % bound
      BitVec.ofNat 16 bound ++ BitVec.ofNat 16 i

end Sys2Proof.Machine
end

