-- ==== Sys2Proof/Machine/Mmio.lean ====
section
/-! DEFINITION. The device registers of MMIO region 0x1, the counters and the snapshots behind them (R280, R334, R360-R366, R380,
R405, R408, R416). -/

namespace Sys2Proof.Machine

/-! ## Snapshots (R366) -/

/-- The status word. -/
def SnapStatus.word (n : SnapStatus) : Word :=
  BitVec.ofNat 64 (n.gen.toNat * 2 ^ 32 + n.lost % 256 * 2 ^ 24 + n.cause.toNat * 2 ^ 8 + (if n.arm then 1 else 0))

/-! ## Counters (R360-R362) -/

/-- A counter of a block and its select word. -/
def State.ctrOf (s : State) (b : CtrBlock) (i : Nat) : Word × Word :=
  match b with
  | .core n => ((s.core n).ctrs.toList.getD i 0, (s.core n).sels.toList.getD i 0)
  | .slice n => ((s.slice n).ctrs.toList.getD i 0, (s.slice n).sels.toList.getD i 0)
  | .engine n => ((s.engine n).ctrs.toList.getD i 0, (s.engine n).sels.toList.getD i 0)
  | .mxEngine n => ((s.mx n).ctrs.toList.getD i 0, (s.mx n).sels.toList.getD i 0)

/-- Writes a counter, or its select word with the reserved bits left out. -/
def State.setCtr (s : State) (b : CtrBlock) (i : Nat) (sel : Bool) (v : Word) : State :=
  let w := v &&& 0xFFFFF
  match b with
  | .core n =>
    let c := s.core n
    s.setCore n (if sel then { c with sels := c.sels.setIfInBounds i w } else { c with ctrs := c.ctrs.setIfInBounds i v })
  | .slice n =>
    let c := s.slice n
    s.setSlice n (if sel then { c with sels := c.sels.setIfInBounds i w } else { c with ctrs := c.ctrs.setIfInBounds i v })
  | .engine n =>
    let c := s.engine n
    s.setEngine n (if sel then { c with sels := c.sels.setIfInBounds i w } else { c with ctrs := c.ctrs.setIfInBounds i v })
  | .mxEngine n =>
    let c := s.mx n
    s.setMx n (if sel then { c with sels := c.sels.setIfInBounds i w } else { c with ctrs := c.ctrs.setIfInBounds i v })

/-- The number that names a counter among the shadows of a context. -/
def shadowKey (b : CtrBlock) (i : Nat) : Nat :=
  match b with
  | .core n => 16 * n + i
  | .slice n => 2 ^ 16 + 16 * n + i
  | .engine n => 2 ^ 17 + 16 * n + i
  | .mxEngine n => 2 ^ 18 + 16 * n + i

/-- The partition and the context of a select word (R360). -/
def selTag (w : Word) : Nat × Nat := ((w.extractLsb' 14 6).toNat, (w.extractLsb' 8 6).toNat)

/-- A 4-byte read of a counter's high half: the shadow (R362). -/
def State.ctrHigh (s : State) (b : CtrBlock) (i : Nat) : Word :=
  let tag := selTag (s.ctrOf b i).2
  ((s.ctx? tag.1 tag.2).elim 0 fun x => Tbl.get 0 x.shadows (shadowKey b i)).setWidth 64

/-- The counter that a number names among the shadows of a context. -/
def shadowCtr (k : Nat) : CtrBlock × Nat :=
  if k < 2 ^ 16 then (.core (k / 16), k % 16)
  else if k < 2 ^ 17 then (.slice ((k - 2 ^ 16) / 16), k % 16)
  else if k < 2 ^ 18 then (.engine ((k - 2 ^ 17) / 16), k % 16)
  else (.mxEngine ((k - 2 ^ 18) / 16), k % 16)

/-! ## Live update (R416) -/

/-- The hand-over structure that the old image writes (R416). -/
def State.handOver (s : State) : HandOver :=
  { header := Config.handOverHeader
    streams := s.streams.map fun x => (x.1, (x.2.w2.extractLsb' 32 32).toNat, x.2.lastTaken)
    grids := s.grids.map (·.2)
    packets := s.streams.flatMap fun x => (x.2.taken.filter fun p => p.done.isNone && p.grid.isNone).map fun p => (x.1, p.seq)
    ctxs := s.ctxs.map fun x => (x.1, x.2.st, x.2.desc)
    records := s.streams.flatMap fun x => x.2.taken.filterMap fun p => p.done.map fun d => (x.1, p.seq, d.1) }

/-- The firmware image of a slot: the one that the latest update of it wrote, or the shipped one. -/
def State.fwImage (s : State) (slot : Bool) : Config.Image := (Tbl.find s.dev.images (if slot then 1 else 0)).getD (Config.shippedImage slot)

/-- The image of at most 16 MiB at IMG, as memory holds it (R416). -/
def State.newImage (s : State) : Config.Image :=
  let a := s.dev.fwImg.toNat
  (s.mem.filter fun c => decide (a ≤ c.1) && decide (c.1 < a + 2 ^ 24)).map fun c => (c.1 - a, c.2)

/-- An image whose security version is below the fused minimum is rejected (R412). -/
def imageCurrent (x : Config.Image) : Bool := decide (Config.fusedMinimum.toNat ≤ (Config.imageSecurity x).toNat)

/-- An image verifies: it is signed by the fused key, and its security version is not too low (R412). -/
def imageGood (x : Config.Image) : Bool := Config.imageSigned x Config.fusedKey && imageCurrent x

/-- GO: an update starts, or is refused with STAT 5. The signature of the image at IMG has been found good or not; with a security version that
is too low it is rejected as well, and STAT is 3. A good one is written into the inactive slot (R412, R416, steps 1 to 4) (DEDUCED, log 69). -/
def State.startUpdate (s : State) (signed : Bool) : State :=
  if s.dev.upd || s.dev.devErr then { s with dev := { s.dev with fwStat := 5 } }
  else if signed && imageCurrent s.newImage then
    { s with dev := { s.dev with
        upd := true, fwStat := 1, update := .started s.time s.dev.heartbeat, handOver := s.handOver
        images := Tbl.put s.dev.images (if s.dev.slot then 0 else 1) s.newImage } }
  else { s with dev := { s.dev with fwStat := 3 } }

/-! ## The capability list (R410, R411) -/

/-- Where a field of a capability entry stands: words follow one another in the order in which R411 names them (DESIGN CHOICE, log 93). -/
inductive CapWord where
  | header (id len : Nat)
  | item (id i : Nat)
  deriving DecidableEq, Repr

/-- Words of the entries of revision 1, header included, in the order of their ids (R411) (DESIGN CHOICE, log 93). -/
def capLens : List Nat := [6, 3, 3, 4, 14, 7]

/-- The offset of an entry: the first stands at 0x1000, and each later one above the entry before it (R410) (DESIGN CHOICE, log 93). -/
def capOff : Nat → Nat
  | 0 => 0x1000
  | k + 1 => capOff k + 8 * (capLens.getD k 0 + Config.capGap k % 256)

/-- The word of a capability entry at an offset. -/
def capAt (off : Nat) : Option CapWord :=
  (List.range 6).findSome? fun k =>
    let i := (off - capOff k) / 8
    if capOff k ≤ off && i < capLens.getD k 0 then some (if i = 0 then .header (k + 1) (capLens.getD k 0) else .item (k + 1) i) else none

/-- The offsets of the slice and engine counters, which the COUNTERS entry gives (R360, R411) (DESIGN CHOICE, log 31). -/
def sliceCtrBase : Nat := 0x420000 + 0x100 * (Config.sliceGap % 256)
def engineCtrBase : Nat := sliceCtrBase + 0x8000 + 0x100 * (Config.engineGap % 256)

/-- The block of engine counters number `n`: an async engine by its SRC number, and from 96 on the matrix engines (DESIGN CHOICE, log 31). -/
def engineBlock (n : Nat) : CtrBlock := if n < 96 then .engine n else .mxEngine (n - 96)

/-- The offset of a counter (R360). -/
def ctrOff (b : CtrBlock) (i : Nat) : Nat :=
  match b with
  | .core n => 0x400000 + 0x100 * n + 8 * i
  | .slice n => sliceCtrBase + 0x100 * n + 8 * i
  | .engine n => engineCtrBase + 0x100 * n + 8 * i
  | .mxEngine n => engineCtrBase + 0x100 * (n + 96) + 8 * i

/-! ## Register reads and writes -/

/-- The registers with an offset of their own, and the block counters. -/
inductive MmioReg where
  | devstat | statbase | heartbeat | fwctl
  | peer (w : Nat)
  | stream (n word : Nat)
  | partDesc (p : Nat)
  | quota (n p : Nat)
  | frame (off : Nat)
  | cap (off : Nat)
  | ctr (b : CtrBlock) (i : Nat)
  | sel (b : CtrBlock) (i : Nat)
  | snapStatus | snapTrigger
  | snapReg (i : Nat)
  | other
  deriving DecidableEq, Repr

/-- What stands at an MMIO offset, a multiple of 8. -/
def mmioReg (off : Nat) : MmioReg :=
  if off = 0 then .devstat
  else if off = 8 then .statbase
  else if off = 0x10 then .heartbeat
  else if off = 0x18 then .fwctl
  else if 0x80000 ≤ off ∧ off < 0x88000 then .peer ((off - 0x80000) / 8)
  else if 0x100000 ≤ off ∧ off < 0x120000 then .stream ((off - 0x100000) / 32) (off / 8 % 4)
  else if 0x200000 ≤ off ∧ off < 0x200180 then .partDesc ((off - 0x200000) / 8)
  else if 0x240000 ≤ off ∧ off < 0x264000 then .quota ((off - 0x240000) / 8 / 48) ((off - 0x240000) / 8 % 48)
  else if 0x300000 ≤ off ∧ off < 0x300A00 then .frame off
  else if 0x400000 ≤ off ∧ off < 0x418000 then
    let i := off / 8 % 32
    if i < 16 then .ctr (.core ((off - 0x400000) / 256)) i else .sel (.core ((off - 0x400000) / 256)) (i - 16)
  else if 0x1000 ≤ off ∧ off < 0x80000 then .cap off
  else if 0x420000 ≤ off ∧ off < 0x454000 then
    let word (b : CtrBlock) : MmioReg :=
      let i := off / 8 % 32
      if i < 8 then .ctr b i else if 16 ≤ i ∧ i < 24 then .sel b (i - 16) else .other
    if sliceCtrBase ≤ off ∧ off < sliceCtrBase + 0x8000 then word (.slice ((off - sliceCtrBase) / 0x100))
    else if engineCtrBase ≤ off ∧ off < engineCtrBase + 0xC000 then word (engineBlock ((off - engineCtrBase) / 0x100))
    else .other
  else
    match Config.mmioUnit off with
    | .none => .other
    | .snapStatus => .snapStatus
    | .snapTrigger => .snapTrigger
    | .snapReg i => .snapReg i

/-- The shadows of a context as its save area holds them: 512 entries of a shadow and an offset, those not in use zero (R384). -/
def Ctx.shadowWords (c : Ctx) : List Word :=
  (List.range 512).map fun j => match c.shadows[j]? with
    | some x => BitVec.ofNat 64 (x.2.toNat * 2 ^ 32 + ctrOff (shadowCtr x.1).1 (shadowCtr x.1).2 / 8)
    | none => 0

/-- The shadows that entries of a save area give back (R362, R384). -/
def shadowsOf (ws : List Word) : Tbl (BitVec 32) :=
  ws.foldl (fun t (w : Word) =>
    if w = 0 then t
    else match mmioReg (8 * (w.extractLsb' 0 32).toNat) with
      | .ctr b i => Tbl.put t (shadowKey b i) (w.extractLsb' 32 32)
      | _ => t) []

/-- The counter shadows of a context go to the header of its save area, and come back from there (R362, R384). -/
def State.saveShadows (s : State) (part ctx : Nat) : State :=
  match s.ctx? part ctx with
  | some c => s.writeWords (bitsOf c.desc[7] 22 30 * 2 ^ 22) c.shadowWords
  | none => s

def State.loadShadows (s : State) (part ctx : Nat) : State :=
  match s.ctx? part ctx with
  | some c =>
    if c.st == .stopped then s.setCtx part ctx { c with shadows := shadowsOf ((List.range 512).map fun i => Memory.word s.mem (bitsOf c.desc[7] 22 30 * 2 ^ 22 + 8 * i)) } else s
  | none => s

/-- A 4-byte read of a counter's low half: the high half goes to the shadow of the tagged context, which a stopped one has in its save area (R362). -/
def State.ctrLow (s : State) (b : CtrBlock) (i : Nat) : State × Word :=
  let c := s.ctrOf b i
  let tag := selTag c.2
  match s.ctx? tag.1 tag.2 with
  | some x =>
    let t := s.setCtx tag.1 tag.2 { x with shadows := Tbl.put x.shadows (shadowKey b i) (c.1.extractLsb' 32 32) }
    (if x.st == .stopped then t.saveShadows tag.1 tag.2 else t, c.1 &&& 0xFFFFFFFF)
  | none => (s, c.1 &&& 0xFFFFFFFF)

/-- DEVSTAT (R405). -/
def State.devstat (s : State) : Word :=
  BitVec.ofNat 64 (s.dev.errc % 256 * 256 + (if s.dev.upd then 32 else 0) + (if s.dev.slot then 16 else 0)
    + (if s.dev.devErr then 2 else 0) + (if s.dev.ready then 1 else 0))

/-- A word of the capability list (R410, R411): the counts of R8, the offsets and counts of the registers, the state of the ports, the slot.
What R411 leaves to the implementation is free (DESIGN CHOICE, log 93). -/
def State.capWord (s : State) (off : Nat) : Word :=
  match capAt off with
  | none => Config.mmioWord off
  | some (.header id len) =>
    BitVec.ofNat 64 ((if id = 6 then 0 else capOff id) * 2 ^ 32 + len * 2 ^ 24 + (Config.capVer id).toNat * 2 ^ 16 + id)
  | some (.item id i) =>
    match id, i with
    | 1, 1 => 1
    | 1, 2 => 2
    | 1, 3 => 16
    | 1, 4 => 384
    | 1, 5 => Config.deviceNumber.setWidth 64
    | 2, 1 => 0x100000
    | 2, 2 => 4096
    | 3, 1 => 0x200000
    | 3, 2 => 0x240000
    | 4, 1 => 0x400000
    | 4, 2 => BitVec.ofNat 64 sliceCtrBase
    | 4, 3 => BitVec.ofNat 64 engineCtrBase
    | 5, 13 => 0x80000
    | 5, p =>
      let x := s.dev.ports.toList.getD (p - 1) {}
      BitVec.ofNat 64 (x.replays % 2 ^ 32 * 2 ^ 32 + (if x.up then 1 else 0)) ||| (Config.mmioWord off &&& 0xF0)
    | 6, 1 => Config.imageVersion (s.fwImage false)
    | 6, 2 => Config.imageSecurity (s.fwImage false)
    | 6, 3 => Config.imageVersion (s.fwImage true)
    | 6, 4 => Config.imageSecurity (s.fwImage true)
    | 6, 5 => if s.dev.slot then 1 else 0
    | 6, 6 => Config.fusedMinimum
    | _, _ => Config.mmioWord off

/-- A supervisor's store to a trap frame word changes its RW fields (R376). -/
def frameField (i : Nat) : Word :=
  if i = 1 then 0x1FFFFFFFFFFFFFFF
  else if i = 2 then 0xFFFFFFFF00000000
  else if i = 5 then 0xFFFFFFFFFFFFFFFF
  else if i = 6 then 1
  else 0

/-- A stream entry's word (R280). -/
def Stream.word (x : Stream) (i : Nat) : Word := if i = 0 then x.w0 else if i = 1 then x.w1 else if i = 2 then x.w2 else 0

/-- The fields of word 2 of a stream entry (R280). -/
def Stream.state (x : Stream) : Nat := (x.w2.extractLsb' 30 2).toNat
def Stream.nextSeq (x : Stream) : Nat := (x.w2.extractLsb' 32 32).toNat
def Stream.part (x : Stream) : Nat := (x.w2.extractLsb' 16 6).toNat
def Stream.ctx (x : Stream) : Nat := (x.w2.extractLsb' 0 6).toNat
def Stream.prioMax (x : Stream) : Nat := (x.w2.extractLsb' 24 3).toNat

/-- A log of packets or records: its size exponent and base are in range, aligned and in region 0x0 or 0x4 to 0x7 (R280). -/
def logWordOk (w : Word) (unit : Nat) : Bool :=
  let sz := (w.extractLsb' 58 6).toNat
  let base := (w.extractLsb' 0 52).toNat
  4 ≤ sz && sz ≤ 20 && base % (unit * 2 ^ sz) == 0 && (region base == .dev || region base == .host)

/-- A supervisor's write of a stream entry's word (R280) (DEDUCED, log 36). -/
def Stream.write (x : Stream) (i : Nat) (v : Word) : Stream :=
  if i = 0 then { x with w0 := v &&& 0xFC0FFFFFFFFFFFFF }
  else if i = 1 then { x with w1 := v &&& 0xFC0FFFFFFFFFFFFF }
  else if i = 2 then
    let st := (v.extractLsb' 30 2).toNat
    let keepState := st = 3 || (st = 1 && !(logWordOk x.w0 64 && logWordOk x.w1 16))
    let newState := if keepState then x.state else st
    let newSeq := if x.state = 0 || x.state = 2 then v.extractLsb' 32 32 else x.w2.extractLsb' 32 32
    { x with
      w2 := newSeq.setWidth 64 <<< 32 ||| BitVec.ofNat 64 (newState * 2 ^ 30) ||| (v &&& 0x073F003F)
      awake := newState = 1 }
  else x

/-- A stream that is set running for a context joins the automatic windows that lack it, with the position it has (R266). -/
def Ctx.joinStream (c : Ctx) (n pos : Nat) : Ctx :=
  { c with windows := c.windows.map fun w =>
      if w.auto && !w.positions.any (·.1 == n) then { w with positions := w.positions ++ [(n, pos)] } else w }

/-- A supervisor's write of word `i` of stream entry `n`, which may set the stream running for a context (R266, R280). -/
def State.writeStream (s : State) (n i : Nat) (v : Word) : State :=
  let old := s.stream n
  let x := old.write i v
  let s1 := s.setStream n x
  if x.state = 1 && (old.state != 1 || x.part != old.part || x.ctx != old.ctx) then
    match s1.ctx? x.part x.ctx with
    | some c => s1.setCtx x.part x.ctx (c.joinStream n ((x.nextSeq + 2 ^ 32 - 1) % 2 ^ 32))
    | none => s1
  else s1

/-- An aligned 8-byte read of a device register. Before READY only DEVSTAT reads (R415). -/
def State.mmioRead8 (s : State) (off : Nat) : State × Word :=
  if !s.dev.ready then (s, if off = 0 then s.devstat else 0)
  else
    match mmioReg off with
    | .devstat => (s, s.devstat)
    | .statbase => (s, s.dev.statbase)
    | .heartbeat => (s, s.dev.heartbeat)
    | .fwctl => (s, s.dev.fwImg ||| BitVec.ofNat 64 (s.dev.fwStat % 16 * 256))
    | .peer w => (s, Tbl.get 0 s.dev.peers w)
    | .stream n i => (s, (s.stream n).word i)
    | .partDesc p => (s, s.partDesc p)
    | .quota n p => (s, s.quotaWord n p)
    | .frame o => (s, Tbl.get 0 s.dev.frames o)
    | .cap o => (s, s.capWord o)
    | .ctr b i => (s, (s.ctrOf b i).1)
    | .sel b i => (s, (s.ctrOf b i).2)
    | .snapStatus => ({ s with dev := { s.dev with snap := { s.dev.snap with lost := 0 } } }, s.dev.snap.word)
    | .snapTrigger => (s, Config.mmioWord off)
    | .snapReg i => (s, s.dev.snapRegs.words.getD i 0)
    | .other => (s, Config.mmioWord off)

/-- A read of 4 or 8 bytes, aligned to its size (R195, R362) (DEDUCED, log 30). -/
def State.mmioRead (s : State) (off n : Nat) : State × Word :=
  if n = 8 then s.mmioRead8 off
  else
    let base := off / 8 * 8
    let high := off % 8 = 4
    match s.dev.ready, mmioReg base with
    | true, .ctr b i => if high then (s, s.ctrHigh b i) else s.ctrLow b i
    | true, .snapStatus => if high then (s, s.dev.snap.word >>> 32) else
        let r := s.mmioRead8 base
        (r.1, r.2 &&& 0xFFFFFFFF)
    | _, _ =>
      let r := s.mmioRead8 base
      (r.1, if high then r.2 >>> 32 else r.2 &&& 0xFFFFFFFF)

/-- An aligned 8-byte write of a device register; before READY it is ignored (R415). -/
def State.mmioWrite8 (s : State) (off : Nat) (v : Word) : State :=
  if !s.dev.ready then s
  else
    match mmioReg off with
    | .statbase =>
      if s.streams.all fun x => x.2.state == 0 then { s with dev := { s.dev with statbase := v &&& 0x000FFFFFFFFF0001 } } else s
    | .fwctl =>
      let s1 := { s with dev := { s.dev with fwImg := v &&& 0x000FFFFFFFFFF000 } }
      if v.getLsbD 0 then s1.startUpdate (Config.imageSigned s1.newImage Config.fusedKey) else s1
    | .peer w => { s with dev := { s.dev with peers := Tbl.put s.dev.peers w (v &&& 0xC0FFFC0000000FFF) } }
    | .stream n i => s.writeStream n i v
    | .frame o =>
      let m := frameField (o / 8 % 16)
      { s with dev := { s.dev with frames := Tbl.put s.dev.frames o ((Tbl.get 0 s.dev.frames o &&& ~~~m) ||| (v &&& m)) } }
    | .ctr b i => s.setCtr b i false v
    | .sel b i => s.setCtr b i true v
    | .snapStatus => { s with dev := { s.dev with snap := { s.dev.snap with arm := v.getLsbD 0 } } }
    | .snapTrigger => s.snapTrigger 4
    | .snapReg _ => s
    | .devstat => s
    | .heartbeat => s
    | .partDesc _ => s
    | .quota _ _ => s
    | .cap _ => s
    | .other => s

/-- A write of 4 or 8 bytes, aligned to its size. A 4-byte write replaces its half of the register; counters take 8-byte writes
only (R360) (DEDUCED, log 30). -/
def State.mmioWrite (s : State) (off n : Nat) (v : Word) : State :=
  if n = 8 then s.mmioWrite8 off v
  else
    let base := off / 8 * 8
    match mmioReg base with
    | .ctr _ _ => s
    | .sel _ _ => s
    | .fwctl => if off % 8 = 0 then s.mmioWrite8 base ((s.dev.fwImg &&& 0xFFFFFFFF00000000) ||| (v &&& 0xFFFFFFFF))
        else s.mmioWrite8 base ((s.dev.fwImg &&& 0xFFFFFFFF) ||| (v <<< 32))
    | .snapStatus => if off % 8 = 0 then s.mmioWrite8 base v else s
    | _ =>
      let old := (s.mmioRead8 base).2
      s.mmioWrite8 base (if off % 8 = 0 then (old &&& 0xFFFFFFFF00000000) ||| (v &&& 0xFFFFFFFF)
        else (old &&& 0xFFFFFFFF) ||| (v <<< 32))

end Sys2Proof.Machine
end

