-- ==== Sys2Proof/Machine/Memory.lean ====
section
/-! DEFINITION. Memories I and III: addresses, caches, loads, stores, atomics, fences, prefetch and line maintenance, FIFOs, and the
requests of bank modes (R194-R206, R232-R253). What an instruction waits for before it performs stands in Order.lean. -/

namespace Sys2Proof.Machine

/-! ## Addresses (R194, R197, R233) -/

/-- A failed access: its cause, its address and the level of a walk (R237). -/
structure Fail where
  cause : Nat
  addr : Nat
  info : Nat := 0
  deriving DecidableEq, Repr

/-- The address of lane `t` of LD, ST, LDS, STS, PRF and CMNT (R233). -/
def Group.addr (g : Group) (global : Bool) (b : Base) (off : Word) (t : Nat) : Word :=
  (match b with
    | .vec a => if global then g.lane64 a.toNat t else (lane (g.reg a.toNat) t).setWidth 64
    | .sca a i => g.pos a + (if i = 0 then 0 else (lane (g.reg i.toNat) t).setWidth 64)) + off

/-- The address of lane `t` of ATOM and ATMF (R233). -/
def Group.aaddr (g : Group) (global : Bool) (b : ABase) (off : Word) (t : Nat) : Word :=
  (match b with
    | .vec a => if global then g.lane64 a.toNat t else (lane (g.reg a.toNat) t).setWidth 64
    | .sca a => g.pos a) + off

/-- Pipe cycles of LD, ST, LDS and STS (R232). -/
def Group.memCyc (g : Group) (sz : Sz) : Nat := if sz = .b32 then max 1 (2 * popMask g.em) else g.cyc

/-- Where a byte range of one page lies. -/
inductive Place where
  | mem (pa : Nat)                    -- device or host memory
  | peer (key pa : Nat)               -- a peer's memory, and the address in the window
  | mmio (off : Nat)
  deriving DecidableEq, Repr

/-- A live port that may carry a window's traffic (R409). -/
def State.livePorts (s : State) (entry : Word) : List Nat :=
  (List.range 12).filter fun p => entry.getLsbD p && (s.dev.ports.toList.getD p {}).up

/-- The port of a line of a window (R409). -/
def State.portOf (s : State) (entry : Word) (pa : Nat) : Nat :=
  let l := s.livePorts entry
  l.getD (pa / 128 % 128 % l.length) 0

/-- The window of a physical address (R195). -/
def windowOf (pa : Nat) : Nat := pa / 2 ^ 39 % 4096

/-- The address rules on a physical address (R195, R237, R408, R409) (DESIGN CHOICE, log 32). -/
def State.placeOf (s : State) (pa n : Nat) (acc : Access) : Except Nat Place :=
  match region pa with
  | .dev => .ok (.mem pa)
  | .host => .ok (.mem pa)
  | .reserved => .error cACCESS
  | .mmio => if (n = 4 || n = 8) && pa % n == 0 then .ok (.mmio (pa % 2 ^ 48)) else .error cALIGN
  | .peer =>
    let e := Tbl.get 0 s.dev.peers (windowOf pa)
    if !e.getLsbD 63 || (acc == .wr && !e.getLsbD 62) || (s.livePorts e).isEmpty || s.dev.refusing.contains (e.extractLsb' 42 14).toNat
    then .error cACCESS
    else .ok (.peer (peerKey (e.extractLsb' 42 14).toNat (pa % 2 ^ 39)) pa)

/-- Locates bytes that lie in one page (R194, R195, R327). -/
def State.locate1 (s : State) (va : Word) (n : Nat) (acc : Access) : State × Except Fail Place :=
  if va.extractLsb' 56 8 != 0 then (s, .error ⟨cACCESS, va.toNat, 0⟩)
  else
    let g := s.run
    match s.translate g.core g.part g.ctx va.toNat acc (!s.isSup g) with
    | (s1, .error e) => (s1, .error ⟨e.1, va.toNat, e.2⟩)
    | (s1, .ok pa) =>
      match s1.placeOf pa n acc with
      | .error c => (s1, .error ⟨c, va.toNat, 0⟩)
      | .ok p => (s1, .ok p)

/-- Locates the bytes of an access: one piece, or two where it crosses a page, which no access to MMIO may (R195). -/
def State.locate (s : State) (va : Word) (n : Nat) (acc : Access) : State × Except Fail (List (Place × Nat)) :=
  let first := 4096 - va.toNat % 4096
  if n ≤ first then
    match s.locate1 va n acc with
    | (s1, .error e) => (s1, .error e)
    | (s1, .ok p) => (s1, .ok [(p, n)])
  else
    match s.locate1 va 0 acc with
    | (s1, .error e) => (s1, .error e)
    | (s1, .ok p) =>
      match s1.locate1 (va + BitVec.ofNat 64 first) 0 acc with
      | (s2, .error e) => (s2, .error e)
      | (s2, .ok q) => (s2, .ok [(p, first), (q, n - first)])

/-- A resident team's window on device core `n` that holds offset `off` (R199). -/
def Team.holds (t : Team) (n off : Nat) : Bool :=
  t.at' == .resident && t.core == n && t.winBase ≤ off && off < t.winBase + 1024 * t.winRows

/-- The team whose window an absolute scratchpad byte of cluster `k` lies in, for an accessor (R199). -/
def State.winAt (s : State) (g : Group) (core off : Nat) : Option Nat :=
  (s.teams.find? fun t => t.2.holds (24 * g.cluster + core) off && (g.kind != .compute ||
    (s.grid? t.2.grid).elim false (·.part == g.part))).map (·.1)

/-- The key in `spad` of a scratchpad byte that an agent names, and the team whose window it lies in (R197, R199). The bits
[63:24] that must be zero are those of the address formed with the offsets (DEDUCED, log 106). -/
def State.spadByte (s : State) (g : Group) (a : Nat) : Option (Nat × Nat) :=
  if 2 ^ 24 ≤ a then none
  else
    let c := a / 2 ^ 19
    let off := a % 2 ^ 19
    if c = 31 then
      if g.kind = .compute then
        match s.team? g.teamKey with
        | some t => if off < 1024 * t.winRows then some (spadKey g.cluster (g.core % 24) (t.winBase + off), g.teamKey) else none
        | none => none
      else none
    else if 24 ≤ c then none
    else (s.winAt g c off).map fun k => (spadKey g.cluster c off, k)

/-- The keys of the bytes of a scratchpad access, checked byte by byte before any byte is accessed (R199). -/
def State.spadBytes (s : State) (g : Group) (a : Word) (n : Nat) : Option (List (Nat × Nat)) :=
  (List.range n).mapM fun i => s.spadByte g (a.toNat + i)

/-- The write generation of a window rises, and the entries that its old one tags are dropped (R87, R88). -/
def State.raiseGen (s : State) (key : Nat) : State :=
  match s.team? key with
  | some t => { (s.setTeam key { t with winGen := s.nextId }).lapse t.core t.winGen with nextId := s.nextId + 1 }
  | none => s

/-! ## Lanes in order (R235, R237) -/

/-- Runs the lanes of an instruction in ascending order up to the first that fails: the values of the lanes that performed. -/
def runLanes (f : State → Nat → State × Except Fail Nat) : State → List Nat → State × List (Nat × Nat) × Option Fail
  | s, [] => (s, [], none)
  | s, t :: ts =>
    match f s t with
    | (s1, .error e) => (s1, [], some e)
    | (s1, .ok x) =>
      let r := runLanes f s1 ts
      (r.1, (t, x) :: r.2.1, r.2.2)

/-- The mask of the lanes that performed. -/
def doneLanes (xs : List (Nat × Nat)) : Lane := mkMask fun t => xs.any (·.1 == t)

/-- The value of a lane. -/
def laneVal (xs : List (Nat × Nat)) (t : Nat) : Nat := (xs.find? (·.1 == t)).elim 0 (·.2)

/-- The fault of a memory instruction (R237). -/
def State.memFault (s : State) (e : Fail) (done : Lane) : State := s.faultExact e.cause e.addr e.info done

/-- A value of `n` bytes extended to `w` bits (R234). -/
def extend (sx : Bool) (n w x : Nat) : Nat := if sx then wrapInt w (readInt true (8 * n) x) else x

/-- The registers that hold the lanes' data (R234): 32-bit word `k` of every lane in register `k`. -/
def packRegs (n : Nat) (xs : List (Nat × Nat)) : List VReg :=
  (List.range n).map fun k => mkLanes fun t => BitVec.ofNat 32 (laneVal xs t / 2 ^ (32 * k))

/-- The data of lane `t` in `n` consecutive registers from D (R234). -/
def Group.storeData (g : Group) (d : RegNo) (n t : Nat) : Nat :=
  ((List.range n).map fun k => (lane (g.reg (d.toNat + k)) t).toNat * 2 ^ (32 * k)).sum

/-! ## Reading and writing places -/

/-- Bytes of a place as the running agent reads them. A control or scheduler core has no write-through buffer (R211). -/
def State.readPlace (s : State) (p : Place) (n : Nat) : State × List Byte :=
  match p with
  | .mem pa =>
    (s, if s.run.kind = .compute then (List.range n).map fun i => s.coreByte s.run.core (pa + i) else Memory.read s.mem pa n)
  | .peer key _ => (s, Memory.read s.mem key n)
  | .mmio off =>
    let r := s.mmioRead off n
    (r.1, leBytes r.2.toNat n)

/-- What a load of bytes looks up: a thread's in its cluster's cache and the home slice, that of another core in the home slice alone (R204,
R205) (DESIGN CHOICE, log 85). -/
def State.readTouch (s : State) (pa n : Nat) (h : Hint) : State :=
  if s.run.kind = .compute then s.touch s.run pa n h else s.reachBytes pa n s.run.part s.run.ctx h

/-- Reads the pieces of an access. -/
def State.readPieces (s : State) : List (Place × Nat) → State × List Byte
  | [] => (s, [])
  | (p, n) :: ps =>
    let r := s.readPlace p n
    let q := r.1.readPieces ps
    (q.1, r.2 ++ q.2)

/-- Each 32-byte sector's bytes enter the write-through buffer (R211). -/
def State.bufStores (s : State) (core part ctx grid : Nat) (h : Hint) : List (Nat × List (Option Byte)) → State
  | [] => s
  | (pa, bs) :: ps => (s.bufStore core pa (bs.map (·.getD 0)) part ctx grid h).bufStores core part ctx grid h ps

/-- A store to a peer performs at the peer, is owed an acknowledgement and marks the window (R230, R272). -/
def State.peerStore (s : State) (key pa : Nat) (bs : List Byte) : State :=
  let g := s.run
  let e := Tbl.get 0 s.dev.peers (windowOf pa)
  let out : PeerReqOut := ⟨windowOf pa, g.gid, s.portOf e pa, pa, e, key, Memory.read s.mem key bs.length⟩
  let s1 : State := { s with mem := Memory.write s.mem key bs, dev := { s.dev with peerOut := s.dev.peerOut ++ [out] } }
  s1.markBy g.grid g.part g.ctx 2 pa

/-- Bytes of a store go to a place (R205, R241, R272) (DESIGN CHOICE, log 33). -/
def State.writePlace (s : State) (p : Place) (bs : List Byte) (h : Hint) : State :=
  let g := s.run
  match p with
  | .mem pa =>
    if g.kind = .compute then
      (s.storeHint g.cluster pa bs.length h).bufStores g.core g.part g.ctx g.grid h (splitSectors (bs.length + 1) pa (bs.map some))
    else
      let s1 := (s.perform pa (bs.map some) true g.part g.ctx g.grid).reachBytes pa bs.length g.part g.ctx h
      if region pa == .host then s1.markBy g.grid g.part g.ctx 1 pa else s1
  | .peer key pa => s.peerStore key pa bs
  | .mmio off => (s.mmioWrite off bs.length (BitVec.ofNat 64 (leNat bs))).markBy g.grid g.part g.ctx 3 (2 ^ 48 + off)

/-- Writes the pieces of an access. -/
def State.writePieces (s : State) (bs : List Byte) (h : Hint) : List (Place × Nat) → State
  | [] => s
  | (p, n) :: ps => (s.writePlace p (bs.take n) h).writePieces (bs.drop n) h ps

/-- A release notice: the core joins the sharers of a line (R220). -/
def State.notice (s : State) (core line : Nat) : State :=
  let sl := homeSlice line
  let q := s.slice sl
  let old := Tbl.get [] q.sharers line
  s.setSlice sl { q with sharers := Tbl.put q.sharers line (if old.contains core then old else old ++ [core]) }

/-- The notices of a core-scope release of a store or an atomic to device memory, or of one that such a release fence goes before (R219,
R220). -/
def State.notices (s : State) (ord : MOrd) (sco : Scope) (ps : List (Place × Nat)) : State :=
  if ((ord.releases && sco == .core) || s.run.relFence) && s.run.kind == .compute then
    ps.foldl (fun t p => match p.1 with
      | .mem pa => if region pa == .dev then
          (List.range ((pa + p.2 - 1) / 128 - pa / 128 + 1)).foldl (fun t i => t.notice t.run.core ((pa / 128 + i) * 128)) t else t
      | _ => t) s
  else s

/-- A release fence of core scope is behind the group from here on (R219). -/
def State.fenced (s : State) (ord : MOrd) (sco : Scope) : State :=
  if ord.releases && sco == .core then s.setRun { s.run with relFence := true } else s

/-- An access of no lane still acts as a fence of its order and scope (R235). -/
def State.emptyFence (s : State) (em : Lane) (ord : MOrd) (sco : Scope) : State := if em = 0 then s.fenced ord sco else s

/-! ## Watches (R369) -/

/-- A watch word matches an access of `n` bytes. -/
def watchHit (w : Word) (wr rd : Bool) (a n : Nat) : Bool :=
  let size := 2 ^ (w.extractLsb' 56 5).toNat
  let base := (w.extractLsb' 0 56).toNat
  let kind := (w.extractLsb' 61 2).toNat
  w.getLsbD 63 && ((rd && kind % 2 == 1) || (wr && 2 ≤ kind)) && base < a + n && a < base + size

/-- The first access of an instruction that matches a watch of the context: the watch and the address (DEDUCED, log 35). -/
def watchOf (ws : List (Nat × Word)) (wr rd : Bool) (n : Nat) : List Nat → Option (Nat × Nat)
  | [] => none
  | a :: as =>
    match ws.find? fun w => watchHit w.2 wr rd a n with
    | some w => some (w.1, a)
    | none => watchOf ws wr rd n as

/-- A matching instruction has the group stop at the end of its clause (R369) (DEDUCED, log 35). -/
def State.watch (s : State) (wr rd : Bool) (n : Nat) (addrs : List Nat) : State :=
  let g := s.run
  let d := s.desc g.part g.ctx
  let ws := [(0, d[12]), (1, d[13]), (2, d[14]), (3, d[15])]
  if g.kind != .compute || g.pend.isSome || !ws.any (·.2.getLsbD 63) then s
  else
    match watchOf ws wr rd n addrs with
    | some x => s.setRun { g with pend := some (.watch x.1 x.2 g.word) }
    | none => s

/-! ## Long-latency operations (R52, R53) -/

/-- The flags that a clause's operations count on (DEDUCED, log 43). -/
def flagNames (seta setb : BitVec 4) : List Nat :=
  (if seta.toNat < 12 then [seta.toNat] else []) ++ (if setb.toNat < 12 && setb != seta then [setb.toNat] else [])

/-- The group's clause counts an operation on its flags (R52). -/
def Group.countOp (g : Group) (seta setb : BitVec 4) : Group :=
  { g with cf := (flagNames seta setb).foldl (fun cf n => vmod cf n fun f => { pending := true, count := f.count + 1 }) g.cf }

/-- An operation completes: its flags are counted down, and a flag that reaches zero clears unless its clause is open (R52,
R55). -/
def Group.endOp (g : Group) (seta setb : BitVec 4) : Group :=
  { g with cf := (flagNames seta setb).foldl (fun cf n => vmod cf n fun f =>
      ⟨f.count - 1 != 0 || g.openSets.contains n, f.count - 1⟩) g.cf }

/-- The SET fields of the open clause. -/
def Group.sets (g : Group) : BitVec 4 × BitVec 4 := g.clause.elim (15, 15) fun c => (c.h.seta, c.h.setb)

/-- A load-class operation issues: it is outstanding until LOAD_COMPLETE, and the group goes on (R53). -/
def State.issueLoad (s : State) (dst : LoadDst) (fifo : Option (Nat × Nat)) (keys : List ReuseKey) (cyc : Nat) : State :=
  let g := s.run
  let f := g.sets
  let s1 := s.charge cyc
  { s1 with
    nextId := s.nextId + 1
    run := { g.countOp f.1 f.2 with
      loads := g.loads ++ [⟨s.nextId, dst, f.1, f.2, fifo, keys, g.wordAddr⟩]
      doneMask := 0, word := g.word + 1 } }

/-! ## Loads (R240, R242) -/

/-- One lane's load from global memory. INV admits device memory only (R240). -/
def State.loadGlobal (s : State) (a : Word) (n : Nat) (inv : Bool) (h : Hint) : State × Except Fail Nat :=
  match s.locate a n .rd with
  | (s1, .error e) => (s1, .error e)
  | (s1, .ok ps) =>
    let plain (p : Place × Nat) : Bool := match p.1 with
      | .mem pa => region pa == .dev
      | _ => false
    if inv && !ps.all plain then (s1, .error ⟨cACCESS, a.toNat, 0⟩)
    else
      let r := s1.readPieces ps
      (ps.foldl (fun t p => match p.1 with
        | .mem pa => t.readTouch pa p.2 h
        | _ => t) r.1, .ok (leNat r.2))

/-- One lane's load from scratchpad. -/
def State.loadSpad (s : State) (a : Word) (n : Nat) : State × Except Fail Nat :=
  match s.spadBytes s.run a n with
  | none => (s, .error ⟨cSCRBND, a.toNat, 0⟩)
  | some ks => (s, .ok (leNat (ks.map fun k => Memory.get s.spad k.1)))

/-- The keys under which a tagged load may be found or installed (R83, R84, R87). -/
def State.loadKeys (s : State) (i : Instr) (d : RegNo) (n tag : Nat) : List ReuseKey :=
  let g := s.run
  let w := (encode i).getD 0
  if g.em = 0 then []
  else (List.range n).map fun k => g.reuseKey i w (some tag) k (d.toNat + k)

/-- Every key is in the reuse table: the results, in order (R83, R85). -/
def State.loadHit (s : State) (keys : List ReuseKey) : Option (List VReg) :=
  let t := (s.core s.run.core).reuse
  if keys.isEmpty then none else keys.mapM fun k => (t.find? (·.key == k)).map (·.res)

/-- A load that hits shares its results and retires in two cycles (R86). -/
def State.shareLoad (s : State) (keys : List ReuseKey) (d : RegNo) (res : List VReg) : State :=
  let g := s.run
  let ws := res.zipIdx.map fun x => (d.toNat + x.2, x.1)
  let s1 := ws.foldl (fun t x => (t.writeResult x.1 x.2 true).1) s
  let c1 := s1.core g.core
  let c2 := { c1 with
    reuse := c1.reuse.map fun (e : ReuseEntry) => if keys.contains e.key then { e with used := c1.stamp } else e
    stamp := c1.stamp + 1, cyc := c1.cyc + 2 }
  let s2 := s1.setCore g.core (c2.count 0x03 g.part g.ctx 1)
  { s2 with run := { s2.run with word := g.word + 1 } }

/-- LD (R240). -/
def execLd (sz : Sz) (hint : Hint) (inv sx prm : Bool) (ord : MOrd) (sco : Scope) (d : RegNo) (base : Base) (off : BitVec 16)
    (s : State) : Host.Outcome State Fault Refusal :=
  let i := Instr.ld sz hint inv sx prm ord sco d base off
  s.checked i fun s =>
    let g := s.run
    let keys := if inv then s.loadKeys i d sz.regs g.grid else []
    match s.loadHit keys with
    | some res => s.shareLoad keys d res
    | none =>
      let addr := g.addr true base (off.signExtend 64)
      let r := runLanes (fun t l => t.loadGlobal (addr l) sz.bytes inv hint) s (activeLanes g.em)
      match r.2.2 with
      | some e => r.1.memFault e (doneLanes r.2.1)
      | none =>
        let vals := packRegs sz.regs (r.2.1.map fun x => (x.1, extend sx sz.bytes 32 x.2))
        ((r.1.watch false true sz.bytes ((activeLanes g.em).map fun l => (addr l).toNat)).emptyFence g.em ord sco).issueLoad (.vec d g.em vals) none keys
          (g.memCyc sz)

/-- LDS (R240): it installs only where every active lane reads its own team's window (R87). -/
def execLds (sz : Sz) (sx : Bool) (ord : MOrd) (sco : Scope) (d : RegNo) (base : Base) (off : BitVec 16) (s : State) :
    Host.Outcome State Fault Refusal :=
  let i := Instr.lds sz sx ord sco d base off
  s.checked i fun s =>
    let g := s.run
    let addr := g.addr false base (off.signExtend 64)
    let keys := s.loadKeys i d sz.regs ((s.team? g.teamKey).elim 0 (·.winGen))
    match s.loadHit keys with
    | some res => s.shareLoad keys d res
    | none =>
      let r := runLanes (fun t l => t.loadSpad (addr l) sz.bytes) s (activeLanes g.em)
      match r.2.2 with
      | some e => r.1.memFault e (doneLanes r.2.1)
      | none =>
        let own := (activeLanes g.em).all fun l => (s.spadBytes g (addr l) sz.bytes).any (·.all (·.2 == g.teamKey))
        (r.1.emptyFence g.em ord sco).issueLoad (.vec d g.em (packRegs sz.regs (r.2.1.map fun x => (x.1, extend sx sz.bytes 32 x.2)))) none
          (if own then keys else []) (g.memCyc sz)

/-- SLD: one access, whatever `em` holds (R242). -/
def execSld (sz : Sz) (sx : Bool) (hint : Hint) (_ord : MOrd) (_sco : Scope) (_prm : Bool) (d : SReg) (a : SPos)
    (off : BitVec 16) (s : State) : Host.Outcome State Fault Refusal :=
  let va := s.run.pos a + off.signExtend 64
  .next (match s.loadGlobal va sz.bytes false hint with
    | (s1, .error e) => s1.memFault e 0
    | (s1, .ok x) =>
      (s1.watch false true sz.bytes [va.toNat]).issueLoad (.sca d (BitVec.ofNat 64 (extend sx sz.bytes 64 x))) none [] 1)

/-! ## Stores (R241, R242) -/

/-- One lane's store to global memory. -/
def State.storeGlobal (s : State) (a : Word) (bs : List Byte) (h : Hint) (ord : MOrd) (sco : Scope) : State × Except Fail Nat :=
  match s.locate a bs.length .wr with
  | (s1, .error e) => (s1, .error e)
  | (s1, .ok ps) => (((s1.notices ord sco ps).writePieces bs h ps), .ok 0)

/-- One lane's store to scratchpad: it performs at its bank. -/
def State.storeSpad (s : State) (a : Word) (bs : List Byte) : State × Except Fail Nat :=
  match s.spadBytes s.run a bs.length with
  | none => (s, .error ⟨cSCRBND, a.toNat, 0⟩)
  | some ks =>
    let t := { s with spad := (ks.zip bs).foldl (fun m x => Memory.set m x.1.1 x.2) s.spad }
    ((ks.map (·.2)).dedup.foldl (fun t k => t.raiseGen k) t, .ok 0)

/-- The store of one lane of ST. -/
def State.stLane (s : State) (g : Group) (sz : Sz) (h : Hint) (ord : MOrd) (sco : Scope) (d : RegNo) (base : Base) (off : BitVec 16)
    (l : Nat) : State × Except Fail Nat :=
  s.storeGlobal (g.addr true base (off.signExtend 64) l) (leBytes (g.storeData d sz.regs l) sz.bytes) h ord sco

/-- ST (R241). Lanes that have taken their buffer entries while the store waited for others do not store again (R211). -/
def execSt (sz : Sz) (hint : Hint) (ord : MOrd) (sco : Scope) (d : RegNo) (base : Base) (off : BitVec 16) (s : State) :
    Host.Outcome State Fault Refusal :=
  s.checked (.st sz hint ord sco d base off) fun s =>
    let g := s.run
    let addr := g.addr true base (off.signExtend 64)
    let r := runLanes (fun t l => t.stLane g sz hint ord sco d base off l) (s.setRun { g with took := 0 }) (activeLanes (g.em &&& ~~~g.took))
    match r.2.2 with
    | some e => r.1.memFault e (doneLanes r.2.1 ||| (g.took &&& g.em))
    | none =>
      ((r.1.watch true false sz.bytes ((activeLanes g.em).map fun l => (addr l).toNat)).emptyFence g.em ord sco).retire (g.memCyc sz)

def execSts (sz : Sz) (ord : MOrd) (sco : Scope) (d : RegNo) (base : Base) (off : BitVec 16) (s : State) :
    Host.Outcome State Fault Refusal :=
  s.checked (.sts sz ord sco d base off) fun s =>
    let g := s.run
    let addr := g.addr false base (off.signExtend 64)
    let r := runLanes (fun t l => t.storeSpad (addr l) (leBytes (g.storeData d sz.regs l) sz.bytes)) s (activeLanes g.em)
    match r.2.2 with
    | some e => r.1.memFault e (doneLanes r.2.1)
    | none => (r.1.emptyFence g.em ord sco).retire (g.memCyc sz)

/-- SST: one access, whatever `em` holds (R242). -/
def execSst (sz : Sz) (hint : Hint) (ord : MOrd) (sco : Scope) (d : SReg) (a : SPos) (off : BitVec 16) (s : State) :
    Host.Outcome State Fault Refusal :=
  let va := s.run.pos a + off.signExtend 64
  .next (match s.storeGlobal va (leBytes (s.run.pos (.s d)).toNat sz.bytes) hint ord sco with
    | (s1, .error e) => s1.memFault e 0
    | (s1, .ok _) => (s1.watch true false sz.bytes [va.toNat]).retire 1)

/-! ## Atomics (R243-R246) -/

/-- The new value of an integer atomic of `w` bits (R244); `keep` is D's value before the instruction. -/
def atomNew (fn : AtomFn) (w : Nat) (old b keep : Nat) : Nat :=
  match fn with
  | .add => (old + b) % 2 ^ w
  | .and => old &&& b
  | .or => old ||| b
  | .xor => old ^^^ b
  | .smin => if readInt true w b < readInt true w old then b else old
  | .smax => if readInt true w old < readInt true w b then b else old
  | .nmin => min old b
  | .nmax => max old b
  | .xchg => b
  | .cas => if old = b then keep else old

/-- The new value of a floating-point atomic (R245) (DEDUCED, log 42). -/
def atmfNew (fn : AtmfFn) (q : Fmt) (old b : Nat) : Nat :=
  match fn with
  | .add => (q.add .rne false 0 (q.read old) (q.read b)).1
  | .min => (q.minmax .min old b).1
  | .max => (q.minmax .max old b).1
  | .exact => old
  | .exactb => old

/-- An integer atomic of a grid launched with RECORD_ATOMICS: its slice appends an ORDR record, and in a replay it was the next of the
recorded order (R262, R279). -/
def State.recordAtomic (s : State) (pa l : Nat) : State :=
  let g := s.run
  match s.grid? g.grid, s.ctx? g.part g.ctx with
  | some x, some c =>
    if x.recAtom then
      let sl := homeSlice pa
      let q := s.slice sl
      let c1 := match Tbl.find c.orders sl with
        | some (o :: os) => { c with
            orders := Tbl.put c.orders sl ((o :: os).erase (g.team, g.num, l)), orderAt := Tbl.put c.orderAt sl s.time }
        | _ => c
      if c.logs then
        let r := mkLogRec (g.team + g.num * 2 ^ 32 + l * 2 ^ 37) (q.seq + 1) 0 c.curWin.toNat 8 sl pa
        ((s.setSlice sl { q with seq := q.seq + 1 }).countSlice sl 0x23 g.part g.ctx 1).setCtxLog g.part g.ctx (c1.gather (sl / 16) r s.time)
      else s.setCtx g.part g.ctx c1
    else s
  | _, _ => s

/-- One lane's read-modify-write in global memory: the old value. It performs at the home slice, or at the peer's (R221, R243). -/
def State.rmwGlobal (s : State) (a : Word) (n : Nat) (f : Nat → Nat) (int : Bool) (l : Nat) (h : Hint) (ord : MOrd) (sco : Scope) :
    State × Except Fail Nat :=
  if a.toNat % n != 0 then (s, .error ⟨cALIGN, a.toNat, 0⟩)
  else
    match s.locate1 a n .wr with
    | (s1, .error e) => (s1, .error e)
    | (s1, .ok p) =>
      match p with
      | .mem pa =>
        if region pa == .dev then
          let g := s1.run
          let old := leNat (Memory.read s1.mem pa n)
          let s2 := if int then s1.recordAtomic pa l else s1
          let s3 := (s2.notices ord sco [(p, n)]).perform pa ((leBytes (f old) n).map some) true g.part g.ctx g.grid
          (s3.touchSlice (pa / 128 * 128) (sectorNeed pa n (pa / 128 * 128)) g.part g.ctx h, .ok old)
        else (s1, .error ⟨cACCESS, a.toNat, 0⟩)
      | .peer key pa =>
        let old := leNat (Memory.read s1.mem key n)
        (s1.peerStore key pa (leBytes (f old) n), .ok old)
      | .mmio _ => (s1, .error ⟨cACCESS, a.toNat, 0⟩)

/-- One lane's read-modify-write in scratchpad: the old value. -/
def State.rmwSpad (s : State) (a : Word) (n : Nat) (f : Nat → Nat) : State × Except Fail Nat :=
  if a.toNat % n != 0 then (s, .error ⟨cALIGN, a.toNat, 0⟩)
  else
    match s.spadBytes s.run a n with
    | none => (s, .error ⟨cSCRBND, a.toNat, 0⟩)
    | some ks =>
      let old := leNat (ks.map fun k => Memory.get s.spad k.1)
      let t := { s with spad := (ks.zip (leBytes (f old) n)).foldl (fun m x => Memory.set m x.1.1 x.2) s.spad }
      ((ks.map (·.2)).dedup.foldl (fun t k => t.raiseGen k) t, .ok old)

/-- An atomic ends: the old values of its lanes go to D when it completes, or at once where a lane fails (R237). -/
def State.atomDone (s : State) (d : RegNo) (n : Nat) (skip : Lane) (r : State × List (Nat × Nat) × Option Fail) (cyc : Nat) :
    State :=
  let g := s.run
  let vals := packRegs n r.2.1
  let got := doneLanes r.2.1
  match r.2.2 with
  | none => r.1.issueLoad (.vec d (g.em &&& ~~~skip) vals) none [] cyc
  | some e =>
    let s1 := vals.zipIdx.foldl (fun t x =>
      if got = 0 then t else (t.writeResult (d.toNat + x.2) (mergeLanes got x.1 (t.run.reg (d.toNat + x.2))) false).1) r.1
    s1.memFault e (got ||| skip)

def execAtom (fn : AtomFn) (wide spad : Bool) (hint : Hint) (ord : MOrd) (sco : Scope) (prm : Bool) (d : RegNo) (base : ABase)
    (b : RegNo) (off : BitVec 12) (s : State) : Host.Outcome State Fault Refusal :=
  s.checked (.atom fn wide spad hint ord sco prm d base b off) fun s =>
    let g := s.run
    let n := if wide then 8 else 4
    let regs := if wide then 2 else 1
    let addr := g.aaddr (!spad) base (off.signExtend 64)
    let val (r : RegNo) (l : Nat) : Nat := if wide then (g.lane64 r.toNat l).toNat else (lane (g.reg r.toNat) l).toNat
    let f (l old : Nat) : Nat := atomNew fn (8 * n) old (val b l) (val d l)
    let lanes := activeLanes (g.em &&& ~~~g.doneMask)
    let r := runLanes (fun t l => if spad then t.rmwSpad (addr l) n (f l) else t.rmwGlobal (addr l) n (f l) true l hint ord sco) s lanes
    let r := (r.1.emptyFence g.em ord sco, r.2)
    let w := if r.2.2.isNone && !spad then (r.1.watch true true n (lanes.map fun l => (addr l).toNat), r.2.1, r.2.2) else r
    s.atomDone d regs g.doneMask w g.cyc

/-- The format of ATMF's data (R245). -/
def atmfFmt (fn : AtmfFn) (sz : Sz) : Fmt :=
  match fn, sz with
  | .exactb, _ => fmtBF16
  | .exact, .b2 => fmtF16
  | _, .b8 => fmtF64
  | _, _ => fmtF32

/-- The format of an exact cell. -/
def exactTy (fn : AtmfFn) (sz : Sz) : Ty := if fn = .exactb then .bf16x2 else if sz = .b2 then .f16x2 else .f32

/-- The cells of a context that are spilled to its shadow region: those beyond 256 at a slice (R246) (DESIGN CHOICE, log 29). -/
def State.spilled (s : State) (part ctx : Nat) : Nat :=
  (s.slices.map fun q => (q.2.cells.drop 256).countP fun c =>
    (s.grid? c.grid).elim false fun g => g.part == part && g.ctx == ctx).sum

/-- One lane's exact atomic: its operand reaches the cell of its location, which the grid's first opens (R229, R246), and its line takes its hint (R205). A cell that two
formats reach holds a free value. A spill beyond the shadow region gives UNCORR. Each grid has a cell of its own, also where another grid's is
live, and a plain store meanwhile stands until the next rounding, which writes over it: the rule leaves both open (DESIGN CHOICE, log 88). -/
def State.exactAdd (s : State) (a : Word) (n : Nat) (ty : Ty) (x : FVal) (h : Hint) : State × Except Fail Nat :=
  if a.toNat % n != 0 then (s, .error ⟨cALIGN, a.toNat, 0⟩)
  else
    match s.locate1 a n .wr with
    | (s1, .error e) => (s1, .error e)
    | (s1, .ok (.mem pa)) =>
      if region pa != .dev then (s1, .error ⟨cACCESS, a.toNat, 0⟩)
      else
        let g := s1.run
        let sl := homeSlice pa
        let line := pa / 128 * 128
        let s1 := s1.touchSlice line (sectorNeed pa n line) g.part g.ctx h
        let q := s1.slice sl
        match q.cells.find? fun c => c.loc == pa && c.grid == g.grid with
        | some c =>
          let put (acc : WAcc) : Slice := { q with cells := q.cells.map fun y => if y == c then { c with acc := acc } else y }
          if c.fmt = ty then (s1.setSlice sl (put (c.acc.add x).1), .ok 0)
          else
            let z := Config.mixedCell s1.freeCtr
            ({ s1 with freeCtr := s1.freeCtr + 1 }.setSlice sl (put ⟨z.1, z.2⟩), .ok 0)
        | none =>
          let base := BitVec.ofNat 32 (leNat (Memory.read s1.mem pa n))
          let s2 := s1.setSlice sl { q with cells := q.cells ++ [⟨pa, ty, ((⟨0, 0⟩ : WAcc).add x).1, base, g.grid⟩] }
          if q.cells.length < 256 then (s2, .ok 0)
          else
            let s3 := s2.countSlice sl 0x24 g.part g.ctx 1
            let room := 16 * ((s3.desc g.part g.ctx)[6].extractLsb' 0 32).toNat
            (if s3.spilled g.part g.ctx ≤ room then s3
             else { s3 with pending := .uncorrectableError (.contextState g.part g.ctx) :: s3.pending }, .ok 0)
    | (s1, .ok (.peer _ _)) => (s1, .error ⟨cACCESS, a.toNat, 0⟩)
    | (s1, .ok (.mmio _)) => (s1, .error ⟨cACCESS, a.toNat, 0⟩)

def execAtmf (fn : AtmfFn) (sz : Sz) (hint : Hint) (ord : MOrd) (sco : Scope) (prm : Bool) (d : RegNo) (base : ABase)
    (b : RegNo) (off : BitVec 12) (s : State) : Host.Outcome State Fault Refusal :=
  s.checked (.atmf fn sz hint ord sco prm d base b off) fun s =>
    let g := s.run
    let n := sz.bytes
    let q := atmfFmt fn sz
    let addr := g.aaddr true base (off.signExtend 64)
    let val (l : Nat) : Nat := g.storeData b sz.regs l % 2 ^ (8 * n)
    let lanes := activeLanes (g.em &&& ~~~g.doneMask)
    let exact := fn = .exact || fn = .exactb
    if exact && !(s.grid? g.grid).elim false (·.exact) then s.faultExact cILLENC
    else
      let r := runLanes (fun t l => if exact then t.exactAdd (addr l) n (exactTy fn sz) (q.read (val l)) hint
        else t.rmwGlobal (addr l) n (fun old => atmfNew fn q old (val l)) false l hint ord sco) s lanes
      let r := (r.1.emptyFence g.em ord sco, r.2)
      let w := if r.2.2.isNone then (r.1.watch true true n (lanes.map fun l => (addr l).toNat), r.2.1, r.2.2) else r
      if exact then
        match w.2.2 with
        | none => w.1.issueLoad .none none [] g.cyc
        | some e => w.1.memFault e (doneLanes w.2.1 ||| g.doneMask)
      else s.atomDone d sz.regs g.doneMask w g.cyc

/-! ## Fences, prefetch, line maintenance (R247-R249) -/

/-- A fence orders; its waits stand in Order.lean, so here the group goes on, and a release fence of core scope makes its later stores
such releases (R219, R247). -/
def execFence (ord : MOrd) (sco : Scope) (s : State) : Host.Outcome State Fault Refusal := .next ((s.fenced ord sco).retire 1)

/-- The group waits for FLUSHX_COMPLETE, which rounds the grid's cells (R229, R247). -/
def execFenceFlushx (s : State) : Host.Outcome State Fault Refusal := .next ((s.charge 1).setRun { s.run with wait := .flushx })

/-- The lines of the active lanes whose addresses are in device or host memory and would not fault (R248, R249). -/
def State.laneLines (s : State) (addr : Nat → Word) (ts : List Nat) : List Nat :=
  ts.filterMap fun t =>
    match (s.locate1 (addr t) 1 .rd).2 with
    | .ok (.mem pa) => some (pa / 128 * 128)
    | _ => none

def execPrf (hint : Hint) (base : Base) (off : BitVec 16) (s : State) : Host.Outcome State Fault Refusal :=
  s.checked (.prf hint base off) fun s =>
    let g := s.run
    let s1 := (s.laneLines (g.addr true base (off.signExtend 64)) (activeLanes g.em)).foldl (fun t x => t.prefetch g x hint) s
    s1.retire g.cyc

/-- Changes of a line's state by CMNT (R249). -/
def State.lineOp (s : State) (fn : CmntFn) (k line : Nat) : State :=
  let sl := homeSlice line
  let hintTo (h : Hint) : State :=
    let c := s.cluster k
    let q := s.slice sl
    (s.setCluster k { c with lines := c.lines.map fun l => if l.line = line then { l with hint := h } else l }).setSlice sl
      { q with lines := q.lines.map fun l => if l.line = line then { l with hint := h } else l }
  match fn with
  | .dmt => hintTo .strm
  | .stky => hintTo .stky
  | .drop => s.dropLine k line
  | .evict =>
    let s1 := s.dropLine k line
    let q := s1.slice sl
    (s1.setSlice sl { q with lines := q.lines.filter (·.line != line) }).forgetLine line

def execCmnt (fn : CmntFn) (base : Base) (off : BitVec 12) (s : State) : Host.Outcome State Fault Refusal :=
  s.checked (.cmnt fn base off) fun s =>
    let g := s.run
    let lines := (s.laneLines (g.addr true base (off.signExtend 64)) (activeLanes g.em)).filter fun x =>
      !(s.slice (homeSlice x)).cellIn x && !s.engineOwns x
    (lines.foldl (fun t x => t.lineOp fn g.cluster x) s).retire g.cyc

/-! ## FIFOs (R250-R252) -/

/-- FIFO `n` of a cluster is bound to a matrix stream (R252, R306): a posted request of one of its engines names it. -/
def State.fifoBound (s : State) (k n : Nat) : Bool :=
  (List.range 6).any fun j => (s.mx (6 * k + j)).table.any fun e => match e.op with
    | .mma _ _ _ b _ _ _ _ => b.getLsbD 63 && (b.extractLsb' 0 6).toNat == n
    | _ => false

/-- The bank tests of R250. -/
def State.fifoOk (s : State) (k part : Nat) (a : Word) : Bool :=
  let b := s.bank k a.toNat
  a.toNat < 48 && b.mode == .fifo && b.st == .stable && b.owner == part

/-- The 1 KiB entry of FQPUT: bytes 32t to 32t+31 from lane t, zeros for inactive lanes (R251). -/
def Group.fifoEntry (g : Group) (d : RegNo) : BitVec 8192 :=
  BitVec.ofNat 8192 (((activeLanes g.em).map fun t => g.storeData d 8 t * 2 ^ (256 * t)).sum)

/-- An entry is published in a FIFO (R251). -/
def Bank.publish (b : Bank) (x : BitVec 8192) : Bank := { b with entries := b.entries ++ [x] }

/-- A grid has published to or removed from FIFO `n` of cluster `k`: its snapshots hold it (R269). -/
def State.fifoUsed (s : State) (grid k n : Nat) : State :=
  match s.grid? grid with
  | some g => if g.fifos.contains (k, n) then s else s.setGrid grid { g with fifos := g.fifos ++ [(k, n)] }
  | none => s

def execFqput (d : RegNo) (a : SPos) (s : State) : Host.Outcome State Fault Refusal :=
  s.checked (.fqput d a) fun s =>
    let g := s.run
    let n := g.pos a
    let k := g.cluster
    if !s.fifoOk k g.part n then s.faultExact cFIFOERR
    else
      let s := (s.fifoUsed g.grid k n.toNat).raiseGen g.teamKey
      let b := s.bank k n.toNat
      if b.entries.length < 128 then (s.setBank k n.toNat (b.publish (g.fifoEntry d))).mxRefreshAll.retire 64
      else (s.charge 64).setRun { g with wait := .fqput k n.toNat (g.fifoEntry d) }

/-- FQGET stays outstanding until FQGET_MATCH gives it an entry (R252). -/
def execFqget (d : RegNo) (a : SPos) (s : State) : Host.Outcome State Fault Refusal :=
  s.checked (.fqget d a) fun s =>
    let g := s.run
    let n := g.pos a
    let k := g.cluster
    if !s.fifoOk k g.part n || s.fifoBound k n.toNat then s.faultExact cFIFOERR
    else (s.fifoUsed g.grid k n.toNat).issueLoad (.vec d g.em (List.replicate 8 0)) (some (k, n.toNat)) [] 64

/-! ## Bank modes (R201, R202, R253) -/

/-- What a request for a bank does: the status of BANK and the bank after it (R201, R202, R253). -/
def Bank.request (b : Bank) (m : BankMode) : Nat × Bank :=
  match b.st with
  | .stable => if b.mode = m then (1, b) else (0, { b with st := .pending m false })
  | .pending _ _ => if b.mode = m then (0, { b with st := .stable }) else (0, { b with st := .pending m false })
  | .convert t _ => (2, { b with st := .convert t (some m) })

def execBankRequest (mode : BankMode) (d : SReg) (b : SPos) (_nr : Bool) (s : State) : Host.Outcome State Fault Refusal :=
  let g := s.run
  let k := g.pos b
  let x := s.bank g.cluster k.toNat
  if 48 ≤ k.toNat ∨ x.owner ≠ g.part then .next (s.done (g.setS d 3) 1)
  else
    let r := x.request mode
    .next ((s.setBank g.cluster k.toNat r.2).done (g.setS d (BitVec.ofNat 64 r.1)) 1)

/-- The codes of modes and states that `bank.q` writes (R253). -/
def modeNum : BankMode → Nat
  | .cache => 0
  | .spad => 1
  | .fifo => 2
def bankStNum : BankSt → Nat
  | .stable => 0
  | .pending _ _ => 1
  | .convert _ _ => 2

def execBankQuery (d : SReg) (b : SPos) (_nr : Bool) (s : State) : Host.Outcome State Fault Refusal :=
  let g := s.run
  let k := g.pos b
  let x := s.bank g.cluster k.toNat
  let v : Word := if 48 ≤ k.toNat then -1
    else BitVec.ofNat 64 (modeNum x.mode + 4 * bankStNum x.st + (if x.owner = g.part then 16 else 0))
  .next (s.done (g.setS d v) 1)

end Sys2Proof.Machine
end

