-- ==== Sys2Proof/Machine/Sync.lean ====
section
/-! DEFINITION. Barriers and sleeping, and the events that end the waits of this file and of Memory.lean: loads that deliver, FIFO
entries that are matched, flushes, banks that switch, the issue limit (R53, R201, R206, R229, R251-R258). -/

namespace Sys2Proof.Machine

/-! ## Named barriers (R254, R255) -/

/-- An arrival at a barrier with count `c`: the barrier after it, and whether it completes the phase (R255). -/
def Barrier.arrive (b : Barrier) (c : Nat) : Barrier × Bool :=
  let e := b.expect.getD c
  if b.arrivals + 1 = e then ({ arrivals := 0, expect := none, phase := b.phase + 1 }, true)
  else ({ b with arrivals := b.arrivals + 1, expect := some e }, false)

/-- Every group that waits on a phase goes on. -/
def State.releaseBar (s : State) (key n phase : Nat) : State :=
  s.mapGroups (fun g => g.inTeam key && g.wait == .bar n phase) Group.wake

/-- The count of BAR and BARV (R254). -/
def State.barCount (s : State) (cnt : Option SPos) : Nat :=
  match cnt with
  | some p => (s.run.pos p).toNat % 64
  | none => s.teamGroups

/-- An arrival of the running group: the state after it, and the phase that was current. -/
def State.arrive (s : State) (n c : Nat) : State × Nat × Bool :=
  let key := s.run.teamKey
  match s.team? key with
  | none => (s, 0, true)
  | some t =>
    let b := t.bars.toList.getD n {}
    let r := b.arrive c
    let s1 := s.setTeam key { t with bars := t.bars.setIfInBounds n r.1 }
    (if r.2 then s1.releaseBar key n b.phase else s1, b.phase, r.2)

def execBar (n : BitVec 4) (cnt : Option SPos) (_nr : Bool) (s : State) : Host.Outcome State Fault Refusal :=
  let c := s.barCount cnt
  if c = 0 ∨ s.teamGroups < c then .next (s.faultExact cILLENC)
  else
    let r := s.arrive n.toNat c
    .next (if r.2.2 then r.1.retire 1 else (r.1.charge 1).setRun { (r.1.charge 1).run with wait := .bar n.toNat r.2.1 })

def execBarv (n : BitVec 4) (cnt : Option SPos) (_nr : Bool) (s : State) : Host.Outcome State Fault Refusal :=
  let c := s.barCount cnt
  if c = 0 ∨ s.teamGroups < c then .next (s.faultExact cILLENC) else .next ((s.arrive n.toNat c).1.retire 1)

/-- BARW waits for the phase that is current at its issue (R255). -/
def execBarw (n : BitVec 4) (_nr : Bool) (s : State) : Host.Outcome State Fault Refusal :=
  let phase := (s.team? s.run.teamKey).elim 0 fun t => (t.bars.toList.getD n.toNat {}).phase
  .next ((s.charge 1).setRun { (s.charge 1).run with wait := .bar n.toNat phase })

/-! ## EVWT and NAP (R256-R258) -/

/-- What EVWT finds at its location, or how it fails (R237, R256). -/
def State.evwtPeek (s : State) (wide spad : Bool) (va : Word) : State × Except Fail Nat :=
  let n := if wide then 8 else 4
  if va.toNat % n ≠ 0 then (s, .error ⟨cALIGN, va.toNat, 0⟩)
  else if spad then s.loadSpad va n
  else
    match s.locate1 va n .rd with
    | (s1, .error e) => (s1, .error e)
    | (s1, .ok p) =>
      let dev : Bool := match p with
        | .mem pa => region pa == .dev
        | _ => false
      if dev then ((s1.readPlace p n).1, .ok (leNat (s1.readPlace p n).2)) else (s1, .error ⟨cACCESS, va.toNat, 0⟩)

/-- EVWT reads its location: a load, which looks its line up (R204, R205, R256). -/
def State.evwtRead (s : State) (wide spad : Bool) (va : Word) : State × Except Fail Nat :=
  let n := if wide then 8 else 4
  let r := s.evwtPeek wide spad va
  match r.2, spad, (s.locate1 va n .rd).2 with
  | .ok x, false, .ok (.mem pa) => (r.1.readTouch pa n .dflt, .ok x)
  | x, _, _ => (r.1, x)

/-- The condition of EVWT (R256). -/
def evwtCond (eq wide : Bool) (x : Nat) (b : Word) : Bool := (x == b.toNat % 2 ^ (if wide then 64 else 32)) == eq

/-- A group's EVWT ends with a value. -/
def Group.evwtDone (g : Group) (d : SReg) (x : Word) : Group := (g.setS d x).wake

/-- What EVWT does with a value it has read: it completes where its condition holds, or on the first read after a return of its team, and
otherwise sleeps (R256, R257). -/
def Group.evwtGot (g : Group) (eq wide spad prm : Bool) (va b : Word) (d : SReg) (x : Nat) (dl : Option Nat) (once : Bool) : Group :=
  if once || evwtCond eq wide x b then g.evwtDone d (BitVec.ofNat 64 x)
  else { g with wait := .evwt eq wide spad prm va b d (BitVec.ofNat 64 x) dl false }

def execEvwt (eq wide spad : Bool) (_ord : MOrd) (_sco : Scope) (prm : Bool) (d : SReg) (a b : SPos) (timeout : BitVec 16)
    (s : State) : Host.Outcome State Fault Refusal :=
  let va := s.run.pos a
  let dl := if timeout = 0 then none else some (s.time + 1000 * timeout.toNat)
  match s.evwtRead wide spad va with
  | (s1, .error e) => .next (s1.memFault e 0)
  | (s1, .ok x) => .next ((s1.charge 1).setRun ((s1.charge 1).run.evwtGot eq wide spad prm va (s.run.pos b) d x dl false))

/-- The value of an operand of NAP (R258) and of BAL (R357): its low 32 bits. -/
def Group.top (g : Group) : TOp → Nat
  | .imm v => v.toNat
  | .pos p => (g.pos p).toNat % 2 ^ 32

/-- `nap 0` does not sleep, and the group counts as having just issued (R258). -/
def execNap (n : TOp) (s : State) : Host.Outcome State Fault Refusal :=
  let k := s.run.top n
  if k = 0 then .next (s.done { s.run with yielded := true } 1)
  else .next ((s.charge 1).setRun { (s.charge 1).run with wait := .nap (s.time + k) })

def execNapDeadline (gid : Nat) (s : State) : Host.Outcome State Fault Refusal :=
  match s.group? gid with
  | none => .next s
  | some g =>
    match g.wait with
    | .nap t => .next (if t ≤ s.time then s.setGroup g.wake else s)
    | _ => .next s

/-! ## Loads that deliver (R53, R76, R85) -/

/-- The writes of a delivered load: active lanes from the data, the others kept (R91). -/
def Group.loadWrites (g : Group) (d : RegNo) (em : Lane) (vals : List VReg) : List (Nat × VReg) :=
  if em = 0 then [] else vals.zipIdx.map fun x => (d.toNat + x.2, mergeLanes em x.1 (g.reg (d.toNat + x.2)))

/-- A load of a saved group reaches its register image, where the register is kept (R389). -/
def State.imageLoad (s : State) (g : Group) (d : RegNo) (em : Lane) (vals : List VReg) : State :=
  let lim := match g.run with
    | .acked n _ => n
    | _ => g.budget
  { s with mem := vals.zipIdx.foldl (fun m x =>
      let a := s.regImage g (d.toNat + x.2)
      if d.toNat + x.2 < lim then Memory.setVreg m a (mergeLanes em x.1 (Memory.vreg m a)) else m) s.mem }

/-- The data of an operation reaches the registers of its group, which stands as the running one: through WriteResult where the
team is resident, and into the image otherwise (R389). An install keeps the key of the issue, whatever another instruction has done to its
source registers since (R85) (DESIGN CHOICE, log 92). -/
def State.deliver (s : State) (o : LoadOp) : State :=
  let g := s.run
  match o.dst with
  | .none => s
  | .sca d x => s.setRun (g.setS d x)
  | .vec d em vals =>
    let ws := g.loadWrites d em vals
    if g.core = noCore then s.imageLoad g d em vals
    else
      let live := o.reuse.all fun k => k.tag == some g.grid || k.tag == some ((s.team? g.teamKey).elim 0 (·.winGen))
      let s1 := s.missBook ws (if live then o.reuse.zip (ws.map (·.2)) else []) 0
      s1.setRun { s1.run with v := setRegs g.v ws }

/-- An operation of the running group completes: it delivers and leaves its flags (R52, R53). A group that has ended gets
nothing (R55). -/
def State.loadEnd (s : State) (o : LoadOp) : State :=
  let s1 := if s.run.run == .ended then s else s.deliver o
  let g := s1.run.endOp o.seta o.setb
  s1.setRun { g with loads := g.loads.filter (·.id != o.id) }

/-- LOAD_COMPLETE delivers an operation whose data is there: an FQGET waits for its match (R252). -/
def execLoadComplete (op : Nat) (s : State) : Host.Outcome State Fault Refusal :=
  match s.allGroups.find? fun g => g.loads.any fun o => o.id == op && o.fifo.isNone with
  | none => .next s
  | some g =>
    match g.loads.find? (·.id == op) with
    | none => .next s
    | some o => .next (s.as g fun t => t.loadEnd o)

/-! ## FIFOs (R251, R252) -/

/-- The eight registers of an entry: bytes 32t to 32t+31 are lane t (R234, R252). -/
def entryRegs (x : BitVec 8192) : List VReg :=
  (List.range 8).map fun k => mkLanes fun t => x.extractLsb' (256 * t + 32 * k) 32

/-- A sleeping FQPUT publishes where its FIFO has room: the one of the lowest lane pipe first (R251) (DEDUCED, log 52). -/
def execFqputRoom (k b : Nat) (s : State) : Host.Outcome State Fault Refusal :=
  let x := s.bank k b
  let waits (g : Group) : Option (BitVec 8192) := match g.wait with
    | .fqput k' b' data => if k' = k ∧ b' = b then some data else none
    | _ => none
  let first := (s.allGroups.filter fun g => (waits g).isSome).foldl (fun (o : Option Group) g => match o with
    | none => some g
    | some h => if 64 * g.core + g.slot < 64 * h.core + h.slot then some g else some h) none
  match first with
  | none => .next s
  | some g =>
    if x.entries.length < 128 then .next ((s.setBank k b (x.publish ((waits g).getD 0))).mxRefreshAll.setGroup g.wake) else .next s

/-- The FQGET whose turn it is on a FIFO: the oldest, once the earlier ones of its group are matched (R214, R225, R252). -/
def State.fqgetNext (s : State) (k b : Nat) : Option (Group × LoadOp) :=
  let ops := s.allGroups.flatMap fun g => (g.loads.filter (·.fifo == some (k, b))).map fun o => (g, o)
  (ops.foldl (fun (o : Option (Group × LoadOp)) p => match o with
    | none => some p
    | some q => if p.2.id < q.2.id then some p else some q) none).filter fun p => !s.fqgetAhead p.1.gid p.2.id

/-- An FQGET takes the oldest entry of its FIFO (R252). -/
def execFqgetMatch (k b : Nat) (s : State) : Host.Outcome State Fault Refusal :=
  let x := s.bank k b
  match x.entries, s.fqgetNext k b with
  | e :: es, some (g, o) =>
    let dst := match o.dst with
      | .vec d em _ => LoadDst.vec d em (entryRegs e)
      | other => other
    .next ((s.setBank k b { x with entries := es, head := (x.head + 1) % 128 }).setGroup
      { g with loads := g.loads.map fun y => if y.id = o.id then { y with dst := dst, fifo := none } else y })
  | _, _ => .next s

/-! ## Exact cells (R229, R246) -/

/-- The value that a rounding of a cell stores: RoundW(base + cell). -/
def Cell.rounded (c : Cell) : Nat :=
  let q := fmtOf c.fmt
  let base := if q.f = 23 then c.base.toNat else c.base.toNat % 2 ^ 16
  ((c.acc.add (q.read base)).1.round q .rne false 0).1

def Cell.bytes (c : Cell) : Nat := if (fmtOf c.fmt).f = 23 then 4 else 2

/-- The live cells of a grid. -/
def State.gridCells (s : State) (grid : Nat) : List Cell := s.slices.flatMap fun q => q.2.cells.filter (·.grid == grid)

/-- The log has room for the roundings of a grid (R271). -/
def State.roundRoom (s : State) (grid : Nat) : Bool :=
  match s.grid? grid with
  | none => true
  | some g => s.logRoom ((s.gridCells grid).map fun c => c.loc / 32 * 32) g.part g.ctx grid

/-- The roundings of a grid come next: no write of the context is held before them, and no engine owns their lines (R224, R263). -/
def State.roundNext (s : State) (grid : Nat) : Bool :=
  match s.grid? grid with
  | none => true
  | some g => (s.gridCells grid).all fun c => !s.overtakes (homeSlice c.loc) g.part g.ctx 0 && !s.engineOwns (c.loc / 128 * 128)

/-- Every live cell of a grid is rounded into its location; with `keep` it restarts at zero over the new base (R229). -/
def State.roundCells (s : State) (grid : Nat) (keep : Bool) : State :=
  match s.grid? grid with
  | none => s
  | some g =>
    let s1 := (s.gridCells grid).foldl (fun t c =>
      t.perform c.loc ((leBytes c.rounded c.bytes).map some) true g.part g.ctx grid) s
    { s1 with slices := s1.slices.map fun q => (q.1, { q.2 with
        cells := q.2.cells.filterMap fun c =>
          if c.grid = grid then (if keep then some { c with acc := ⟨0, 0⟩, base := BitVec.ofNat 32 c.rounded } else none)
          else some c }) }

/-- A flush completes once its rounded stores have performed; a full log makes it wait (R229, R271). -/
def execFlushxComplete (gid : Nat) (s : State) : Host.Outcome State Fault Refusal :=
  match s.group? gid with
  | none => .next s
  | some g =>
    if g.wait == .flushx then
      if !s.roundNext g.grid then .next s
      else if s.roundRoom g.grid then
        let s1 := s.roundCells g.grid true
        .next (s1.setGroup ((s1.group? gid).getD g).wake)
      else
        match s.ctx? g.part g.ctx with
        | some c => .next (s.logFull g.part g.ctx c)
        | none => .next s
    else .next s

/-! ## The memory-issue limit (R206) -/

/-- Every 2,048 cycles the limit is halved, doubled or kept (DEDUCED, log 82). -/
def execIssueLimitAdjust (n : Nat) (s : State) : Host.Outcome State Fault Refusal :=
  let c := s.core n
  let l := if c.misses = 0 then min 64 (2 * c.limit)
    else if c.misses ≤ 4 * c.lost then max 4 (c.limit / 2)
    else if 16 * c.lost < c.misses then min 64 (2 * c.limit)
    else c.limit
  .next (s.setCore n { c with limit := l, misses := 0, lost := 0 })

end Sys2Proof.Machine
end

