-- ==== Sys2Proof/Machine/Recall.lean ====
section
/-! DEFINITION. The writes of engines, the recall of lines that engines own, and the banks that switch (R201, R222-R224, R294, R299). -/

namespace Sys2Proof.Machine

/-! ## The writes of a command (R195, R199, R250, R271, R294, R299) -/

/-- The agent that issued a command, for the address rules. -/
def Cmd.agent (c : Cmd) : Group :=
  { gid := c.gid, kind := if c.gid < 16 then .control c.gid else if c.gid < 20 then .scheduler (c.gid - 16) else .compute, part := c.part, ctx := c.ctx, grid := c.grid, team := c.team
    core := if c.core = noCore then 24 * c.cluster else c.core }

/-- A byte of a team's window: in its bank row, or in its image while the team is saved, for what its commands read too (R199, R389) (DEDUCED,
log 98). -/
def State.winByte (s : State) (key off : Nat) : Byte :=
  match s.team? key with
  | some t => if t.at' == .resident then Memory.get s.spad (spadKey (t.core / 24) (t.core % 24) (t.winBase + off)) else Memory.get s.mem (s.windowImage t + off)
  | none => emptyByte

def State.setWinByte (s : State) (key off : Nat) (b : Byte) : State :=
  match s.team? key with
  | some t =>
    if t.at' == .resident then { s with spad := Memory.set s.spad (spadKey (t.core / 24) (t.core % 24) (t.winBase + off)) b }
    else { s with mem := Memory.set s.mem (s.windowImage t + off) b }
  | none => s

/-- Replaces or removes a command of an engine. -/
def State.setCmd (s : State) (e : Nat) (c : Cmd) : State :=
  let x := s.engine e
  s.setEngine e { x with cmds := x.cmds.map fun y => if y.id = c.id then c else y }
def State.dropCmd (s : State) (e : Nat) (id : Word) : State :=
  let x := s.engine e
  s.setEngine e { x with cmds := x.cmds.filter (·.id != id) }

/-- A command's write to memory can perform: its log has room, and no write of its context is held before it (R263, R271). -/
def State.engRoom (s : State) (c : Cmd) (w : EngWrite) : Bool :=
  !s.overtakes (homeSlice w.at') c.part c.ctx 0 && s.logRoom (sectorsOf w.at' w.bytes.length) c.part c.ctx c.grid

/-- One write of a command performs; `none` where it has to wait for log room or FIFO room, and an error for a FIFO that fails its bank
tests when the command first writes it, for a window that has left, or for a peer without one (R195, R199, R250, R294, R299). -/
def State.engWrite (s : State) (c : Cmd) (w : EngWrite) : Option (Except Nat State) :=
  if w.space = 0 then
    if s.engRoom c w then
      let s1 := (s.perform w.at' (w.bytes.map some) true c.part c.ctx c.grid).reachBytes w.at' w.bytes.length c.part c.ctx .byp
      some (.ok (if region w.at' == .host then s1.markBy c.grid c.part c.ctx 1 w.at' else s1))
    else none
  else if w.space = 1 then
    match s.winAt c.agent (w.at' / 2 ^ 19 % 32) (w.at' % 2 ^ 19) with
    | none => some (.error cSCRBND)
    | some _ => some (.ok { s with spad := Memory.write s.spad w.at' w.bytes })
  else if w.space = 2 then
    let b := s.bank c.cluster w.at'
    if !c.begun && !s.fifoOk c.cluster c.part (BitVec.ofNat 64 w.at') then some (.error cFIFOERR)
    else if 128 ≤ b.entries.length then none
    else some (.ok ((s.fifoUsed c.grid c.cluster w.at').setBank c.cluster w.at' (b.publish (BitVec.ofNat 8192 (leNat w.bytes)))).mxRefreshAll)
  else if w.space = 3 then
    let e := w.entry
    let s1 := { s with mem := Memory.write s.mem (peerKey (bitsOf e 42 14) (w.at' % 2 ^ 39)) w.bytes }
    if (s.livePorts e).isEmpty then some (.error cPORT) else some (.ok (s1.markBy c.grid c.part c.ctx 2 w.at'))
  else if w.space = 5 then
    let e := Tbl.get 0 s.dev.peers w.at'
    if 4096 ≤ w.at' || !e.getLsbD 63 || !e.getLsbD 62 then some (.error cACCESS)
    else if (s.livePorts e).isEmpty then some (.error cPORT)
    else some (.ok (s.markBy c.grid c.part c.ctx 2 (2 ^ 51 + 2 ^ 39 * w.at')))
  else if w.space = 6 then
    some (.ok ((s.mmioWrite w.at' w.bytes.length (BitVec.ofNat 64 (leNat w.bytes))).markBy c.grid c.part c.ctx 3 (2 ^ 48 + w.at')))
  else some (.ok (w.bytes.zipIdx.foldl (fun t b => t.setWinByte (teamKey c.grid c.team) (w.at' + b.2) b.1) s))

/-- Performs a command's writes in order as far as they go: the state, what is left, and a failure. -/
def State.engWrites (s : State) (c : Cmd) : List EngWrite → State × List EngWrite × Option Nat
  | [] => (s, [], none)
  | w :: ws =>
    match s.engWrite c w with
    | none => (s, w :: ws, none)
    | some (.error e) => (s, w :: ws, some e)
    | some (.ok s1) => s1.engWrites { c with begun := c.begun || w.space == 2 } ws

/-- The bytes that a copy or binning engine has written count for event 0x30 (R361). -/
def State.countBytes (s : State) (e : Nat) (c : Cmd) (n : Nat) : State :=
  let x := s.engine e
  if e < 0x50 then s.setEngine e { x with ctrs := bump x.ctrs x.sels 0x30 c.part c.ctx n } else s

/-! ## Recalls (R224) -/

/-- Lines that no command owns any more leave their cluster's cache: they are written back to their home slices (R224) (DESIGN CHOICE, log 100). -/
def State.giveUp (s : State) (k : Nat) (ws : List EngWrite) : State :=
  let lines := ((ws.filter (·.space == 0)).map fun w => w.at' / 128 * 128).dedup
  lines.foldl (fun t x => if t.engineOwns x then t else t.dropLine k x) s

/-- The commands that own a line make the writes they have to make there, as far as they can, and give it up (R224). -/
def State.recallLine (s : State) (line : Nat) : State :=
  let cs := s.engines.flatMap fun x => x.2.cmds.map fun c => (x.1, c)
  cs.foldl (fun t x =>
    match x.2.st with
    | .running ws =>
      let mine := ws.filter (·.inLine line)
      if mine.isEmpty then t
      else
        let r := t.engWrites x.2 mine
        ((r.1.countBytes x.1 x.2 ((mine.take (mine.length - r.2.1.length)).map (·.bytes.length)).sum).setCmd x.1
          { x.2 with st := .running (r.2.1 ++ ws.filter (!·.inLine line)) }).giveUp x.2.cluster mine
    | _ => t) s

/-- OWNED_LINE_RECALL (R224). -/
def execOwnedLineRecall (line : Nat) (s : State) : Host.Outcome State Fault Refusal := .next (s.recallLine (line / 128 * 128))

/-- An access to bytes recalls the lines of them that engines own (R224). -/
def State.recall (s : State) (pa n : Nat) : State := (linesOf pa n).foldl (fun t x => if t.engineOwns x then t.recallLine x else t) s

/-- Some line of bytes is still owned: the access waits (R224). An engine's access waits for what issued before its operation. -/
def State.owned (s : State) (pa n : Nat) (ord : Option Nat := none) : Bool := (linesOf pa n).any (s.ownedBefore ord)

/-! ## Banks that switch (R201) -/

/-- An FQPUT that sleeps at a FIFO, or a command that has written it and goes on, still uses it (R201, R251, R294). -/
def State.fifoWaits (s : State) (k b : Nat) : Bool :=
  s.allGroups.any (fun g => match g.wait with
    | .fqput k' b' _ => k' == k && b' == b
    | _ => false)
  || s.engines.any fun e => e.2.cmds.any fun c => c.begun && c.cluster == k && match c.st with
    | .running ws => ws.any fun w => w.space == 2 && w.at' == b
    | _ => false

/-- The release condition of a bank (R201). -/
def State.bankFree (s : State) (k b : Nat) : Bool :=
  let x := s.bank k b
  match x.mode with
  | .cache => true
  | .spad => !s.teams.any fun t => t.2.at' == .resident && t.2.core / 24 == k && t.2.winBanks.contains b
  | .fifo => x.entries.isEmpty && !s.fifoBound k b && !s.fifoWaits k b && !s.allGroups.any (·.loads.any (·.fifo == some (k, b)))

/-- The cache-mode bank loses its lines: accesses to its former ways miss, and those of them that engines own are recalled and written back
(R201). -/
def State.leaveCache (s : State) (k b : Nat) : State :=
  let lines := ((s.cluster k).lines.filter fun l => l.way / 4 == b && s.engineOwns l.line).map (·.line)
  let t := lines.foldl State.recallLine s
  let c := t.cluster k
  t.setCluster k { c with lines := c.lines.filter fun l => l.way / 4 != b }

/-- A PENDING bank is tested from the cycle after its request, and enters CONVERT when its condition holds (R201). -/
def execBankRelease (k b : Nat) (s : State) : Host.Outcome State Fault Refusal :=
  let x := s.bank k b
  match x.st with
  | .pending m tested =>
    .next (if tested && s.bankFree k b then (if x.mode = .cache then s.leaveCache k b else s).setBank k b { x with st := .convert m none }
      else s.setBank k b { x with st := .pending m true })
  | _ => .next s

/-- Conversion ends: the bank is empty in its new mode, and a request that was held is applied (R201, R202). -/
def execBankConvertEnd (k b : Nat) (s : State) : Host.Outcome State Fault Refusal :=
  let x := s.bank k b
  match x.st with
  | .convert m held =>
    let y : Bank := { owner := x.owner, mode := m }
    .next (s.setBank k b (held.elim y fun h => (y.request h).2))
  | _ => .next s

end Sys2Proof.Machine
end

