-- ==== Sys2Proof/Machine/Launch.lean ====
section
/-! DEFINITION. Launches: the packet's fields, the checks of a launch in their order, its bank request, and the grid it makes
(R16-R23, R203, R286). -/

namespace Sys2Proof.Machine

/-- Translates an address of a context for the scheduler or an engine: a walk that sets A, and D for a write (R327, R329). The
failure says whether it is a translation fault, and the cause. -/
def State.ctxTranslate (s : State) (part ctx va : Nat) (acc : Access) (sup : Bool) : State × Except (Bool × Nat) Nat :=
  if 2 ^ 56 ≤ va then (s, .error (false, cACCESS))
  else
    let d := s.desc part ctx
    match walk s.mem (bitsOf d[0] 14 38 * 2 ^ 14) va with
    | .error e => (s, .error (true, e.1))
    | .ok l0 =>
      let l := leafUsed (Memory.word s.mem) l0 va
      let pa := l.pa + va % l.size
      if leafAllows (l.word.getLsbD 2) (l.word.getLsbD 3) (l.word.getLsbD 4) pa acc !sup then
        ({ s with mem := setAD s.mem l (acc == Access.wr) }, .ok pa)
      else (s, .error (true, cACCESS))

/-- Cuts a range at page boundaries: address and length of each part. -/
def pageParts (fuel va n : Nat) : List (Nat × Nat) :=
  match fuel with
  | 0 => []
  | f + 1 => if n = 0 then [] else
      let k := min n (4096 - va % 4096)
      (va, k) :: pageParts f (va + k) (n - k)

/-- Physical parts of a range of a context's addresses. -/
def State.ctxRange (s : State) (part ctx : Nat) (acc : Access) (sup : Bool) :
    List (Nat × Nat) → State × Except (Bool × Nat) (List (Nat × Nat))
  | [] => (s, .ok [])
  | (va, n) :: ps =>
    match s.ctxTranslate part ctx va acc sup with
    | (s1, .error e) => (s1, .error e)
    | (s1, .ok pa) =>
      match s1.ctxRange part ctx acc sup ps with
      | (s2, .error e) => (s2, .error e)
      | (s2, .ok qs) => (s2, .ok ((pa, n) :: qs))

/-- The cause of a failed access to a peer, where the window's entry allows it and no port of it is live (R409). -/
def State.portless (s : State) (pa : Nat) (acc : Access) (cause : Nat) : Nat :=
  let e := Tbl.get 0 s.dev.peers (windowOf pa)
  if region pa == .peer && e.getLsbD 63 && (acc != .wr || e.getLsbD 62) && (s.livePorts e).isEmpty then cPORT else cause

/-- The bytes of physical parts: device or host memory, a peer's memory, or a register of 4 or 8 bytes (R195). Lines that engines own are
recalled, and one that still is makes the access wait (R224). -/
def State.physRead (s : State) (ord : Option Nat) : List (Nat × Nat) → State × Except Nat (List Byte)
  | [] => (s, .ok [])
  | (pa, n) :: ps =>
    match s.placeOf pa n .rd with
    | .error c => (s, .error (s.portless pa .rd c))
    | .ok p =>
      let r : State × Option (List Byte) := match p with
        | .mem a => let t := s.recall a n; (t, if t.owned a n ord then none else some (Memory.read t.mem a n))
        | .peer key _ => (s, some (Memory.read s.mem key n))
        | .mmio off => let x := s.mmioRead off n; (x.1, some (leBytes x.2.toNat n))
      match r.2 with
      | none => (r.1, .error cWAIT)
      | some here =>
        match r.1.physRead ord ps with
        | (s1, .error c) => (s1, .error c)
        | (s1, .ok bs) => (s1, .ok (here ++ bs))

/-- The home slices of what an engine has read count its accesses (R361). -/
def State.reachParts (s : State) (part ctx : Nat) (ps : List (Nat × Nat)) : State :=
  ps.foldl (fun t p => if region p.1 == .dev || region p.1 == .host then t.reachBytes p.1 p.2 part ctx .byp else t) s

/-- Reads a range of a context's memory, for an operation that issued at `ord`. -/
def State.ctxRead (s : State) (part ctx va n : Nat) (sup : Bool) (ord : Option Nat := none) : State × Except (Bool × Nat) (List Byte) :=
  match s.ctxRange part ctx .rd sup (pageParts (n / 4096 + 2) va n) with
  | (s1, .error e) => (s1, .error e)
  | (s1, .ok ps) =>
    match s1.physRead ord ps with
    | (s2, .error c) => (s2, .error (false, c))
    | (s2, .ok bs) => (s2.reachParts part ctx ps, .ok bs)

/-- The context runs at supervisor level (R372). -/
def State.ctxSup (s : State) (part ctx : Nat) : Bool := (s.desc part ctx)[10].getLsbD 51

/-- Words of 64 bits from bytes. -/
def wordsOf (bs : List Byte) (n : Nat) : List Word := (List.range n).map fun i => BitVec.ofNat 64 (leNat ((bs.drop (8 * i)).take 8))

/-! ## The packet (R44, R286) -/

/-- A reserved bit of a launch packet is set; word 0 [63:32] and KIND are for the caller (DEDUCED, log 37). -/
def launchReserved (ws : List Word) : Bool :=
  let w (i : Nat) : Word := ws.getD i 0
  let roles := bitsOf (w 2) 62 2 + 1
  w 0 &&& 0xFFF != 0 || bitsOf (w 1) 56 8 != 0 || bitsOf (w 2) 32 10 != 0 || bitsOf (w 2) 0 32 / 256 ^ roles != 0
    || bitsOf (w 3) 56 8 != 0 || bitsOf (w 4) 56 8 != 0 || bitsOf (w 6) 52 12 != 0 || bitsOf (w 6) 24 16 != 0
    || bitsOf (w 7) 62 2 != 0 || bitsOf (w 7) 54 2 != 0 || bitsOf (w 7) 32 16 != 0

/-- Group count and budget code of each role (R44). -/
def launchRoles (w2 : Word) : List (Nat × Nat) :=
  (List.range (bitsOf w2 62 2 + 1)).map fun i => (bitsOf w2 (8 * i + 3) 5 + 1, bitsOf w2 (8 * i) 3)

/-- Scratchpad rows of a team (R18). -/
def launchRows (w2 : Word) : Nat := (bitsOf w2 42 20 + 1023) / 1024

/-- The footprint of a team: group slots, registers in whole rows of 256, and scratchpad rows (R22). -/
def Grid.slots (g : Grid) : Nat := (g.roles.map (·.1)).sum
def Grid.regRows (g : Grid) : Nat := ((g.roles.map fun r => r.1 * r.2).sum + 255) / 256

/-- `k` teams of a grid fit in the partition's quota of core `n` (R22, R338). -/
def State.fitsQuota (s : State) (g : Grid) (n k : Nat) : Bool :=
  let q := s.quota n g.part
  k * g.slots ≤ q.slotN && k * g.regRows ≤ q.rowN && k * g.rows ≤ q.spadN

/-- Banks of a cluster that a partition owns. -/
def State.ownBanks (s : State) (k part : Nat) : List Nat := (List.range 48).filter fun b => (s.bank k b).owner == part

/-- The MAP check of an entry (R22). -/
def State.mapOk (s : State) (part x : Nat) : Bool := x < 384 && (s.quota x part).slotN != 0 && (s.core x).inService

/-- An open flue is covered (R23). -/
def State.covered (s : State) (g : Grid) (x : Nat) : Bool :=
  let mate := if x % 2 = 0 then x + 1 else x - 1
  g.map.contains mate || g.alone ||
    (g.pclass != 0 && s.grids.any fun h => h.2.part == g.part && h.2.pclass == g.pclass && h.2.map.contains mate)

/-- The checks of R22, in their order: the rejection status of the first that fails (DEDUCED, log 37). -/
def State.launchCheck (s : State) (g : Grid) (codes : List (Nat × Nat)) : Option Nat :=
  if codes.any (fun r => 6 ≤ r.2) || 32 < g.slots || 512 < g.rows then some 0x10
  else if !g.map.all (s.mapOk g.part) then some 0x11
  else if !g.map.all (fun x => s.fitsQuota g x 1 && decide (g.spadB + g.fifoB ≤ (s.ownBanks (x / 24) g.part).length)) then some 0x12
  else if !g.map.all (s.covered g) then some 0x13
  else if g.coop && !(decide (g.teams ≤ g.map.length) && g.map.all fun x =>
      s.fitsQuota g x ((g.map.take g.teams).countP (· == x))) then some 0x14
  else none

/-- The bank request of a launch in one cluster (R203): the partition's cache-mode banks, highest first, FIFO banks first.
A bank that is switching counts by the mode it is switching to (DEDUCED, log 38). -/
def State.bankNeeds (s : State) (k part spadB fifoB : Nat) : State :=
  let own := (s.ownBanks k part).reverse
  let goal (b : Nat) : BankMode := match (s.bank k b).st with
    | .stable => (s.bank k b).mode
    | .pending m _ => m
    | .convert m h => h.getD m
  let free := own.filter fun b => goal b == .cache
  let needF := fifoB - own.countP fun b => goal b == .fifo
  let needS := spadB - own.countP fun b => goal b == .spad
  let s1 := (free.take needF).foldl (fun t b => t.setBank k b ((t.bank k b).request .fifo).2) s
  ((free.drop needF).take needS).foldl (fun t b => t.setBank k b ((t.bank k b).request .spad).2) s1

/-- The clusters that a map uses. -/
def clustersOf (map : List Nat) : List Nat := (map.map (· / 24)).dedup

/-- The grid that a packet describes; its map is read later. -/
def gridOf (ws : List Word) (part ctx stream seq prioMax : Nat) (map : List Nat) : Grid :=
  let w (i : Nat) : Word := ws.getD i 0
  { part := part, ctx := ctx, stream := stream, seq := seq
    entry := (w 1).setWidth 56
    roles := (launchRoles (w 2)).map fun r => (r.1, 8 * 2 ^ r.2)
    rows := launchRows (w 2), map := map, teams := bitsOf (w 6) 0 24 + 1
    param := (w 4).setWidth 56, key := w 5
    coop := (w 0).getLsbD 23, alone := (w 0).getLsbD 22, exact := (w 0).getLsbD 21, log := (w 0).getLsbD 20
    recAtom := (w 0).getLsbD 19, prio := min (bitsOf (w 0) 15 3) prioMax, pclass := bitsOf (w 0) 12 3
    utag := (w 7).setWidth 32, spadB := bitsOf (w 7) 56 6, fifoB := bitsOf (w 7) 48 6 }

/-- The class of a grid: CUR of the header at its entry, and 0 where that cannot be read (R354). -/
def State.entryClass (s : State) (part ctx : Nat) (entry : Addr) : Nat :=
  match (s.ctxTranslate part ctx entry.toNat .ex (s.ctxSup part ctx)).2 with
  | .ok pa => if region pa == .dev || region pa == .host then (decodeHeader (Memory.word s.mem pa)).elim 0 (·.cur.toNat) else 0
  | .error _ => 0

/-- The read of a launch's placement map: the bytes of its entries (R22, R286). -/
def State.mapRead (s : State) (ws : List Word) (part ctx : Nat) : State × Except (Bool × Nat) (List Byte) :=
  s.ctxRead part ctx (bitsOf (ws.getD 3 0) 0 56) (2 * (bitsOf (ws.getD 6 0) 40 12 + 1)) (s.ctxSup part ctx)

/-- A launch waits: an engine owns a line of its map, which is recalled (R224). -/
def State.mapWaits (s : State) (ws : List Word) (part ctx : Nat) : Option State :=
  if launchReserved ws then none
  else
    match s.mapRead ws part ctx with
    | (t, .error (_, c)) => if c = cWAIT then some t else none
    | (_, .ok _) => none

/-- A launch: it is rejected with a status, or its grid is running (R286). A map at an odd address cannot be read (DEDUCED, log 40). -/
def State.launch (s : State) (ws : List Word) (part ctx stream seq prioMax : Nat) (lnch : Option Word)
    (takenAt : Nat) : State × Except Nat Nat :=
  let w (i : Nat) : Word := ws.getD i 0
  if launchReserved ws then (s, .error 0x01)
  else if (w 3).getLsbD 0 then (s, .error 0x11)
  else
    let n := bitsOf (w 6) 40 12 + 1
    match s.mapRead ws part ctx with
    | (s1, .error _) => (s1, .error 0x11)
    | (s1, .ok bs) =>
      let map := (List.range n).map fun i => leNat ((bs.drop (2 * i)).take 2)
      let g := gridOf ws part ctx stream seq prioMax map
      match s1.launchCheck g (launchRoles (w 2)) with
      | some st => (s1, .error st)
      | none =>
        let id := s1.nextId
        let s2 := (clustersOf map).foldl (fun t k => t.bankNeeds k part g.spadB g.fifoB) { s1 with nextId := id + 1 }
        let s3 := s2.setGrid id { g with id := id, lnch := lnch, takenAt := takenAt, cur := s.entryClass part ctx g.entry }
        (if g.log then s3 else s3.mark part ctx 5 0, .ok id)

end Sys2Proof.Machine
end

