-- ==== Sys2Proof/Machine/Engines.lean ====
section
/-! DEFINITION. Queues I: engine commands, from their issue through their start and their writes to their completion, with the event
queues (R222-R224, R288-R303). -/

namespace Sys2Proof.Machine

/-! ## Issue (R292, R293, R297) -/

/-- The cluster whose engines take an agent's commands. A scheduler core has none of its own: it uses those of the first cluster of its
die, to which cores 0 and 1 give the north and 2 and 3 the south (R11) (DESIGN CHOICE, log 97). -/
def Group.engCluster (g : Group) : Nat :=
  match g.kind with
  | .scheduler i => 8 * (i / 2)
  | _ => g.cluster
/-- The copy engine of an agent, by SRC (R290, R292). -/
def Group.copyEngine (g : Group) : Nat := 4 * g.engCluster + (if g.kind = .compute then g.core % 24 / 6 else 0)
/-- The binning engine of an agent's cluster, the collective engine of its die. -/
def Group.binEngine (g : Group) : Nat := 0x40 + g.engCluster
def Group.collEngine (g : Group) : Nat := 0x50 + g.engCluster / 8

/-- The id that the next command of an engine gets (R292) (DESIGN CHOICE, log 24). -/
def State.nextCmd (s : State) (e : Nat) : Word := BitVec.ofNat 64 (e * 2 ^ 32 + ((s.engine e).count + 1) % 2 ^ 32)

/-- The matrix requests of the tables and of the saved teams. -/
def State.allMx (s : State) : List MxEntry := s.matrix.flatMap (·.2.table) ++ s.savedMx.flatMap (·.2.entries)

/-- Changes or removes matrix requests, wherever they are. -/
def State.mapMx (s : State) (f : MxEntry → Option MxEntry) : State :=
  { s with
    matrix := s.matrix.map fun m => (m.1, { m.2 with table := m.2.table.filterMap f })
    savedMx := s.savedMx.map fun m => (m.1, { m.2 with entries := m.2.entries.filterMap f }) }

/-- A matrix request is held in a slot of a team (R297). -/
def MxEntry.inSlot (key slot : Nat) (e : MxEntry) : Bool := e.hold && teamKey e.grid e.team == key && e.slot == slot

/-- The operations that a patch slot of a team holds, commands and matrix requests (R297). -/
def State.slotCount (s : State) (key slot : Nat) : Nat :=
  (Tbl.get [] s.patch (4 * key + slot)).length + s.allMx.countP (·.inSlot key slot)

/-- A command as the running agent posts it; `ll` says whether it counts on the clause's flags. Its record goes to the event queue of the
agent's cluster, a scheduler core's to that of cluster 0 or 8 (R291) (DESIGN CHOICE, log 97). -/
def State.mkCmd (s : State) (e : Nat) (op : CmdOp) (a b c : Word) (ev : Bool) (tag : BitVec 16) (ll : Bool) : Cmd :=
  let g := s.run
  let f := if ll then g.sets else (15, 15)
  { id := s.nextCmd e, op := op, a := a, b := b, c := c, ev := ev, tag := tag, gid := g.gid, part := g.part, ctx := g.ctx
    grid := g.grid, team := g.team, core := g.core, cluster := g.engCluster, stream := (s.launchOf g).1
    prio := (s.grid? g.grid).elim 7 (·.prio), seta := f.1, setb := f.2, issuedAt := s.time, ord := s.nextId, pc := g.wordAddr
    mem := ll && g.memClause }

/-- A command enters its engine's queue or its patch slot, its id goes to D, and the group goes on (R292). -/
def State.post (s : State) (e : Nat) (cmd : Cmd) (d : SReg) (held : Option Nat) : State :=
  let g := s.run
  let x := s.engine e
  let s1 := match held with
    | none => s.setEngine e { x with count := x.count + 1, cmds := x.cmds ++ [cmd] }
    | some k =>
      let key := 4 * g.teamKey + k
      let t := s.setEngine e { x with count := x.count + 1 }
      { t with patch := Tbl.put t.patch key (Tbl.get [] t.patch key ++ [cmd]) }
  let s2 := s1.charge 1
  { s2 with
    nextId := s.nextId + 1
    run := { (g.countOp cmd.seta cmd.setb).setS d cmd.id with word := g.word + 1 } }

/-! ## Addresses of a command (R197, R294, R295) -/

/-- Why a command cannot go on (R294), or cannot yet (R224). -/
inductive CmdErr where
  | wait
  | bad
  | fault (cause : Nat)
  | page (cause : Nat)
  deriving DecidableEq, Repr

/-- The failure of a range. -/
def cmdErr (e : Bool × Nat) : CmdErr := if e.2 = cWAIT then .wait else if e.1 then .page e.2 else .fault e.2

/-- A command's issuer runs at supervisor level (R372). -/
def State.cmdSup (s : State) (c : Cmd) : Bool := s.isSup c.agent

/-- Where a scratchpad byte of a command lies: an offset of its own team's window, or an absolute key and its team. -/
def State.cmdSpad (s : State) (c : Cmd) (a : Nat) : Option (Sum Nat (Nat × Nat)) :=
  let own := teamKey c.grid c.team
  if c.agent.kind = .compute ∧ a / 2 ^ 19 = 31 ∧ a < 2 ^ 24 then
    match s.team? own with
    | some t => if a % 2 ^ 19 < 1024 * t.winRows then some (.inl (a % 2 ^ 19)) else none
    | none => none
  else
    match s.spadByte c.agent a with
    | some (k, key) =>
      if key = own ∧ c.agent.kind = .compute then some (.inl (a % 2 ^ 19 - (s.team? own).elim 0 (·.winBase))) else some (.inr (k, key))
    | none => none

/-- Reads bytes for a command. -/
def State.engRead (s : State) (c : Cmd) (spad : Bool) (a : Word) (n : Nat) : State × Except CmdErr (List Byte) :=
  if spad then
    match (List.range n).mapM fun i => s.cmdSpad c (a.toNat + i) with
    | none => (s, .error (.fault cSCRBND))
    | some ks => (s, .ok (ks.map fun k => match k with
        | .inl off => s.winByte (teamKey c.grid c.team) off
        | .inr (x, _) => Memory.get s.spad x))
  else
    match s.ctxRead c.part c.ctx a.toNat n (s.cmdSup c) (some c.ord) with
    | (s1, .error e) => (s1, .error (cmdErr e))
    | (s1, .ok bs) => (s1, .ok bs)

/-- Cuts bytes at 128-byte lines. -/
def lineParts (fuel pa : Nat) (bs : List Byte) : List (Nat × List Byte) :=
  match fuel with
  | 0 => []
  | f + 1 => if bs.isEmpty then [] else
      let k := 128 - pa % 128
      (pa, bs.take k) :: lineParts f (pa + k) (bs.drop k)

/-- The writes of bytes to physical parts. A part that lies in MMIO is one access, of 4 or 8 aligned bytes (R195) (DESIGN CHOICE, log 31). -/
def State.partWrites (s : State) (bs : List Byte) : List (Nat × Nat) → Except CmdErr (List EngWrite)
  | [] => .ok []
  | (pa, n) :: ps =>
    let here := bs.take n
    let lines := lineParts (n / 128 + 2) pa here
    match s.placeOf pa n .wr, s.partWrites (bs.drop n) ps with
    | .ok (.mem _), .ok ws => .ok (lines.map (fun l => (⟨0, l.1, l.2, 0⟩ : EngWrite)) ++ ws)
    | .ok (.peer _ _), .ok ws => .ok (lines.map (fun l => (⟨3, l.1, l.2, Tbl.get 0 s.dev.peers (windowOf pa)⟩ : EngWrite)) ++ ws)
    | .ok (.mmio off), .ok ws => .ok (⟨6, off, here, 0⟩ :: ws)
    | .error c, .ok _ => .error (.fault (s.portless pa .wr c))
    | _, .error e => .error e

/-- The writes of bytes for a command to global memory or scratchpad. -/
def State.engDest (s : State) (c : Cmd) (spad : Bool) (a : Word) (bs : List Byte) : State × Except CmdErr (List EngWrite) :=
  if spad then
    match (List.range bs.length).mapM fun i => s.cmdSpad c (a.toNat + i) with
    | none => (s, .error (.fault cSCRBND))
    | some ks => (s, .ok ((ks.zip bs).map fun x => match x.1 with
        | .inl off => ⟨4, off, [x.2], 0⟩
        | .inr (k, _) => ⟨1, k, [x.2], 0⟩))
  else
    match s.ctxRange c.part c.ctx .wr (s.cmdSup c) (pageParts (bs.length / 4096 + 2) a.toNat bs.length) with
    | (s1, .error e) => (s1, .error (cmdErr e))
    | (s1, .ok ps) => (s1, s1.partWrites bs ps)

/-! ## Copy, gather and scatter (R295) -/

/-- Chains the rows of a copy: reads each row's source and names its destination's writes. -/
def State.copyRows (s : State) (c : Cmd) (ssp dsp : Bool) (len : Nat) : List (Word × Word) → State × Except CmdErr (List EngWrite)
  | [] => (s, .ok [])
  | (src, dst) :: rows =>
    match s.engRead c ssp src len with
    | (s1, .error e) => (s1, .error e)
    | (s1, .ok bs) =>
      match s1.engDest c dsp dst bs with
      | (s2, .error e) => (s2, .error e)
      | (s2, .ok ws) =>
        match s2.copyRows c ssp dsp len rows with
        | (s3, .error e) => (s3, .error e)
        | (s3, .ok vs) => (s3, .ok (ws ++ vs))

/-- The bytes of the rows of a copy into a FIFO, in order. -/
def State.fifoRows (s : State) (c : Cmd) (ssp : Bool) (len : Nat) : List Word → State × Except CmdErr (List Byte)
  | [] => (s, .ok [])
  | src :: rows =>
    match s.engRead c ssp src len with
    | (s1, .error e) => (s1, .error e)
    | (s1, .ok bs) =>
      match s1.fifoRows c ssp len rows with
      | (s2, .error e) => (s2, .error e)
      | (s2, .ok cs) => (s2, .ok (bs ++ cs))

/-- Cuts bytes into 1 KiB entries. -/
def entriesOf (fuel : Nat) (bs : List Byte) : List (List Byte) :=
  match fuel with
  | 0 => []
  | f + 1 => if bs.isEmpty then [] else bs.take 1024 :: entriesOf f (bs.drop 1024)

/-- A descriptor's four words (R294). -/
def State.descWords (s : State) (c : Cmd) : State × Except CmdErr (List Word) :=
  if c.a.toNat % 32 != 0 then (s, .error .bad)
  else
    match s.engRead c false c.a 32 with
    | (s1, .error e) => (s1, .error e)
    | (s1, .ok bs) => (s1, .ok (wordsOf bs 4))

/-- The index list of GATH and SCAT. -/
def State.indices (s : State) (c : Cmd) (n : Nat) : State × Except CmdErr (List Nat) :=
  match s.engRead c false c.c (4 * n) with
  | (s1, .error e) => (s1, .error e)
  | (s1, .ok bs) => (s1, .ok ((List.range n).map fun i => leNat ((bs.drop (4 * i)).take 4)))

/-- Two ranges of addresses of one length meet. -/
def rangesMeet (len a b : Nat) : Bool := a < b + len && b < a + len

/-- The writes of a copy whose source overlaps its destination have free bytes (R295) (DESIGN CHOICE, log 88). -/
def State.unsureCopy (s : State) (ws : List EngWrite) : State × Except CmdErr (List EngWrite) :=
  ({ s with freeCtr := s.freeCtr + 1 },
    .ok (ws.zipIdx.map fun w => { w.1 with bytes := (List.range w.1.bytes.length).map (Config.copyByte s.freeCtr w.2) }))

/-- The writes of a copy with descriptor words `d`, `n` rows, and source and destination indices (DESIGN CHOICE, log 88). -/
def State.copyPlan (s : State) (c : Cmd) (d : List Word) (linear : Bool) (n : Nat) (si di : Nat → Nat) :
    State × Except CmdErr (List EngWrite) :=
  let w (i : Nat) : Word := d.getD i 0
  let ssp := bitsOf (w 2) 32 4
  let dsp := bitsOf (w 2) 36 4
  let len := if linear then n else bitsOf (w 2) 0 32
  let rows := if linear then 1 else n
  let src (i : Nat) : Word := w 0 + BitVec.ofNat 64 (si i * bitsOf (w 3) 0 32)
  let dst (i : Nat) : Word := w 1 + BitVec.ofNat 64 (di i * bitsOf (w 3) 32 32)
  if bitsOf (w 2) 40 24 != 0 || 2 ≤ ssp || 3 ≤ dsp || (!linear && (len = 0 || 2 ^ 24 < len))
      || (dsp = 2 && rows * len % 1024 != 0) then (s, .error .bad)
  else if dsp = 2 then
    match s.fifoRows c (ssp = 1) len ((List.range rows).map src) with
    | (s1, .error e) => (s1, .error e)
    | (s1, .ok bs) => (s1, .ok ((entriesOf (bs.length / 1024 + 1) bs).map fun e => ⟨2, bitsOf (w 1) 0 6, e, 0⟩))
  else
    let overlaps := ssp == dsp && (List.range rows).any fun i => (List.range rows).any fun j => rangesMeet len (src i).toNat (dst j).toNat
    match s.copyRows c (ssp = 1) (dsp = 1) len ((List.range rows).map fun i => (src i, dst i)) with
    | (s1, .ok ws) => if overlaps then s1.unsureCopy ws else (s1, .ok ws)
    | (s1, .error e) => (s1, .error e)

/-! ## Binning (R296) -/

/-- Little-endian bytes of n32 words. -/
def bytes32 (xs : List Nat) : List Byte := xs.flatMap fun x => leBytes x 4

/-- The writes of BIN, and whether entries were dropped. -/
def State.binPlan (s : State) (c : Cmd) (n16 : Bool) (d : List Word) : State × Except CmdErr (List EngWrite × Bool) :=
  let w (i : Nat) : Word := d.getD i 0
  let n := c.b.toNat
  let nd := c.c.toNat
  let k := if n16 then 2 else 4
  let seg := bitsOf (w 3) 0 32
  if bitsOf (w 3) 32 32 != 0 then (s, .error .bad)
  else
    match s.engRead c false (w 0) (k * n) with
    | (s1, .error e) => (s1, .error e)
    | (s1, .ok bs) =>
      let keys := (List.range n).map fun i => leNat ((bs.drop (k * i)).take k)
      let counts := (List.range nd).map (fun x => keys.count x) ++ [keys.countP (fun x => nd ≤ x)]
      let lists := (List.range nd).map fun x => (List.range n).filter fun i => keys.getD i 0 == x
      let rows : List (Word × List Nat) := if seg = 0 then [(w 2, lists.flatten)]
        else lists.zipIdx.map fun l => (w 2 + BitVec.ofNat 64 (4 * seg * l.2), l.1.take seg)
      match s1.engDest c false (w 1) (bytes32 counts) with
      | (s2, .error e) => (s2, .error e)
      | (s2, .ok ws) =>
        let r := rows.foldl (fun (p : State × Except CmdErr (List EngWrite)) x =>
          match p.2 with
          | .error e => (p.1, .error e)
          | .ok vs =>
            match p.1.engDest c false x.1 (bytes32 x.2) with
            | (s3, .error e) => (s3, .error e)
            | (s3, .ok us) => (s3, .ok (vs ++ us))) (s2, .ok ws)
        (r.1, match r.2 with
          | .error e => .error e
          | .ok vs => .ok (vs, seg != 0 && lists.any fun l => seg < l.length))

/-! ## Collectives (R298, R299) -/

/-- One step of a combination of two elements (R298, R299). -/
def collStep (ty op : Nat) (x y : Nat) : Nat :=
  if ty = 8 ∨ ty = 11 then
    let q := if ty = 8 then fmtF32 else fmtF64
    if op = 0 then (q.add .rne false 0 (q.read x) (q.read y)).1
    else (q.minmax (if op = 1 then .min else .max) x y).1
  else
    let w := if ty = 1 then 32 else 64
    if op = 0 then (x + y) % 2 ^ w
    else if op = 1 then (if readInt true w y < readInt true w x then y else x)
    else (if readInt true w x < readInt true w y then y else x)

/-- Elements of `e` bytes. -/
def elemsOf (e : Nat) (bs : List Byte) : List Nat := (List.range (bs.length / e)).map fun i => leNat ((bs.drop (e * i)).take e)

/-- The combination of blocks in ascending rank. -/
def combine (ty op : Nat) (blocks : List (List Byte)) : List Byte :=
  let e := if ty = 1 ∨ ty = 8 then 4 else 8
  match blocks.map (elemsOf e) with
  | [] => []
  | b :: bs => (bs.foldl (fun acc x => List.zipWith (collStep ty op) acc x) b).flatMap fun x => leBytes x e

/-- The stores of a collective to its other members: every member makes them, but in a broadcast only the root (R299) (DESIGN CHOICE, log 41). -/
def memberStores (isBcast : Bool) (rank root : Nat) (members : List Nat) : List EngWrite :=
  if isBcast && rank != root then []
  else (members.zipIdx.filter fun m => m.2 != rank).map fun m => ⟨5, m.1, [], 0⟩

/-- The writes of COLL at this member. The blocks of other members are data of their devices: free values (R299) (DESIGN CHOICE, log 41) (DESIGN CHOICE, log 87). -/
def State.collPlan (s : State) (c : Cmd) (kind : CollKind) (d : List Word) : State × Except CmdErr (List EngWrite) :=
  let w (i : Nat) : Word := d.getD i 0
  let b := c.b.toNat
  let n := bitsOf (w 3) 0 16
  let rank := bitsOf (w 3) 16 16
  let ty := bitsOf (w 3) 32 4
  let op := bitsOf (w 3) 36 4
  let root := bitsOf c.c 32 16
  let isBcast := kind == .broadcast
  if bitsOf (w 3) 40 24 != 0 || bitsOf c.c 48 16 != 0 || (!isBcast && root != 0) || (isBcast && n ≤ root) || n < 2 || 16384 < n || n ≤ rank
      || !([1, 8, 11, 14].contains ty) || 3 ≤ op || b % 32 != 0 || (kind == .reduceScatter && b % n != 0) then (s, .error .bad)
  else
    match s.engRead c false (w 2) (2 * n) with
    | (s0, .error e) => (s0, .error e)
    | (s0, .ok ids) =>
    match s0.engRead c false (w 0) b with
    | (s1, .error e) => (s1, .error e)
    | (s1, .ok mine) =>
      let block (r : Nat) : List Byte := if r = rank then mine else (List.range b).map (Config.peerByte s.freeCtr r)
      let all := (List.range n).map block
      let out := match kind with
        | .allReduce => combine ty op all
        | .reduceScatter => ((combine ty op all).drop (rank * (b / n))).take (b / n)
        | .allGather => all.flatten
        | .broadcast => block root
      match { s1 with freeCtr := s1.freeCtr + 1 }.engDest c false (w 1) out with
      | (s2, .error e) => (s2, .error e)
      | (s2, .ok ws) => (s2, .ok (memberStores isBcast rank root (elemsOf 2 ids) ++ ws))

/-! ## Completion (R223, R288-R294) -/

/-- A command's completion or ENGFAULT record. -/
def Cmd.src (c : Cmd) : Nat := bitsOf c.id 32 8
def Cmd.record (c : Cmd) (status : Nat) : BitVec 128 := mkRecord c.tag.toNat (bitsOf c.id 0 32) c.stream c.src 1 status
def Cmd.faultRecord (c : Cmd) (status : Nat) : BitVec 128 :=
  mkRecord (c.ctx * 2 ^ 15 + c.part * 2 ^ 21) (bitsOf c.id 0 32) c.stream c.src 3 status

/-- The flags of a group are counted down for an operation of it (R52). -/
def State.countDown (s : State) (gid : Nat) (seta setb : BitVec 4) : State :=
  match s.group? gid with
  | some g => s.setGroup (g.endOp seta setb)
  | none => s

/-- A command has finished, and waits to post its record. -/
def Cmd.isFinished (c : Cmd) : Bool :=
  match c.st with
  | .finished _ => true
  | _ => false

/-- Records wait for room in a cluster's queue: of finished commands, or of sleeping EVPS (R291, R303). -/
def State.postsWait (s : State) (k : Nat) : Bool :=
  (s.engines.any fun e => e.2.cmds.any fun c => c.cluster == k && c.isFinished) || s.allGroups.any fun g => match g.wait with
    | .evps k' _ _ => k' == k
    | _ => false

/-- A command completes with a status: with EV it waits for room for its record, whose posting sets the mark of cause 4 (R272,
R291). -/
def State.finishCmd (s : State) (e : Nat) (c : Cmd) (status : Nat) : State :=
  if c.ev then
    let k := s.cluster c.cluster
    if k.queueRoom && (c.isFinished || !s.postsWait c.cluster) then
      let s1 := s.setCluster c.cluster (k.append (c.record status))
      ((s1.dropCmd e c.id).countDown c.gid c.seta c.setb).markBy c.grid c.part c.ctx 4 0
    else if c.isFinished then s.setCmd e { c with st := .finished status }
    else { s.setCmd e { c with st := .finished status, fin := s.nextId } with nextId := s.nextId + 1 }
  else (s.dropCmd e c.id).countDown c.gid c.seta c.setb

/-- A command cannot go on: it ends, or is held for the supervisor (R294); or it waits for a line, and has not started (R224). Without a
live port a collective ends with PEERFAIL, and any other command with FAULTED for ACCESS (R409). -/
def State.failCmd (s : State) (e : Nat) (c : Cmd) (err : CmdErr) : State :=
  match err with
  | .wait => s
  | .bad => s.finishCmd e c 2
  | .fault cause =>
    match c.op, cause == cPORT with
    | .coll _, true => s.finishCmd e c 7
    | _, port => (s.postSystem (s.supCl c.part c.ctx) (c.faultRecord (if port then cACCESS else cause))).finishCmd e c 4
  | .page _ => (s.postSystem (s.supCl c.part c.ctx) (c.faultRecord cENGFAULT)).setCmd e { c with st := .heldFault }

/-- The windows that a command's scratchpad writes go to (R87). -/
def State.raiseGens (s : State) (c : Cmd) (ws : List EngWrite) : State :=
  let own := teamKey c.grid c.team
  let s1 := if ws.any fun w => w.space == 4 || w.space == 2 then s.raiseGen own else s
  let others := (s.teams.filter fun t => t.1 != own && ws.any fun w => w.space == 1 &&
    t.2.holds (24 * (w.at' / 2 ^ 24) + w.at' / 2 ^ 19 % 32) (w.at' % 2 ^ 19)).map (·.1)
  others.foldl (fun t k => t.raiseGen k) s1

/-- The status of a command whose writes are all made: BIN that dropped entries ends with CLAMPED, which it marks on itself, and a copy that
was cut short with CANCELLED (R301). -/
def Cmd.okStatus (c : Cmd) : Nat := if c.cut then 3 else if c.patched then 6 else 0

/-- A running command goes on to its end, or as far as it can. -/
def State.runCmd (s : State) (e : Nat) (c : Cmd) (ws : List EngWrite) : State :=
  let r := s.engWrites c ws
  let made := ws.take (ws.length - r.2.1.length)
  let s1 := (r.1.countBytes e c (made.map (·.bytes.length)).sum).raiseGens c ws
  match r.2.2 with
  | some cause => (s1.failCmd e c (.fault cause)).giveUp c.cluster ws
  | none =>
    if r.2.1.isEmpty then (s1.finishCmd e c c.okStatus).giveUp c.cluster ws
    else
      let s2 := (s1.setCmd e { c with st := .running r.2.1, begun := c.begun || made.any (·.space == 2) }).giveUp c.cluster made
      match s2.ctx? c.part c.ctx, r.2.1 with
      | some x, w :: _ =>
        if w.space = 0 && !s2.logRoom (sectorsOf w.at' w.bytes.length) c.part c.ctx c.grid then s2.logFull c.part c.ctx x else s2
      | _, _ => s2

/-! ## The plan of a command (R224, R292-R299) -/

/-- The writes of a command, read from its descriptor and its data. A count of 0 writes nothing. -/
def State.plan (s : State) (c : Cmd) : State × Except CmdErr (List EngWrite) :=
  let n := c.b.toNat
  let copy (linear : Bool) (lim : Nat) (idx : Option Bool) : State × Except CmdErr (List EngWrite) :=
    if lim ≤ n then (s, .error .bad)
    else if n = 0 then (s, .ok [])
    else
      match s.descWords c with
      | (s1, .error e) => (s1, .error e)
      | (s1, .ok d) =>
        match idx with
        | none => s1.copyPlan c d linear n id id
        | some gather =>
          match s1.indices c n with
          | (s2, .error e) => (s2, .error e)
          | (s2, .ok xs) =>
            let f (i : Nat) : Nat := xs.getD i 0
            if gather then s2.copyPlan c d false n f id else s2.copyPlan c d false n id f
  match c.op with
  | .cpy rows => copy (!rows) (if rows then 2 ^ 32 else 2 ^ 40) none
  | .gath => copy false (2 ^ 32) (some true)
  | .scat => copy false (2 ^ 32) (some false)
  | .coll kind =>
    match s.descWords c with
    | (s1, .error e) => (s1, .error e)
    | (s1, .ok d) => s1.collPlan c kind d
  | _ => (s, .ok [])

/-- The writes that a command which has not started will make, once its group's earlier stores have performed. -/
def State.cmdWrites (s : State) (c : Cmd) : List EngWrite :=
  let t := if c.core = noCore then s else s.drainBuf c.core
  match c.op with
  | .bin n16 =>
    match t.descWords c with
    | (t1, .ok d) => match (t1.binPlan c n16 d).2 with
      | .ok r => r.1
      | .error _ => []
    | (_, .error _) => []
  | _ => match (t.plan c).2 with
    | .ok ws => ws
    | .error _ => []

/-- The lines of memory that writes go to. -/
def writeLines (ws : List EngWrite) : List Nat := ((ws.filter (·.space == 0)).map fun w => w.at' / 128 * 128).dedup

/-- A command takes ownership of the lines that it will write, as its descriptor and its data stand (R224). -/
def State.claim (s : State) (c : Cmd) : Cmd := { c with lines := writeLines (s.cmdWrites c) }

/-! ## Patch slots (R297) -/

/-- An operation of a slot: a command, or the entry of a matrix engine, in post order. -/
def State.slotOrds (s : State) (key slot : Nat) : List Nat :=
  let cs := ((Tbl.get [] s.patch (4 * key + slot)).filter (!·.patched)).map (·.ord)
  let ms := (s.allMx.filter fun e => e.inSlot key slot && !e.patched).map (·.ord)
  (cs ++ ms).mergeSort

/-- ⌈v / 2^k⌉ or ⌊v / 2^k⌋. -/
def patchValue (floor : Bool) (v k : Nat) : Nat := if floor then v / 2 ^ k else (v + 2 ^ k - 1) / 2 ^ k

/-- A copy, gather or scatter. -/
def CmdOp.copies : CmdOp → Bool
  | .cpy _ => true
  | .gath => true
  | .scat => true
  | _ => false

/-- The limit of a patched count. -/
def CmdOp.limit : CmdOp → Nat
  | .cpy rows => if rows then 2 ^ 32 - 1 else 2 ^ 40 - 1
  | _ => 2 ^ 32 - 1

/-- Sets the count of a held operation: whether it was clamped. -/
def State.patchOne (s : State) (key slot ord v : Nat) : State × Bool :=
  let k := 4 * key + slot
  match (Tbl.get [] s.patch k).find? (·.ord == ord) with
  | some c =>
    let c' : Cmd := { c with b := BitVec.ofNat 64 (min v c.op.limit), patched := true }
    ({ s with patch := Tbl.put s.patch k ((Tbl.get [] s.patch k).map fun y => if y.ord = ord then c' else y) }, c.op.limit < v)
  | none =>
    (s.mapMx fun e => some (if e.ord = ord ∧ e.hold then
        match e.op with
        | .mma fa keep t b _ x sid done => { e with op := .mma fa keep t b (min v 4095) x sid done, patched := true }
        | _ => e
      else e), 4095 < v)

/-- PTCH, and the status it ends with. -/
def State.patchAll (s : State) (key slot : Nat) (vs : List Nat) : State × Bool :=
  ((s.slotOrds key slot).zip vs).foldl (fun (p : State × Bool) x =>
    let r := p.1.patchOne key slot x.1 x.2
    (r.1, p.2 || r.2)) (s, false)

/-- Column, tile and B address of step `i` of a request (R319). -/
def stepCol (c : Word) (i : Nat) : Nat := bitsOf c 32 2 + i * bitsOf c 34 2
def stepTile (tile : Nat) (c : Word) (i : Nat) : Nat := tile + (if c.getLsbD 36 then stepCol c i / 4 else 0)
def stepAddr (b c : Word) (i : Nat) : Int := b.toNat + i * (c.extractLsb' 0 32).toInt

/-- The bytes of a block lie in windows that the agent may use (R199): windows are whole rows of 1 KiB (DESIGN CHOICE, log 47). -/
def State.blockOk (s : State) (g : Group) (a : Int) : Bool :=
  0 ≤ a && (s.spadByte g a.toNat).isSome && (s.spadByte g (a.toNat + 1023)).isSome

/-- The agent behind a matrix entry, for the address rules. -/
def MxEntry.agent (x : MxEntry) : Group :=
  { gid := x.gid, part := x.part, ctx := x.ctx, grid := x.grid, team := x.team, core := x.core }

/-- The grant of a group (R305). -/
def State.grantOf (s : State) (gid : Nat) : Option Grant :=
  (s.matrix.flatMap (·.2.grants) ++ s.savedMx.flatMap (·.2.grants)).find? (·.gid == gid)

/-- The failing address of a released request whose patched count leaves its tiles or R199 (R314, cause 1). -/
def State.patchFault (s : State) (x : MxEntry) : Option Nat :=
  match x.op with
  | .mma _ _ tile b n c _ _ =>
    let k := (s.grantOf x.gid).elim 0 (·.tiles.length)
    if x.patched then
      ((List.range n).find? fun i => k ≤ stepTile tile c i || (!b.getLsbD 63 && !s.blockOk x.agent (stepAddr b c i))).map
        fun i => (stepAddr b c i).toNat
    else none
  | _ => none

/-- A deferred fault of a group's grant, also of a saved team's (R314): the first is kept. -/
def State.deferFault (s : State) (gid cause addr : Nat) : State :=
  let f (g : Grant) : Grant := if g.gid = gid ∧ g.fault = none then { g with fault := some (cause, addr) } else g
  { s with
    matrix := s.matrix.map fun m => (m.1, { m.2 with grants := m.2.grants.map f })
    savedMx := s.savedMx.map fun m => (m.1, { m.2 with grants := m.2.grants.map f }) }

/-- An entry leaves its table and its flags (R53, R311). -/
def State.freeEntry (s : State) (x : MxEntry) : State :=
  (s.mapMx fun e => if e.ord = x.ord then none else some e).countDown x.gid x.seta x.setb

/-- RLSE: every operation of the slot is released, in post order: a command issues to its engine now (R224). Its patch mark is spent. A matrix request whose
patched count is bad ends at once (R314, R319). -/
def State.release (s : State) (key slot : Nat) : State :=
  let k := 4 * key + slot
  let bad := (s.allMx.filter (·.inSlot key slot)).filterMap fun e => (s.patchFault e).map fun a => (e, a)
  let s1 := (Tbl.get [] s.patch k).foldl (fun (t : State) (c : Cmd) =>
    let x := t.engine c.src
    t.setEngine c.src { x with cmds := x.cmds ++ [t.claim { c with patched := false }] }) s
  let s2 := { s1 with patch := Tbl.del s1.patch k }.mapMx fun e =>
    some (if e.inSlot key slot then { e with hold := false, aged := 0, since := 0 } else e)
  (bad.foldl (fun t x => (t.deferFault x.1.gid 1 x.2).freeEntry x.1) s2).mxRefreshAll

/-- Cancels every operation of a slot: how many there were (R301). -/
def State.cancelSlot (s : State) (key slot : Nat) : State × Nat :=
  let k := 4 * key + slot
  let cs := Tbl.get [] s.patch k
  let ms := s.allMx.filter (·.inSlot key slot)
  let s1 := { s with patch := Tbl.del s.patch k }.mapMx fun e => if e.inSlot key slot then none else some e
  let s2 := ms.foldl (fun t e => t.countDown e.gid e.seta e.setb) s1
  (cs.foldl (fun (t : State) (c : Cmd) =>
    let x := t.engine c.src
    (t.setEngine c.src { x with cmds := x.cmds ++ [c] }).finishCmd c.src c 3) s2.mxRefreshAll, cs.length + ms.length)

/-! ## Start (R292, R294, R297, R300) -/

/-- A plan's outcome: the command runs with its writes, or ends. It takes ownership of the lines that it will write, which other commands
give up first (R224). -/
def beginCmd (e : Nat) (c : Cmd) (r : State × Except CmdErr (List EngWrite)) : State :=
  match r.2 with
  | .error err => r.1.failCmd e c err
  | .ok ws =>
    let mem := ws.filter (·.space == 0)
    let t := mem.foldl (fun t w => t.recall w.at' w.bytes.length) r.1
    if mem.any fun w => t.owned w.at' w.bytes.length (some c.ord) then t
    else
      let u := (t.raiseGens c ws).setCmd e { c with st := .running ws, win := ws.any (·.space == 4) }
      (writeLines ws).foldl (fun u x => u.ownLine c.cluster c.part x) u

/-- A command that stays in its queue has started, and its first access waits (R222, R224). -/
def State.waits (s : State) (e : Nat) (id : Word) : State :=
  let x := s.engine e
  s.setEngine e { x with cmds := x.cmds.map fun y => if y.id = id ∧ y.st = .queued then { y with st := .waiting } else y }

/-- A command makes its first accesses once its group's earlier stores have performed and its earlier FQGETs are matched (R222, R225). -/
def State.startCmd (s0 : State) (e : Nat) (c : Cmd) : State :=
  let s := if c.core = noCore then s0 else s0.drainBuf c.core
  let key := teamKey c.grid c.team
  if s.buffered c.core c.part c.ctx || s.fqgetAhead c.gid c.ord then s else
  match c.op with
  | .bin n16 =>
    if 2 ^ 32 ≤ c.b.toNat || c.c = 0 || 4096 < c.c.toNat then s.finishCmd e c 2
    else
      match s.descWords c with
      | (s1, .error err) => s1.failCmd e c err
      | (s1, .ok d) =>
        match s1.binPlan c n16 d with
        | (s2, .error err) => s2.failCmd e c err
        | (s2, .ok r) => beginCmd e { c with patched := r.2 } (s2, .ok r.1)
  | .ptch floor slot =>
    if c.b = 0 || 64 < c.b.toNat || 16 ≤ c.c.toNat then s.finishCmd e c 2
    else
      match s.engRead c false c.a (4 * c.b.toNat) with
      | (s1, .error err) => s1.failCmd e c err
      | (s1, .ok bs) =>
        let r := s1.patchAll key slot ((elemsOf 4 bs).map fun v => patchValue floor v c.c.toNat)
        r.1.finishCmd e c (if r.2 then 6 else 0)
  | .rlse slot => (s.release key slot).finishCmd e c 0
  | .ecanSlot slot issuer d =>
    let r := s.cancelSlot key slot
    let s1 := match r.1.group? issuer with
      | some g => r.1.setGroup { g with wait := .answer d (if r.2 = 0 then 2 else 0) }
      | none => r.1
    s1.finishCmd e c 0
  | .lnch =>
    match s.engRead c false c.a 64 with
    | (s1, .error err) => s1.failCmd e c err
    | (s1, .ok bs) =>
      let ws := wordsOf bs 8
      let w0 := ws.getD 0 0
      if bitsOf w0 32 32 != 0 || bitsOf w0 24 8 != 1 then s1.finishCmd e c 1
      else
        match s1.mapWaits ws c.part c.ctx with
        | some u => u
        | none =>
          match s1.launch ws c.part c.ctx c.stream 0 c.prio (some c.id) s1.nextId with
          | (s2, .error st) => s2.finishCmd e c st
          | (s2, .ok _) => s2.setCmd e { c with st := .running [], begun := true }
  | _ => beginCmd e c (s.plan c)

/-- How many commands an engine runs at once (R292, R297). A scheduler core runs every LNCH: what is limited is how many one grid has
outstanding (R300). -/
def engineWidth (e : Nat) : Option Nat := if e < 0x40 then some 8 else if e < 0x58 then some 1 else none

/-- A command that has started and not completed. -/
def Cmd.running (c : Cmd) : Bool := c.st != .queued

/-- A command that has not finished. -/
def Cmd.open_ (c : Cmd) : Bool :=
  match c.st with
  | .finished _ => false
  | _ => true

/-- An engine goes on: the first of its commands that wait for their first access and can make it; or, where it runs fewer than its width, the
next in its queue starts (R222, R292). -/
def State.startNext (s : State) (e : Nat) : Option State :=
  let x := s.engine e
  let tryOne (c : Cmd) : Option State :=
    let t := s.startCmd e c
    if (t.engine e).cmds.any fun y => y.id == c.id && y.st == .waiting then none else some t
  match (x.cmds.filter (·.st == .waiting)).findSome? tryOne with
  | some t => some t
  | none =>
    if (engineWidth e).all fun n => decide (x.cmds.countP Cmd.running < n) then
      (x.cmds.find? (·.st == .queued)).map fun c => (s.startCmd e c).waits e c.id
    else none

def execEngineCommandStart (e : Nat) (s : State) : Host.Outcome State Fault Refusal := .next ((s.startNext e).getD s)

/-- A member of a collective did not join, or disagrees: it ends with PEERFAIL (R299) (DESIGN CHOICE, log 87). -/
def execCollJoinTimeout (e : Nat) (id : BitVec 32) (s : State) : Host.Outcome State Fault Refusal :=
  match (s.engine e).cmds.find? fun c => c.open_ && bitsOf c.c 0 32 == id.toNat with
  | some c => .next (s.finishCmd e c 7)
  | none => .next s

/-! ## The instructions (R292, R293, R297, R300) -/

/-- A copy raises the generations of the windows that it will write already at its issue; a held one may be given a count yet (R87, R295). -/
def State.raiseIssue (s : State) (c : Cmd) : State := s.raiseGens c (s.cmdWrites { c with b := if c.b = 0 then 1 else c.b })

/-- A post with HOLD into a full slot faults with ENGFAULT (R297). -/
def State.postHold (s : State) (e : Nat) (op : CmdOp) (a b c : Word) (ev hold : Bool) (slot : Nat) (tag : BitVec 16) (d : SReg) :
    State :=
  if hold && 64 ≤ s.slotCount s.run.teamKey slot then s.faultExact cENGFAULT
  else
    let t := s.raiseIssue (s.mkCmd e op a b c ev tag true)
    let cmd := t.mkCmd e op a b c ev tag true
    t.post e (if hold then cmd else t.claim cmd) d (if hold then some slot else none)

def execCpy (rows ev hold : Bool) (slot : BitVec 2) (d : SReg) (a b : SPos) (tag : BitVec 16) (s : State) :
    Host.Outcome State Fault Refusal :=
  let g := s.run
  .next (s.postHold g.copyEngine (.cpy rows) (g.pos a) (g.pos b) 0 ev hold slot.toNat tag d)

def execGath (ev hold : Bool) (slot : BitVec 2) (d : SReg) (a b c : SPos) (tag : BitVec 16) (s : State) :
    Host.Outcome State Fault Refusal :=
  let g := s.run
  .next (s.postHold g.copyEngine .gath (g.pos a) (g.pos b) (g.pos c) ev hold slot.toNat tag d)

def execScat (ev hold : Bool) (slot : BitVec 2) (d : SReg) (a b c : SPos) (tag : BitVec 16) (s : State) :
    Host.Outcome State Fault Refusal :=
  let g := s.run
  .next (s.postHold g.copyEngine .scat (g.pos a) (g.pos b) (g.pos c) ev hold slot.toNat tag d)

def execBin (n16 ev : Bool) (d : SReg) (a b c : SPos) (tag : BitVec 16) (s : State) : Host.Outcome State Fault Refusal :=
  let g := s.run
  .next (s.post g.binEngine (s.claim (s.mkCmd g.binEngine (.bin n16) (g.pos a) (g.pos b) (g.pos c) ev tag true)) d none)

def execPtch (floor ev : Bool) (slot : BitVec 2) (d : SReg) (a b c : SPos) (tag : BitVec 16) (s : State) :
    Host.Outcome State Fault Refusal :=
  let g := s.run
  .next (s.post g.binEngine (s.mkCmd g.binEngine (.ptch floor slot.toNat) (g.pos a) (g.pos b) (g.pos c) ev tag false) d none)

def execRlse (ev : Bool) (slot : BitVec 2) (d : SReg) (tag : BitVec 16) (s : State) : Host.Outcome State Fault Refusal :=
  let e := s.run.binEngine
  .next (s.post e (s.mkCmd e (.rlse slot.toNat) 0 0 0 ev tag false) d none)

def execColl (kind : CollKind) (ev : Bool) (d : SReg) (a b c : SPos) (tag : BitVec 16) (s : State) :
    Host.Outcome State Fault Refusal :=
  let g := s.run
  .next (s.post g.collEngine (s.claim (s.mkCmd g.collEngine (.coll kind) (g.pos a) (g.pos b) (g.pos c) ev tag true)) d none)

/-- The scheduler core that serves the issuing grid's stream carries LNCH out (R300) (DEDUCED, log 40). -/
def execLnch (ev : Bool) (d : SReg) (a : SPos) (tag : BitVec 16) (s : State) : Host.Outcome State Fault Refusal :=
  let g := s.run
  let e := 0x58 + (s.grid? g.grid).elim 0 (·.stream % 4)
  .next (s.post e (s.mkCmd e .lnch (g.pos a) 0 0 ev tag true) d none)

/-! ## Cancellation (R301) -/

/-- What a copy still writes once it is cancelled: nothing where it stands at a boundary of 1 KiB of its destination, and otherwise the
rest of that 1 KiB (R301). -/
def restOfBlock : List EngWrite → List EngWrite
  | [] => []
  | w :: ws => if w.space = 2 ∨ w.at' % 1024 = 0 then [] else (w :: ws).takeWhile fun v => v.space == w.space && v.at' / 1024 == w.at' / 1024

/-- Cancels a command by id: the answer. A command that waits to post its record has not completed (R291); an LNCH whose grid has placed no team
has not started, one that was rejected among them (R301) (DEDUCED, log 73). -/
def State.cancel (s : State) (part ctx : Nat) (id : Word) : State × Word :=
  let e := bitsOf id 32 8
  let held := s.patch.findSome? fun p => (p.2.find? (·.id == id)).map fun c => (p.1, c)
  match (s.engine e).cmds.find? (·.id == id), held with
  | some c, _ =>
    if c.part != part || c.ctx != ctx then (s, 3)
    else
      match c.st with
      | .queued => (s.finishCmd e c 3, 0)
      | .waiting => (s.finishCmd e c 3, if c.op = .lnch then 0 else 1)
      | .heldFault => (s.finishCmd e c 3, if c.op = .lnch then 0 else 1)
      | .finished _ =>
        if c.op = .lnch && c.begun then (s, 2) else (s.setCmd e { c with st := .finished 3 }, if c.op = .lnch then 0 else 1)
      | .running ws =>
        if c.op.copies then (s.setCmd e { c with st := .running (restOfBlock ws), cut := true }, 1)
        else if c.op = .lnch then
          match s.grids.find? fun g => g.2.lnch == some id with
          | some g => if g.2.placed.isEmpty then ({ s with grids := Tbl.del s.grids g.1 }.finishCmd e c 3, 0) else (s, 2)
          | none => (s, 2)
        else (s.finishCmd e c 3, 1)
  | none, some (k, c) =>
    if c.part != part || c.ctx != ctx then (s, 3)
    else
      let x := s.engine e
      let s1 := { s with patch := Tbl.put s.patch k ((Tbl.get [] s.patch k).filter (·.id != id)) }
      ((s1.setEngine e { x with cmds := x.cmds ++ [c] }).finishCmd e c 3, 0)
  | none, none => (s, 2)

/-- The cancellation is sent at issue, and the group waits for its answer (R301, R375). -/
def execEcan (d : SReg) (a : SPos) (_tag : BitVec 16) (s : State) : Host.Outcome State Fault Refusal :=
  let g := s.run
  let r := (s.charge 1).cancel g.part g.ctx (g.pos a)
  .next (r.1.setRun { r.1.run with wait := .answer d r.2 })

/-- A slot's cancellation is performed in engine order (R297, R301). -/
def execEcanSlot (slot : BitVec 2) (d : SReg) (tag : BitVec 16) (s : State) : Host.Outcome State Fault Refusal :=
  let g := s.run
  let e := g.binEngine
  let x := s.engine e
  let c := s.mkCmd e (.ecanSlot slot.toNat g.gid d) 0 0 0 false tag false
  let s1 := (s.charge 1).setEngine e { x with count := x.count + 1, cmds := x.cmds ++ [c] }
  .next { s1 with nextId := s.nextId + 1, run := { g with wait := .ecanSlot d slot.toNat } }

/-- The answer arrives and is written to sd (R301). -/
def execEcanAnswer (gid : Nat) (s : State) : Host.Outcome State Fault Refusal :=
  match s.group? gid with
  | none => .next s
  | some g =>
    match g.wait with
    | .answer d v => .next (s.setGroup (g.setS d v).wake)
    | _ => .next s

/-! ## Event queues (R291, R302, R303) -/

/-- A record, or the empty record with the lost count, goes to `sd` and `s(d+1)` (R302). -/
def Group.setRecord (g : Group) (d : SReg) (r : BitVec 128) : Group := (g.setS d (r.setWidth 64)).setS (d + 1) (r.extractLsb' 64 64)

/-- The event queue of the agent's cluster may be read: by a control core, or at supervisor level (R302). -/
def State.eqrdOk (s : State) : Bool := s.run.kind != .compute || s.isSup s.run

def execEqrd (d : SReg) (_tag : BitVec 16) (s : State) : Host.Outcome State Fault Refusal :=
  let g := s.run
  if !s.eqrdOk then .next (s.faultExact cACCESS)
  else
    let k := s.cluster g.engCluster
    match k.queue with
    | r :: rs => .next ((s.setCluster g.engCluster { k with queue := rs }).done (g.setRecord d r) 1)
    | [] => .next ((s.setCluster g.engCluster { k with lost := 0 }).done (g.setRecord d (BitVec.ofNat 128 (k.lost * 2 ^ 96))) 1)

/-- With an empty queue the group sleeps until a record arrives (R302). -/
def execEqrdWait (d : SReg) (_tag : BitVec 16) (s : State) : Host.Outcome State Fault Refusal :=
  let g := s.run
  if !s.eqrdOk then .next (s.faultExact cACCESS)
  else
    let k := s.cluster g.engCluster
    match k.queue with
    | r :: rs => .next ((s.setCluster g.engCluster { k with queue := rs }).done (g.setRecord d r) 1)
    | [] => .next ((s.charge 1).setRun { g with wait := .eqrd d })

/-- EVPS posts an event record, or sleeps until its queue has room (R303). -/
def execEvps (d : SReg) (a b c : SPos) (tag : BitVec 16) (s : State) : Host.Outcome State Fault Refusal :=
  let g := s.run
  let x := g.pos a
  let k := x.toNat % 16
  if !s.sup && (k != g.engCluster || x.toNat != k) then .next (s.faultExact cACCESS)
  else
    let r := mkRecord tag.toNat (bitsOf (g.pos b) 0 32) (s.launchOf g).1 (0x80 + g.engCluster) 2 (bitsOf (g.pos c) 0 8)
    let q := s.cluster k
    if q.queueRoom && !s.postsWait k then .next ((s.setCluster k (q.append r)).done (g.setS d (BitVec.ofNat 64 q.cseq)) 1)
    else .next ((s.charge 1).setRun { g with wait := .evps k d r })

/-- The first of a list by a number. -/
def firstBy {α : Type} (f : α → Nat) (xs : List α) : Option α :=
  xs.foldl (fun b x => match b with
    | none => some x
    | some y => if f x < f y then some x else some y) none

/-- The finished command that posts its record next in a cluster's queue: in ascending SRC, those of an engine in the order in which they finished
(R291). -/
def State.nextPost (s : State) (k : Nat) : Option (Nat × Cmd) :=
  s.engines.findSome? fun x => (firstBy Cmd.fin (x.2.cmds.filter fun c => c.cluster == k && c.isFinished)).map fun c => (x.1, c)

/-- What waits at a cluster's queue proceeds: a sleeping EQRD takes a record; records post in ascending SRC, finished commands of an engine
in the order in which they finished before a sleeping EVPS (R291, R302, R303). -/
def execEventQueuePost (k : Nat) (s : State) : Host.Outcome State Fault Refusal :=
  let q := s.cluster k
  let reader := s.allGroups.find? fun g => g.engCluster == k && (match g.wait with
    | .eqrd _ => true
    | _ => false)
  let poster := firstBy Group.engCluster (s.allGroups.filter fun g => match g.wait with
    | .evps k' _ _ => k' == k
    | _ => false)
  match q.queue, reader with
  | r :: rs, some g =>
    match g.wait with
    | .eqrd d => .next ((s.setCluster k { q with queue := rs }).setGroup (g.setRecord d r).wake)
    | _ => .next s
  | _, _ =>
    if !q.queueRoom then .next s
    else
      match s.nextPost k, poster with
      | some (e, c), _ =>
        match c.st with
        | .finished st => .next (s.finishCmd e c st)
        | _ => .next s
      | none, some g =>
        match g.wait with
        | .evps _ d r => .next ((s.setCluster k (q.append r)).setGroup (g.setS d (BitVec.ofNat 64 q.cseq)).wake)
        | _ => .next s
      | none, none => .next s

/-- A running command makes its writes and completes (R223); a finished one posts its record where there is room. -/
def execAsyncCommandComplete (id : Nat) (s : State) : Host.Outcome State Fault Refusal :=
  let e := id / 2 ^ 32 % 256
  match (s.engine e).cmds.find? (·.id.toNat == id) with
  | none => .next s
  | some c =>
    match c.st with
    | .running ws => if c.op = .lnch then .next s else .next (s.runCmd e c ws)
    | .finished _ =>
      if ((s.nextPost c.cluster).any fun x => x.2.id == c.id) && (s.cluster c.cluster).queueRoom then execEventQueuePost c.cluster s else .next s
    | _ => .next s

end Sys2Proof.Machine
end

