-- ==== Sys2Proof/Machine/Matrix.lean ====
section
/-! DEFINITION. Queues II: the matrix engine: grants, latches, tiles, steps, scales, and the passes of the reservation table
(R304-R324). -/

namespace Sys2Proof.Machine

/-! ## Elements (R306-R308) -/

/-- Bytes of an element, and K elements of a row (R306). -/
def faSize : FA → Nat
  | .bf16 | .f16 => 2
  | .f32 => 4
  | .e4m3 | .e5m2 | .s8 | .n8 => 1
def faKs (f : FA) : Nat := 64 / faSize f

/-- The value of an element (R306). -/
def faVal (f : FA) (x : Nat) : FVal :=
  match f with
  | .e4m3 => fmtE4M3.read x
  | .e5m2 => fmtE5M2.read x
  | .bf16 => fmtBF16.read x
  | .f16 => fmtF16.read x
  | .s8 => .fin (readInt true 8 x < 0) (readInt true 8 x).natAbs 0
  | .n8 => .fin false x 0
  | .f32 => fmtF32.read x

/-- The `i`-th element of `b` bytes in an image. -/
def elemAt {w : Nat} (x : BitVec w) (b i : Nat) : Nat := (x.extractLsb' (8 * b * i) (8 * b)).toNat

/-- Row `i` of A in a latch, and column `j` of a B block (R306, R307). -/
def latchRow (f : FA) (rows : BitVec 32768) (i : Nat) : List FVal :=
  (List.range (faKs f)).map fun k => faVal f (elemAt rows (faSize f) (faKs f * i + k))
def blockCol (f : FA) (blk : BitVec 8192) (j : Nat) : List FVal :=
  (List.range (faKs f)).map fun k => faVal f (elemAt blk (faSize f) (16 * k + j))

/-- An exact product; none for 0 × ∞. -/
def FVal.times (a b : FVal) : Option FVal :=
  match a, b with
  | .fin s m e, .fin t n f => some (.fin (s != t) (m * n) (e + f))
  | a, b => if a.isZero || b.isZero then none else some (.inf (a.sign != b.sign))

/-- An exact sum, an exact zero being +0; none where infinities of opposite sign meet. -/
def FVal.plus (a b : FVal) : Option FVal :=
  match a, b with
  | .inf s, .inf t => if s = t then some a else none
  | .inf _, _ => some a
  | _, .inf _ => some b
  | .fin s m e, .fin t n f =>
    let e0 := min e f
    let x := finInt s m e e0 + finInt t n f e0
    some (.fin (x < 0) x.natAbs e0)
  | _, _ => none

/-- The exact sum of products (R308). -/
def dotExact (as bs : List FVal) : Option FVal :=
  (as.zip bs).foldl (fun acc p => acc.bind fun x => (p.1.times p.2).bind fun y => x.plus y) (some (.fin false 0 0))

/-- One element of a step: the result and its flags, IV where no input is a NaN (R308, R309) (DEDUCED, log 46). -/
def stepElem (as bs : List FVal) (r ts c : FVal) : Nat × Nat :=
  if as.any FVal.isNan || bs.any FVal.isNan || r.isNan || ts.isNan || c.isNan then (fmtF32.cnan, 0)
  else
    match ((dotExact as bs).bind fun p => p.times r).bind fun v => v.times ts with
    | none => fmtF32.invalid
    | some v => fmtF32.add .rne false 0 c v

/-- Element (i, j) of a tile. -/
def tileElem (t : BitVec 131072) (i j : Nat) : Nat := elemAt t 4 (64 * i + j)

/-- Sets element (i, j) of a tile. -/
def putElem (t : BitVec 131072) (i j x : Nat) : BitVec 131072 :=
  let k := 32 * (64 * i + j)
  (t &&& ~~~(0xFFFFFFFF#131072 <<< k)) ||| (BitVec.ofNat 131072 (x % 2 ^ 32) <<< k)

/-- Counts of IVC, OFC, UFC and SATC. -/
abbrev MxCounts := Nat × Nat × Nat × Nat

/-- Adds the flags of one element result (R309). -/
def addFlags (c : MxCounts) (iv : Bool) (f : Nat) : MxCounts :=
  (c.1 + (if iv then 1 else 0), c.2.1 + (if f.testBit 2 then 1 else 0), c.2.2.1 + (if f.testBit 3 then 1 else 0),
   c.2.2.2 + (if f.testBit 5 then 1 else 0))

/-- A step into column block `col` of a tile (R308): the tile and the counts. -/
def stepTileVal (f : FA) (l : Latch) (blk : BitVec 8192) (ts : FVal) (col : Nat) (t : BitVec 131072) : BitVec 131072 × MxCounts :=
  let cols := (List.range 16).map fun j => blockCol f blk j
  (List.range 64).foldl (fun (p : BitVec 131072 × MxCounts) i =>
    let row := latchRow f l.rows i
    let r := fmtF32.read (elemAt l.scales 4 i)
    cols.zipIdx.foldl (fun (p : BitVec 131072 × MxCounts) b =>
      let j := 16 * col + b.2
      let x := stepElem row b.1 r ts (fmtF32.read (tileElem t i j))
      (putElem p.1 i j x.1, addFlags p.2 (x.2.testBit 0) x.2)) p) (t, 0, 0, 0, 0)

/-- Adds to a saturating 16-bit counter (R309). -/
def satAdd (x : BitVec 16) (n : Nat) : BitVec 16 := BitVec.ofNat 16 (min 0xFFFF (x.toNat + n))

/-- Adds counts to a group's exception counters (R309). -/
def State.addCounts (s : State) (gid : Nat) (c : MxCounts) : State :=
  match s.group? gid with
  | none => s
  | some g => s.setGroup { g with mxc := #v[satAdd g.mxc[0] c.1, satAdd g.mxc[1] c.2.1, satAdd g.mxc[2] c.2.2.1,
      satAdd g.mxc[3] c.2.2.2] }

/-! ## Grants (R305) -/

/-- The matrix engine of a group's hob (R304). -/
def Group.mxEngine (g : Group) : Nat := g.core / 4

/-- Updates the grant of a group. -/
def State.modGrant (s : State) (gid : Nat) (f : Grant → Grant) : State :=
  { s with matrix := s.matrix.map fun m => (m.1, { m.2 with grants := m.2.grants.map fun g => if g.gid = gid then f g else g }) }

/-- The grants of groups leave the engines, and their requests for one are withdrawn. -/
def State.takeGrants (s : State) (p : Nat → Bool) : State :=
  { s with matrix := s.matrix.map fun m => (m.1, { m.2 with
      grants := m.2.grants.filter fun g => !p g.gid
      grantQ := m.2.grantQ.filter fun q => !p q.1 }) }

/-- The grants of groups end, with their latches, fault states and pins (R305, R320). -/
def State.endGrants (s : State) (p : Nat → Bool) : State :=
  { s.takeGrants p with matrix := (s.takeGrants p).matrix.map fun m => (m.1, { m.2 with
      scales := m.2.scales.map fun x => { x with pins := x.pins.filter (!p ·) } }) }

/-- Entries are cancelled: their flags are counted down (R275, R389, R394). -/
def State.cancelMx (s : State) (p : MxEntry → Bool) : State :=
  (s.allMx.filter p).foldl (fun t x => t.freeEntry x) s

/-- Tiles of an engine that no grant holds. -/
def Matrix.free (m : Matrix) : List Nat := (List.range 16).filter fun t => !m.grants.any (·.tiles.contains t)

/-- A grant of zeroed tiles, its latch not valid (R317). -/
def Matrix.grant (m : Matrix) (gid k : Nat) : Matrix :=
  let ts := m.free.take k
  { m with
    grants := m.grants ++ [{ gid := gid, tiles := ts }]
    tiles := ts.foldl (fun v t => v.setIfInBounds t 0) m.tiles }

/-! ## Requests as commands -/

/-- The address that a request names. -/
def MxOp.addr : MxOp → Nat
  | .mma _ _ _ b _ _ _ _ => b.toNat
  | .mdrn _ _ _ a => a.toNat
  | .mfil _ _ _ a => a.toNat
  | .msts _ _ _ _ a _ => a.toNat
  | .mscl _ first _ _ => first.toNat
  | .mlda _ _ _ => 0
  | .mzro _ => 0
  | .mrel => 0

/-- The command that stands for a request in the address and write rules of R294 and R295. -/
def MxEntry.cmd (x : MxEntry) : Cmd :=
  { id := 0, op := .lnch, a := 0, b := 0, c := 0, ev := false, tag := 0, gid := x.gid, part := x.part, ctx := x.ctx, grid := x.grid
    team := x.team, core := x.core, cluster := x.core / 24, stream := 0xFFF, prio := 7, seta := 15, setb := 15 }

/-- An instruction posts an entry of the matrix reservation table (R311). -/
def postsMx : Instr → Bool
  | .mlda _ _ | .mma _ _ _ _ _ _ | .mmal _ _ _ _ _ _ _ _ _ | .mdrn _ _ _ _ | .mfil _ _ _ _ | .msts _ _ _ _ _ _ | .mscl _ _ _ _
  | .mrel | .mzro _ => true
  | _ => false

/-- The instructions of a clause from a word on. -/
def Clause.instrs (c : Clause) (i : Nat) : List Instr := (c.code.drop i).filterMap fun w => match decode w with
  | .ok i => some i
  | .error _ => none

/-- The entries that clauses open on an engine, but for a group's own, have still to post: theirs are the entries that were free when they
issued (R311). -/
def State.owedPosts (s : State) (e gid : Nat) : Nat :=
  (s.allGroups.map fun g => match g.clause with
    | some c => if g.kind == .compute && g.core != noCore && g.gid != gid && g.mxEngine == e then (c.instrs g.word).countP postsMx else 0
    | none => 0).sum

/-- The bytes of a tile or of a latch image (R322). -/
def imageBytes (latch : Bool) : Nat := if latch then 4384 else 16384

/-- The lines of memory that a matrix request has still to write (R224, R315). -/
def State.mxTargets (s : State) (x : MxEntry) : List (Nat × Nat) :=
  match x.op with
  | .mdrn false latch _ a =>
    match (s.ctxRange x.part x.ctx .wr (s.ctxSup x.part x.ctx) (pageParts 8 a.toNat (imageBytes latch))).2 with
    | .ok ps => ps
    | .error _ => []
  | .msts fa _ false _ a c =>
    (List.range 64).flatMap fun i =>
      match (s.ctxRange x.part x.ctx .wr (s.ctxSup x.part x.ctx)
        (pageParts 3 (a.toNat + i * bitsOf c 32 32) (64 * faSize fa))).2 with
      | .ok ps => ps
      | .error _ => []
  | _ => []

/-- The lines of device and host memory that a request owns from its issue on (R224, R315) (DEDUCED, log 34). -/
def State.mxLines (s : State) (x : MxEntry) : List Nat :=
  ((((s.drainBuf x.core).mxTargets x).filter fun p => region p.1 == .dev || region p.1 == .host).flatMap fun p => linesOf p.1 p.2).dedup

/-! ## Issue (R306, R311, R315, R316) -/

/-- A request enters the reservation table, and the group goes on. `front` requests form the separate order while the team is
frozen (R313). -/
def State.mxPost (s : State) (op : MxOp) (ll front : Bool) (hold : Option Nat) (latch : Option (Option FA)) (cyc : Nat) : State :=
  let g := s.run
  let m := s.mx g.mxEngine
  let f := if ll then g.sets else (15, 15)
  let x : MxEntry :=
    { gid := g.gid, part := g.part, ctx := g.ctx, grid := g.grid, team := g.team, core := g.core, op := op, seta := f.1, setb := f.2
      hold := hold.isSome, slot := hold.getD 0, ord := s.nextId, front := front && s.frozen g.teamKey, pc := g.wordAddr
      mem := ll && g.memClause }
  let s1 := (s.charge cyc).setMx g.mxEngine { m with table := m.table ++ [{ x with lines := s.mxLines x }] }
  { s1 with
    nextId := s.nextId + 1
    run := { g.countOp f.1 f.2 with latchIssue := latch, word := g.word + 1 } }.mxRefresh g.mxEngine

/-- MATFAULT, with the deferred cause and its address for a faulted grant (R314, R376). -/
def State.matFault (s : State) (cause addr : Nat) : State := s.faultExact cMATFAULT addr cause

/-- The checks of R316 on the grant: none, a tile beyond it, or a fault state where the instruction heeds it. -/
def State.grantCheck (s : State) (tile : Nat) (heeds : Bool) : Option (Nat × Nat) :=
  match s.grantOf s.run.gid with
  | none => some (0, 0)
  | some g =>
    match heeds, g.fault with
    | true, some f => some f
    | _, _ => if g.tiles.length ≤ tile then some (0, 0) else none

/-- Runs the rest of a meaning where the grant passes. -/
def State.granted (s : State) (tile : Nat) (heeds : Bool) (k : State → State) : State :=
  match s.grantCheck tile heeds with
  | some f => s.matFault f.1 f.2
  | none => k s

/-- Consecutive registers as one image, `v(b)` lowest. -/
def Group.image (g : Group) (b n w : Nat) : BitVec w :=
  BitVec.ofNat w ((List.range n).map fun k => (g.reg (b + k)).toNat * 2 ^ (1024 * k)).sum

/-- MLDA reads its registers at issue (R306, R318). -/
def execMlda (fa : FA) (a : RegNo) (s : State) : Host.Outcome State Fault Refusal :=
  s.checked (.mlda fa a) fun s =>
    s.granted 0 true fun s =>
      s.mxPost (.mlda fa (s.run.image a.toNat 32 32768) (s.run.image (a.toNat + 32) 2 2048)) true false none (some (some fa)) 34

/-- A B address or an increment sets a reserved bit (R307, R316, R319) (DEDUCED, log 46). -/
def incReserved (b c sid : Word) : Bool :=
  bitsOf c 48 16 != 0 || bitsOf c 37 3 != 0 || bitsOf sid 48 16 != 0
    || (if b.getLsbD 63 then bitsOf b 6 57 != 0 else bitsOf b 24 39 != 0 || bitsOf b 0 7 != 0 || bitsOf c 0 7 != 0)

/-- FIFO `n` is bound to an engine of the cluster other than `e` (R307). -/
def State.boundElsewhere (s : State) (k n e : Nat) : Bool :=
  (List.range 6).any fun j => 6 * k + j != e && (s.mx (6 * k + j)).table.any fun x => match x.op with
    | .mma _ _ _ b _ _ _ _ => b.getLsbD 63 && bitsOf b 0 6 == n
    | _ => false

/-- The issue of MMA and MMAL, of `n` steps (R306, R316, R319). -/
def State.mmaIssue (s : State) (fa : FA) (keep : Bool) (hold : Option Nat) (tile : Nat) (b : Word) (n : Nat) (c sid : Word) :
    State :=
  s.granted tile true fun s =>
    let g := s.run
    let k := (s.grantOf g.gid).elim 0 (·.tiles.length)
    let latchBad := match g.latchIssue with
      | none => true
      | some (some f) => f != fa
      | some none => false
    if latchBad || 4095 < n || incReserved b c sid || (List.range n).any (fun i => k ≤ stepTile tile c i) then s.matFault 0 0
    else if b.getLsbD 63 && (!s.fifoOk g.cluster g.part (BitVec.ofNat 64 (bitsOf b 0 6))
        || s.boundElsewhere g.cluster (bitsOf b 0 6) g.mxEngine) then s.faultExact cFIFOERR
    else
      match if b.getLsbD 63 then none else (List.range n).find? fun i => !s.blockOk g (stepAddr b c i) with
      | some i => s.faultExact cSCRBND (stepAddr b c i).toNat
      | none =>
        if hold.any fun k => 64 ≤ s.slotCount g.teamKey k then s.faultExact cENGFAULT
        else s.mxPost (.mma fa keep tile b n c sid 0) true false hold
          (if keep || (n = 0 && hold.isNone) then g.latchIssue else none) 1

/-- MMA reads only COL0 of its increments; the reserved bits are checked as for MMAL (R319). -/
def execMma (fa : FA) (keep : Bool) (tile : BitVec 4) (a c sid : SReg) (s : State) : Host.Outcome State Fault Refusal :=
  let g := s.run
  let w := g.pos (.s c)
  .next (if bitsOf w 48 16 != 0 || bitsOf w 37 3 != 0 || (!(g.pos (.s a)).getLsbD 63 && bitsOf w 0 7 != 0) then s.granted tile.toNat true fun s => s.matFault 0 0
    else s.mmaIssue fa keep none tile.toNat (g.pos (.s a)) 1 (w &&& 0x300000000) (g.pos (.s sid)))

/-- The count of MMAL and MSCL. -/
def Group.mcnt (g : Group) : MCnt → Nat
  | .imm n => n.toNat
  | .pos p => (g.pos p).toNat

def execMmal (fa : FA) (keep hold : Bool) (slot : BitVec 2) (tile : BitVec 4) (a : SReg) (n : MCnt) (c sid : SReg) (s : State) :
    Host.Outcome State Fault Refusal :=
  let g := s.run
  let k := g.mcnt n
  .next (if 4095 < k then s.granted tile.toNat true fun s => s.matFault 0 0
    else s.mmaIssue fa keep (if hold then some slot.toNat else none) tile.toNat (g.pos (.s a)) k (g.pos (.s c)) (g.pos (.s sid)))

/-- Every byte of scratchpad rows lies in a window that the group may use; otherwise the first row's address that does not. -/
def State.rowsBad (s : State) (a stride n rows : Nat) : Option Nat :=
  ((List.range rows).find? fun i => (s.spadBytes s.run (BitVec.ofNat 64 (a + i * stride)) n).isNone).map fun i => a + i * stride

/-- A store to scratchpad rows raises the generations of their windows at its issue (R87). -/
def State.raiseRows (s : State) (a stride n rows : Nat) : State :=
  (((List.range rows).flatMap fun i => (((s.spadBytes s.run (BitVec.ofNat 64 (a + i * stride)) n).getD []).map (·.2)).dedup).dedup).foldl
    (fun t k => t.raiseGen k) s

/-- The issue of MDRN and MFIL (R316, R322). -/
def State.imageIssue (s : State) (fill spad latch : Bool) (tile : Nat) (a : Word) : State :=
  s.granted tile false fun s =>
    if a.toNat % 128 != 0 then s.matFault 0 0
    else
      match if spad then s.rowsBad a.toNat 32 32 (imageBytes latch / 32) else none with
      | some x => s.faultExact cSCRBND x
      | none =>
        (if spad && !fill then s.raiseRows a.toNat 32 32 (imageBytes latch / 32) else s).mxPost (if fill then .mfil spad latch tile a else .mdrn spad latch tile a) true true none
          (if fill && latch then some none else s.run.latchIssue) 1

def execMdrn (spad latch : Bool) (tile : BitVec 4) (a : SReg) (s : State) : Host.Outcome State Fault Refusal :=
  .next (s.imageIssue false spad latch tile.toNat (s.run.pos (.s a)))

def execMfil (spad latch : Bool) (tile : BitVec 4) (a : SReg) (s : State) : Host.Outcome State Fault Refusal :=
  .next (s.imageIssue true spad latch tile.toNat (s.run.pos (.s a)))

/-- `mzro.grant k` takes free tiles at once, or waits its turn (R317). -/
def execMzroGrant (a : GrantArg) (s : State) : Host.Outcome State Fault Refusal :=
  let k := a.k
  let g := s.run
  let m := s.mx g.mxEngine
  match s.grantOf g.gid with
  | some x => .next (s.matFault (x.fault.elim 0 (·.1)) (x.fault.elim 0 (·.2)))
  | none =>
  if m.grantQ.isEmpty && decide (k.toNat ≤ m.free.length) then
    .next ((s.setMx g.mxEngine (m.grant g.gid k.toNat)).done { g with latchIssue := none } 1)
  else
    .next (((s.charge 1).setMx g.mxEngine { m with grantQ := m.grantQ ++ [(g.gid, k.toNat)] }).setRun { g with wait := .grant k.toNat })

def execMzro (tile : BitVec 4) (s : State) : Host.Outcome State Fault Refusal :=
  .next (s.granted tile.toNat true fun s => s.mxPost (.mzro tile.toNat) false true none s.run.latchIssue 1)

/-- MSTS: the address, the row stride and the range are checked at issue (R316, R321). -/
def execMsts (fa : FA) (sat spad : Bool) (tile : BitVec 4) (a c : SReg) (s : State) : Host.Outcome State Fault Refusal :=
  .next (s.granted tile.toNat true fun s =>
    let x := s.run.pos (.s a)
    let w := s.run.pos (.s c)
    let stride := bitsOf w 32 32
    if x.toNat % 32 != 0 || stride % 32 != 0 || decide (stride < 64 * faSize fa) then s.matFault 0 0
    else
      match if spad then s.rowsBad x.toNat stride (64 * faSize fa) 64 else none with
      | some b => s.faultExact cSCRBND b
      | none => (if spad then s.raiseRows x.toNat stride (64 * faSize fa) 64 else s).mxPost (.msts fa sat spad tile.toNat x w) true false none s.run.latchIssue 1)

/-- MSCL needs no grant, but heeds a faulted one (R314, R320). -/
def execMscl (pin : Bool) (a : SReg) (n : MCnt) (sid : SReg) (s : State) : Host.Outcome State Fault Refusal :=
  let g := s.run
  let k := g.mcnt n
  let w := g.pos (.s sid)
  .next (match (s.grantOf g.gid).bind (·.fault) with
    | some f => s.matFault f.1 f.2
    | none =>
      if k = 0 || 4095 < k || bitsOf w 16 48 != 0 then s.matFault 0 0
      else s.mxPost (.mscl pin (g.pos (.s a)) k w.toNat) false false none g.latchIssue 1)

/-- MREL frees a faulted grant too (R314, R323). -/
def execMrel (s : State) : Host.Outcome State Fault Refusal :=
  .next (s.granted 0 false fun s => s.mxPost .mrel false true none s.run.latchIssue 1)

/-- An entry that MSTA waits for: while the team was frozen at issue, those of the separate order alone (R313, R324). -/
def State.mstaPending (s : State) (gid : Nat) (frozen : Bool) : Bool := s.allMx.any fun x => x.gid == gid && (!frozen || x.front)

/-- What MSTA writes (R324). -/
def State.mstaValue (s : State) (g : Group) (status : Bool) : Word :=
  if status then
    match s.grantOf g.gid with
    | none => BitVec.ofNat 64 (2 ^ 16 * (s.allMx.countP (·.gid == g.gid)))
    | some r => BitVec.ofNat 64 (r.fault.elim 0 (·.1) + 2 ^ 8 * r.tiles.length + (if r.latch.valid then 2 ^ 13 else 0)
        + (if r.latch.keep then 2 ^ 14 else 0) + 2 ^ 16 * (s.allMx.countP (·.gid == g.gid)))
  else g.mxc[3] ++ g.mxc[2] ++ g.mxc[1] ++ g.mxc[0]

/-- MSTA completes: the value is written, and `.clr` clears the counters (R324, R375). -/
def State.mstaEnd (s : State) (g : Group) (clr status : Bool) (d : SReg) : Group :=
  let x := s.mstaValue g status
  { g.setS d x with mxc := if clr then Vector.replicate 4 0 else g.mxc }

def execMsta (clr status : Bool) (d : SReg) (s : State) : Host.Outcome State Fault Refusal :=
  let g := s.run
  let frozen := s.frozen g.teamKey
  if s.mstaPending g.gid frozen then .next ((s.charge 1).setRun { g with wait := .msta clr status frozen d })
  else .next (s.done (s.mstaEnd g clr status d) 1)

/-- Every MSTA that waits for no entry any more completes. -/
def State.mstaWake (s : State) : State :=
  s.mapGroups (fun g => match g.wait with
    | .msta _ _ frozen _ => !s.mstaPending g.gid frozen
    | _ => false) fun g => match g.wait with
    | .msta clr status _ d => (s.mstaEnd g clr status d).wake
    | _ => g

/-! ## Scales (R310, R320) -/

/-- A tensor's entry of the scale descriptor table: NK, NT and SCBASE, or a deferred fault (R310, R314). -/
def State.tensor (s : State) (x : MxEntry) (tid : Nat) : State × Except (Nat × Nat) (Nat × Nat × Nat) :=
  let d := s.desc x.part x.ctx
  let a := bitsOf d[3] 4 52 * 16 + 16 * tid
  if bitsOf d[4] 0 32 ≤ tid then (s, .error (2, a))
  else
    match s.ctxRead x.part x.ctx a 16 (s.ctxSup x.part x.ctx) (some x.ord) with
    | (s1, .error _) => (s1, .error (3, a))
    | (s1, .ok bs) =>
      let hi := leNat (bs.drop 8)
      (s1, .ok (hi / 2 ^ 16 % 2 ^ 16, hi % 2 ^ 16, leNat (bs.take 7)))

/-- Two scales are one entry. -/
def Scale.same (x y : Scale) : Bool := y.part == x.part && y.ctx == x.ctx && y.tid == x.tid && y.num == x.num

/-- A scale enters its set of 8 ways, of which the least recently used that is not pinned makes room; where all are pinned it does not enter
(R310). A pinned scale keeps its pins, and up to 1,024 are pinned (R320) (DESIGN CHOICE, log 48). -/
def Matrix.putScale (m : Matrix) (x : Scale) : Matrix :=
  let old := (m.scales.find? x.same).elim [] (·.pins)
  let pins := if old.isEmpty && 1024 ≤ m.scales.countP (!·.pins.isEmpty) then [] else (old ++ x.pins).dedup
  let rest := m.scales.filter (!x.same ·)
  let set := rest.filter fun y => y.num % 512 == x.num % 512
  if set.length < 8 then { m with scales := { x with pins := pins } :: rest }
  else
    match (set.filter (·.pins.isEmpty)).getLast? with
    | some v => { m with scales := { x with pins := pins } :: rest.filter (· != v) }
    | none => m

/-- The scales that groups pin leave the other engines and enter engine `e`: their pins stand until the grants end (R320) (DESIGN CHOICE,
log 48). -/
def State.movePins (s : State) (e : Nat) (gids : List Nat) : State :=
  let mine (x : Scale) : Bool := x.pins.any (gids.contains ·)
  let xs := (s.matrix.filter (·.1 != e)).flatMap fun m => (m.2.scales.filter mine).map fun x => { x with pins := x.pins.filter (gids.contains ·) }
  let s1 := { s with matrix := s.matrix.map fun m => if m.1 = e then m else (m.1, { m.2 with
    scales := m.2.scales.map fun x => { x with pins := x.pins.filter (!gids.contains ·) } }) }
  if xs.isEmpty then s1 else s1.setMx e (xs.foldl Matrix.putScale (s1.mx e))

/-- A context's scale-cache entries are dropped: a grid of it has completed, or it is switched out (R310). -/
def State.dropScales (s : State) (part ctx : Nat) : State :=
  { s with matrix := s.matrix.map fun m => (m.1, { m.2 with scales := m.2.scales.filter fun x => !(x.part == part && x.ctx == ctx) }) }

/-- Reads a scale from memory into the cache of an engine (DESIGN CHOICE, log 48). -/
def State.loadScale (s : State) (e : Nat) (x : MxEntry) (tid num base : Nat) (pins : List Nat) : State × Except (Nat × Nat) Lane :=
  match s.ctxRead x.part x.ctx (base + 4 * num) 4 (s.ctxSup x.part x.ctx) (some x.ord) with
  | (s1, .error _) => (s1, .error (3, base + 4 * num))
  | (s1, .ok bs) =>
    let v : Lane := BitVec.ofNat 32 (leNat bs)
    (s1.setMx e ((s1.mx e).putScale ⟨x.part, x.ctx, tid, num, v, pins⟩), .ok v)

/-- The number of a step's scale and where the array lies, or a deferred fault (R310). -/
def State.scaleNum (s : State) (x : MxEntry) (fa : FA) (sid : Word) (nb : Nat) : State × Except (Nat × Nat) (Nat × Nat) :=
  match s.tensor x (bitsOf sid 0 16) with
  | (s1, .error f) => (s1, .error f)
  | (s1, .ok (nk, nt, base)) =>
    let kt := bitsOf sid 16 16 / (if faSize fa = 1 then 2 else 4)
    let n := nb / 8
    if nk ≤ kt || nt ≤ n then (s1, .error (2, base)) else (s1, .ok (kt * nt + n, base))

/-- A cached scale, which becomes the most recently used; or the one that a fill has brought to the entry itself. -/
def State.findScale (s : State) (e : Nat) (x : MxEntry) (tid num : Nat) : Option (Lane × State) :=
  let m := s.mx e
  match m.scales.find? fun y => y.part == x.part && y.ctx == x.ctx && y.tid == tid && y.num == num with
  | some y => some (y.val, s.setMx e { m with scales := y :: m.scales.filter (· != y) })
  | none => match x.fill with
    | some f => if f.1 = num then some (f.2, s) else none
    | none => none

/-! ## Passes (R308, R312, R314) -/

/-- How far a step came. -/
inductive StepRes where
  | made
  | miss
  | empty
  | fault (cause addr : Nat)
  deriving DecidableEq, Repr

/-- Replaces an entry of a table. -/
def State.setEntry (s : State) (x : MxEntry) : State := s.mapMx fun y => some (if y.ord = x.ord then x else y)

/-- The B block of a step: the next entry of a FIFO, or a kilobyte of scratchpad (R307). -/
def State.takeBlock (s : State) (x : MxEntry) (b c : Word) (i : Nat) : State × Except StepRes (BitVec 8192) :=
  let k := x.core / 24
  if b.getLsbD 63 then
    let n := bitsOf b 0 6
    let q := s.bank k n
    match q.entries with
    | [] => (s, .error .empty)
    | v :: vs => ((s.fifoUsed x.grid k n).setBank k n { q with entries := vs, head := (q.head + 1) % 128 }, .ok v)
  else
    let a := stepAddr b c i
    match if a < 0 then none else s.spadBytes x.agent (BitVec.ofInt 64 a) 1024 with
    | none => (s, .error (.fault 1 a.toNat))
    | some ks => (s, .ok (BitVec.ofNat 8192 (leNat (ks.map fun q => Memory.get s.spad q.1))))

/-- Step `i` of a request: the latch, the scale, the block, the products (R306-R310, R319). -/
def State.mmaStep (s : State) (e : Nat) (x : MxEntry) (fa : FA) (keep : Bool) (tile : Nat) (b c sid : Word) (i : Nat) :
    State × StepRes :=
  match s.grantOf x.gid with
  | none => (s, .fault 5 (stepAddr b c i).toNat)
  | some g =>
    if !g.latch.valid || g.latch.fa != fa.code then (s, .fault 5 (stepAddr b c i).toNat)
    else
      let finish (s : State) (ts : FVal) : State × StepRes :=
        match g.tiles[stepTile tile c i]?, s.takeBlock x b c i with
        | none, _ => (s, .fault 1 (stepAddr b c i).toNat)
        | some _, (s1, .error r) => (s1, r)
        | some t, (s1, .ok blk) =>
          let m := s1.mx e
          let r := stepTileVal fa g.latch blk ts (stepCol c i % 4) (m.tiles.toList.getD t 0)
          let s2 := s1.setMx e { m with tiles := m.tiles.setIfInBounds t r.1 }
          ((s2.modGrant x.gid fun g => { g with latch := { g.latch with keep := keep } }).addCounts x.gid r.2, .made)
      if bitsOf sid 0 16 = 0 then finish s (.fin false 1 0)
      else
        match s.scaleNum x fa sid (bitsOf sid 32 16 + i * bitsOf c 40 8) with
        | (s1, .error f) => (s1, .fault f.1 f.2)
        | (s1, .ok (num, _)) =>
          match s1.findScale e x (bitsOf sid 0 16) num with
          | some (v, s2) => finish s2 (fmtF32.read v.toNat)
          | none => (s1, .miss)

/-- The steps of a pass: up to `fuel`, from step `i` (R312). The result says how many were made. -/
def State.mmaSteps (s : State) (e : Nat) (x : MxEntry) (fa : FA) (keep : Bool) (tile : Nat) (b c sid : Word) (n i : Nat) :
    Nat → State × Nat × StepRes
  | 0 => (s, i, .made)
  | fuel + 1 =>
    if n ≤ i then (s, i, .made)
    else
      match s.mmaStep e x fa keep tile b c sid i with
      | (s1, .made) => s1.mmaSteps e x fa keep tile b c sid n (i + 1) fuel
      | (s1, r) => (s1, i, r)

/-- A request ends with a deferred fault (R314). -/
def State.mxFail (s : State) (x : MxEntry) (cause addr : Nat) : State := (s.deferFault x.gid cause addr).freeEntry x

/-- A pass of an MMA or MMAL, and its cycles. A request whose steps are all made releases the latch unless it keeps it or made
none (R306, R319). -/
def State.mmaPass (s : State) (e : Nat) (x : MxEntry) (fa : FA) (keep : Bool) (tile : Nat) (b : Word) (n : Nat) (c sid : Word)
    (k : Nat) : State × Nat :=
  let r := s.mmaSteps e x fa keep tile b c sid n k 64
  let y := { x with op := .mma fa keep tile b n c sid r.2.1, fill := none }
  let t := match r.2.2 with
    | .fault cause a => r.1.mxFail x cause a
    | .miss =>
      let m := r.1.mx e
      (r.1.setMx e { m with ctrs := bump m.ctrs m.sels 0x31 x.part x.ctx 1 }).setEntry { y with scaleWait := true }
    | _ =>
      if n ≤ r.2.1 then
        (if keep || n = 0 then r.1 else r.1.modGrant x.gid fun g => { g with latch := { g.latch with valid := false, keep := false } })
          |>.freeEntry x
      else r.1.setEntry y
  (t, r.2.1 - k)

/-- The first address of a range at which a request's access fails: a byte of scratchpad, or a page's part of memory (R314). -/
def State.failAt (s : State) (x : MxEntry) (spad : Bool) (acc : Access) (a n : Nat) : Nat :=
  let parts := if spad then (List.range n).map fun i => (a + i, 1) else pageParts (n / 4096 + 2) a n
  let fails (p : Nat × Nat) : Bool :=
    if spad then (s.cmdSpad x.cmd p.1).isNone
    else match (s.ctxRange x.part x.ctx acc (s.ctxSup x.part x.ctx) [p]).2 with
      | .error _ => true
      | .ok qs => match acc with
        | .wr => match s.partWrites (List.replicate p.2 0) qs with
          | .error _ => true
          | .ok _ => false
        | _ => match (s.physRead none qs).2 with
          | .error _ => true
          | .ok _ => false
  ((parts.find? fails).map (·.1)).getD a

/-- A request's access fails at an address: a translation fault holds the request and is reported; an address that fails otherwise ends it,
with a record, and a cause that R314 does not give (R294, R314) (DESIGN CHOICE, log 109). -/
def State.mxError (s : State) (x : MxEntry) (f : CmdErr) (a : Nat) : State :=
  let record (cause : Nat) : State := s.postSystem (s.supCl x.part x.ctx)
    (mkRecord (x.ctx * 2 ^ 15 + x.part * 2 ^ 21) 0 ((s.grid? x.grid).elim 0xFFF (·.stream)) 0xFF 3 cause)
  match f with
  | .page _ => (record cENGFAULT).setEntry { x with faultWait := true, failed := a }
  | .fault cause => (record (if cause = cPORT then cACCESS else cause)).mxFail x (Config.mxCause x.ord).toNat a
  | .bad => s.mxFail x (Config.mxCause x.ord).toNat a
  | .wait => s

/-- The place of byte `k` of rows of bytes. -/
def rowPlace : List (Nat × List Byte) → Nat → Nat
  | [], _ => 0
  | (o, bs) :: rest, k => if k < bs.length then o + k else rowPlace rest (k - bs.length)

/-- Rows of bytes that a request writes to memory or scratchpad (R321, R322). -/
def State.mxWrite (s : State) (x : MxEntry) (spad : Bool) (a : Word) (rows : List (Nat × List Byte)) : State × Bool :=
  let c := x.cmd
  let r := rows.foldl (fun (p : State × Except (CmdErr × Nat) (List EngWrite)) q =>
    match p.2 with
    | .error e => (p.1, .error e)
    | .ok ws =>
      match p.1.engDest c spad (a + BitVec.ofNat 64 q.1) q.2 with
      | (s1, .error e) => (s1, .error (e, s1.failAt x spad .wr (a.toNat + q.1) q.2.length))
      | (s1, .ok vs) => (s1, .ok (ws ++ vs))) (s, .ok [])
  match r.2 with
  | .error f => (r.1.mxError x f.1 f.2, false)
  | .ok ws =>
    let mem := (ws.filter (·.space == 0)).flatMap fun w => sectorsOf w.at' w.bytes.length
    if r.1.logRoom mem x.part x.ctx x.grid then
      let t := r.1.engWrites c ws
      match t.2.2 with
      | some cause =>
        let made := ((ws.take (ws.length - t.2.1.length)).map (·.bytes.length)).sum
        ((t.1.raiseGens c ws).mxError x (.fault cause) (a.toNat + rowPlace rows made), false)
      | none => ((t.1.raiseGens c ws), true)
    else
      match r.1.ctx? x.part x.ctx with
      | some k => (r.1.logFull x.part x.ctx k, false)
      | none => (r.1, false)

/-- The absolute number of a relative tile: none without a grant, or beyond it (R305). -/
def State.tileNo (s : State) (gid tile : Nat) : Option Nat := (s.grantOf gid).bind (·.tiles[tile]?)

/-- The tile that a request works on, where it needs one: MLDA and the latch forms need a grant, which tile 0 stands for (R305). None: an
MREL in front of it has ended the grant that it was posted under. -/
def State.opTile (s : State) (x : MxEntry) : Option Nat :=
  match x.op with
  | .mdrn _ _ t _ => s.tileNo x.gid t
  | .mfil _ _ t _ => s.tileNo x.gid t
  | .mzro t => s.tileNo x.gid t
  | .msts _ _ _ t _ _ => s.tileNo x.gid t
  | .mlda _ _ _ => s.tileNo x.gid 0
  | .mma _ _ _ _ _ _ _ _ => some 0
  | .mscl _ _ _ _ => some 0
  | .mrel => some 0

/-- The contents of a tile. -/
def State.tileVal (s : State) (e tile : Nat) : BitVec 131072 := (s.mx e).tiles.toList.getD tile 0

/-- The elements that MSTS writes, row by row, and their counts (R309, R321). -/
def storeRows (fa : FA) (sat : Bool) (scale : Nat) (t : BitVec 131072) : List (List Byte) × MxCounts :=
  let dst := match fa with
    | .e4m3 => fmtE4M3
    | .e5m2 => fmtE5M2
    | .bf16 => fmtBF16
    | .f16 => fmtF16
    | _ => fmtF32
  let badScale := (posNormal scale).isNone
  (List.range 64).foldl (fun (p : List (List Byte) × MxCounts) i =>
    let r := (List.range 64).foldl (fun (q : List Byte × MxCounts) j =>
      let x := tileElem t i j
      let y := scaleNarrow dst .rne sat 0 x scale
      let iv := (dst.read y.1).isNan && (badScale || !(fmtF32.read x).isNan)
      (q.1 ++ leBytes y.1 (faSize fa), addFlags q.2 iv y.2)) ([], p.2)
    (p.1 ++ [r.1], r.2)) ([], 0, 0, 0, 0)

/-- The latch image (R322). -/
def latchImage (l : Latch) : List Byte :=
  leBytes l.rows.toNat 4096 ++ leBytes l.scales.toNat 256
    ++ leBytes (l.fa.toNat + (if l.valid then 16 else 0) + (if l.keep then 32 else 0)) 32

/-- The latch that an image describes (R322). -/
def latchOf (bs : List Byte) : Latch :=
  let t := leNat (bs.drop 4352)
  { rows := BitVec.ofNat 32768 (leNat (bs.take 4096)), scales := BitVec.ofNat 2048 (leNat ((bs.drop 4096).take 256))
    fa := BitVec.ofNat 4 t, valid := t.testBit 4, keep := t.testBit 5 }

/-- The scales of an MSCL, up to a deferred fault (R320). -/
def State.loadScales (s : State) (e : Nat) (x : MxEntry) (tid base lim : Nat) (pins : List Nat) : List Nat → State × Option (Nat × Nat)
  | [] => (s, none)
  | num :: rest =>
    if lim ≤ num then (s, some (2, base))
    else
      match s.loadScale e x tid num base pins with
      | (s1, .error f) => (s1, some f)
      | (s1, .ok _) => s1.loadScales e x tid base lim pins rest

/-- A pass of an entry: the state after it, and the cycles it took (R312) (DESIGN CHOICE, log 47). A request without its tile ends, with
deferred cause 1 where a smaller grant stands (R305, R314) (DEDUCED, log 109). -/
def State.runPass (s : State) (e : Nat) (x : MxEntry) : State × Nat :=
  match s.opTile x with
  | none => (s.mxFail x 1 x.op.addr, 1)
  | some t =>
  match x.op with
  | .mlda fa rows scales => ((s.modGrant x.gid fun g => { g with latch := ⟨rows, scales, fa.code, true, false⟩ }).freeEntry x, 8)
  | .mma fa keep tile b n c sid k => s.mmaPass e x fa keep tile b n c sid k
  | .mdrn spad latch _ a =>
    let bs := if latch then (s.grantOf x.gid).elim [] (latchImage ·.latch) else leBytes (s.tileVal e t).toNat 16384
    match s.mxWrite x spad a [(0, bs)] with
    | (s1, true) => (s1.freeEntry x, if latch then 137 else 64)
    | (s1, false) => (s1, 1)
  | .mfil spad latch _ a =>
    match s.engRead x.cmd spad a (imageBytes latch) with
    | (s1, .error f) => (s1.mxError x f (s1.failAt x spad .rd a.toNat (imageBytes latch)), 1)
    | (s1, .ok bs) =>
      let m := s1.mx e
      ((if latch then s1.modGrant x.gid fun g => { g with latch := latchOf bs }
        else s1.setMx e { m with tiles := m.tiles.setIfInBounds t (BitVec.ofNat 131072 (leNat bs)) }).freeEntry x,
       if latch then 137 else 64)
  | .mzro _ =>
    let m := s.mx e
    ((s.setMx e { m with tiles := m.tiles.setIfInBounds t 0 }).freeEntry x, 1)
  | .msts fa sat spad _ a c =>
    let r := storeRows fa sat (bitsOf c 0 32) (s.tileVal e t)
    match s.mxWrite x spad a (r.1.zipIdx.map fun row => (row.2 * bitsOf c 32 32, row.1)) with
    | (s1, true) => ((s1.addCounts x.gid r.2).freeEntry x, 64)
    | (s1, false) => (s1, 1)
  | .mscl pin first n tid =>
    match s.tensor x tid with
    | (s1, .error f) => (s1.mxFail x f.1 f.2, 1)
    | (s1, .ok (nk, nt, base)) =>
      match s1.loadScales e x tid base (nk * nt) (if pin then [x.gid] else []) ((List.range n).map (first.toNat + ·)) with
      | (s2, some f) => (s2.mxFail x f.1 f.2, 1)
      | (s2, none) => (s2.freeEntry x, 1)
  | .mrel => ((s.endGrants (· == x.gid)).freeEntry x, 1)

/-- The accounts of a pass: the share's interval, the counter, the entries that were passed over, the cluster's passes (R312,
R336, R355, R361). -/
def State.passDone (s : State) (e : Nat) (x : MxEntry) (cyc : Nat) : State :=
  let m := s.mx e
  let lost := if m.last = x.gid then 0 else 1
  let total := (m.partCyc.map (·.2)).sum + cyc + lost
  let k := s.cluster (e / 6)
  (s.setMx e { m with
    last := x.gid
    partCyc := if 4096 ≤ total then [] else Tbl.put m.partCyc x.part (m.taken x.part + cyc)
    ctrs := bump m.ctrs m.sels 0x30 x.part x.ctx 1
    table := m.table.map fun y => if y.ord = x.ord then { y with since := 0, aged := 0 }
      else if y.since = 0 || !s.shareOk m y.part then y else { y with aged := y.aged + 1 } }).setCluster (e / 6) { k with passes := k.passes + 1 }

/-- The memory that the next accesses of an entry read, by address: an image, the entry of its tensor, its scales (R310, R320, R322). -/
def State.mxSources (s : State) (x : MxEntry) : List (Nat × Nat) :=
  let entry (tid : Nat) : Nat × Nat := (bitsOf (s.desc x.part x.ctx)[3] 4 52 * 16 + 16 * tid, 16)
  match x.op with
  | .mfil false latch _ a => [(a.toNat, imageBytes latch)]
  | .mma fa _ _ _ _ c sid k =>
    if bitsOf sid 0 16 = 0 then []
    else
      match (s.scaleNum x fa sid (bitsOf sid 32 16 + k * bitsOf c 40 8)).2 with
      | .ok (num, base) => [entry (bitsOf sid 0 16), (base + 4 * num, 4)]
      | .error _ => [entry (bitsOf sid 0 16)]
  | .mscl _ first n tid =>
    match (s.tensor x tid).2 with
    | .ok (_, _, base) => [entry tid, (base + 4 * first.toNat, 4 * n)]
    | .error _ => [entry tid]
  | _ => []

/-- An entry's accesses recall the lines that engines own: the state, and whether one is still owned, so that the entry waits (R224). -/
def State.mxRecall (s : State) (x : MxEntry) : State × Bool :=
  let ps := s.mxTargets x ++ (s.mxSources x).flatMap fun v =>
    match (s.ctxRange x.part x.ctx .rd (s.ctxSup x.part x.ctx) (pageParts (v.2 / 4096 + 2) v.1 v.2)).2 with
    | .ok ps => ps
    | .error _ => []
  let t := ps.foldl (fun t p => t.recall p.1 p.2) s
  (t, ps.any fun p => t.owned p.1 p.2 (some x.ord))

/-- MATRIX_PASS (R312). -/
def execMatrixPass (e : Nat) (s : State) : Host.Outcome State Fault Refusal :=
  let s1 := s.mxRefresh e
  .next (match s1.mxChoose e with
    | none => s1.mstaWake
    | some x =>
      let s2 := if x.core = noCore then s1 else s1.drainBuf x.core
      let w := s2.mxRecall x
      if s2.buffered x.core x.part x.ctx || w.2 then w.1.mxRefresh e
      else
        let r := w.1.runPass e x
        ((r.1.passDone e x r.2).mxRefresh e).mstaWake)

/-- The scale that an entry waits for arrives, or is found to be unreadable (R310, R314). -/
def State.fillScale (s : State) (e : Nat) (x : MxEntry) : State :=
  match x.op with
  | .mma fa _ _ _ _ c sid k =>
    match s.scaleNum x fa sid (bitsOf sid 32 16 + k * bitsOf c 40 8) with
    | (s1, .error f) => s1.mxFail x f.1 f.2
    | (s1, .ok (num, base)) =>
      match s1.loadScale e x (bitsOf sid 0 16) num base [] with
      | (s2, .error f) => s2.mxFail x f.1 f.2
      | (s2, .ok v) => s2.setEntry { x with scaleWait := false, fill := some (num, v) }
  | _ => s

def execScaleFillReturn (e : Nat) (s : State) : Host.Outcome State Fault Refusal :=
  match (s.mx e).table.find? (·.scaleWait) with
  | none => .next s
  | some x =>
    let w := s.mxRecall x
    .next (if w.2 then w.1 else ((w.1.fillScale e x).mxRefresh e).mstaWake)

/-- GRANT_SERVED: the request that is oldest gets its tiles where enough are free (R317). -/
def execGrantServed (e : Nat) (s : State) : Host.Outcome State Fault Refusal :=
  let m := s.mx e
  match m.grantQ with
  | [] => .next s
  | (gid, k) :: rest =>
    if m.free.length < k then .next s
    else
      let s1 := s.setMx e { m.grant gid k with grantQ := rest }
      match s1.group? gid with
      | some g => .next (s1.setGroup { g with latchIssue := none }.wake)
      | none => .next s1

end Sys2Proof.Machine
end

