-- ==== Sys2Proof/Machine/Teams.lean ====
section
/-! DEFINITION. Teams: room on a core, placement, saving, restoring, retirement, compaction and pre-emption (R17-R24, R28-R30, R78,
R81, R82, R198, R287, R384-R391). -/

namespace Sys2Proof.Machine

/-! ## Room on a core (R24, R81, R198, R335) -/

/-- A register block in use: slot, first unit in its pipe's row, units, team key. -/
structure Held where
  slot : Nat
  block : Nat
  units : Nat
  team : Nat
  deriving DecidableEq, Repr

/-- The blocks that the resident groups of a core hold. -/
def State.heldOn (s : State) (n : Nat) : List Held :=
  (s.allGroups.filter fun g => g.kind == .compute && g.core == n).map fun g => ⟨g.slot, g.block, g.budget, g.teamKey⟩

/-- The lowest free aligned block of `b` units in a pipe's row (R81). -/
def freeBlock (hs : List Held) (pipe b : Nat) : Option Nat :=
  ((List.range (256 / b)).map (· * b)).find? fun x =>
    !hs.any fun h => h.slot / 2 == pipe && decide (x < h.block + h.units) && decide (h.block < x + b)

/-- The lower free slot of a pipe within a partition's range (R24, R335). -/
def freeSlot (q : Quota) (hs : List Held) (pipe : Nat) : Option Nat :=
  [2 * pipe, 2 * pipe + 1].find? fun x => decide (q.slot0 ≤ x) && decide (x < q.slot0 + q.slotN) && !hs.any (·.slot == x)

/-- Where the next group of a team goes: pipes that hold none of its groups come first (R24). -/
def placeGroup (q : Quota) (hs : List Held) (team b : Nat) : Option (Nat × Nat) :=
  let pipes := (List.range q.rowN).map (q.row0 + ·)
  let try_ (p : Nat) : Option (Nat × Nat) := (freeSlot q hs p).bind fun x => (freeBlock hs p b).map fun y => (x, y)
  match (pipes.filter fun p => !hs.any fun h => h.slot / 2 == p && h.team == team).findSome? try_ with
  | some r => some r
  | none => pipes.findSome? try_

/-- Places groups of the given budgets in order: slot and block of each. -/
def placeGroups (q : Quota) (team : Nat) : List Held → List Nat → Option (List (Nat × Nat))
  | _, [] => some []
  | hs, b :: bs =>
    match placeGroup q hs team b with
    | none => none
    | some (x, y) => (placeGroups q team (⟨x, y, b, team⟩ :: hs) bs).map ((x, y) :: ·)

/-- The resident teams of a core. -/
def State.teamsOn (s : State) (n : Nat) : List Team :=
  (s.teams.filter fun t => t.2.at' == .resident && t.2.core == n).map (·.2)

/-- The lowest free range of `rows` rows in a partition's scratchpad offsets (R198, R335). -/
def State.freeWindow (s : State) (n : Nat) (q : Quota) (rows : Nat) : Option Nat :=
  if q.spadN < rows then none
  else
    ((List.range (q.spadN - rows + 1)).map fun i => 1024 * (q.spad0 + i)).find? fun b =>
      !(s.teamsOn n).any fun t => decide (b < t.winBase + 1024 * t.winRows) && decide (t.winBase < b + 1024 * rows)

/-- Rows dealt round-robin over banks with free rows; the queue holds each bank with its free rows (R198). -/
def dealRows : Nat → List (Nat × Nat) → Nat → Option (List Nat)
  | _, _, 0 => some []
  | 0, _, _ + 1 => none
  | fuel + 1, qs, n + 1 =>
    match qs with
    | [] => none
    | (b, f) :: rest => if f = 0 then dealRows fuel rest (n + 1) else (dealRows fuel (rest ++ [(b, f - 1)]) n).map (b :: ·)

/-- The partition's stable scratchpad banks of a cluster, with their free rows (R200, R203). -/
def State.spadBanks (s : State) (k part : Nat) : List (Nat × Nat) :=
  let used := (s.teams.filter fun t => t.2.at' == .resident && t.2.core / 24 == k).flatMap (·.2.winBanks)
  (List.range 48).filterMap fun b =>
    let x := s.bank k b
    if x.owner == part && x.mode == .spad && x.st == .stable then some (b, 128 - used.count b) else none

/-- Where a team goes. -/
structure Placement where
  core : Nat
  groups : List (Nat × Nat)
  base : Nat
  banks : List Nat
  deriving DecidableEq, Repr

/-- Role number and budget of every group of a team, in group order (R17). -/
def Grid.groupsOf (g : Grid) : List (Nat × Nat) := g.roles.zipIdx.flatMap fun r => List.replicate r.1.1 (r.2, r.1.2)

/-- The tiles that a saved team needs on its engine (R391). -/
def State.savedTiles (s : State) (key : Nat) : Nat := ((Tbl.get {} s.savedMx key).grants.map (·.tiles.length)).sum

/-- What a team needs on core `n` beside slots and registers: its window and its rows, and room for the matrix state of a saved one (R198,
R311, R335, R391) (DEDUCED, log 50). -/
def State.fitRest (s : State) (g : Grid) (team n : Nat) : Option (Nat × List Nat) :=
  let key := teamKey g.id team
  if n < 384 && (s.core n).inService && decide (s.savedTiles key ≤ (s.mx (n / 4)).free.length)
      && decide ((s.mx (n / 4)).table.length + s.owedPosts (n / 4) 0 + (Tbl.get {} s.savedMx key).entries.length ≤ 64) then
    match s.freeWindow n (s.quota n g.part) g.rows, dealRows (g.rows + 48) (s.spadBanks (n / 24) g.part) g.rows with
    | some b, some bs => some (b, bs)
    | _, _ => none
  else none

/-- A team fits on core `n`: its groups find slots and blocks, and what else it needs is there (R24). -/
def State.fit (s : State) (g : Grid) (team n : Nat) : Option Placement :=
  match placeGroups (s.quota n g.part) (teamKey g.id team) (s.heldOn n) (g.groupsOf.map (·.2)), s.fitRest g team n with
  | some gs, some (b, bs) => some ⟨n, gs, b, bs⟩
  | _, _ => none

/-- The lowest free image slot of a context (R384). -/
def State.freeImage (s : State) (part ctx : Nat) : Option Nat :=
  let used := (s.teams.filter fun t => (s.grid? t.2.grid).elim false fun g => g.part == part && g.ctx == ctx).map (·.2.slotNo)
  (List.range (bitsOf (s.desc part ctx)[7] 0 12)).find? fun i => !used.contains i

/-! ## Placement (R19, R21, R198) -/

/-- The number of group `num` of a team. -/
def groupId (key num : Nat) : Nat := 32 * key + num + 32

/-- A new group (R17, R19, R174). One that has not issued yet has waited since its placement, at turn `now` (R26) (DESIGN CHOICE, log 78). -/
def newGroup (g : Grid) (team : Nat) (tvt : Addr) (n num role budget slot block now : Nat) : Group :=
  { gid := groupId (teamKey g.id team) num, kind := .compute, part := g.part, ctx := g.ctx, grid := g.id, team := team, num := num
    role := role, budget := budget, core := n, slot := slot, block := block
    s := ((Vector.replicate 64 (0 : Word)).set 0 (g.param.setWidth 64)).set 1 (BitVec.ofNat 64 team)
    pc := g.entry, tvt := tvt, lastIssue := now }

/-- The first handler address of a context's groups (R174, R382). -/
def State.initTvt (s : State) (part ctx : Nat) : Addr := ((s.desc part ctx)[8] &&& 0x00FFFFFFFFFFFFF8).setWidth 56

/-- The window of a new team: zeros after its header (R198). -/
def newWindow (m : Memory) (n base rows : Nat) : Memory :=
  let k := spadKey (n / 24) (n % 24) base
  let m := Memory.clear m k (1024 * rows)
  if rows = 0 then m else Memory.write m k (leBytes (rows * 2 ^ 24 + n % 24 * 2 ^ 19 + base) 8)

/-- A team is placed for the first time. -/
def State.create (s0 : State) (g : Grid) (team image : Nat) (p : Placement) : State :=
  let s := s0.countClock p.core
  let key := teamKey g.id team
  let gs := (g.groupsOf.zip p.groups).zipIdx.map fun x =>
    newGroup g team (s.initTvt g.part g.ctx) p.core x.2 x.1.1.1 x.1.1.2 x.1.2.1 x.1.2.2 s.turn
  let t : Team := { grid := g.id, team := team, core := p.core, winBase := p.base, winRows := g.rows, winBanks := p.banks
                    winGen := s.nextId, slotNo := image, prio := g.prio, placedAt := s.time }
  { s with
    nextId := s.nextId + 1
    groups := gs.foldl (fun t x => Tbl.put t x.gid x) s.groups
    teams := Tbl.put s.teams key t
    spad := newWindow s.spad p.core p.base g.rows
    grids := Tbl.put s.grids g.id { g with placed := g.placed ++ [team], passedOver := 0 } }

/-- A group that has stopped for its supervisor or the debugger. -/
def Group.isStopped (g : Group) : Bool :=
  match g.run with
  | .stopped _ => true
  | _ => false

/-! ## Restoring a saved team (R78, R375, R387, R389-R391) -/

/-- A wait of a saved group as it goes on: EVWT reads its location once and then completes (R257, R375) (DEDUCED, log 52). -/
def Group.resumeWait (g : Group) : Group :=
  match g.wait with
  | .evwt eq wide spad prm va b d last dl _ => { g with wait := .evwt eq wide spad prm va b d last dl true }
  | _ => g

/-- The registers that an image gives back: all of them, or those that PRACK kept (R386, R387). -/
def Group.keeps (g : Group) : Nat :=
  match g.run with
  | .acked n _ => n
  | _ => g.budget

/-- Where the stack region of a group lies (R384) (DESIGN CHOICE, log 29). -/
def State.stackImage (s : State) (g : Group) : Nat := s.teamImage g + 0x300000 + 0x800 * g.num

/-- The stack that a region in memory describes (R170). -/
def Group.readStack (g : Group) (m : Memory) (a : Nat) : Group :=
  let h := Memory.word m a
  let deep := bitsOf h 16 11
  let entry (i : Nat) : StackEntry :=
    { StackEntry.ofBits (BitVec.ofNat 256 (leNat (Memory.read m (a + 0x400 + 32 * i) 32))) with
      smask := BitVec.ofNat 32 (leNat (Memory.read m (a + 8 + 4 * i) 4)) }
  { g with mdepth := deep, stack := ((List.range (min 32 (bitsOf h 0 11 - deep))).map entry).reverse }

/-- A group comes back: its stack is read, its registers are written through WriteResult, the others map to register 0 (R78, R387). -/
def State.restoreGroup (s : State) (g : Group) (core slot block : Nat) : State :=
  let old : Group := { g.readStack s.mem (s.stackImage g) with core := core, slot := slot, block := block, v := Vector.replicate 256 0 }
  let t := { s with groups := Tbl.put s.groups g.gid old }.as old fun t => (List.range g.keeps).foldl (fun t r =>
    (t.writeResult r (Memory.vreg s.mem (s.regImage g r)) false).1) t
  match t.group? g.gid with
  | some x =>
    let run := match g.run with
      | .acked _ _ => .ready
      | r => r
    t.setGroup { x with run := run, preempt := false, memFrom := s.nextId }.resumeWait
  | none => t

/-- A saved team's groups, in group order. -/
def State.teamMembers (s : State) (key : Nat) : List Group :=
  (s.allGroups.filter (·.inTeam key)).mergeSort fun a b => a.num ≤ b.num

/-- The grants of a team come back with their tiles' contents, and its entries with their positions (R313, R317, R391). -/
def State.restoreMx (s : State) (key core image : Nat) : State :=
  let sv := Tbl.get {} s.savedMx key
  let e := core / 4
  let r := sv.grants.foldl (fun (p : Matrix × Nat) g =>
    let ts := p.1.free.take g.tiles.length
    let vals := (List.range ts.length).map fun i =>
      BitVec.ofNat 131072 (leNat (Memory.read s.mem (image + 0x2A0000 + 16384 * (p.2 + i)) 16384))
    ({ p.1 with
       grants := p.1.grants ++ [{ g with tiles := ts }]
       tiles := (ts.zip vals).foldl (fun v x => v.setIfInBounds x.1 x.2) p.1.tiles }, p.2 + ts.length)) (s.mx e, 0)
  { (s.setMx e { r.1 with table := r.1.table ++ sv.entries.map fun x => { x with core := core, since := 0, aged := 0 } }).movePins e
      (sv.grants.map (·.gid)) with
    savedMx := Tbl.del s.savedMx key }

/-- The trap frames of a saved team's stopped groups go from its image to their new slots (R381, R384). -/
def State.moveFrames (s : State) (key image new : Nat) (slots : List (Nat × Nat)) : State :=
  let gs := ((s.teamMembers key).zip slots).filter fun x => x.1.isStopped
  let fs := gs.map fun x => (s.frameAt x.1.part x.1.ctx new x.2.1, Memory.read s.mem (image + 0x2780 + 0x800 * x.1.num) 128)
  { s with mem := fs.foldl (fun m f => Memory.write m f.1 f.2) s.mem }

/-- A saved team is placed again: the restore acts as an acquire of the save, and raises the generation of its window, so that entries of the
reuse table which depend on the old one lapse (R87, R88, R228, R391). -/
def State.restore (s' : State) (key : Nat) (t : Team) (p : Placement) : State :=
  let s := (s'.lapse t.core t.winGen).countClock p.core
  let image := s.windowImage t - 0x220000
  let win := Memory.read s.mem (s.windowImage t) (1024 * t.winRows)
  let k := spadKey (p.core / 24) (p.core % 24) p.base
  let t1 : Team := { t with core := p.core, at' := .resident, winBase := p.base, winBanks := p.banks, winGen := s.nextId
                            placedAt := s.time, pre := false, budgetAt := none }
  let s0 := s.moveFrames key image p.core p.groups
  let s1 := { s0 with
    nextId := s.nextId + 1
    teams := Tbl.put s.teams key t1
    spad := Memory.write (Memory.clear s.spad k (1024 * t.winRows)) k win }
  let s2 := ((s1.teamMembers key).zip p.groups).foldl (fun u x => u.restoreGroup x.1 p.core x.2.1 x.2.2) s1
  (s2.restoreMx key p.core image).mxRefresh (p.core / 4)

/-! ## Saving a team (R78, R228, R374, R375, R384-R389) -/

/-- A saved group's record: a group that waits at an instruction, or is held at one, resumes there (R374, R375). -/
def Group.saved (g : Group) : Group :=
  let g1 := match g.clause with
    | some c =>
      if g.isOver c then { g.endFlags with clause := none, word := 0, resume := none }
      else { g with pc := c.hdr, clause := none, word := 0, resume := some g.word }
    | none => g
  { g1 with
    core := noCore, ahead := none, run := if g.run == .stopping then .stopped 0 else g.run
    v := Vector.replicate 256 0, burn := none, shunt := none, match_ := none, memClause := false
    wait := match g.wait with
      | .grant _ => .none
      | .stall => .none
      | .msta _ _ _ _ => .none
      | .stackAccess _ => .none
      | w => w }

/-- A group's stack region: the header, the side masks and the entries on chip, oldest first (R170). -/
def Group.stackRegion (g : Group) : List Byte :=
  let es := g.stack.reverse
  leBytes (es.length + g.mdepth + 2 ^ 16 * g.mdepth) 8
    ++ (List.range 32).flatMap (fun i => leBytes (es[i]?.elim 0 (·.smask.toNat)) 4)
    ++ List.replicate 888 0
    ++ (List.range 32).flatMap (fun i => leBytes (es[i]?.elim 0 (·.bits.toNat)) 32)

/-- A group's registers and the part of its stack that is on chip go to its image (R78, R170, R384). -/
def State.saveRegs (s : State) (g : Group) : State :=
  let m := (List.range g.keeps).foldl (fun m r => Memory.setVreg m (s.regImage g r) (g.reg r)) s.mem
  { s with mem := Memory.write m (s.stackImage g) g.stackRegion }

/-- The matrix state of a group is kept: always in a forced save; in a cooperative one unless it acknowledged without `.mat`
(R385, R387). -/
def Group.keepsMx (g : Group) (coop : Bool) : Bool :=
  match g.run with
  | .acked _ mat => !coop || mat
  | _ => true

/-- The matrix state of a team goes to its image; entries that are not kept are cancelled (R386, R387, R389). -/
def State.saveMx (s : State) (key core image : Nat) (coop : Bool) : State :=
  let gs := s.teamMembers key
  let gids := gs.map (·.gid)
  let kept := (gs.filter (·.keepsMx coop)).map (·.gid)
  let s1 := s.cancelMx fun x => gids.contains x.gid && !kept.contains x.gid
  let m := s1.mx (core / 4)
  let grants := kept.filterMap fun i => m.grants.find? (·.gid == i)
  let tiles := grants.flatMap (·.tiles)
  let mem := tiles.zipIdx.foldl (fun mm t => Memory.write mm (image + 0x2A0000 + 16384 * t.2)
    (leBytes (m.tiles.toList.getD t.1 0).toNat 16384)) s1.mem
  let sv : SavedMx := { entries := m.table.filter fun x => gids.contains x.gid, grants := grants }
  let s2 := { s1.setMx (core / 4) { m with table := m.table.filter fun x => !gids.contains x.gid } with
    mem := mem, savedMx := Tbl.put s1.savedMx key sv }
  (s2.takeGrants (gids.contains ·)).endGrants fun i => gids.contains i && !kept.contains i

/-! ## The rest of the image (R384). The places inside its regions are the model's (DESIGN CHOICE, log 98). -/

/-- The word that a group enters next: after the marker (R268), the word behind it or the next clause's header. -/
def Group.resumeWord (g : Group) : Addr := g.resume.elim g.pc fun w => g.pc + 8 + 8 * BitVec.ofNat 56 w

/-- Words of a vector register's contents. -/
def vregWords (x : VReg) : List Word := (List.range 16).map fun i => x.extractLsb' (64 * i) 64

/-- A group's uniform state but for its stack, in the order of R269 (DESIGN CHOICE, log 28). -/
def Group.uniform (g : Group) : List Word :=
  g.s.toList ++ g.m.toList.map (·.setWidth 64)
    ++ [g.live ++ g.em, g.srSeq.setWidth 32 ++ g.fsr, g.resumeWord.setWidth 64, BitVec.ofNat 8 (g.resume.getD 31) ++ g.pc,
        BitVec.ofNat 64 (g.rm.toNat + 8 * g.fte.toNat + (if g.mmode then 512 else 0)), g.tvt.setWidth 64]
    ++ g.ix.toList.flatMap vregWords
    ++ g.wa.toList.flatMap (fun a => (List.range 6).map (fun i => a.val.extractLsb' (64 * i) 64) ++ [a.st.setWidth 64])

/-- A wait in a group frame: its number and what it waits for (R390). The data of an FQPUT are in the register images. -/
def Wait.words : Wait → List Word
  | .none => [0]
  | .bar n p => [1, BitVec.ofNat 64 n, BitVec.ofNat 64 p]
  | .evwt eq wide spad prm va cmp d last deadline once =>
    [2 + BitVec.ofNat 64 (([eq, wide, spad, prm, once, deadline.isSome].zipIdx.map fun b => if b.1 then 2 ^ (8 + b.2) else 0).sum),
     va, cmp, d.setWidth 64, last, BitVec.ofNat 64 (deadline.getD 0)]
  | .nap t => [3, BitVec.ofNat 64 t]
  | .wmark d => [4, d.setWidth 64]
  | .fqput k b _ => [5, BitVec.ofNat 64 k, BitVec.ofNat 64 b]
  | .ecanSlot d k => [6, d.setWidth 64, BitVec.ofNat 64 k]
  | .answer d v => [7, d.setWidth 64, v]
  | .flushx => [8]
  | .msta _ _ _ d => [9, d.setWidth 64]
  | .grant k => [10, BitVec.ofNat 64 k]
  | .eqrd d => [11, d.setWidth 64]
  | .evps k d r => [12, BitVec.ofNat 64 k, d.setWidth 64, r.extractLsb' 0 64, r.extractLsb' 64 64]
  | .tlbi f lo len asid => [13, BitVec.ofNat 64 f, BitVec.ofNat 64 lo, BitVec.ofNat 64 len, BitVec.ofNat 64 asid]
  | .stop d p c => [14, d.setWidth 64, BitVec.ofNat 64 p, BitVec.ofNat 64 c]
  | .evict d p c => [15, d.setWidth 64, BitVec.ofNat 64 p, BitVec.ofNat 64 c]
  | .rewind d p c t => [16, d.setWidth 64, BitVec.ofNat 64 p, BitVec.ofNat 64 c, BitVec.ofNat 64 t]
  | .stackAccess r => [17, if r then 1 else 0]
  | .haltOff d n => [18, d.setWidth 64, BitVec.ofNat 64 n]
  | .stall => [0]

/-- A group frame: uniform state, flags and their counts, kept registers, exception counters, wait. -/
def Group.frame (g : Group) : List Word :=
  g.uniform ++ g.cf.toList.map (fun f => BitVec.ofNat 64 ((if f.pending then 2 ^ 32 else 0) + f.count))
    ++ [BitVec.ofNat 64 g.keeps, g.mxc[3] ++ g.mxc[2] ++ g.mxc[1] ++ g.mxc[0]] ++ g.wait.words

/-- The team header. -/
def State.teamHeader (s : State) (key : Nat) (t : Team) (coop : Bool) : List Word :=
  [t.grid, t.team, t.core, if coop then 1 else 0, t.ceil, t.winGen].map (BitVec.ofNat 64)
    ++ (List.range 4).map (fun k => BitVec.ofNat 64 (s.slotCount key k))
    ++ ((s.grid? t.grid).elim [] (·.roles)).map (fun r => BitVec.ofNat 64 (r.1 + 2 ^ 32 * r.2))
    ++ t.bars.toList.map fun b => BitVec.ofNat 64 (b.arrivals + 64 * b.expect.getD 0 + 4096 * b.phase)

/-- The held operations of a patch slot in post order: the command id, or the order of a request, and the count (R297). -/
def State.slotImage (s : State) (key slot : Nat) : List Word :=
  let cs := (Tbl.get [] s.patch (4 * key + slot)).map fun c => (c.ord, c.id, c.b)
  let ms := (s.allMx.filter (·.inSlot key slot)).map fun x => (x.ord, BitVec.ofNat 64 x.ord, BitVec.ofNat 64 (match x.op with
    | .mma _ _ _ _ n _ _ _ => n
    | _ => 0))
  ((cs ++ ms).mergeSort fun a b => a.1 ≤ b.1).flatMap fun o => [o.2.1, o.2.2]

/-- A saved matrix entry: its group, order, count and position. -/
def MxEntry.image (x : MxEntry) : List Word :=
  [x.gid, x.ord, (match x.op with
    | .mma _ _ _ _ n _ _ _ => n
    | _ => 0), match x.op with
    | .mma _ _ _ _ _ _ _ k => k
    | _ => 0].map (BitVec.ofNat 64)

/-- Header, patch slots, group frames, trap frames of stopped groups, latches and entries of a team go to its image. -/
def State.saveImage (s : State) (key : Nat) (t : Team) (image : Nat) (coop : Bool) : State :=
  let sv := Tbl.get {} s.savedMx key
  let m1 := Memory.words s.mem image (s.teamHeader key t coop)
  let m2 := (List.range 4).foldl (fun m k => Memory.words m (image + 0x1000 + 0x400 * k) (s.slotImage key k)) m1
  let m3 := (s.teamMembers key).foldl (fun m g => Memory.words m (image + 0x2000 + 0x800 * g.num) g.frame) m2
  let m4 := ((s.teamMembers key).filter (·.isStopped)).foldl (fun m g =>
    Memory.write m (image + 0x2000 + 0x800 * g.num + 0x780) (Memory.read s.mem (s.frameAt g.part g.ctx t.core g.slot) 128)) m3
  let m5 := sv.grants.zipIdx.foldl (fun m g => Memory.write m (image + 0x2E0000 + 4384 * g.2) (latchImage g.1.latch)) m4
  { s with mem := sv.entries.zipIdx.foldl (fun m x => Memory.words m (image + 0x2F4000 + 32 * x.2) x.1.image) m5 }

/-- An agent that waits for the saves of a context's teams, or of a core's, goes on once none is pending (R397, R402). -/
def State.wakeEvict (s : State) : State :=
  let busy (p c : Nat) : Bool := s.teams.any fun t => t.2.pre && (s.grid? t.2.grid).any fun g => g.part == p && g.ctx == c
  s.mapGroups (fun g => match g.wait with
      | .evict _ p c => !busy p c
      | .haltOff _ n => !(s.teamsOn n).any (·.pre)
      | _ => false) fun g => match g.wait with
    | .evict d _ _ => (g.setS d 0).wake
    | .haltOff d _ => (g.setS d 0).wake
    | _ => g

/-- A team's groups before its save: only an agent between words can be saved, so the running one leaves its place, and a clause whose last word
is behind its group ends (R29, R51). -/
def State.unrun (s : State) (key : Nat) : State :=
  let s1 := if s.active && s.run.inTeam key then { s with active := false, groups := Tbl.put s.groups s.run.gid s.run, run := {} } else s
  (s1.teamMembers key).foldl (fun t g => match g.clause with
    | some c => if g.isOver c && g.wait == .none then t.as g (·.endClause c) else t
    | none => t) s1

/-- A context that has no resident team left is switched out: its scales leave the engines (R310) (DEDUCED, log 48). -/
def State.switchOut (s : State) (part ctx : Nat) : State :=
  if s.teams.any fun t => t.2.at' == .resident && (s.grid? t.2.grid).any fun g => g.part == part && g.ctx == ctx then s
  else s.dropScales part ctx

/-- A TEAM IS SAVED: its stores perform, its registers, window and matrix state go to its image, and it leaves its core. Where a full log
holds its stores, the team waits for them, and its groups do not go on (R228, R271). -/
def State.saveTeam (s0 : State) (key : Nat) (coop : Bool) : State :=
  match s0.team? key with
  | none => s0
  | some t =>
    if t.at' != .resident then s0
    else
      let s := (s0.unrun key).drainBuf t.core
      let t := (s.team? key).getD t
      if (s.core t.core).buf.any (·.grid == t.grid) then s.setTeam key { t with pre := true, saveDue := some coop }
      else
      let image := s.windowImage t - 0x220000
      let k := spadKey (t.core / 24) (t.core % 24) t.winBase
      let s1 := (s.saveMx key t.core image coop)
      let s2 := (s1.teamMembers key).foldl (fun u g => u.saveRegs g) (s1.countClock t.core)
      let s3 := (s2.mapGroups (·.inTeam key) Group.saved).saveImage key t image coop
      let s4 := { s3 with mem := Memory.write s3.mem (s3.windowImage t) (Memory.read s.spad k (1024 * t.winRows)) }
      let s5 := s4.setTeam key { t with
        at' := .saved coop, frozen := false, pre := false, saveDue := none, budgetAt := none, winBanks := [] }
      (match s5.grid? t.grid with
        | some g => (s5.freeRegs t.core).switchOut g.part g.ctx
        | none => s5.freeRegs t.core).wakeEvict

/-! ## Leaving (R28, R74, R275, R394) -/

/-- Group records leave the machine. -/
def State.dropGroups (s : State) (p : Group → Bool) : State :=
  let out := s.active && p s.run
  { s with
    active := s.active && !out
    run := if out then {} else s.run
    groups := s.groups.filter fun g => !p g.2 }

/-- A team and all it holds leave the machine without a save: grants, matrix requests, held commands, registers, and the entries of the reuse
table that depend on its window (DESIGN CHOICE, log 91). The bytes of the window stay as they are (R28). -/
def State.discardTeam (s0 : State) (key : Nat) : State :=
  match s0.team? key with
  | none => s0
  | some t =>
    let s := if t.at' == Residency.resident then s0.countClock t.core else s0
    let here : Bool := t.at' == Residency.resident
    let gids := (s.teamMembers key).map (·.gid)
    let s1 := (s.cancelMx fun x => gids.contains x.gid).endGrants (gids.contains ·)
    let s2 := s1.dropGroups (·.inTeam key)
    let s3 := { s2 with
      teams := Tbl.del s2.teams key
      savedMx := Tbl.del s2.savedMx key
      patch := s2.patch.filter fun p => p.1 / 4 != key }
    let s4 := s3.lapse t.core t.winGen
    (if here then s4.freeRegs t.core else s4).wakeEvict

/-- A copy's descriptor names a window as its destination, or cannot be read yet. -/
def State.namesWindow (s : State) (c : Cmd) : Bool :=
  match (s.descWords c).2 with
  | .ok d => c.op.copies && bitsOf (d.getD 2 0) 36 4 == 1
  | .error _ => true

/-- A command that writes its team's window, as it will plan once the stores before it have performed (R28, R222). A held one may be given a count yet, and one held for a fault may go on. -/
def State.writesWindow (s : State) (c : Cmd) : Bool :=
  match c.st with
  | .running _ => c.win
  | .queued | .waiting =>
    let t := s.drainBuf c.core
    match (t.plan { c with b := if c.b = 0 then 1 else c.b }).2 with
    | .ok ws => ws.any (·.space == 4)
    | .error _ => t.namesWindow c
  | .heldFault => (s.drainBuf c.core).namesWindow c
  | .finished _ => c.win

/-- A team may retire (R28). -/
def State.canRetire (s : State) (key : Nat) : Bool :=
  (s.team? key).any (·.at' == .resident) && (s.teamMembers key).all (·.run == .ended)
    && !((s.engines.flatMap (·.2.cmds) ++ s.patch.flatMap (·.2)).any fun c => teamKey c.grid c.team == key && s.writesWindow c)
    && !(s.allMx.any fun x => teamKey x.grid x.team == key)

/-- TEAM_RETIRE: the team's resources are freed (R28). Commands it holds in patch slots are still commands of its grid. -/
def execTeamRetire (grid team : Nat) (s : State) : Host.Outcome State Fault Refusal :=
  let key := teamKey grid team
  if s.canRetire key then
    let s1 := { s.discardTeam key with patch := s.patch }
    .next (match s1.grid? grid with
      | some g => s1.setGrid grid { g with retired := g.retired ++ [team] }
      | none => s1)
  else .next s

/-! ## The choice of a team (R21, R30, R287, R388) -/

/-- The context lets its teams be placed (R383). -/
def State.ctxRuns (s : State) (part ctx : Nat) : Bool := (s.ctx? part ctx).elim false (·.st == .live)

/-- The next team of map entry `j` of a grid, where it may start (R21). -/
def Grid.nextAt (g : Grid) (j : Nat) : Option Nat :=
  let n := g.map.length
  let k := g.placed.countP fun t => t % n == j
  let t := j + n * k
  if t < g.teams && (k = 0 || g.retired.contains (t - n)) then some t else none

/-- The bank request of a grid's launch is met in every cluster of its map: enough banks are STABLE in each mode (R203) (DEDUCED, log 38). -/
def State.banksMet (s : State) (g : Grid) : Bool :=
  (clustersOf g.map).all fun k =>
    let stable (m : BankMode) := (s.ownBanks k g.part).countP fun b => (s.bank k b).st == .stable && (s.bank k b).mode == m
    decide (g.spadB ≤ stable .spad) && decide (g.fifoB ≤ stable .fifo)

/-- A team waits to be placed: a saved one, of a COOP grid once no team of the grid is on its way out (R29); or the next of its map's entry,
the first of a grid once its bank request is met, with a free image slot (R21, R203, R384). During a live update placement pauses (R416). -/
def State.wants (s : State) (g : Grid) (team : Nat) : Bool :=
  s.ctxRuns g.part g.ctx && !s.dev.upd &&
    match s.team? (teamKey g.id team) with
    | some t => t.at' != .resident && !(g.coop && s.teams.any fun u => u.2.grid == g.id && u.2.pre)
    | none => g.nextAt (team % g.map.length) == some team && (!g.placed.isEmpty || s.banksMet g) && (s.freeImage g.part g.ctx).isSome

/-- The core that a new team's map names (R21). -/
def Grid.homeOf (g : Grid) (team : Nat) : Nat := g.map.getD (team % g.map.length) 0

/-- The cores that a team may go to: any for a saved one, its map's for a new one (R21, R391). -/
def State.coresFor (s : State) (g : Grid) (team : Nat) : List Nat :=
  if (s.team? (teamKey g.id team)).isSome then List.range 384 else [g.homeOf team]

/-- A team can be placed now: where, the lowest core first (R21, R203, R391). A COOP grid's teams are placed together (R30)
(DEDUCED, log 50). -/
def State.roomFor (s : State) (g : Grid) (team : Nat) : Option Placement :=
  if s.wants g team then (s.coresFor g team).findSome? fun n => s.fit g team n else none

/-- Rank of a grid among those that compete: its priority, one more after 32 placements in a row without it. A team that a marker waits
for comes first (R268, R287). -/
def Grid.rank (g : Grid) (waits : Bool) : Nat := if waits then 100 else g.prio + (if 32 ≤ g.passedOver then 1 else 0)

/-- A WMARK of a grid is in progress (R268). -/
def Grid.marking (g : Grid) : Bool := !g.marked.isEmpty

/-- The grids that have a team to place on core `n`, with the team. -/
def State.rivals (s : State) (n : Nat) : List (Grid × Nat) :=
  s.grids.flatMap fun x =>
    let g := x.2
    let new := (List.range g.map.length).filterMap fun j => if g.map.getD j 0 = n then g.nextAt j else none
    let old := (s.teams.filter fun t => t.2.grid == g.id && t.2.at' != .resident).map (·.2.team)
    (old ++ new).map fun t => (g, t)

/-- The core that shares a flue with core `n` (R9). -/
def mateOf (n : Nat) : Nat := if n % 2 = 0 then n + 1 else n - 1

/-- How far a grid's class is from that of the team on the mate of core `n` (R354). -/
def State.classGap (s : State) (g : Grid) (n : Nat) : Nat :=
  match (s.teamsOn (mateOf n)).head?.bind fun t => s.grid? t.grid with
  | some h => max g.cur h.cur - min g.cur h.cur
  | none => 0

/-- No rival on the core comes before a grid: of higher rank, or of its rank with a nearer class, or then taken earlier. -/
def State.firstAt (s : State) (g : Grid) (n : Nat) : Bool :=
  let mine := g.rank (g.marking && s.teams.any fun t => t.2.grid == g.id && t.2.at' != .resident)
  let gap := s.classGap g n
  !(s.rivals n).any fun r =>
    let other := r.1.rank (r.1.marking && (s.team? (teamKey r.1.id r.2)).isSome)
    let gap' := s.classGap r.1 n
    r.1.id != g.id && (s.roomFor r.1 r.2).any (·.core == n)
      && (decide (mine < other) || (mine == other && (decide (gap' < gap) || (gap' == gap && decide (r.1.takenAt < g.takenAt)))))

/-- A grid places a team on a core: every other grid that waits for the core is passed over once more (R287). -/
def State.passOver (s : State) (gid n : Nat) : State :=
  let ids := ((s.rivals n).map (·.1.id)).dedup
  { s with grids := s.grids.map fun x =>
      if x.1 = gid then (x.1, { x.2 with passedOver := 0 })
      else if ids.contains x.1 then (x.1, { x.2 with passedOver := x.2.passedOver + 1 }) else x }

/-- A team is placed where there is room for it, and where no rival comes before it on that core (R287). -/
def State.place1 (s : State) (gid team : Nat) : Option State :=
  match s.grid? gid with
  | none => none
  | some g =>
    match s.roomFor g team with
    | none => none
    | some p =>
      let key := teamKey gid team
      let s1 := s.passOver gid p.core
      if !s.firstAt g p.core then none
      else match s.team? key, s1.freeImage g.part g.ctx, s1.grid? gid with
      | some t, _, _ => some (s1.restore key t p)
      | none, some i, some g1 => some (s1.create g1 team i p)
      | none, _, _ => none

/-- All teams of a list, or none. -/
def State.placeAll (s : State) (gid : Nat) : List Nat → Option State
  | [] => some s
  | t :: ts => (s.place1 gid t).bind fun s1 => s1.placeAll gid ts

/-- The teams that are placed with a team: all of a COOP grid that are not resident, and otherwise itself. A team that a marker waits
for is placed alone (R30, R268, R388). -/
def State.companions (s : State) (g : Grid) (team : Nat) : List Nat :=
  if g.coop && !g.marking then
    (List.range g.teams).filter fun t => !g.retired.contains t && (s.team? (teamKey g.id t)).all (·.at' != .resident)
  else [team]

/-! ## Compaction (R82) -/

/-- Free units of a partition's rows on a core. -/
def State.freeUnits (s : State) (n : Nat) (q : Quota) : Nat :=
  256 * q.rowN - ((s.heldOn n).filter fun h => decide (q.row0 ≤ h.slot / 2) && decide (h.slot / 2 < q.row0 + q.rowN)).foldl (fun a h => a + h.units) 0

/-- Moves of one group to another pipe of its partition: the blocks after each, with the block moved and the pipe. -/
def movesOf (q : Quota) (may : Held → Bool) (hs : List Held) : List (Held × Nat × List Held) :=
  (hs.filter may).flatMap fun h => (((List.range q.rowN).map (q.row0 + ·)).filter (· != h.slot / 2)).filterMap fun p =>
    let rest := hs.filter (·.slot != h.slot)
    match freeSlot q rest p, freeBlock rest p h.units with
    | some x, some y => some (h, p, { h with slot := x, block := y } :: rest)
    | _, _ => none

/-- `k` moves, no fewer being needed here, let groups of the given budgets be placed. -/
def packs (q : Quota) (may : Held → Bool) (team : Nat) (bs : List Nat) : Nat → List Held → Bool
  | 0, hs => (placeGroups q team hs bs).isSome
  | k + 1, hs => (movesOf q may hs).any fun m => packs q may team bs k m.2.2

/-- Compaction may move a group: not one that is stopped or in its handler, since its frame lies at its slot (R24, R379, R381), and not one that
a marker holds (R268). -/
def State.mayMove (s : State) (g : Group) : Bool :=
  !g.isStopped && !g.inHandler && !(s.grid? g.grid).elim false Grid.marking

/-- A group that compaction may move: of the partition (R82). -/
def State.movable (s : State) (n part : Nat) (h : Held) : Bool :=
  s.allGroups.any fun g => g.kind == .compute && g.core == n && g.slot == h.slot && g.part == part && s.mayMove g

/-- A team of a grid fails to be placed on core `n` for fragmentation alone: everything else is there, and units and slots are enough in
total (R82). -/
def State.fragmentedFor (s : State) (n : Nat) (g : Grid) (team : Nat) : Bool :=
  let q := s.quota n g.part
  let slots := q.slotN - (s.heldOn n).countP fun h => decide (q.slot0 ≤ h.slot) && decide (h.slot < q.slot0 + q.slotN)
  s.wants g team && (s.fitRest g team n).isSome && (s.fit g team n).isNone
    && decide ((g.groupsOf.map (·.2)).sum ≤ s.freeUnits n q) && decide (g.slots ≤ slots)

/-- The moves that compaction may start with for a team: the fewest that let it be placed, and of those that begin such a series the one of
the smallest block (R82) (DESIGN CHOICE, log 56). -/
def State.nextMove (s : State) (n : Nat) (g : Grid) (team : Nat) : Option (Held × Nat) :=
  let q := s.quota n g.part
  let may := s.movable n g.part
  let bs := g.groupsOf.map (·.2)
  let key := teamKey g.id team
  let hs := s.heldOn n
  match (List.range (hs.length + 1)).find? fun k => packs q may key bs k hs with
  | some (k + 1) =>
    ((movesOf q may hs).filter fun m => packs q may key bs k m.2.2).foldl (fun (b : Option (Held × Nat)) m => match b with
      | none => some (m.1, m.2.1)
      | some x => if m.1.units < x.1.units then some (m.1, m.2.1) else b) none
  | _ => none

/-- The move that a partition's first fragmented team on a core asks for. -/
def State.firstMove (s : State) (n part : Nat) : Option (Held × Nat) :=
  ((s.rivals n).find? fun r => r.1.part == part && s.fragmentedFor n r.1 r.2).bind fun r => s.nextMove n r.1 r.2

/-- The moves that a core makes for the teams that wait for it: the core compacts by itself (R82). -/
def State.compactions (s : State) (n : Nat) : List Instr :=
  (((s.rivals n).map (·.1.part)).dedup.filterMap (s.firstMove n)).flatMap fun m =>
    (s.allGroups.filter fun g => g.kind == .compute && g.core == n && g.slot == m.1.slot).map fun g => .compaction n g.gid m.2

/-- COMPACTION: a group that R82 chooses moves at its clause boundary to another pipe; its map moves as it stands, and its core gives it 64
cycles (R78, R82) (DESIGN CHOICE, log 56). -/
def execCompaction (core group toPipe : Nat) (s : State) : Host.Outcome State Fault Refusal :=
  match s.group? group with
  | none => .next s
  | some g =>
    let q := s.quota core g.part
    let hs := (s.heldOn core).filter (·.slot != g.slot)
    if g.kind != .compute || g.core != core || g.clause.isSome || !s.mayMove g then .next s
    else
      match s.firstMove core g.part, freeSlot q hs toPipe, freeBlock hs toPipe g.budget with
      | some m, some x, some y =>
        if m.1.slot = g.slot ∧ m.2 = toPipe then
          let c := s.core core
          .next ((s.setCore core { c with cyc := c.cyc + 64 }).setGroup { g with slot := x, block := y, memClause := false, memFrom := s.nextId })
        else .next s
      | _, _, _ => .next s

/-! ## Pre-emption (R385-R388, R400) -/

/-- A core that a mismatch trap holds (R352). -/
def Core.held (c : Core) : Bool := c.holdFlue || c.holdClus

/-- A group that a pre-emption asks to enter its handler: it runs, or waits on completion flags alone (R385). -/
def Group.asked (g : Group) : Bool := g.run == .ready && (g.wait == .none || g.wait == .stall) && !g.inHandler

/-- A team is pre-empted: at once by a forced save where PVEC is 0 or a mismatch
trap holds its core, and otherwise through the handlers of its groups (R353, R385). -/
def State.preempt (s : State) (key : Nat) : State :=
  match s.team? key with
  | none => s
  | some t =>
    match s.grid? t.grid with
    | none => s
    | some g =>
      if t.at' != .resident then s
      else if bitsOf (s.desc g.part g.ctx)[9] 3 53 = 0 || (s.core t.core).held then s.saveTeam key false
      else (s.setTeam key { t with pre := true }).mapGroups (fun g => g.inTeam key && g.asked) fun g => { g with preempt := true }

/-- A team that a marker does not hold (R268). -/
def State.mayPreempt (s : State) (grid team : Nat) : Bool :=
  (s.team? (teamKey grid team)).any (·.at' == .resident) && !(s.grid? grid).elim true Grid.marking

def execTimeSliceEnd (grid team : Nat) (s : State) : Host.Outcome State Fault Refusal :=
  .next (if s.mayPreempt grid team then s.preempt (teamKey grid team) else s)

/-! ## TEAM_PLACEMENT and partial eviction (R21, R287, R388) -/

/-- The team that a partial eviction takes from a core for a grid: of lower PRIO, the lowest first, and the most recently placed among
equals; one at a time (R388) (DESIGN CHOICE, log 51). -/
def State.victimOn (s : State) (g : Grid) (n : Nat) : Option Team :=
  let ts := (s.teamsOn n).filter fun t => (s.grid? t.grid).any (fun h => h.part == g.part && decide (h.prio < g.prio))
    && s.mayPreempt t.grid t.team
  if (s.teamsOn n).any (·.pre) then none
  else ts.foldl (fun b t => match b with
    | none => some t
    | some u => if t.prio < u.prio ∨ (t.prio = u.prio ∧ u.placedAt < t.placedAt) then some t else some u) none

/-- A team of a COOP grid takes its whole grid with it (R29, R388) (DESIGN CHOICE, log 51). -/
def State.evict (s : State) (t : Team) : State :=
  if (s.grid? t.grid).elim false (·.coop) then
    (s.teams.filter fun x => x.2.grid == t.grid).foldl (fun u x => u.preempt x.1) s
  else s.preempt (teamKey t.grid t.team)

/-- The teams that partial eviction may take from a core for a grid leave it: would a team fit then? -/
def State.wouldFit (s : State) (g : Grid) (team n : Nat) : Bool :=
  let out := (s.teamsOn n).filter fun t => (s.grid? t.grid).any (fun h => h.part == g.part && decide (h.prio < g.prio))
    && s.mayPreempt t.grid t.team
  !out.isEmpty && ((out.foldl (fun u t => u.discardTeam (teamKey t.grid t.team)) s).fit g team n).isSome

/-- TEAM_PLACEMENT (R21, R287, R391). Where teams of lower priority hold the room that a team needs, one is pre-empted (R388). -/
def execTeamPlacement (grid team : Nat) (s : State) : Host.Outcome State Fault Refusal :=
  match s.grid? grid with
  | none => .next s
  | some g =>
    match s.roomFor g team with
    | some _ => .next ((s.placeAll grid (s.companions g team)).getD s)
    | none =>
      if s.wants g team then
        match ((s.coresFor g team).find? fun n => s.wouldFit g team n).bind fun n => s.victimOn g n with
        | some t => .next (s.evict t)
        | none => .next s
      else .next s

/-- A group that the pre-emption still waits for: one in its handler, or one that it asked and that runs. A group that has fallen asleep or
went to its supervisor instead counts as acknowledged (R385). -/
def Group.owes (g : Group) : Bool :=
  match g.run with
  | .acked _ _ => false
  | .ready | .stopping => g.preempt && (g.inHandler || g.wait == .none || g.wait == .stall)
  | .stopped _ | .ended | .off => false

/-- TEAM_SAVE: every group has acknowledged, or a save that waited for the team's stores goes on (R228, R385, R387). -/
def execTeamSave (grid team : Nat) (s : State) : Host.Outcome State Fault Refusal :=
  let key := teamKey grid team
  match (s.team? key).bind (·.saveDue) with
  | some coop => .next (s.saveTeam key coop)
  | none => .next (if (s.team? key).any (·.pre) && !(s.teamMembers key).any Group.owes then s.saveTeam key true else s)

/-- BUDGET_EXPIRY: a forced save, and a BUDGET record that names the first group that had not acknowledged (R386). -/
def execBudgetExpiry (grid team : Nat) (s : State) : Host.Outcome State Fault Refusal :=
  let key := teamKey grid team
  match s.team? key with
  | none => .next s
  | some t =>
    if t.pre && t.saveDue.isNone && t.budgetAt.any (· ≤ s.time) then
      match (s.teamMembers key).find? Group.owes with
      | none => .next (s.saveTeam key true)
      | some g => .next ((s.saveTeam key false).postSystem (s.supCl g.part g.ctx) (s.trapRecord g cBUDGET))
    else .next s

/-- The budget of a context's handlers in ns (R382). -/
def State.budgetNs (s : State) (part ctx : Nat) : Nat :=
  let b := bitsOf (s.desc part ctx)[10] 56 8
  1000 * (if b = 0 then 20 else b)

/-- PREEMPT at a clause boundary: the group enters the handler at PVEC, and the first entry of its team starts the budget (R379,
R385, R386). A frame that is busy or cannot be written sends it to the supervisor (DEDUCED, log 76). -/
def State.preemptEntry (s : State) : State :=
  let g := s.run
  let t : Trap := { cause := cPREEMPT, fpc := g.hdr, fidx := 31, clause := g.hdr, ridx := 31 }
  let pvec : Addr := ((s.desc g.part g.ctx)[9] &&& 0x00FFFFFFFFFFFFF8).setWidth 56
  match s.frameEntry t pvec with
  | (s0, .made) =>
    let s1 := s0.setRun { s0.run with preempt := true }
    match s1.team? g.teamKey with
    | some x => s1.setTeam g.teamKey { x with budgetAt := some (x.budgetAt.getD (s1.time + s1.budgetNs g.part g.ctx)) }
    | none => s1
  | (s1, .busy) => if s.isSup g then s1.stopBusy t else s1.supTrap t true
  | (s1, .unwritten) => s1.supTrap t true

/-- STACK_SPILL_COMPLETE: the access of a spill or a refill has completed (R170). -/
def execStackSpillComplete (gid : Nat) (s : State) : Host.Outcome State Fault Refusal :=
  match s.group? gid with
  | some g => match g.wait with
    | .stackAccess _ => .next (s.setGroup { g with wait := .none })
    | _ => .next s
  | none => .next s

end Sys2Proof.Machine
end

