-- ==== Sys2Proof/Machine/Windows.lean ====
section
/-! DEFINITION. Memories IV: windows: bursts of the log, the high watermark, how windows open, WMARK and its snapshot (R259-R272). -/

namespace Sys2Proof.Machine

/-! ## Bursts and the watermark (R263, R271) -/

/-- The oldest 64 records gathered for a segment are written to its ring. -/
def State.writeBurst (s : State) (part ctx seg : Nat) : State :=
  match s.ctx? part ctx with
  | none => s
  | some c =>
    match c.bursts.find? (·.1 == seg) with
    | none => s
    | some b =>
      let rs := b.2.1.take 64
      let rest := b.2.1.drop 64
      let base := c.logBase + 4096 + seg * c.segSize
      let p := c.pos.toList.getD seg 0
      let mem := rs.zipIdx.foldl (fun m r => Memory.write m (base + 64 * (p + r.2) % c.segSize) (leBytes r.1.toNat 64)) s.mem
      let others := c.bursts.filter (·.1 != seg)
      { s with mem := mem }.setCtxLog part ctx { c with
        bursts := if rest.isEmpty then others else others ++ [(seg, rest, s.time)]
        pos := vmod c.pos seg (· + rs.length) }

/-- Every record gathered so far is written. -/
def State.flushBursts (s : State) (part ctx : Nat) : State :=
  (List.range 8).foldl (fun t seg =>
    let n := (t.ctx? part ctx).elim 0 fun c => (c.bursts.find? (·.1 == seg)).elim 0 (·.2.1.length)
    (List.range ((n + 63) / 64)).foldl (fun u _ => u.writeBurst part ctx seg) t) s

/-- The header's PERIOD, which the supervisor writes in memory (R260). -/
def State.logPeriod (s : State) (c : Ctx) : Nat := bitsOf (Memory.word s.mem (c.logBase + 8)) 16 16

/-- The contexts with a burst in a segment that meets a condition. -/
def State.burstsDue (s : State) (seg : Nat) (p : List (BitVec 512) × Nat → Bool) : List (Nat × Nat) :=
  s.ctxs.filterMap fun x =>
    if x.2.bursts.any fun b => b.1 == seg && p b.2 then some (x.1 / 64, x.1 % 64) else none

/-- Writes a burst of every context that is due at a stack. -/
def State.drainLog (s : State) (seg : Nat) (p : List (BitVec 512) × Nat → Bool) : State :=
  (s.burstsDue seg p).foldl (fun t k => t.writeBurst k.1 k.2 seg) s

def execLogBurstWrite (stack : Nat) (s : State) : Host.Outcome State Fault Refusal :=
  .next (s.drainLog stack fun b => 64 ≤ b.1.length)

def execLogBurstTimeout (stack : Nat) (s : State) : Host.Outcome State Fault Refusal :=
  .next (s.drainLog stack fun b => b.2 + 10000 ≤ s.time)

/-! ## Opening a window (R264-R266, R272) -/

/-- The streams assigned to a context and their last-consumed positions (R265, R266). -/
def State.positions (s : State) (part ctx : Nat) : List (Nat × Nat) :=
  (s.streams.filter fun x => x.2.part == part && x.2.ctx == ctx).map fun x =>
    (x.1, (x.2.nextSeq + 2 ^ 32 - 1) % 2 ^ 32)

/-- The address of the slot of NEXTSEQ (R281). -/
def Stream.slot (x : Stream) : Nat := bitsOf x.w0 0 52 + 64 * (x.nextSeq % 2 ^ bitsOf x.w0 58 6)

/-- The slot of NEXTSEQ is written (R281). -/
def State.slotReady (s : State) (x : Stream) : Bool := bitsOf (Memory.word s.mem x.slot) 32 32 == x.nextSeq

/-- A new current window joins a context; each grid without LOG that runs marks it (R272). -/
def State.pushWindow (s : State) (part ctx : Nat) (c : Ctx) (num : BitVec 16) (auto anch : Bool) : State :=
  let w : Window := { num := num, auto := auto, anch := anch, mark := false, positions := if auto then s.positions part ctx else [] }
  let s1 := s.setCtxLog part ctx { c with windows := c.windows ++ [w], captured := [], orders := [], lastMark := s.time, bound := false }
  (s1.grids.filter fun g => g.2.part == part && g.2.ctx == ctx && !g.2.log).foldl (fun t _ => t.mark part ctx 5 0) s1

/-- A window opens: partial bursts are written, and the oldest of 16 windows is committed. -/
def State.openWindow (s : State) (part ctx : Nat) (auto anch : Bool) : State :=
  let s1 := s.flushBursts part ctx
  match s1.ctx? part ctx with
  | none => s1
  | some c => s1.pushWindow part ctx (if 16 ≤ c.windows.length then c.commitOldest else c) (c.curWin + 1) auto anch

/-- Commands, requests, buffered stores and exact cells that meet a condition on part, context and grid are outstanding. -/
def State.outstanding (s : State) (p : Nat → Nat → Nat → Bool) : Bool :=
  s.engines.any (fun e => e.2.cmds.any fun c => p c.part c.ctx c.grid)
    || s.patch.any (fun q => q.2.any fun c => p c.part c.ctx c.grid)
    || s.allMx.any (fun x => p x.part x.ctx x.grid)
    || s.cores.any (fun c => c.2.buf.any fun b => p b.part b.ctx b.grid)
    || s.slices.any (fun q => q.2.cells.any fun c => (s.grid? c.grid).any fun g => p g.part g.ctx g.id)

/-- A context stands at a command boundary: a command of it has completed since its last marker, or the packet that a stream of it takes next
is there (R265) (DEDUCED, log 54). -/
def State.atBoundary (s : State) (part ctx : Nat) (c : Ctx) : Bool :=
  c.bound || s.streams.any fun x => x.2.part == part && x.2.ctx == ctx && x.2.state == 1 && s.slotReady x.2

/-- A packet of a context is taken and has not completed, so that the context stands at no command boundary (R265, R370). -/
def State.taking (s : State) (part ctx : Nat) : Bool :=
  s.streams.any fun x => x.2.part == part && x.2.ctx == ctx && !x.2.taken.isEmpty

/-- An automatic window is due: PERIOD has passed since the last marker, and nothing of the context is resident or outstanding
(R265) (DEDUCED, log 54). -/
def State.autoDue (s : State) (part ctx : Nat) : Bool :=
  match s.ctx? part ctx with
  | none => false
  | some c =>
    c.logs && c.st == .live && !c.rwact && decide (c.lastMark + 250000 * s.logPeriod c ≤ s.time) && s.atBoundary part ctx c
      && !s.grids.any (fun g => g.2.part == part && g.2.ctx == ctx) && !s.taking part ctx && !s.outstanding fun p x k => p == part && x == ctx && k != 0

def execAutomaticWindowOpen (part ctx : Nat) (s : State) : Host.Outcome State Fault Refusal :=
  .next (if s.autoDue part ctx then s.openWindow part ctx true true else s)

/-! ## WMARK (R267, R268) -/

/-- WMARK: the group arrives at its grid's marker and waits. Its long-latency operations have completed before (Order.lean). -/
def execWmark (d : SReg) (_nr : Bool) (s : State) : Host.Outcome State Fault Refusal :=
  let g := s.run
  match s.grid? g.grid with
  | none => .next (s.faultExact cILLENC)
  | some x =>
    if !x.coop || g.kind != .compute then .next (s.faultExact cILLENC)
    else if (s.grantOf g.gid).isSome then .next (s.faultExact cMATFAULT)
    else .next (((s.charge 1).setGrid g.grid { x with marked := x.marked ++ [g.gid] }).setRun { g with wait := .wmark d })

/-- A group that waits at a marker. -/
def Group.atMark (g : Group) : Bool :=
  match g.wait with
  | .wmark _ => true
  | _ => false

/-- The members of a grid. -/
def State.gridMembers (s : State) (grid : Nat) : List Group := s.allGroups.filter fun g => g.kind == .compute && g.grid == grid

/-- Every group of a grid has arrived, and its commands have completed (R268). -/
def State.markReady (s : State) (g : Grid) : Bool :=
  g.marking && g.placed.length == g.teams && !s.teams.any (fun t => t.2.grid == g.id && t.2.at' != .resident)
    && (s.gridMembers g.id).all (fun x => x.run == .ended || x.atMark)
    && !s.engines.any (fun e => e.2.cmds.any (·.grid == g.id)) && !s.patch.any (fun q => q.2.any (·.grid == g.id))

/-- The window that a WMARK opens is a rewind target where no other grid of the context is resident or has anything outstanding
(R265). -/
def State.alone (s : State) (g : Grid) : Bool :=
  !s.teams.any (fun t => t.2.grid != g.id && t.2.at' == .resident
      && (s.grid? t.2.grid).any fun h => h.part == g.part && h.ctx == g.ctx)
    && !s.outstanding fun p x k => p == g.part && x == g.ctx && k != g.id

/-! ## The snapshot (R269, R270) -/

/-- A group as it stands after the marker, to be entered again at its next word. -/
def Group.snapped (g : Group) : Group :=
  let g1 := match g.clause with
    | some c => if g.word ≤ c.h.cnt.toNat then { g with pc := c.hdr, resume := some g.word } else { g with resume := none }
    | none => { g with resume := g.resume.map (· + g.word) }
  { g1 with clause := none, word := 0, openSets := [], cf := Vector.replicate 12 ⟨false, 0⟩
            burn := none, shunt := none, match_ := none, memClause := false }

/-- The uniform state that a snapshot records, in the order of R269. DESIGN CHOICE: the division into parts (DESIGN CHOICE, log 28). -/
def Group.unif (g : Group) : List Word :=
  g.uniform ++ g.stack.flatMap (fun e => [e.jpc.setWidth 64, e.ppc.setWidth 64, e.pmask ++ e.rmask, e.smask.setWidth 64])
    ++ [BitVec.ofNat 64 g.mdepth, g.mxc[3] ++ g.mxc[2] ++ g.mxc[1] ++ g.mxc[0]]

/-- The entries of a group's stack that are in memory, oldest first, as its stack area holds them (R170, R269). -/
def State.spilledStack (s : State) (g : Group) : List Word :=
  (List.range (4 * g.mdepth)).map fun i => Memory.word s.mem (s.teamImage g + 0x20000 + 0x8000 * g.num + 8 * i)

/-- A team's part of its first group's records. -/
def Team.unif (t : Team) : List Word :=
  t.bars.toList.map (fun b => BitVec.ofNat 64 (b.arrivals + 64 * b.expect.getD 0 + 4096 * b.phase))
    ++ [BitVec.ofNat 64 ((if t.burnAuto then 1 else 0) + (if t.shuntAuto then 2 else 0) + 4 * t.core)]

/-- Cuts words into parts of 32 bytes (DESIGN CHOICE, log 28). -/
def parts32 : Nat → List Word → List Nat
  | 0, _ => []
  | f + 1, ws => if ws.isEmpty then [] else ((ws.take 4).zipIdx.map fun w => w.1.toNat * 2 ^ (64 * w.2)).sum :: parts32 f (ws.drop 4)

/-- A snapshot record: kind, address and contents, in a segment (R261, R262). -/
structure SnapRec where
  seg : Nat
  kind : Nat
  pa : Nat
  old : Nat
  deriving DecidableEq, Repr

/-- The records of a team: its groups' uniform state and its window. -/
def State.teamRecs (s : State) (t : Team) : List SnapRec :=
  let seg := t.core / 48
  let gs := s.teamMembers (teamKey t.grid t.team)
  (gs.flatMap fun g =>
    let ws := g.snapped.unif ++ s.spilledStack g ++ (if g.num = 0 then t.unif else [])
    (parts32 ws.length ws).zipIdx.map fun p => ⟨seg, 1, (64 * (t.core % 48) + g.slot) * 2 ^ 40 + p.2, p.1⟩)
  ++ (List.range (32 * t.winRows)).map fun i =>
    ⟨seg, 3, t.core % 24 * 2 ^ 19 + t.winBase + 32 * i, leNat (Memory.read s.spad (spadKey (t.core / 24) (t.core % 24) (t.winBase + 32 * i)) 32)⟩

/-- The records of a FIFO. -/
def fifoRecs (k n : Nat) (b : Bank) : List SnapRec :=
  ⟨k / 2, 4, n * 2 ^ 40 + 2 ^ 12, b.head + 2 ^ 8 * b.entries.length⟩ ::
    b.entries.zipIdx.flatMap fun e => (List.range 32).map fun p =>
      ⟨k / 2, 4, n * 2 ^ 40 + p * 2 ^ 7 + (b.head + e.2) % 128, (e.1.extractLsb' (256 * p) 256).toNat⟩

/-- The two records of a cell. -/
def Cell.recs (c : Cell) : List SnapRec :=
  let seg := homeSlice c.loc / 16
  let f := if c.fmt = .f32 then 6 else if c.fmt = .f16x2 then 3 else 2
  [⟨seg, 5, c.loc, c.acc.val.toNat % 2 ^ 256⟩,
   ⟨seg, 6, c.loc, c.acc.val.toNat / 2 ^ 256 + c.acc.st.toNat * 2 ^ 128 + f * 2 ^ 136 + c.base.toNat * 2 ^ 160⟩]

/-- Appends snapshot records, each with its segment's sequence number. -/
def Ctx.addRecs (c : Ctx) (now : Nat) (rs : List SnapRec) : Ctx :=
  rs.foldl (fun c r => { c.gather r.seg (mkLogRec r.old (c.seqs.toList.getD r.seg 0 + 1) 0 c.curWin.toNat r.kind 0 r.pa) now with
    seqs := vmod c.seqs r.seg (· + 1) }) c

/-- The storage registers that a core has room for in its retention pool, beside the reservations of its resident groups (R79). -/
def State.poolRoom (s : State) (n : Nat) : Nat :=
  8192 - ((s.allGroups.filter fun g => g.kind == .compute && g.core == n).map (·.budget)).sum

/-- The contents that the retention pool of a core would hold if every resident group wrote all its registers: those that its reuse entries and
the snapshots of retained windows name. -/
def State.poolNames (s : State) (n : Nat) : List (Nat × VReg) :=
  ((s.core n).phys.filter fun p => reuseRefs (s.core n) p.part p.val + snapRefs s.ctxs n p.part p.val != 0).map fun p => (p.part, p.val)

/-- Where the pool of a core cannot take the registers of a new snapshot, the marker writes them as SPILL records (R270) (DEDUCED, log 95). -/
def State.spillSnapshot (s : State) (part ctx : Nat) (w : BitVec 16) (cores : List Nat) : State :=
  cores.foldl (fun t n =>
    if (t.poolNames n).length ≤ t.poolRoom n then t
    else match t.ctx? part ctx with
      | none => t
      | some c => t.setCtxLog part ctx (((t.core n).phys.filter (·.part == part)).foldl (fun c p => c.spillRegs (·.num == w) n part p.val t.time) c)) s

/-- The snapshot of a grid, taken after the groups have their `sd` (R269, R270). -/
def State.takeSnapshot (s : State) (g : Grid) : State :=
  match s.ctx? g.part g.ctx with
  | none => s
  | some c =>
    let ts := (s.teams.filter fun t => t.2.grid == g.id).map (·.2)
    let fs := g.fifos.map fun f => (f.1, f.2, s.bank f.1 f.2)
    let cells := s.gridCells g.id
    let wins := ts.flatMap fun t =>
      (List.range (1024 * t.winRows)).map fun i =>
        (groupId (teamKey t.grid t.team) 0 * 2 ^ 20 + i, Memory.get s.spad (spadKey (t.core / 24) (t.core % 24) (t.winBase + i)))
    let snap : Snapshot :=
      { grid := g, teams := ts, groups := (s.gridMembers g.id).map Group.snapped
        windows := wins.filter (·.2 != emptyByte), fifos := fs, cells := cells }
    let recs := ts.flatMap s.teamRecs ++ fs.flatMap (fun f => fifoRecs f.1 f.2.1 f.2.2) ++ cells.flatMap Cell.recs
    let ws := c.windows.dropLast ++ (c.windows.getLast?.map fun w => { w with snap := some snap }).toList
    (s.setCtxLog g.part g.ctx ({ c with windows := ws }.addRecs s.time recs)).spillSnapshot g.part g.ctx c.curWin (ts.map (·.core)).dedup

/-- The groups of a grid that wait at its marker get its number and leave. -/
def State.leaveMark (s : State) (grid : Nat) (w : Word) : State :=
  s.mapGroups (fun g => g.kind == .compute && g.grid == grid && g.atMark) fun g => match g.wait with
    | .wmark d => (g.setS d w).wake
    | _ => g

/-- WMARK_COMPLETE (R268). -/
def execWmarkComplete (grid : Nat) (s : State) : Host.Outcome State Fault Refusal :=
  match s.grid? grid with
  | none => .next s
  | some g =>
    if !s.markReady g then .next s
    else
      let g1 := { g with marked := [] }
      match s.ctx? g.part g.ctx with
      | some c =>
        if c.rwact then .next s
        else if c.logs then
          let s1 := ((s.setGrid grid g1).openWindow g.part g.ctx false (s.alone g))
          let w := (s1.ctx? g.part g.ctx).elim 0 (·.curWin.toNat)
          .next ((s1.leaveMark grid (BitVec.ofNat 64 w)).takeSnapshot g1)
        else .next ((s.setGrid grid g1).leaveMark grid 0)
      | none => .next ((s.setGrid grid g1).leaveMark grid 0)

/-- A slice has waited 1 ms for the next atomic of a context's recorded order, counted from the one before it, or from the context's resumption
(R279) (DEDUCED, log 96). -/
def Ctx.orderLate (c : Ctx) (slice now : Nat) : Bool :=
  c.st == .live && c.orders.any (fun o => o.1 == slice && !o.2.isEmpty) && (Tbl.find c.orderAt slice).any fun t => decide (t + 1000000 ≤ now)

/-- ORDR_TIMEOUT: the recorded next atomic has not arrived within 1 ms, and the slice gives up the order (R279). -/
def execOrdrTimeout (slice : Nat) (s : State) : Host.Outcome State Fault Refusal :=
  let due := s.ctxs.filter fun x => x.2.orderLate slice s.time
  .next (due.foldl (fun t x =>
    let part := x.1 / 64
    let ctx := x.1 % 64
    (t.setCtx part ctx { x.2 with orders := x.2.orders.filter (·.1 != slice) }).postSystem (t.supCl part ctx)
      (mkRecord (ctx * 2 ^ 15 + part * 2 ^ 21) 0 0xFFF 0xFF 3 cENGFAULT)) s)

end Sys2Proof.Machine
end

