-- ==== Sys2Proof/Machine/Streams.lean ====
section
/-! DEFINITION. Queues I: submission streams: how packets are taken, what each kind does, the completion of grids, and the records and
status entries of streams (R28, R227, R280-R287). -/

namespace Sys2Proof.Machine

/-! ## Slots and status entries (R281-R283) -/

/-- The address of a stream's status entry, where the status area is enabled (R405). -/
def State.statusAt (s : State) (n : Nat) : Option Nat :=
  if s.dev.statbase.getLsbD 0 then some (bitsOf s.dev.statbase 16 36 * 2 ^ 16 + 16 * n) else none

/-- The device updates LASTTAKEN, LASTDONE and LASTCPL of a status entry. -/
def State.writeStatus (s : State) (n : Nat) (x : Stream) : State :=
  match s.statusAt n with
  | some a => { s with mem := Memory.write s.mem a (leBytes x.lastTaken 4 ++ leBytes x.lastDone 4 ++ leBytes x.lastCpl 4) }
  | none => s

/-- A stream with its status entry. -/
def State.putStream (s : State) (n : Nat) (x : Stream) : State := (s.setStream n x).writeStatus n x

/-- STREAM_WAKE and STREAM_SLOT_POLL: the scheduler core reads the slot again (R282). -/
def State.rereadSlot (s : State) (n : Nat) : State :=
  let x := s.stream n
  if x.state = 1 && s.slotReady x then s.setStream n { x with awake := true } else s

def execStreamWake (n : Nat) (s : State) : Host.Outcome State Fault Refusal := .next (s.rereadSlot n)

def execStreamSlotPoll (n : Nat) (s : State) : Host.Outcome State Fault Refusal := .next (s.rereadSlot n)

/-! ## Taking packets (R281, R285, R287) -/

def Taken.kind (t : Taken) : Nat := bitsOf (t.words.getD 0 0) 24 8

/-- A taken packet that holds every later one: a WAIT, or a launch that has not been checked. -/
def Taken.holds (t : Taken) : Bool := t.done.isNone && (t.kind == 2 || (t.kind == 1 && t.grid.isNone))

/-- The scheduler cores take packets and place teams: the device is up, has no error and is not being updated (R393, R416). -/
def State.schedules (s : State) : Bool := s.dev.ready && !s.dev.devErr && !s.dev.upd

/-- A context takes packets. -/
def State.ctxTakes (s : State) (part ctx : Nat) : Bool := (s.ctx? part ctx).any fun c => c.st == .live && !c.stopReq

/-- The stream takes its next packet now. -/
def State.canTake (s : State) (x : Stream) : Bool :=
  s.schedules && x.state == 1 && x.awake && s.slotReady x && s.ctxTakes x.part x.ctx && !x.taken.any Taken.holds && !s.owned x.slot 64

/-- The packet in the slot of NEXTSEQ. -/
def State.packet (s : State) (x : Stream) : List Word := wordsOf (Memory.read s.mem x.slot 64) 8

/-- KIND of the next packet. -/
def State.packetKind (s : State) (x : Stream) : Nat := bitsOf ((s.packet x).getD 0 0) 24 8

/-- Takes the next packet: NEXTSEQ and LASTTAKEN move on, and the packet is outstanding. -/
def State.take (s : State) (n : Nat) : State :=
  let x := s.stream n
  let t : Taken := { seq := x.nextSeq, words := s.packet x, ord := s.nextId }
  let y := { x with
    w2 := BitVec.ofNat 64 ((x.nextSeq + 1) % 2 ^ 32 * 2 ^ 32) ||| (x.w2.setWidth 32).setWidth 64
    lastTaken := x.nextSeq, taken := x.taken ++ [t] }
  { s.putStream n { y with awake := s.slotReady y } with nextId := s.nextId + 1 }

/-- Changes a taken packet of a stream. -/
def State.mapTaken (s : State) (n seq : Nat) (f : Taken → Taken) : State :=
  let x := s.stream n
  s.setStream n { x with taken := x.taken.map fun t => if t.seq = seq then f t else t }

/-- A packet's work is done, with a status: its record can be posted (R284). -/
def State.packetDone (s : State) (n seq status : Nat) : State :=
  { s.mapTaken n seq fun t => { t with done := some (status, s.nextId) } with nextId := s.nextId + 1 }

/-- A stream takes a packet that completes at once. -/
def State.takeDone (s : State) (n status : Nat) : State := (s.take n).packetDone n (s.stream n).nextSeq status

def execPacketNop (n : Nat) (s : State) : Host.Outcome State Fault Refusal :=
  let x := s.stream n
  .next (if s.canTake x && s.packetKind x == 0 then s.takeDone n 0 else s)

def execPacketBadpkt (n : Nat) (s : State) : Host.Outcome State Fault Refusal :=
  let x := s.stream n
  .next (if s.canTake x && decide (4 ≤ s.packetKind x) then s.takeDone n 1 else s)

/-! ## LAUNCH (R286) -/

/-- A taken launch is checked: its grid runs, or the packet completes with the rejection status. -/
def State.startLaunch (s : State) (n : Nat) (t : Taken) : State :=
  let x := s.stream n
  match s.mapWaits t.words x.part x.ctx with
  | some u => u
  | none =>
    match s.launch t.words x.part x.ctx n t.seq x.prioMax none t.ord with
    | (s1, .error st) => s1.packetDone n t.seq st
    | (s1, .ok id) => s1.mapTaken n t.seq fun u => { u with grid := some id }

/-- The launch that a stream has taken and not checked. -/
def Stream.heldLaunch (x : Stream) : Option Taken := x.taken.find? fun t => t.kind == 1 && t.grid.isNone && t.done.isNone

/-- A launch with ORD waits until every earlier packet of its stream has completed. -/
def Stream.mayStart (x : Stream) (t : Taken) : Bool :=
  !(t.words.getD 0 0).getLsbD 18 || x.taken.head?.any (·.seq == t.seq)

/-- PACKET_LAUNCH: a launch packet is taken, and checked once ORD lets it start, under a context stop too (R370). An automatic window that is due opens first, so that a
rewind to it consumes the packet again (R265). -/
def execPacketLaunch (n : Nat) (s : State) : Host.Outcome State Fault Refusal :=
  let x := s.stream n
  match x.heldLaunch with
  | some t => .next (if s.schedules && (s.ctx? x.part x.ctx).any (fun c => c.st == .live && c.rewound.isNone) && x.mayStart t then s.startLaunch n t else s)
  | none =>
    if s.canTake x && s.packetKind x == 1 && !s.autoDue x.part x.ctx then
      let s1 := s.take n
      let y := s1.stream n
      match y.heldLaunch with
      | some t => .next (if y.mayStart t then s1.startLaunch n t else s1)
      | none => .next s1
    else .next s

/-! ## WAIT and MARK (R285) -/

/-- `a` is at or past `b` in the order of sequence numbers (R281). -/
def seqGe (a b : Nat) : Bool := decide ((a + 2 ^ 32 - b % 2 ^ 32) % 2 ^ 32 < 2 ^ 31)

/-- A WAIT is bad: a reserved bit is set, or it names a stream of another partition. -/
def State.badWait (s : State) (x : Stream) (ws : List Word) : Bool :=
  let w0 := ws.getD 0 0
  bitsOf w0 12 12 != 0 || bitsOf (ws.getD 1 0) 32 32 != 0 || (ws.drop 2).any (· != 0) || (s.stream (bitsOf w0 0 12)).part != x.part

def execPacketWait (n : Nat) (s : State) : Host.Outcome State Fault Refusal :=
  let x := s.stream n
  .next (if s.canTake x && s.packetKind x == 2 then (if s.badWait x (s.packet x) then s.takeDone n 1 else s.take n) else s)

/-- The WAIT that a stream has taken and that is not satisfied yet. -/
def Stream.heldWait (x : Stream) : Option Taken := x.taken.find? fun t => t.kind == 2 && t.done.isNone

/-- WAIT_SATISFIED: LASTDONE of the named stream has reached the target. -/
def execWaitSatisfied (n : Nat) (s : State) : Host.Outcome State Fault Refusal :=
  match (s.stream n).heldWait with
  | some t =>
    .next (if seqGe (s.stream (bitsOf (t.words.getD 0 0) 0 12)).lastDone (bitsOf (t.words.getD 1 0) 0 32) then s.packetDone n t.seq 0 else s)
  | none => .next s

/-- The MARK whose earlier packets have all completed. -/
def Stream.readyMark (x : Stream) : Option Taken := x.taken.head?.filter fun t => t.kind == 3 && t.done.isNone

def execPacketMark (n : Nat) (s : State) : Host.Outcome State Fault Refusal :=
  let x := s.stream n
  match x.readyMark with
  | some t => .next (s.packetDone n t.seq 0)
  | none => .next (if s.canTake x && s.packetKind x == 3 then s.take n else s)

/-! ## Completion records (R272, R284, R288) -/

/-- The packet whose work was done first among those whose records wait. -/
def Stream.nextDone (x : Stream) : Option (Taken × Nat) :=
  (x.taken.filterMap fun t => t.done.map fun d => (t, d)).foldl (fun (b : Option (Taken × Nat × Nat)) p => match b with
    | none => some p
    | some q => if p.2.2 < q.2.2 then some p else b) none |>.map fun p => (p.1, p.2.1)

/-- HOSTCPL, which the reader writes in the status entry. -/
def State.hostCpl (s : State) (n : Nat) : Nat := (s.statusAt n).elim 0 fun a => leNat (Memory.read s.mem (a + 12) 4)

/-- The completion log of a stream has room. Without a status area there is no HOSTCPL, and records always have room (DESIGN CHOICE, log 55). -/
def State.cplRoom (s : State) (n : Nat) (x : Stream) : Bool :=
  (s.statusAt n).isNone || (x.lastCpl + (if x.lastCpl < s.hostCpl n then 2 ^ 32 - 1 else 0) - s.hostCpl n) != 2 ^ bitsOf x.w1 58 6

/-- The record of a packet; only a launch has a UTAG (DEDUCED, log 39). -/
def Taken.record (t : Taken) (n status cseq : Nat) : BitVec 128 :=
  mkRecord (if t.kind = 1 then bitsOf (t.words.getD 7 0) 0 32 else 0) t.seq n (0x58 + n % 4) 0 status ||| (BitVec.ofNat 32 cseq).setWidth 128

/-- LASTDONE of a stream with the given outstanding packets. -/
def Stream.doneSeq (x : Stream) : Nat :=
  match x.taken with
  | [] => x.lastTaken
  | t :: _ => (t.seq + 2 ^ 32 - 1) % 2 ^ 32

/-- Where the next completion record of a stream lies (R283, R288). -/
def Stream.recordAt (x : Stream) : Nat := bitsOf x.w1 0 52 + 16 * (nextCseq x.lastCpl % 2 ^ bitsOf x.w1 58 6)

/-- The bytes that the scheduler reads and writes next for a stream: the packet in its slot, and the record it posts. -/
def State.streamBytes (s : State) (n : Nat) : List (Nat × Nat) :=
  let x := s.stream n
  (if x.state = 1 then [(x.slot, 64)] else []) ++ (x.nextDone.map fun _ => (x.recordAt, 16)).toList

/-- A command of a context completes: the context stands at a command boundary (R265). -/
def State.atBound (s : State) (part ctx : Nat) : State :=
  match s.ctx? part ctx with
  | some c => if c.logs then s.setCtx part ctx { c with bound := true } else s
  | none => s

/-- COMPLETION_RECORD_POST (R284). The record marks the context's window with cause 4. -/
def execCompletionRecordPost (n : Nat) (s : State) : Host.Outcome State Fault Refusal :=
  let x := s.stream n
  match x.nextDone with
  | none => .next s
  | some (t, st) =>
    if s.dev.upd || !s.cplRoom n x || s.owned x.recordAt 16 then .next s
    else
      let c := nextCseq x.lastCpl
      let a := x.recordAt
      let y := { x with taken := x.taken.filter (·.seq != t.seq), lastCpl := c }
      let y := { y with lastDone := y.doneSeq }
      .next (({ s with mem := Memory.write s.mem a (leBytes (t.record n st c).toNat 16) }.putStream n y).mark x.part x.ctx 4 a |>.atBound x.part x.ctx)

/-- A supervisor writes word `word` of a stream entry (R266, R280); before READY the write is ignored (R415). -/
def execStreamEntryWrite (n word : Nat) (value : Word) (s : State) : Host.Outcome State Fault Refusal :=
  .next (if s.dev.ready then s.writeStream n word value else s)

/-! ## Grid completion (R28, R87, R227, R229, R310) -/

/-- The grid whose group has a number. -/
def gidGrid (gid : Nat) : Nat := (gid - 32) / 32 / 2 ^ 24

/-- Every team has retired, every command has completed, and every store of the grid has performed. -/
def State.gridDone (s : State) (g : Grid) : Bool :=
  g.retired.length == g.teams
    && !s.engines.any (fun e => e.2.cmds.any (·.grid == g.id)) && !s.patch.any (fun q => q.2.any (·.grid == g.id))
    && !s.cores.any (fun c => c.2.buf.any (·.grid == g.id)) && !s.dev.peerOut.any (fun p => decide (32 ≤ p.gid) && gidGrid p.gid == g.id)

/-- LD.inv reuse entries of a grid leave the cores. -/
def State.dropInv (s : State) (grid : Nat) : State :=
  let has (c : Core) : Bool := c.reuse.any (·.key.tag == some grid)
  let hit := (s.cores.filter fun c => has c.2).map (·.1)
  hit.foldl (fun t n =>
    let c := t.core n
    (t.setCore n { c with reuse := c.reuse.filter (·.key.tag != some grid) }).freeRegs n) s

/-- What launched a grid is told its status: its packet, or its LNCH command. -/
def State.tellLaunch (s : State) (g : Grid) (status : Nat) : State :=
  match g.lnch with
  | some id =>
    let e := bitsOf id 32 8
    match (s.engine e).cmds.find? (·.id == id) with
    | some c => s.finishCmd e c status
    | none => s
  | none => s.packetDone g.stream g.seq status

/-- GRID_COMPLETE: the grid's cells are rounded and its packet is done. A full log makes it wait (R229, R271). -/
def execGridComplete (grid : Nat) (s : State) : Host.Outcome State Fault Refusal :=
  match s.grid? grid with
  | none => .next s
  | some g =>
    if !s.gridDone g || !s.roundNext grid then .next s
    else if !s.roundRoom grid then
      match s.ctx? g.part g.ctx with
      | some c => .next (s.logFull g.part g.ctx c)
      | none => .next s
    else
      let s1 := ((s.roundCells grid false).dropInv grid).dropScales g.part g.ctx
      .next ({ s1 with grids := Tbl.del s1.grids grid }.tellLaunch g 0)

end Sys2Proof.Machine
end

