-- ==== Sys2Proof/Machine/Balance.lean ====
section
/-! DEFINITION. Counters I: BAL, the balance machinery of a cluster, body bias and frequency ceilings; the thermal states of the stacks
(R337, R342-R359). -/

namespace Sys2Proof.Machine

/-! ## BAL (R357, R358) -/

/-- AMT and K of a BAL operand. -/
def balAmt (x : Nat) : Nat := x / 2 ^ 20
def balK (x : Nat) : Nat := x % 2 ^ 20

/-- A request of K cycles, which replaces the group's earlier one; K = 0 cancels. -/
def balReq (amt k : Nat) : Option BalReq := if k = 0 then none else some ⟨amt, 1000 * k⟩

def execBalBurn (x : TOp) (s : State) : Host.Outcome State Fault Refusal :=
  let v := s.run.top x
  .next (s.done { s.run with burn := balReq (min 32 (balAmt v)) (balK v) } 1)

def execBalShunt (x : TOp) (s : State) : Host.Outcome State Fault Refusal :=
  let v := s.run.top x
  .next (s.done { s.run with shunt := balReq (min 400 (balAmt v)) (balK v) } 1)

def execBalMatch (x : TOp) (s : State) : Host.Outcome State Fault Refusal :=
  .next (s.done { s.run with match_ := balReq 0 (balK (s.run.top x)) } 1)

def execBalCeil (x : TOp) (s : State) : Host.Outcome State Fault Refusal :=
  let c := max 1 (min 32 (balAmt (s.run.top x)))
  let s1 := match s.team? s.run.teamKey with
    | some t => s.setTeam s.run.teamKey { t with ceil := c }
    | none => s
  .next (s1.done s1.run 1)

/-- A request that has not lapsed. -/
def BalReq.live (r : BalReq) : Bool := r.left != 0

/-- A nanosecond of a clock of `freq` MHz goes by for the requests of a group (R356, R358). -/
def Group.balTick (g : Group) (freq : Nat) : Group :=
  let f (r : Option BalReq) : Option BalReq := r.map fun x => { x with left := x.left - freq }
  { g with burn := f g.burn, shunt := f g.shunt, match_ := f g.match_ }

def execBalRequestLapse (gid : Nat) (s : State) : Host.Outcome State Fault Refusal :=
  match s.group? gid with
  | none => .next s
  | some g =>
    let f (r : Option BalReq) : Option BalReq := r.filter BalReq.live
    .next (s.setGroup { g with burn := f g.burn, shunt := f g.shunt, match_ := f g.match_ })

/-! ## Thresholds and roles (R343, R344) -/

/-- The thresholds, delay and fraction that govern the current sample. -/
def Cluster.flTrp (c : Cluster) : Nat := bitsOf c.inForce.baltt 0 11
def Cluster.clTrp (c : Cluster) : Nat := bitsOf c.inForce.baltt 16 12
/-- A throttle threshold above its trap threshold acts as equal to it. -/
def Cluster.flThr (c : Cluster) : Nat := min (bitsOf c.inForce.balth 0 11) c.flTrp
def Cluster.clThr (c : Cluster) : Nat := min (bitsOf c.inForce.balth 16 12) c.clTrp
def Cluster.dly (c : Cluster) : Nat := bitsOf c.inForce.baldly 0 8
/-- The denominator of the minimum fraction. -/
def Cluster.minDen (c : Cluster) : Nat := 2 ^ bitsOf c.inForce.dampmin 0 2

/-- A value of n bits, saturated. -/
def satSigned (n : Nat) (x : Int) : Int := max (-(2 ^ (n - 1) : Nat)) (min ((2 ^ (n - 1) : Nat) - 1) x)

/-- A reading, in units of 4 mA, exceeds a threshold in mA. -/
def exceeds (r : Int) (mA : Nat) : Bool := mA < 4 * r.natAbs

/-- The core at a place of the cluster draws over its mate: upper cores are even (R342). -/
def overDraws (c : Nat) (r : Int) : Bool := if c % 2 = 0 then 0 < r else r < 0

/-- The largest request of a kind. -/
def maxReq (gs : List Group) (f : Group → Option BalReq) : Nat :=
  gs.foldl (fun m g => max m (((f g).filter BalReq.live).elim 0 (·.amt))) 0

/-- The loop of a core is engaged (R345). -/
def State.loopOn (s : State) (n : Nat) : Bool :=
  let ts := s.teamsOn n
  ts.any (·.burnAuto) || (s.coreGroups n).any (fun g => (g.match_.filter BalReq.live).isSome)
    || (ts.isEmpty && ((s.core n).loop || (s.teamsOn (mateOf n)).any fun t => (s.grid? t.grid).any (·.alone)))

/-! ## Dampers (R349, R353) -/

/-- A sample acts on a damper: `ex` says that the reading exceeds the throttle threshold on this core's side. -/
def Damper.sample (d : Damper) (ex : Bool) (m now : Nat) : Damper :=
  if ex && (d.tick.isNone || d.den == 1) then ⟨min m (2 * d.den), some (now + 1000)⟩ else d

/-- The tick at time `at_` of a damper that no trap holds: ticks fall every 1 µs after the crossing. -/
def Damper.step (d : Damper) (ex : Bool) (m at_ : Nat) : Damper :=
  if ex then ⟨min m (2 * d.den), some (at_ + 1000)⟩
  else if 1 < d.den then ⟨d.den / 2, some (at_ + 1000)⟩
  else ⟨1, none⟩

/-- A trap sets its damper to ACTIVE at the minimum fraction. -/
def Damper.trap (d : Damper) (m now : Nat) : Damper := ⟨m, some (d.tick.getD (now + 1000))⟩

/-- The flue damper and the cluster damper act on core `c` of a cluster. -/
def Cluster.flueEx (k : Cluster) (c : Nat) : Bool :=
  let r := k.flue.toList.getD (c / 2) 0
  exceeds r k.flThr && overDraws c r
def Cluster.clusEx (k : Cluster) (c : Nat) : Bool :=
  exceeds k.reading k.clThr && overDraws c k.reading && overDraws c (k.flue.toList.getD (c / 2) 0)

/-! ## A sample (R343, R345-R352) -/

/-- The record of a mismatch trap (R352). -/
def mismatchRecord (now : Nat) (r : Int) (cluster : Bool) (core : Nat) : BitVec 128 :=
  mkRecord now (wrapInt 16 r * 2 ^ 16 + (if cluster then 512 else 0) + core) 0xFFF 0xFF 3 0x30

/-- The burn current of a core in a sample, in µA: 25 mA for each pipe that burns. Only idle pipes do. A pipe that has not issued is idle
throughout; where those are fewer than the setting, how much the others burn between their clauses is timing (R345) (DESIGN CHOICE, log 90). -/
def State.burnMicro (s : State) (n : Nat) : Nat :=
  let x := s.core n
  max (25000 * min x.burn (32 - popMask x.issued)) (min (25000 * x.burn) (Config.burnCurrent s.time n))

/-- The readings of a sample, from the raw differences in µA. -/
def State.readings (s : State) (k : Nat) (raw : List Int) : Cluster :=
  let c := s.cluster k
  let own (n : Nat) : Int := (s.burnMicro n : Int) + (s.core n).shunt
  let fl : Vector Int 12 := Vector.ofFn fun f =>
    satSigned 12 (Int.tdiv (raw.getD f.val 0 + own (24 * k + 2 * f.val) - own (24 * k + 2 * f.val + 1)) 4000)
  { c with raw := Vector.ofFn fun f => raw.getD f.val 0, flue := fl, reading := satSigned 16 fl.toList.sum }

/-- The counts of consecutive samples. -/
def Cluster.counts (c : Cluster) : Cluster :=
  { c with
    flOver := Vector.ofFn fun f => if exceeds c.flue[f] c.flTrp then c.flOver[f] + 1 else 0
    flLow := Vector.ofFn fun f => if exceeds c.flue[f] c.flThr then 0 else c.flLow[f] + 1
    clOver := if exceeds c.reading c.clTrp then c.clOver + 1 else 0
    clLow := if exceeds c.reading c.clThr then 0 else c.clLow + 1 }

/-- A mismatch trap on the flue of a cluster whose count has come to DLY + 1. -/
def State.flueTrap (k : Nat) (s : State) (f : Nat) : State :=
  let c := s.cluster k
  let r := c.flue.toList.getD f 0
  if c.flOver.toList.getD f 0 = c.dly + 1 then
    let n := 24 * k + 2 * f + (if 0 < r then 0 else 1)
    let x := s.core n
    (s.setCore n { x with holdFlue := true, flueD := x.flueD.trap c.minDen s.time }).postSystem k (mismatchRecord s.time r false n)
  else s

/-- The cores of a cluster that a cluster trap is taken on, and the one that its record names. -/
def Cluster.trapCores (c : Cluster) : List Nat :=
  (List.range 24).filter fun i => overDraws i c.reading && overDraws i (c.flue.toList.getD (i / 2) 0)
def Cluster.worst (c : Cluster) : Nat :=
  let size (i : Nat) : Nat := (c.flue.toList.getD (i / 2) 0).natAbs
  c.trapCores.foldl (fun b i => if size b < size i then i else b) (c.trapCores.headD 0)

def State.clusterTrap (s : State) (k : Nat) : State :=
  let c := s.cluster k
  if c.clOver = c.dly + 1 then
    (c.trapCores.foldl (fun t i =>
      let x := t.core (24 * k + i)
      t.setCore (24 * k + i) { x with holdClus := true, clusD := x.clusD.trap c.minDen s.time }) s).postSystem k
        (mismatchRecord s.time c.reading true (24 * k + c.worst))
  else s

/-- A sample's effect on the dampers of a core, and on the record of whether it stalled (R346). -/
def State.dampSample (k : Nat) (s : State) (i : Nat) : State :=
  let c := s.cluster k
  let x := s.core (24 * k + i)
  s.setCore (24 * k + i) { x with
    flueD := if x.holdFlue then x.flueD else x.flueD.sample (c.flueEx i) c.minDen s.time
    clusD := if x.holdClus then x.clusD else x.clusD.sample (c.clusEx i) c.minDen s.time
    stalled := x.issued == 0, issued := 0
    loop := x.loop && (s.teamsOn (24 * k + i)).isEmpty && !(s.teamsOn (mateOf (24 * k + i))).isEmpty }

/-- The core that draws less: neither does at a reading of 0 (R343). -/
def Cluster.underDraws (c : Cluster) (i : Nat) : Bool := overDraws (mateOf i) (c.flue.toList.getD (i / 2) 0)

/-- Burn and shunt requests of a core are suppressed (R348) (DEDUCED, log 66). -/
def Core.mute (c : Core) : Bool := 1 < c.den || c.held

/-- The shunt current that a core requests, in µA (R347). -/
def State.shuntReq (s : State) (k i : Nat) : Nat :=
  let c := s.cluster k
  let n := 24 * k + i
  let x := s.core n
  if x.mute then 0
  else
    let auto := if (s.teamsOn n).any (·.shuntAuto) && x.stalled && c.underDraws i then (c.raw.toList.getD (i / 2) 0).natAbs else 0
    min 400000 (max (1000 * maxReq (s.coreGroups n) (·.shunt)) auto)

/-- The burn count of a core for the next sample, given its shunt current (R345). -/
def State.burnCount (s : State) (k i shunt : Nat) : Nat :=
  let c := s.cluster k
  let n := 24 * k + i
  if (s.core n).mute then 0
  else
    let loop := if s.loopOn n && c.underDraws i then ((c.raw.toList.getD (i / 2) 0).natAbs - shunt) / 25000 else 0
    min 32 (max (maxReq (s.coreGroups n) (·.burn)) loop)

/-- Shunt and burn settings of a flue for the next 50 ns (DEDUCED, log 90). -/
def State.settings (k : Nat) (s : State) (f : Nat) : State :=
  let u := s.shuntReq k (2 * f)
  let l := s.shuntReq k (2 * f + 1)
  let n := 24 * k + 2 * f
  let su := u - l
  let sl := l - u
  let s1 := s.setCore n { s.core n with shunt := su, burn := s.burnCount k (2 * f) su }
  s1.setCore (n + 1) { s1.core (n + 1) with shunt := sl, burn := s.burnCount k (2 * f + 1) sl }

/-- The registers that a cluster's next sample begins with (R344). -/
def Cluster.latch (c : Cluster) (now : Nat) : Cluster :=
  { c with sampledAt := some now, inForce := { balth := c.balth, baltt := c.baltt, baldly := c.baldly, dampmin := c.dampmin } }

/-- BALANCE_SAMPLE, every 50 ns of the global timer: readings, counts, traps, dampers, settings (R343, R351) (DEDUCED, log 90). -/
def execBalanceSample (k : Nat) (raw : List Int) (s : State) : Host.Outcome State Fault Refusal :=
  if s.time % 50 ≠ 0 ∨ (s.cluster k).sampledAt = some s.time then .next s
  else
    let s1 := s.setCluster k (s.readings k raw).counts
    let s2 := ((List.range 12).foldl (State.flueTrap k) s1).clusterTrap k
    let s3 := (List.range 24).foldl (State.dampSample k) s2
    let s4 := (List.range 12).foldl (State.settings k) s3
    .next (s4.setCluster k ((s4.cluster k).latch s.time))

/-- A tick of one core's dampers; a tick of a held one only ends the hold (R353). -/
def State.dampTick (k : Nat) (s : State) (i : Nat) : State :=
  let c := s.cluster k
  let x := s.core (24 * k + i)
  let due (d : Damper) : Bool := d.tick.any (· ≤ s.time)
  let again (d : Damper) : Damper := { d with tick := d.tick.map (· + 1000) }
  let fEnd := x.holdFlue && due x.flueD && decide (c.dly ≤ c.flLow.toList.getD (i / 2) 0)
  let cEnd := x.holdClus && due x.clusD && decide (c.dly ≤ c.clLow)
  let f (d : Damper) (held ex : Bool) : Damper := if !due d then d else if held then again d else d.step ex c.minDen (d.tick.getD s.time)
  s.setCore (24 * k + i) { x with
    flueD := f x.flueD x.holdFlue (c.flueEx i), clusD := f x.clusD x.holdClus (c.clusEx i)
    holdFlue := x.holdFlue && !fEnd, holdClus := x.holdClus && !cEnd }

def execDamperTick (k : Nat) (s : State) : Host.Outcome State Fault Refusal := .next ((List.range 24).foldl (State.dampTick k) s)

/-! ## Half-active flues (R354) -/

/-- HALF_ACTIVE_FLUE: a team of the partition for the empty core, or its loop, or nothing. -/
def execHalfActiveFlue (cluster flue : Nat) (s : State) : Host.Outcome State Fault Refusal :=
  let u := 24 * cluster + 2 * flue
  let act (n mate : Nat) : State :=
    match (s.teamsOn mate).head?, (s.teamsOn mate).head?.bind fun t => s.grid? t.grid with
    | some t, some g =>
      match (s.rivals n).find? fun r => r.1.part == g.part && s.firstAt r.1 n && (s.roomFor r.1 r.2).any (·.core == n) with
      | some r => (s.placeAll r.1.id (s.companions r.1 r.2)).getD s
      | none => if t.burnAuto || g.alone then s.setCore n { s.core n with loop := true } else s
    | _, _ => s
  .next (if (s.teamsOn u).isEmpty then act u (u + 1) else if (s.teamsOn (u + 1)).isEmpty then act (u + 1) u else s)

/-! ## Body bias and frequency (R355, R356) -/

/-- One 25 mV step toward a target. -/
def biasStep (x t : Int) : Int := if x < t then x + 1 else if t < x then x - 1 else x

def execBodyBiasStep (k : Nat) (s : State) : Host.Outcome State Fault Refusal :=
  let c := s.cluster k
  .next (s.setCluster k { c with
    biasUp := biasStep c.biasUp (c.bias.extractLsb' 0 5).toInt, biasLo := biasStep c.biasLo (c.bias.extractLsb' 8 5).toInt })

/-- A cluster with a ceiling: its frequency is lowered at once where the ceiling lies below it, and a step on the way ends no higher. The
cluster issues at the lower of the two frequencies of a transition (R356). -/
def Cluster.withCeil (c : Cluster) (now ceil : Nat) : Cluster :=
  { c.setFreq now (min c.freq ceil) with
    ceil := ceil
    transition := if ceil < c.freq then some ceil else c.transition.map (min ceil) }

/-- FREQUENCY_INTERVAL: the ceiling from the interval's counts; an interval without activity keeps it. -/
def execFrequencyInterval (k : Nat) (s : State) : Host.Outcome State Fault Refusal :=
  let c := s.cluster k
  let ceil := if c.passes + c.instrs = 0 then c.ceil else if c.passes + c.instrs ≤ 4 * c.passes then 1650 else 2100
  .next (s.setCluster k { c.withCeil s.time ceil with passes := 0, instrs := 0 })

/-- FREQUENCY_STEP: up by 50 MHz within the design power; the transition begins. -/
def execFrequencyStep (k : Nat) (headroom : Bool) (s : State) : Host.Outcome State Fault Refusal :=
  let c := s.cluster k
  .next (if c.ceil < c.freq then s.setCluster k (c.withCeil s.time c.ceil)
    else if headroom && c.transition.isNone && decide (c.freq + 50 ≤ c.ceil) then s.setCluster k { c with transition := some (c.freq + 50) }
    else s)

/-- FREQUENCY_TRANSITION_END: the cluster issues at the new frequency. -/
def execFrequencyTransitionEnd (k : Nat) (s : State) : Host.Outcome State Fault Refusal :=
  let c := s.cluster k
  .next (s.setCluster k { c.setFreq s.time (c.transition.getD c.freq) with transition := none })

/-! ## Thermal states (R337, R361) -/

def thermalCode : Thermal → Nat
  | .normal => 0
  | .hot => 1
  | .cap => 2

/-- The state that a temperature in °C sets: a state is entered at its threshold and left 3 °C below it. -/
def thermalAt (x : Thermal) (t : Int) : Thermal :=
  let cap : Int := if x = .cap then 92 else 95
  let hot : Int := if x = .normal then 85 else 82
  if cap ≤ t then .cap else if hot ≤ t then .hot else .normal

/-- THERMAL_STATE_CHANGE: where the base die reads a temperature that sets the new state, the time in the old one is counted, and every
control core gets a record (DESIGN CHOICE, log 103). -/
def execThermalStateChange (stack : Nat) (next : Thermal) (s : State) : Host.Outcome State Fault Refusal :=
  let x := s.stk stack
  if x.thermal == next || thermalAt x.thermal (Config.temperature stack s.time) != next then .next s
  else
    let t := x.times s.time
    let s1 := s.setStk stack { thermal := next, since := s.time, hotNs := t.1, capNs := t.2 }
    .next ((List.range 16).foldl (fun u k => u.postSystem k (mkRecord 0 stack 0xFFF 0xFF 3 (thermalCode next))) s1)

end Sys2Proof.Machine
end

