-- ==== Sys2Proof/Machine/CrossLane.lean ====
section
/-! DEFINITION. Registers II: the cross-lane instructions (R116-R121). -/

namespace Sys2Proof.Machine

/-- Lane `j` of A, or of the pair for TY 14; source lanes are read whether or not they are active (R116). -/
def Group.srcLane (g : Group) (wide : Bool) (a : RegNo) (j : Nat) : Nat :=
  if wide then (g.lane64 a.toNat j).toNat else (lane (g.reg a.toNat) j).toNat

/-- The type whose lanes a cross-lane instruction moves (R116). -/
def moveTy (wide : Bool) : Ty := if wide then .s64 else .b32

def execShfl (wide : Bool) (mode : ShflMode) (d a : RegNo) (b : Opnd) (fill : Option Opnd) (nr : Bool) (s : State) :
    Host.Outcome State Fault Refusal :=
  s.checked (.shfl wide mode d a b fill nr) fun s =>
    let g := s.run
    s.lanesDone (.shfl wide mode d a b fill nr) (moveTy wide) d {}
      (fun t =>
        let k : Int := (g.op32 b t).toNat
        let j : Int := match mode with
          | .idx => k
          | .xor => (t ^^^ (g.op32 b t).toNat : Nat)
          | .up => t - k
          | .dn => t + k
        (if 0 ≤ j ∧ j ≤ 31 then g.srcLane wide a j.toNat
         else match fill with
           | some c => g.oN (moveTy wide) c t
           | none => g.srcLane wide a (j % 32).toNat, false)) g.cyc

/-- Element `i` of a register or pair cut into pieces of `w` bits, for SLIDE (R118). -/
def Group.slideEl (g : Group) (wide : Bool) (w : Nat) (a : RegNo) (i : Nat) : Nat :=
  if wide then (g.lane64 a.toNat i).toNat else (g.reg a.toNat).toNat / 2 ^ (w * i) % 2 ^ w

/-- Bits of an element at a granularity (R118). -/
def granW (wide : Bool) : Gran → Nat
  | .w => if wide then 64 else 32
  | .h => 16
  | .b => 8

/-- Element `i` of the neighbour: of register B, or the scalar's low bits in every element (R118). -/
def Group.slideNext (g : Group) (wide : Bool) (w : Nat) (b : Opnd) (i : Nat) : Nat :=
  match b with
  | .v r => g.slideEl wide w r i
  | .s p => (g.pos p).toNat % 2 ^ w

def execSlide (wide : Bool) (up : Bool) (gran : Gran) (d a : RegNo) (b : Opnd) (k : BitVec 5) (nr : Bool) (s : State) :
    Host.Outcome State Fault Refusal :=
  s.checked (.slide wide up gran d a b k nr) fun s =>
    let g := s.run
    let w := granW wide gran
    let n := if wide then 32 else 1024 / w
    let per := if wide then 1 else 32 / w
    let n' := k.toNat
    let x (i : Nat) : Nat :=
      if up then (if n' ≤ i then g.slideEl wide w a (i - n') else g.slideNext wide w b (n + i - n'))
      else (if i + n' < n then g.slideEl wide w a (i + n') else g.slideNext wide w b (i + n' - n))
    s.lanesDone (.slide wide up gran d a b k nr) (moveTy wide) d {}
      (fun t => mapEls w (fun e => (x (per * t + e), false)) per) g.cyc

def execBcst (wide : Bool) (d a : RegNo) (sel : BcstSel) (nr : Bool) (s : State) : Host.Outcome State Fault Refusal :=
  s.checked (.bcst wide d a sel nr) fun s =>
    let g := s.run
    let j := match sel with
      | .lane k => k.toNat
      | .sca p => (g.pos p).toNat % 32
      | .first => (activeLanes g.em).headD 0
    s.lanesDone (.bcst wide d a sel nr) (moveTy wide) d {} (fun _ => (g.srcLane wide a j, false)) g.cyc

/-- The identity of a reduction over elements of a type (R120). -/
def redInit (t : Ty) (op : RedOp) : Int :=
  match op with
  | .add | .or | .xor => 0
  | .and => 2 ^ elW t - 1
  | .min => if elSigned t then 2 ^ (elW t - 1) - 1 else 2 ^ elW t - 1
  | .max => if elSigned t then -(2 ^ (elW t - 1)) else 0

/-- One step of a reduction: exact for add, on the element's bits for the logical operations (R120). -/
def redStep (t : Ty) (op : RedOp) (acc x : Int) : Int :=
  let bits (y : Int) : Nat := wrapInt (elW t) y
  match op with
  | .add => acc + x
  | .min => min acc x
  | .max => max acc x
  | .and => (bits acc &&& bits x : Nat)
  | .or => (bits acc ||| bits x : Nat)
  | .xor => (bits acc ^^^ bits x : Nat)

/-- The reduction of element `e` over the given lanes, in order. -/
def Group.reduce (g : Group) (t : Ty) (op : RedOp) (a : RegNo) (e : Nat) (ls : List Nat) : Int :=
  ls.foldl (fun acc l => redStep t op acc (el t (g.aN t a {} l) e)) (redInit t op)

def execGred (ty : Ty) (op : RedOp) (sat : Bool) (d : RedDst) (a : RegNo) (nr : Bool) (s : State) :
    Host.Outcome State Fault Refusal :=
  s.checked (.gred ty op sat d a nr) fun s =>
    let g := s.run
    let r := mapLane ty fun e => fit ty sat (g.reduce ty op a e (activeLanes g.em))
    match d with
    | .v v => s.lanesDone (.gred ty op sat d a nr) ty v {} (fun _ => r) g.cyc
    | .s sd =>
      if g.em = 0 then s.done g g.cyc
      else
        let x : Word := if ty = .s32 then sext64 32 r.1 else BitVec.ofNat 64 r.1
        s.done { g.setS sd x with fsr := g.fsr ||| (if r.2 then fSAT else 0) } g.cyc

/-- Each active lane gets the reduction of the active lanes up to it, or before it with `.excl` (R120). -/
def execGscn (ty : Ty) (op : RedOp) (sat excl : Bool) (d a : RegNo) (nr : Bool) (s : State) :
    Host.Outcome State Fault Refusal :=
  s.checked (.gscn ty op sat excl d a nr) fun s =>
    let g := s.run
    s.lanesDone (.gscn ty op sat excl d a nr) ty d {}
      (fun l =>
        let ls := (activeLanes g.em).filter fun k => if excl then k < l else k ≤ l
        mapLane ty fun e => fit ty sat (g.reduce ty op a e ls)) g.cyc

/-- Byte `i` of the 256-byte table of PERM: A's bytes, then B's (R121). -/
def Group.permByte (g : Group) (a b : RegNo) (i : Nat) : Nat :=
  if i < 128 then (g.reg a.toNat).toNat / 2 ^ (8 * i) % 256 else (g.reg b.toNat).toNat / 2 ^ (8 * (i - 128)) % 256

def execPerm (byte zero : Bool) (d a b c : RegNo) (nr : Bool) (s : State) : Host.Outcome State Fault Refusal :=
  s.checked (.perm byte zero d a b c nr) fun s =>
    let g := s.run
    s.lanesDone (.perm byte zero d a b c nr) .b32 d {}
      (fun t =>
        let x := (lane (g.reg c.toNat) t).toNat
        if byte then mapEls 8 (fun e => (g.permByte a b (x / 2 ^ (8 * e) % 256), false)) 4
        else
          let j := x % 64
          let entry := if j < 32 then (lane (g.reg a.toNat) j).toNat else (lane (g.reg b.toNat) (j - 32)).toNat
          (if 64 ≤ x ∧ zero then 0 else entry, false)) g.cyc

end Sys2Proof.Machine
end

