-- ==== Sys2Proof/Machine/Fetch.lean ====
section
/-! DEFINITION. The fetch of a whole clause and its checks (R49-R51, R69, R72, R73). -/

namespace Sys2Proof.Machine

/-- A selector that a control or scheduler core reserves (R173, R182); a scheduler core belongs to no cluster, so that the cluster's
registers are reserved there as well (DEDUCED, log 71). -/
def Sel.reserved (k : AgentKind) (sel : Sel) : Bool :=
  match k with
  | .compute => false
  | .control _ => [.lane, .core, .flue, .tier, .flmis, .clmis, .ctl .rm, .ctl .fte, .ctl .mmode, .ctl .burnauto, .ctl .shuntauto].contains sel
  | .scheduler _ => [.lane, .core, .flue, .tier, .flmis, .clmis, .cluster, .ctl .rm, .ctl .fte, .ctl .mmode, .ctl .burnauto,
      .ctl .shuntauto, .ctl .balth, .ctl .baltt, .ctl .baldly, .ctl .dampmin, .ctl .bias].contains sel

/-- A word that names a selector or a control register which its core reserves (DEDUCED, log 71), or a plain HALT on a compute core (R402). -/
def reservedOn (k : AgentKind) : Instr → Bool
  | .srd sel _ _ => Sel.reserved k sel
  | .swr _ c _ _ => Sel.reserved k (.ctl c)
  | .halt => k == .compute
  | _ => false

/-- Checks 4a to 4d on one word of a clause of class `e`: the cause of the first that fails (R72). -/
def wordFault (k : AgentKind) (sup : Bool) (e : Eng) (w : Word) : Option Nat :=
  match decode w with
  | .error .illop => some cILLOP
  | r =>
    if k != .compute && !controlAdmits (opcode w) then some cILLOP
    else if !e.admits (opcode w) then some cILLCLS
    else if privileged w && !sup then some cPRIV
    else match r with
      | .ok i => if reservedOn k i then some cILLENC else none
      | .error _ => some cILLENC

/-- Check 4 on the words of a clause from index `i`: the first failing index and its cause. `sys` says that a system opcode has gone
before; check 4e asks that it and control transfers stand last. -/
def codeFault (k : AgentKind) (sup : Bool) (e : Eng) (sys : Bool) (i : Nat) : List Word → Option (Nat × Nat)
  | [] => none
  | w :: ws =>
    let isSys := decide (0xA0 ≤ opcode w ∧ opcode w ≤ 0xA7)
    match wordFault k sup e w with
    | some c => some (i, c)
    | none =>
      if (mustBeLast (opcode w) && !ws.isEmpty) || (isSys && sys) then some (i, cILLCLS)
      else codeFault k sup e (sys || isSys) (i + 1) ws

/-- Reads `n` words of code from an address: the words, or the index of the first that cannot be read, with cause and level. -/
def State.codeWords (s : State) (va : Addr) (i : Nat) : Nat → State × Except (Nat × Nat × Nat) (List Word)
  | 0 => (s, .ok [])
  | n + 1 =>
    match s.codeWord va with
    | (s1, .error e) => (s1, .error (i, e))
    | (s1, .ok w) =>
      match s1.codeWords (va + 8) (i + 1) n with
      | (s2, .error e) => (s2, .error e)
      | (s2, .ok ws) => (s2, .ok (w :: ws))

/-- Where the running group enters its next clause: word 0 after the flags, or a word of an interrupted clause. A group that was
saved while it waited at a word and whose wait has ended goes on at the next one (R374, R375). -/
def Group.entryWord (g : Group) : Option Nat := g.resume.map (· + g.word)

/-- A fetch fault: it names the header, the first failing word (31 for the header) and the cause, and resumes where the group was to
enter (R72, R374) (DEDUCED, log 70). -/
def Group.fetchFault (g : Group) (cause idx addr info : Nat) : Trap :=
  ⟨cause, g.pc, idx, addr, info, 0, g.pc, g.entryWord.getD 31⟩

/-- THE FETCH of the running group's next clause, with every check of R72 in its order (DEDUCED, log 70). -/
def State.fetch (s : State) : State × Except Trap Clause :=
  let g := s.run
  match s.codeWord g.pc with
  | (s1, .error e) => (s1, .error (g.fetchFault e.1 31 g.pc.toNat e.2))
  | (s1, .ok hw) =>
    match s1.codeWords (g.pc + 8) 0 ((fld hw 53 4).toNat + 1) with
    | (s2, .error (i, c, l)) => (s2, .error (g.fetchFault c i (g.pc + 8 + 8 * BitVec.ofNat 56 i).toNat l))
    | (s2, .ok ws) =>
      match decodeHeader hw with
      | none => (s2, .error (g.fetchFault cILLCLS 31 0 0))
      | some h =>
        if h.eng == .system && !s2.isSup g then (s2, .error (g.fetchFault cPRIV 31 0 0))
        else
          match codeFault g.kind (s2.isSup g) h.eng false 0 ws with
          | some (i, c) => (s2, .error (g.fetchFault c i 0 0))
          | none => (s2, .ok ⟨g.pc, h, ws⟩)

/-- The next clause of the running agent: as it was fetched when it became the next one, or as it is fetched now where the agent has come
here another way (R72) (DEDUCED, log 108). -/
def State.nextClause (s : State) : State × Except Trap Clause :=
  match s.run.ahead with
  | some c => if s.run.resume.isNone && c.hdr == s.run.pc then (s, .ok c) else s.fetch
  | none => s.fetch

/-- The instruction that the agent is at, in its open clause. -/
def Group.instr (g : Group) : Option Instr :=
  match g.clause with
  | none => none
  | some c =>
    match c.code[g.word]? with
    | none => none
    | some w =>
      match decode w with
      | .ok i => some i
      | .error _ => none

/-- A word of a memory instruction: those of R232's table (R242, R250, R256) (DEDUCED, log 72). -/
def memoryWord (w : Word) : Bool :=
  opcode w == 0x1E || opcode w == 0x1F || opcode w == 0x73 || (0x60 ≤ opcode w && opcode w ≤ 0x6A)

/-- A clause holds a memory instruction (R206) (DEDUCED, log 72). -/
def Clause.memory (c : Clause) : Bool := c.code.any memoryWord

/-- A long-latency operation that a memory clause of a group issued is outstanding: its loads, and the commands and matrix requests of such a
clause, from the number `memFrom` on (R53, R206). -/
def State.memBusy (s : State) (g : Group) : Bool :=
  let cmd (c : Cmd) : Bool := c.gid == g.gid && c.mem && decide (g.memFrom ≤ c.ord)
  g.loads.any (fun o => decide (g.memFrom ≤ o.id)) || s.engines.any (fun e => e.2.cmds.any cmd) || s.patch.any (fun p => p.2.any cmd)
    || s.matrix.any fun m => m.2.table.any fun x => x.gid == g.gid && x.mem && decide (g.memFrom ≤ x.ord)

/-- A group has a memory clause in flight (R206). -/
def State.inFlight (s : State) (g : Group) : Bool := (g.memClause && g.clause.isSome) || s.memBusy g

/-- The memory-issue limit of its core keeps a group from issuing a clause (R26, R206). -/
def State.limited (s : State) (g : Group) (c : Clause) : Bool :=
  g.kind == .compute && c.memory && !s.inFlight g
    && decide ((s.core g.core).limit ≤ s.allGroups.countP fun x => x.kind == .compute && x.core == g.core && s.inFlight x)

end Sys2Proof.Machine
end

