-- ==== Sys2Proof/Machine/Debug.lean ====
section
/-! DEFINITION. Counters II: DBRK and SNAP, snapshots and counter reads from the host, stall samples, the timer (R360-R371). -/

namespace Sys2Proof.Machine

/-! ## DBRK and SNAP (R371) -/

/-- DBRK: the group stops at the end of the clause; an earlier cause of the clause stands. -/
def execDbrk (code : BitVec 8) (_nr : Bool) (s : State) : Host.Outcome State Fault Refusal :=
  .next (s.done { s.run with pend := s.run.pend.or (some (.brk code.toNat)) } 1)

/-- SNAP is permitted at supervisor level, and in a context whose descriptor sets SNAPOK. -/
def State.snapOk (s : State) : Bool := s.sup || (s.desc s.run.part s.run.ctx)[10].getLsbD 50

/-- SNAP: where it is permitted, a trigger that finds ARM = 1 or falls into the tick of the latest snapshot; sd has the status and GEN
(DEDUCED, log 65). -/
def execSnap (d : SReg) (_nr : Bool) (s : State) : Host.Outcome State Fault Refusal :=
  let st : Nat := if !s.snapOk then 2 else if s.dev.snap.arm || s.dev.snapAt = some s.time then 0 else 1
  let s1 := if st = 0 then s.snapTrigger 1 else s
  .next (s1.done (s1.run.setS d (s1.dev.snap.gen ++ BitVec.ofNat 32 st)) 1)

/-! ## The host's reads and triggers (R362, R366) -/

/-- A message leaves the device. -/
def State.send (s : State) (m : OutMsg) : State := { s with dev := { s.dev with out := s.dev.out ++ [m] } }

/-- A host's read through BAR0: before READY it gives zero and has no effect (R415). -/
def State.hostReads (s : State) (r : State × Word) : State := if s.dev.ready then r.1.send (.regData r.2) else s.send (.regData 0)

def execHostSnapshotTrigger (s : State) : Host.Outcome State Fault Refusal := .next (if s.dev.ready then s.snapTrigger 8 else s)

/-- The status word is read, and LOST is cleared. -/
def execSnapshotStatusRead (s : State) : Host.Outcome State Fault Refusal :=
  .next (s.hostReads ({ s with dev := { s.dev with snap := { s.dev.snap with lost := 0 } } }, s.dev.snap.word))

def execSnapshotArm (s : State) : Host.Outcome State Fault Refusal :=
  .next (if s.dev.ready then { s with dev := { s.dev with snap := { s.dev.snap with arm := true } } } else s)

def execCounterLowRead (block : CtrBlock) (i : Nat) (s : State) : Host.Outcome State Fault Refusal :=
  .next (s.hostReads (s.ctrLow block i))

def execCounterHighRead (block : CtrBlock) (i : Nat) (s : State) : Host.Outcome State Fault Refusal :=
  .next (s.hostReads (s, s.ctrHigh block i))

/-! ## Stall samples (R364) -/

/-- A period of `n` cycles of a cluster's clock ends in the nanosecond that leads to time `t`. -/
def periodEnds (c : Cluster) (n t : Nat) : Bool := c.cycles t / n != c.cycles (t - 1) / n

/-- The contexts with a resident group on a core whose sampling period ends at a time. -/
def State.sampled (s : State) (n t : Nat) : List (Nat × Nat) :=
  (((s.coreGroups n).map fun g => (g.part, g.ctx)).dedup).filter fun x =>
    let sp := bitsOf (s.desc x.1 x.2)[10] 44 5
    sp != 0 && periodEnds (s.cluster (n / 24)) (2 ^ sp) t

/-- The oldest operation that counts on one of a list of a group's flags: the address of its word, and the SRC of its engine. -/
def State.blamed (s : State) (g : Group) (flags : List Nat) : Option (Addr × Nat) :=
  let on (a b : BitVec 4) : Bool := flags.contains a.toNat || flags.contains b.toNat
  let ls := (g.loads.filter fun o => on o.seta o.setb).map fun o => (o.id, o.pc, 0xFF)
  let cs := ((s.engines.flatMap (·.2.cmds) ++ s.patch.flatMap (·.2)).filter fun c => c.gid == g.gid && on c.seta c.setb).map fun c =>
    (c.ord, c.pc, c.src)
  let ms := (s.allMx.filter fun x => x.gid == g.gid && on x.seta x.setb).map fun x => (x.ord, x.pc, 0xFF)
  (ls ++ cs ++ ms).foldl (fun (b : Option (Nat × Addr × Nat)) x => match b with
    | none => some x
    | some y => if x.1 < y.1 then some x else b) none |>.map (·.2)

/-- The flags that the group's next clause waits for and that are pending (R26). -/
def State.pendingFlags (s : State) (g : Group) : List Nat :=
  match g.clause, g.resume with
  | none, none =>
    match (s.ctxTranslate g.part g.ctx g.pc.toNat .ex (s.isSup g)).2 with
    | .ok pa => match decodeHeader (Memory.word s.mem pa) with
      | some h => (List.range 12).filter fun i => h.wait.getLsbD i && (g.cf.toList.getD i {}).pending
      | none => []
    | .error _ => []
  | _, _ => []

/-- The memory-issue limit keeps a group from its next clause (R206). -/
def State.limitedNext (s : State) (g : Group) : Bool :=
  match ({ s with active := true, run := g } : State).nextClause.2 with
  | .ok c => g.clause.isNone && s.limited g c
  | .error _ => false

/-- The operation that has still to write a register which the instruction at hand reads or writes (R25, R364). -/
def Group.awaited (g : Group) : Option LoadOp := g.instr.bind fun i => g.loads.find? fun o => o.writes g i

/-- The core and the pipe of an agent, as CLAUSE_SELECT names them: the control cores follow the cores, and the scheduler cores them. -/
def Group.pipe (g : Group) : Nat × Nat :=
  match g.kind with
  | .compute => (g.core, g.slot / 2)
  | .control k => (384 + k, 0)
  | .scheduler i => (400 + i, 0)

/-- An agent that stalls at an instruction of its clause holds its pipe: a clause runs to its end without a group switch (R25, R211). -/
def Group.holdsPipe (g : Group) : Bool := g.wait == .stall && g.clause.isSome

/-- WHY, and the blamed operation (R364). An agent that holds its pipe at an instruction for another reason than a register counts as issuing
(DESIGN CHOICE, log 104). -/
def State.why (s : State) (g : Group) : Nat × Option (Addr × Nat) :=
  let fs := s.pendingFlags g
  let c := s.core g.core
  if g.isStopped then (9, none)
  else if c.held then (7, none)
  else
    match g.wait with
    | .bar _ _ => (3, none)
    | .evwt _ _ _ _ _ _ _ _ _ _ => (4, none)
    | .nap _ => (4, none)
    | .stall => match g.awaited with
      | some o => (1, some (o.pc, 0xFF))
      | none => (0, none)
    | _ =>
      if !fs.isEmpty then (2, s.blamed g fs)
      else if s.limitedNext g then (5, none)
      else if 1 < c.den || (s.team? g.teamKey).any (·.ceil < 32) then (6, none)
      else if (s.coreGroups g.core).any fun h => h.gid != g.gid && h.pipe == g.pipe && (h.holdsPipe || (s.active && h.gid == s.run.gid)) then (8, none)
      else (0, none)

/-- A stall sample record. -/
def State.sampleRecord (s : State) (g : Group) : BitVec 256 :=
  let w := s.why g
  let wpc : Addr := if g.clause.isSome then g.wordAddr else g.pc + 8 + 8 * BitVec.ofNat 56 (g.resume.getD 0)
  let b := w.2.getD (0, 0xFF)
  let l := s.launchOf g
  BitVec.ofNat 256 (s.time % 2 ^ 64 * 2 ^ 192 + wpc.toNat * 2 ^ 136 + w.1 * 2 ^ 128 + b.1.toNat * 2 ^ 72 + b.2 * 2 ^ 64
    + l.1 % 2 ^ 12 * 2 ^ 52 + l.2 % 2 ^ 32 * 2 ^ 20 + g.slot * 2 ^ 14 + g.core * 2 ^ 5)

/-- The resident groups of a context on a core, in slot order from the one after the last sampled. -/
def State.samplable (s : State) (n part ctx : Nat) : List Group :=
  let gs := ((s.coreGroups n).filter fun g => g.part == part && g.ctx == ctx && g.run != .ended).mergeSort fun a b => a.slot ≤ b.slot
  let k := Tbl.get 0 (s.core n).sampler (ctxKey part ctx)
  gs.filter (k ≤ ·.slot) ++ gs.filter (·.slot < k)

/-- A record goes to the sample ring of a context, or is dropped and counted where the ring is full. The spec gives no place for the
reader's position: past the first round a free value says whether the ring is full (DESIGN CHOICE, log 67). -/
def State.putSample (s : State) (g : Group) : State :=
  match s.ctx? g.part g.ctx with
  | none => s
  | some c =>
    let n := 2 ^ bitsOf c.desc[11] 0 5 / 32
    if n ≤ c.samples && Config.ringFull (ctxKey g.part g.ctx) c.samples then s.setCore g.core ((s.core g.core).count 0x0C g.part g.ctx 1)
    else
      let a := bitsOf c.desc[11] 12 40 * 2 ^ 12 + 32 * (c.samples % n)
      { s with mem := Memory.write s.mem a (leBytes (s.sampleRecord g).toNat 32) }.setCtx g.part g.ctx { c with samples := c.samples + 1 }

/-- A context's next group on a core is sampled. -/
def State.sampleNext (n : Nat) (s : State) (x : Nat × Nat) : State :=
  match s.samplable n x.1 x.2 with
  | [] => s
  | g :: _ =>
    let c := s.core n
    (s.setCore n { c with sampler := Tbl.put c.sampler (ctxKey x.1 x.2) ((g.slot + 1) % 64) }).putSample g

/-- STALL_SAMPLE: each context whose period ends now samples its next group of the core in rotation. -/
def execStallSample (n : Nat) (s : State) : Host.Outcome State Fault Refusal := .next ((s.sampled n s.time).foldl (State.sampleNext n) s)

/-! ## The global timer (R365) -/

def execTimerForwardStep (ns : Nat) (s : State) : Host.Outcome State Fault Refusal := .next { s with time := s.time + ns }

end Sys2Proof.Machine
end

