-- ==== Sys2Proof/Machine/Float.lean ====
section
/-! DEFINITION. Registers III: floating point, conversion and exact accumulation (R140-R166). -/

namespace Sys2Proof.Machine

/-! ## Elements and completion (R142, R143) -/

/-- A lane built from elements of `w` bits, with the flags that they raise. -/
def mapF (w : Nat) (f : Nat → Nat × Nat) : Nat → Nat × Nat
  | 0 => (0, 0)
  | n + 1 =>
    let r := mapF w f n
    let x := f n
    (r.1 + x.1 % 2 ^ w * 2 ^ (w * n), r.2 ||| x.2)

/-- A lane of a type built from its elements. -/
def laneF (t : Ty) (f : Nat → Nat × Nat) : Nat × Nat := mapF (elW t) f t.elems

/-- The flags of the active lanes, ORed (R142). -/
def Group.flagsOf (g : Group) (f : Nat → Nat × Nat) : Lane :=
  BitVec.ofNat 32 ((activeLanes g.em).foldl (fun n l => n ||| (f l).2) 0)

/-- The sequence count after an instruction with an effective mode (R133, R143). -/
def Group.drew (g : Group) (rm : Rm) : Group := if rm = .rsr then { g with srSeq := g.srSeq + 1 } else g

/-- An instruction that gives every active lane a floating-point value completes (R142, R143). -/
def State.floatDone (s : State) (i : Instr) (t : Ty) (d : RegNo) (m : VMode) (rm : Rm) (f : Nat → Nat × Nat) (cyc : Nat) :
    State :=
  let g := s.run
  let s1 := s.vecDone i
    (if t.isPair then g.put64 d m fun l => BitVec.ofNat 64 (f l).1 else g.put32 d m fun l => BitVec.ofNat 32 (f l).1)
    (g.flagsOf f) cyc
  { s1 with run := s1.run.drew rm }

/-- The reading of element `e` of operand A or of another operand in lane `l`. -/
def Group.fa (g : Group) (t : Ty) (a : RegNo) (m : VMode) (l e : Nat) : FVal := (fmtOf t).read (elBits t (g.aN t a m l) e)
def Group.fo (g : Group) (t : Ty) (o : Opnd) (l e : Nat) : FVal := (fmtOf t).read (elBits t (g.oN t o l) e)

/-- The stochastic word of element `e` of lane `l` of the running group (R133). -/
def State.sr (s : State) (l e : Nat) : Nat := s.run.srWord s.launchKey l e

/-- An elementwise operation of two operands (R142). -/
def State.float2 (s : State) (i : Instr) (t : Ty) (rm : Rm) (d a : RegNo) (b : Opnd) (m : VMode)
    (op : Rm → Nat → FVal → FVal → Nat × Nat) (cyc : Nat) : State :=
  let g := s.run
  let r := g.rmOf rm
  s.floatDone i t d m r (fun l => laneF t fun e => op r (s.sr l e) (g.fa t a m l e) (g.fo t b l e)) cyc

/-- An elementwise operation of one operand (R154). -/
def State.float1 (s : State) (i : Instr) (t : Ty) (rm : Rm) (d a : RegNo) (m : VMode)
    (op : Rm → Nat → FVal → Nat × Nat) : State :=
  let g := s.run
  let r := g.rmOf rm
  s.floatDone i t d m r (fun l => laneF t fun e => op r (s.sr l e) (g.fa t a m l e)) (g.cycN 4)

/-- Multiply-add with its negations (R148). -/
def State.float3 (s : State) (i : Instr) (t : Ty) (rm : Rm) (sat negp negc : Bool) (d a : RegNo) (b c : Opnd) (m : VMode)
    (cyc : Nat) : State :=
  let g := s.run
  let r := g.rmOf rm
  s.floatDone i t d m r
    (fun l => laneF t fun e =>
      (fmtOf t).fma r sat (s.sr l e) ((g.fa t a m l e).negIf negp) (g.fo t b l e) ((g.fo t c l e).negIf negc)) cyc

/-! ## Arithmetic (R147-R150) -/

def execFadd (ty : Ty) (rm : Rm) (sat : Bool) (d a : RegNo) (b : Opnd) (m : VMode) (s : State) :
    Host.Outcome State Fault Refusal :=
  s.checked (.fadd ty rm sat d a b m) fun s =>
    s.float2 (.fadd ty rm sat d a b m) ty rm d a b m (fun r w x y => (fmtOf ty).add r sat w x y) s.run.cyc

def execFsub (ty : Ty) (rm : Rm) (sat : Bool) (d a : RegNo) (b : Opnd) (m : VMode) (s : State) :
    Host.Outcome State Fault Refusal :=
  s.checked (.fsub ty rm sat d a b m) fun s =>
    s.float2 (.fsub ty rm sat d a b m) ty rm d a b m (fun r w x y => (fmtOf ty).add r sat w x (y.negIf true)) s.run.cyc

def execFmul (ty : Ty) (rm : Rm) (sat : Bool) (d a : RegNo) (b : Opnd) (m : VMode) (s : State) :
    Host.Outcome State Fault Refusal :=
  s.checked (.fmul ty rm sat d a b m) fun s =>
    s.float2 (.fmul ty rm sat d a b m) ty rm d a b m (fun r w x y => (fmtOf ty).mul r sat w x y) s.run.cyc

def execFfma (ty : Ty) (rm : Rm) (sat negp negc : Bool) (d a : RegNo) (b c : Opnd) (m : VMode) (s : State) :
    Host.Outcome State Fault Refusal :=
  s.checked (.ffma ty rm sat negp negc d a b c m) fun s =>
    s.float3 (.ffma ty rm sat negp negc d a b c m) ty rm sat negp negc d a b c m s.run.cyc

def execFdiv (ty : Ty) (rm : Rm) (sat : Bool) (d a : RegNo) (b : Opnd) (m : VMode) (s : State) :
    Host.Outcome State Fault Refusal :=
  s.checked (.fdiv ty rm sat d a b m) fun s =>
    s.float2 (.fdiv ty rm sat d a b m) ty rm d a b m (fun r w x y => (fmtOf ty).div r sat w x y) (s.run.cycN 4)

def execDadd (sub : Bool) (rm : Rm) (sat : Bool) (d a : RegNo) (b : Opnd) (nr : Bool) (s : State) :
    Host.Outcome State Fault Refusal :=
  s.checked (.dadd sub rm sat d a b nr) fun s =>
    s.float2 (.dadd sub rm sat d a b nr) .f64 rm d a b {} (fun r w x y => fmtF64.add r sat w x (y.negIf sub)) (s.run.cycN 2)

def execDmul (rm : Rm) (sat : Bool) (d a : RegNo) (b : Opnd) (nr : Bool) (s : State) :
    Host.Outcome State Fault Refusal :=
  s.checked (.dmul rm sat d a b nr) fun s =>
    s.float2 (.dmul rm sat d a b nr) .f64 rm d a b {} (fun r w x y => fmtF64.mul r sat w x y) (s.run.cycN 2)

def execDfma (rm : Rm) (sat negp negc : Bool) (d a : RegNo) (b c : Opnd) (nr : Bool) (s : State) :
    Host.Outcome State Fault Refusal :=
  s.checked (.dfma rm sat negp negc d a b c nr) fun s =>
    s.float3 (.dfma rm sat negp negc d a b c nr) .f64 rm sat negp negc d a b c {} (s.run.cycN 2)

/-! ## Selection, comparison and classification (R151-R153) -/

/-- Cycles of FMIN, FCMP and FCLS (R140). -/
def Group.cycTy (g : Group) (t : Ty) : Nat := if t = .f64 then g.cycN 2 else g.cyc

def execFmin (ty : Ty) (op : FMinOp) (d a : RegNo) (b : Opnd) (m : VMode) (s : State) :
    Host.Outcome State Fault Refusal :=
  s.checked (.fmin ty op d a b m) fun s =>
    let g := s.run
    s.floatDone (.fmin ty op d a b m) ty d m .rne
      (fun l => laneF ty fun e => (fmtOf ty).minmax op (elBits ty (g.aN ty a m l) e) (elBits ty (g.oN ty b l) e)) (g.cycTy ty)

def execFcmp (ty : Ty) (cond : FCond) (d : CmpDst) (a : RegNo) (b : Opnd) (m : VMode) (s : State) :
    Host.Outcome State Fault Refusal :=
  s.checked (.fcmp ty cond d a b m) fun s =>
    let g := s.run
    let r (l e : Nat) : Bool × Nat := (fmtOf ty).compare cond (elBits ty (g.aN ty a m l) e) (elBits ty (g.oN ty b l) e)
    let f (l : Nat) : Nat × Nat := laneF ty fun e => ((elMask ty (r l e).1).1, (r l e).2)
    match d with
    | .mask k any =>
      s.maskDone k (fun l => if any then (List.range ty.elems).any fun e => (r l e).1
        else (List.range ty.elems).all fun e => (r l e).1) (g.flagsOf f) (g.cycTy ty)
    | .vec v => s.floatDone (.fcmp ty cond d a b m) ty v m .rne f (g.cycTy ty)

def execFcls (ty : Ty) (d : CmpDst) (a : RegNo) (set : SPos) (m : VMode) (s : State) :
    Host.Outcome State Fault Refusal :=
  s.checked (.fcls ty d a set m) fun s =>
    let g := s.run
    let c (l e : Nat) : Nat := (fmtOf ty).classOf (elBits ty (g.aN ty a m l) e)
    match d with
    | .mask k any =>
      let p (l e : Nat) : Bool := (g.pos set).getLsbD (c l e)
      s.maskDone k (fun l => if any then (List.range ty.elems).any (p l) else (List.range ty.elems).all (p l)) 0 (g.cycTy ty)
    | .vec v => s.floatDone (.fcls ty d a set m) ty v m .rne (fun l => laneF ty fun e => (c l e, 0)) (g.cycTy ty)

/-! ## Single-operand functions (R154) -/

def execFrcp (ty : Ty) (rm : Rm) (sat : Bool) (d a : RegNo) (m : VMode) (s : State) : Host.Outcome State Fault Refusal :=
  s.checked (.frcp ty rm sat d a m) fun s =>
    s.float1 (.frcp ty rm sat d a m) ty rm d a m fun r w x => (fmtOf ty).rcp r sat w x

def execFrsq (ty : Ty) (rm : Rm) (sat : Bool) (d a : RegNo) (m : VMode) (s : State) : Host.Outcome State Fault Refusal :=
  s.checked (.frsq ty rm sat d a m) fun s =>
    s.float1 (.frsq ty rm sat d a m) ty rm d a m fun r w x => (fmtOf ty).rsqrt r sat w x

def execFsqt (ty : Ty) (rm : Rm) (sat : Bool) (d a : RegNo) (m : VMode) (s : State) : Host.Outcome State Fault Refusal :=
  s.checked (.fsqt ty rm sat d a m) fun s =>
    s.float1 (.fsqt ty rm sat d a m) ty rm d a m fun r w x => (fmtOf ty).sqrt r sat w x

def execFex2 (ty : Ty) (rm : Rm) (sat : Bool) (d a : RegNo) (m : VMode) (s : State) : Host.Outcome State Fault Refusal :=
  s.checked (.fex2 ty rm sat d a m) fun s =>
    s.float1 (.fex2 ty rm sat d a m) ty rm d a m fun r w x => (fmtOf ty).exp2 r sat w x

def execFlg2 (ty : Ty) (rm : Rm) (sat : Bool) (d a : RegNo) (m : VMode) (s : State) : Host.Outcome State Fault Refusal :=
  s.checked (.flg2 ty rm sat d a m) fun s =>
    s.float1 (.flg2 ty rm sat d a m) ty rm d a m fun r w x => (fmtOf ty).log2 r sat w x

def execFtrg (ty : Ty) (rm : Rm) (sat cos : Bool) (d a : RegNo) (m : VMode) (s : State) :
    Host.Outcome State Fault Refusal :=
  s.checked (.ftrg ty rm sat cos d a m) fun s =>
    s.float1 (.ftrg ty rm sat cos d a m) ty rm d a m fun r w x => (fmtOf ty).trig r sat cos w x

/-! ## Conversions (R155-R159) -/

/-- Which source element goes to destination element `k`, where it is written at all (R155). -/
def placeEl (es ed e k : Nat) : Option Nat :=
  let n := min es ed
  if n < ed then
    if e * n ≤ k ∧ k < e * n + n then some (k - e * n) else none
  else some (if n < es then e * n + k else k)

/-- A conversion completes: destination elements that are not written keep their bits (R155). -/
def State.convDone (s : State) (i : Instr) (dst src : Ty) (rm : Rm) (d a : RegNo) (e : BitVec 3)
    (conv : Rm → Nat → Nat → Nat → Nat × Nat) (cyc : Nat) : State :=
  let g := s.run
  let r := g.rmOf rm
  s.floatDone i dst d {} r
    (fun l => laneF dst fun k =>
      match placeEl src.elems dst.elems e.toNat k with
      | none => (elBits dst (g.aN dst d {} l) k, 0)
      | some k' => conv r (s.sr l k) l (elBits src (g.aN src a {} l) k')) cyc

def execFcvt (dst src : Ty) (rm : Rm) (sat : Bool) (d a : RegNo) (e : BitVec 3) (nr : Bool) (s : State) :
    Host.Outcome State Fault Refusal :=
  s.checked (.fcvt dst src rm sat d a e nr) fun s =>
    s.convDone (.fcvt dst src rm sat d a e nr) dst src rm d a e
      (fun r w _ x => convFloat (fmtOf src) (fmtOf dst) r sat w x)
      (if dst = .f64 ∨ src = .f64 then s.run.cycN 2 else s.run.cyc)

def execIcvt (dst src : Ty) (n4 : Bool) (rm : Rm) (sat : Bool) (d a : RegNo) (e : BitVec 3) (nr : Bool) (s : State) :
    Host.Outcome State Fault Refusal :=
  s.checked (.icvt dst src n4 rm sat d a e nr) fun s =>
    let signed (t : Ty) : Bool := elSigned t && !(n4 && t == .s4x8)
    s.convDone (.icvt dst src n4 rm sat d a e nr) dst src rm d a e
      (fun r w _ x =>
        if dst.isFloat then convOfInt (fmtOf dst) r sat w (readInt (signed src) (elW src) x)
        else convToInt (fmtOf src) (signed dst) (elW dst) r w x)
      (if dst.isPair || src.isPair then s.run.cycN 2 else s.run.cyc)

/-- The one-byte format of SCVN and SCVW. -/
def byteTy (e5m2 : Bool) : Ty := if e5m2 then .e5m2x4 else .e4m3x4

def execScvn (e5m2 : Bool) (rm : Rm) (sat : Bool) (d a : RegNo) (b : Opnd) (e : BitVec 3) (nr : Bool) (s : State) :
    Host.Outcome State Fault Refusal :=
  s.checked (.scvn e5m2 rm sat d a b e nr) fun s =>
    let g := s.run
    s.convDone (.scvn e5m2 rm sat d a b e nr) (byteTy e5m2) .f32 rm d a e
      (fun r w l x => scaleNarrow (fmtOf (byteTy e5m2)) r sat w x (g.op32 b l).toNat) g.cyc

def execScvw (e5m2 : Bool) (rm : Rm) (sat : Bool) (d a : RegNo) (b : Opnd) (e : BitVec 3) (nr : Bool) (s : State) :
    Host.Outcome State Fault Refusal :=
  s.checked (.scvw e5m2 rm sat d a b e nr) fun s =>
    let g := s.run
    s.convDone (.scvw e5m2 rm sat d a b e nr) .f32 (byteTy e5m2) rm d a e
      (fun r w l x => scaleWiden (fmtOf (byteTy e5m2)) r sat w x (g.op32 b l).toNat) g.cyc

/-! ## The wide accumulators (R160-R165) -/

/-- Sets accumulator `k`. -/
def Group.setWa (g : Group) (k : BitVec 2) (w : WAcc) : Group := { g with wa := g.wa.set k.toNat w }

def execKclr (k : BitVec 2) (_nr : Bool) (s : State) : Host.Outcome State Fault Refusal :=
  .next (s.done (s.run.setWa k {}) 1)

/-- ExactAdd of the elements of a lane, in order: the accumulator and the flags. -/
def WAcc.addEls (w : WAcc) (fl : Nat) (read : Nat → FVal) (es : List Nat) : WAcc × Nat :=
  es.foldl (fun p e => let r := p.1.add (read e); (r.1, p.2 ||| r.2)) (w, fl)

def execKadd (ty : Ty) (k : BitVec 2) (a : RegNo) (nr : Bool) (s : State) : Host.Outcome State Fault Refusal :=
  s.checked (.kadd ty k a nr) fun s =>
    let g := s.run
    let r := (activeLanes g.em).foldl (fun p l => p.1.addEls p.2 (g.fa ty a {} l) (List.range ty.elems)) (g.wa[k.toNat], 0)
    s.done { g.setWa k r.1 with fsr := g.fsr ||| BitVec.ofNat 32 r.2 } g.cyc

/-- Clears an accumulator where `.clr` is given (R163). -/
def Group.clrWa (g : Group) (clr : Bool) (k : BitVec 2) : Group := if clr then g.setWa k {} else g

/-- The scalar form of KRND: both halves of the low 32 bits for the 16-bit types (R163). -/
def krndScalar (t : Ty) (x : Nat) : Word :=
  BitVec.ofNat 64 (if t.elems = 2 then x % 2 ^ 16 * 2 ^ 16 + x % 2 ^ 16 else x)

/-- KRND rounds an accumulator. With `em` = 0 its scalar form writes nothing and raises no flags (R163) (DEDUCED, log 105). -/
def execKrnd (ty : Ty) (rm : Rm) (sat clr : Bool) (k : BitVec 2) (d : RedDst) (nr : Bool) (s : State) :
    Host.Outcome State Fault Refusal :=
  s.checked (.krnd ty rm sat clr k d nr) fun s =>
    let g := s.run
    let r := g.rmOf rm
    let w := g.wa[k.toNat]
    match d with
    | .v v =>
      let s1 := s.floatDone (.krnd ty rm sat clr k d nr) ty v {} r
        (fun l => laneF ty fun e => w.round (fmtOf ty) r sat (s.sr l e)) g.cyc
      { s1 with run := s1.run.clrWa clr k }
    | .s sd =>
      let x := w.round (fmtOf ty) r sat (s.sr 0 0)
      let g1 := if g.em = 0 then g
        else { g.setS sd (krndScalar ty x.1) with fsr := g.fsr ||| BitVec.ofNat 32 x.2 }
      s.done ((g1.clrWa clr k).drew r) 1

/-- One lane of the running sum: the accumulator, and the lane's bits and flags (R164). -/
def scanLane (q : Fmt) (w' : Nat → Nat) (t : Ty) (r : Rm) (sat excl : Bool) (read : Nat → FVal) (w : WAcc) : WAcc × Nat × Nat :=
  (List.range t.elems).foldl (fun p e =>
    let a := p.1.add (read e)
    let x := (if excl then p.1 else a.1).round q r sat (w' e)
    (a.1, p.2.1 + x.1 % 2 ^ elW t * 2 ^ (elW t * e), p.2.2 ||| a.2 ||| x.2)) (w, 0, 0)

def execKscn (ty : Ty) (rm : Rm) (sat excl : Bool) (k : BitVec 2) (d a : RegNo) (nr : Bool) (s : State) :
    Host.Outcome State Fault Refusal :=
  s.checked (.kscn ty rm sat excl k d a nr) fun s =>
    let g := s.run
    let r := g.rmOf rm
    let scan := (activeLanes g.em).foldl (fun (p : WAcc × Tbl (Nat × Nat)) l =>
      let x := scanLane (fmtOf ty) (s.sr l) ty r sat excl (g.fa ty a {} l) p.1
      (x.1, (l, x.2) :: p.2)) (g.wa[k.toNat], [])
    let s1 := s.floatDone (.kscn ty rm sat excl k d a nr) ty d {} r (fun l => Tbl.get (0, 0) scan.2 l) g.cyc
    { s1 with run := s1.run.setWa k scan.1 }

/-- Image word `i` of an accumulator (R165). -/
def WAcc.image (w : WAcc) (i : Nat) : Lane :=
  if i < 12 then w.val.extractLsb' (32 * i) 32 else if i = 12 then w.st.setWidth 32 else 0

/-- An accumulator from its image (R165). -/
def WAcc.ofImage (x : VReg) : WAcc := ⟨x.setWidth 384, x.extractLsb' 384 3⟩

def execKmovGet (k : BitVec 2) (d : RegNo) (nr : Bool) (s : State) : Host.Outcome State Fault Refusal :=
  s.checked (.kmovGet k d nr) fun s =>
    s.vecDone (.kmovGet k d nr) (s.run.put32 d {} s.run.wa[k.toNat].image) 0 s.run.cyc

def execKmovSet (k : BitVec 2) (a : RegNo) (nr : Bool) (s : State) : Host.Outcome State Fault Refusal :=
  s.checked (.kmovSet k a nr) fun s => s.done (s.run.setWa k (WAcc.ofImage (s.run.reg a.toNat))) 13

def execKmovCpy (k j : BitVec 2) (_nr : Bool) (s : State) : Host.Outcome State Fault Refusal :=
  .next (s.done (s.run.setWa k s.run.wa[j.toNat]) 1)

def execKmovAdd (k j : BitVec 2) (_nr : Bool) (s : State) : Host.Outcome State Fault Refusal :=
  let x := s.run.wa[k.toNat]
  let y := s.run.wa[j.toNat]
  .next (s.done (s.run.setWa k ⟨x.val + y.val, x.st ||| y.st⟩) 1)

/-! ## The sticky flags (R166) -/

/-- The defined flag bits of `fsr` (R169). -/
def fsrBits : Lane := 0x3F

def execFsrGet (d : SReg) (_nr : Bool) (s : State) : Host.Outcome State Fault Refusal :=
  .next (s.done (s.run.setS d (s.run.fsr.setWidth 64)) 1)

def execFsrSet (b : SPos) (_nr : Bool) (s : State) : Host.Outcome State Fault Refusal :=
  .next (s.done { s.run with fsr := (s.run.pos b).setWidth 32 &&& fsrBits } 1)

def execFsrClr (b : SPos) (_nr : Bool) (s : State) : Host.Outcome State Fault Refusal :=
  .next (s.done { s.run with fsr := s.run.fsr &&& ~~~((s.run.pos b).setWidth 32 &&& fsrBits) } 1)

def execFsrOr (b : SPos) (_nr : Bool) (s : State) : Host.Outcome State Fault Refusal :=
  .next (s.done { s.run with fsr := s.run.fsr ||| ((s.run.pos b).setWidth 32 &&& fsrBits) } 1)

end Sys2Proof.Machine
end

