-- ==== Sys2Proof/Machine/Links.lean ====
section
/-! DEFINITION. Host, peers and trust: what the host writes and reads, live update of the scheduler firmware, Flowen, SPDM and IDE, reset
and bring-up (R231, R282, R403-R416). -/

namespace Sys2Proof.Machine

/-! ## Host accesses (R224, R231, R404, R405) -/

/-- An access from outside to bytes: it is served, or waits behind the others while an engine owns a line of them (R224). After a device error,
which has stopped the engines, memory is served as it stands (R406). -/
def State.served (s : State) (i : Instr) (pa n : Nat) (f : State → State) : State :=
  if !s.dev.devErr && s.owned pa n then { s with pending := s.pending ++ [i] } else f s

/-- STATBASE_WRITE, ignored while any stream is not off. -/
def execStatbaseWrite (value : Word) (s : State) : Host.Outcome State Fault Refusal := .next (s.mmioWrite8 8 value)

/-- MMIO_REGISTER_WRITE: a BAR0 write of any other register. -/
def execMmioRegisterWrite (off : Nat) (value : Word) (s : State) : Host.Outcome State Fault Refusal := .next (s.mmioWrite8 off value)

/-- A host write through CXL.mem performs at its home slice, and its completion goes back after that; it is not captured and sets no mark
(R272, R404). -/
def execHostCxlMemWrite (pa : Nat) (data : List Byte) (s : State) : Host.Outcome State Fault Refusal :=
  .next (s.served (.hostCxlMemWrite pa data) pa data.length fun s =>
    { s with mem := Memory.write s.mem pa data }.send (.writeDone pa data.length))

/-- A host read sees what has performed, not what waits in a core's buffer. In region 0x1, which BAR0 maps, it reads a register (R403, R404)
(DESIGN CHOICE, log 110). -/
def execHostCxlMemRead (pa n : Nat) (s : State) : Host.Outcome State Fault Refusal :=
  .next (if region pa == .mmio then s.hostReads (s.mmioRead (pa % 2 ^ 48) n)
    else s.served (.hostCxlMemRead pa n) pa n fun s => s.send (.readData (Memory.read s.mem pa n)))

/-- HOST_SNOOP: cached copies of a host line are invalidated, and the host's store to the line, if it makes one, then completes. -/
def execHostSnoop (line : Nat) (data : List Byte) (s : State) : Host.Outcome State Fault Refusal :=
  .next (s.served (.hostSnoop line data) line data.length fun s => { s with
    mem := Memory.write s.mem line data
    clusters := s.clusters.map fun k => (k.1, { k.2 with lines := k.2.lines.filter (·.line != line) })
    slices := s.slices.map fun q => (q.1, { q.2 with lines := q.2.lines.filter (·.line != line) }) })

/-! ## Live update (R416) -/

/-- FWCTL_GO: steps 1 to 4, or a refusal (DESIGN CHOICE, log 45) (DEDUCED, log 69). -/
def execFwctlGo (verified : Bool) (s : State) : Host.Outcome State Fault Refusal := .next (if s.dev.ready then s.startUpdate verified else s)

/-- LIVE_UPDATE_HEARTBEAT: the new image's first heartbeat comes within 100 ms of its start. -/
def execLiveUpdateHeartbeat (s : State) : Host.Outcome State Fault Refusal :=
  match s.dev.update with
  | .started t hb =>
    .next (if s.time ≤ t + 100000000 then
        { s with dev := { s.dev with heartbeat := hb + 1, slot := !s.dev.slot, fwStat := 2, upd := false, update := .idle } }
      else s)
  | .idle => .next s

/-- LIVE_UPDATE_TIMEOUT: without a heartbeat the old image resumes. -/
def execLiveUpdateTimeout (s : State) : Host.Outcome State Fault Refusal :=
  match s.dev.update with
  | .started t _ =>
    .next (if t + 100000000 ≤ s.time then { s with dev := { s.dev with fwStat := 4, upd := false, update := .idle } } else s)
  | .idle => .next s

/-- HEARTBEAT: the running scheduler firmware adds 1. While a new image starts, no firmware runs. -/
def execHeartbeat (s : State) : Host.Outcome State Fault Refusal :=
  .next (if s.dev.ready && s.dev.update == .idle then { s with dev := { s.dev with heartbeat := s.dev.heartbeat + 1 } } else s)

/-! ## Flowen (R230, R408) -/

/-- A peer's request is accepted where a valid entry of the table names the peer, and its bytes are device memory (R408). -/
def State.acceptsPeer (s : State) (dev pa n : Nat) : Bool :=
  s.dev.peers.any (fun e => e.2.getLsbD 63 && bitsOf e.2 42 14 == dev) && decide (pa + n ≤ 2 ^ 39)

/-- The bytes that a peer's request reaches; none for one that is none: a misaligned or an exact atomic (R243, R245). -/
def peerSpan : PeerReq → Option (Nat × Nat)
  | .load pa n => some (pa, n)
  | .store pa data => some (pa, data.length)
  | .block pa data => some (pa, data.length)
  | .atom _ pa wide _ _ => if pa % (if wide then 8 else 4) = 0 then some (pa, if wide then 8 else 4) else none
  | .atmf fn sz pa _ => if pa % sz.bytes = 0 && fn != .exact && fn != .exactb then some (pa, sz.bytes) else none
  | .notice line => some (line / 128 * 128, 128)
  | .refuses _ => none

/-- What a peer's request does at its home slice, and the bytes of its answer (R230, R243-R245, R407). A release notice names the peer as a
sharer of its line (R220). -/
def State.peerMakes (s : State) (dev : Nat) : PeerReq → State × List Byte
  | .load pa n => (s, Memory.read s.mem pa n)
  | .store pa data => ({ s with mem := Memory.write s.mem pa data }, [])
  | .block pa data => ({ s with mem := Memory.write s.mem pa data }, [])
  | .atom fn pa wide operand keep =>
    let n := if wide then 8 else 4
    let old := Memory.read s.mem pa n
    ({ s with mem := Memory.write s.mem pa (leBytes (atomNew fn (8 * n) (leNat old) (operand.toNat % 2 ^ (8 * n)) (keep.toNat % 2 ^ (8 * n))) n) }, old)
  | .atmf fn sz pa operand =>
    let old := Memory.read s.mem pa sz.bytes
    ({ s with mem := Memory.write s.mem pa (leBytes (atmfNew fn (atmfFmt fn sz) (leNat old) (operand.toNat % 2 ^ (8 * sz.bytes))) sz.bytes) }, old)
  | .notice line => (s.notice (384 + dev) (line / 128 * 128), [])
  | .refuses _ => (s, [])

/-- PEER_REQUEST: the request performs at its home slice, uncaptured, and is answered; or it is refused (R408) (DEDUCED, log 32). -/
def execPeerRequest (dev : Nat) (req : PeerReq) (s : State) : Host.Outcome State Fault Refusal :=
  .next (match req, peerSpan req with
    | .refuses yes, _ =>
      let rest := s.dev.refusing.filter (· != dev)
      { s with dev := { s.dev with refusing := if yes then dev :: rest else rest } }
    | _, some (pa, n) =>
      if s.acceptsPeer dev pa n then
        s.served (.peerRequest dev req) pa n fun s =>
          let r := s.peerMakes dev req
          r.1.send (.peerAnswer dev true r.2)
      else s.send (.peerAnswer dev false [])
    | _, none => s.send (.peerAnswer dev false []))

/-- Removes the oldest store to a window that waits for its acknowledgement. -/
def dropAck (w : Nat) : List PeerReqOut → List PeerReqOut
  | [] => []
  | p :: ps => if p.window = w then ps else p :: dropAck w ps

def execPeerAck (window : Nat) (s : State) : Host.Outcome State Fault Refusal :=
  .next { s with dev := { s.dev with peerOut := dropAck window s.dev.peerOut } }

/-! ## SPDM and IDE (R412-R414). The response codes are those of SPDM 1.3 (PRESUMED). -/

/-- Numbers of a 64-byte digest (PRESUMED, log 86). -/
def digest (xs : List Nat) : Nat := (Config.shake256 xs).toNat

/-- The partition table as it is measured. -/
def State.tableNats (s : State) : List Nat :=
  (List.range 48).map (fun p => (s.partDesc p).toNat) ++ (List.range (384 * 48)).map fun i => (s.quotaWord (i / 48) (i % 48)).toNat

/-- The digest of a measurement (R414) (PRESUMED, log 86). -/
def State.measurement (s : State) (i : Nat) : Nat :=
  let image := s.fwImage s.dev.slot
  if i = 5 then digest s.tableNats
  else if i = 2 then digest (image.flatMap fun b => [b.1, b.2.toNat])
  else if i = 4 then digest [(Config.imageSecurity image).toNat, Config.fusedMinimum.toNat, Config.fusedKey.toNat]
  else digest (Config.measured i)

def State.spdmSay (s : State) (code : Nat) (body : List Nat) : Host.Outcome State Fault Refusal := .next (s.send (.spdm code body))

def State.setSpdm (s : State) (x : Spdm) : State := { s with dev := { s.dev with spdm := x } }

/-- GET_VERSION: 1.3; the negotiation starts again. -/
def execGetVersion (s : State) : Host.Outcome State Fault Refusal :=
  (s.setSpdm { s.dev.spdm with version := true, caps := false, algs := false }).spdmSay 0x04 [0x1300]

def execGetCapabilities (s : State) : Host.Outcome State Fault Refusal :=
  (s.setSpdm { s.dev.spdm with caps := true }).spdmSay 0x61 []

/-- NEGOTIATE_ALGORITHMS: Falcon-1024, SHAKE256, ML-KEM-1024, AES-256-GCM. -/
def execNegotiateAlgorithms (s : State) : Host.Outcome State Fault Refusal :=
  (s.setSpdm { s.dev.spdm with algs := true }).spdmSay 0x63 [1, 2, 3, 4]

def execGetDigests (s : State) : Host.Outcome State Fault Refusal := s.spdmSay 0x01 [digest Config.certChain]

def execGetCertificate (s : State) : Host.Outcome State Fault Refusal := s.spdmSay 0x02 Config.certChain

/-- CHALLENGE: a signature of the identity key over the nonce. -/
def execChallenge (nonce : BitVec 256) (s : State) : Host.Outcome State Fault Refusal :=
  s.spdmSay 0x03 [Config.falconSign [nonce.toNat, digest Config.certChain]]

/-- GET_MEASUREMENTS: the five digests, signed. -/
def execGetMeasurements (nonce : BitVec 256) (s : State) : Host.Outcome State Fault Refusal :=
  let ms := [1, 2, 3, 4, 5].map s.measurement
  s.spdmSay 0x60 (ms ++ [Config.falconSign (nonce.toNat :: ms)])

/-- KEY_EXCHANGE: the ciphertext goes out, the key stays. -/
def execKeyExchange (pub : Word) (s : State) : Host.Outcome State Fault Refusal :=
  let r := Config.mlKem pub s.freeCtr
  ({ s with freeCtr := s.freeCtr + 1 }.setSpdm { s.dev.spdm with key := some r.2, session := false }).spdmSay 0x64 [r.1]

/-- FINISH completes a session whose key has been exchanged. -/
def execFinish (s : State) : Host.Outcome State Fault Refusal :=
  if s.dev.spdm.key.isSome then (s.setSpdm { s.dev.spdm with session := true }).spdmSay 0x65 [] else s.spdmSay 0x7F []

def execEndSession (s : State) : Host.Outcome State Fault Refusal :=
  (s.setSpdm { s.dev.spdm with session := false, key := none }).spdmSay 0x6C []

/-- IDE_KM runs only inside a session. -/
def execIdeKm (key : BitVec 256) (s : State) : Host.Outcome State Fault Refusal :=
  if s.dev.spdm.session then (s.setSpdm { s.dev.spdm with ide := some key }).spdmSay 0x00 [] else s.spdmSay 0x7F []

/-! ## Reset and bring-up (R406, R415) -/

/-- Bring-up: the image of the slot is verified, then the other one, whose slot SLOT then names; READY, or BOOTFAIL (R412, R415) (DEDUCED,
log 23). -/
def State.bringUp (s : State) : State :=
  let a := imageGood (s.fwImage s.dev.slot)
  let b := imageGood (s.fwImage (!s.dev.slot))
  let s1 := { s with dev := { s.dev with slot := if a then s.dev.slot else !s.dev.slot, ready := a || b } }
  if a || b then s1 else s1.deviceError 0x60

/-- DEVICE_RESET: every register and table takes its reset value. Memory, the firmware images and the slot are kept, as is the timer, and what the
world does: the model's own counters, and which peers refuse (DEDUCED, log 68). -/
def execDeviceReset (s : State) : Host.Outcome State Fault Refusal :=
  .next ({ State.reset with
    mem := s.mem, time := s.time, nextId := s.nextId, freeCtr := s.freeCtr, pending := s.pending
    dev := { State.reset.dev with
      slot := s.dev.slot, images := s.dev.images, out := s.dev.out, bad := s.dev.bad, refusing := s.dev.refusing, resetAt := s.time } } : State).bringUp

/-- CXL_RESET clears a device error (DEDUCED, log 68). -/
def execCxlReset (s : State) : Host.Outcome State Fault Refusal := .next { s with dev := { s.dev with devErr := false, errc := 0 } }

end Sys2Proof.Machine
end

