-- ==== Sys2Proof/Machine/Order.lean ====
section
/-! DEFINITION. Memories II: what an instruction waits for at its issue before it performs: registers that are still to be written, releases,
promotes, lines that engines own, room in the buffer and in the log; and the events that buffered stores perform in (R25, R211,
R214-R230, R271, R279). -/

namespace Sys2Proof.Machine

/-! ## Buffer entries and promotes (R211, R220) -/

/-- BUFFER_ENTRY_PERFORM: an entry performs at its home slice and leaves the buffer. -/
def execBufferEntryPerform (core entry : Nat) (s : State) : Host.Outcome State Fault Refusal := .next (s.bufPerform core entry)

/-- A core leaves the sharer set of a line. -/
def Slice.unshare (q : Slice) (core line : Nat) : Slice :=
  let rest := (Tbl.get [] q.sharers line).filter (· != core)
  { q with sharers := if rest.isEmpty then Tbl.del q.sharers line else Tbl.put q.sharers line rest }

/-- PROMOTE: the core performs every entry it holds and answers; then it leaves the line's sharer set. -/
def execPromote (core slice line : Nat) (s : State) : Host.Outcome State Fault Refusal :=
  let s1 := s.drainBuf core
  .next (if (s1.core core).buf.isEmpty then s1.setSlice slice ((s1.slice slice).unshare core line) else s1)

/-! ## What comes first -/

/-- What an instruction waits for: nothing; an event of the device that comes first; room in the log of a context; or something that no
event of the device brings now. -/
inductive Hold where
  | go
  | first (e : Instr)
  | full (part ctx : Nat)
  | stuck
  deriving DecidableEq, Repr

/-- The next reason to wait after a first one. -/
def Hold.andThen (a : Hold) (b : Unit → Hold) : Hold :=
  match a with
  | .go => b ()
  | h => h

/-- The first of several reasons. -/
def Hold.all {α : Type} (f : α → Hold) : List α → Hold
  | [] => .go
  | x :: xs => (f x).andThen fun _ => Hold.all f xs

/-- The writes that are held at slices, with their cores and places. -/
def State.heldWrites (s : State) : List (Nat × Nat × BufEntry) :=
  s.cores.flatMap fun x => (x.2.buf.zipIdx.filter (·.1.held != 0)).map fun e => (x.1, e.2, e.1)

/-- The entry that goes before an entry or a write of a context at a slice: of those held there, the one that arrived first (R263). -/
def State.firstHeld (s : State) (slice part ctx n : Nat) : Option (Nat × Nat × BufEntry) :=
  (s.heldWrites.filter fun x => x.2.2.part == part && x.2.2.ctx == ctx && homeSlice x.2.2.sector == slice
      && (n == 0 || decide (x.2.2.held < n))).foldl (fun b x => match b with
    | none => some x
    | some y => if x.2.2.held < y.2.2.held then some x else some y) none

/-- The oldest entry of the sector of entry `i` of a core's buffer (R212). -/
def Core.oldest (c : Core) (i : Nat) (e : BufEntry) : Nat × BufEntry :=
  match (c.buf.take i).zipIdx.find? (·.1.sector == e.sector) with
  | some x => (x.2, x.1)
  | none => (i, e)

/-- Entry `i` of a core's buffer can perform now: it is the oldest of its sector, no engine owns its line, no write of its context is held
before it, and its log has room (R212, R224, R263, R271). -/
def State.entryReady (s : State) (core i : Nat) (e : BufEntry) : Bool :=
  ((s.core core).oldest i e).1 == i && !s.ownedAhead e && !s.overtakes (homeSlice e.sector) e.part e.ctx e.held && s.logRoom [e.sector] e.part e.ctx e.grid

/-- A write of a command has to perform before others: its engine writes it, or a write that is held before it performs, or its log has no
room (R224, R263, R271). -/
def State.recallHold (s : State) (c : Cmd) (w : EngWrite) : Hold :=
  if s.engRoom c w then .first (.ownedLineRecall (w.at' / 128 * 128))
  else
    match s.firstHeld (homeSlice w.at') c.part c.ctx 0 with
    | some x => if s.entryReady x.1 x.2.1 x.2.2 then .first (.bufferEntryPerform x.1 x.2.1) else .full c.part c.ctx
    | none => .full c.part c.ctx

/-- A line that running commands own is free: they have written it and given it up (R224). -/
def State.ownedHold (s : State) (line : Nat) : Hold :=
  match s.engines.findSome? fun e => e.2.cmds.findSome? fun c => match c.st with
      | .running ws => (ws.find? (·.inLine line)).map fun w => (c, w)
      | _ => none with
  | some x => s.recallHold x.1 x.2
  | none => .go

/-- What has to happen before entry `i` of a core's buffer has performed. -/
def State.entryHold (s : State) (core i : Nat) (e : BufEntry) : Hold :=
  let o := (s.core core).oldest i e
  if s.ownedAhead o.2 then s.ownedHold (o.2.sector / 128 * 128)
  else
  match s.firstHeld (homeSlice o.2.sector) o.2.part o.2.ctx o.2.held with
  | some x =>
    if s.entryReady x.1 x.2.1 x.2.2 then .first (.bufferEntryPerform x.1 x.2.1)
    else .full x.2.2.part x.2.2.ctx
  | none => if s.entryReady core o.1 o.2 then .first (.bufferEntryPerform core o.1) else .full o.2.part o.2.ctx

/-- Room for the records of writes to sectors, behind the writes of the context that are held at their slices (R263, R271). -/
def State.roomHold (s : State) (sectors : List Nat) (part ctx grid : Nat) : Hold :=
  match sectors.findSome? fun a => s.firstHeld (homeSlice a) part ctx 0 with
  | some x => s.entryHold x.1 x.2.1 x.2.2
  | none => if s.logRoom sectors part ctx grid then .go else .full part ctx

/-! ## The buffer (R211, R215) -/

/-- The oldest entry that can perform, of those that meet a condition; otherwise the reason of the oldest. -/
def State.entriesHold (s : State) (core : Nat) (p : BufEntry → Bool) : Hold :=
  let es := (s.core core).buf.zipIdx.filter fun e => p e.1
  match es.find? fun e => s.entryReady core e.2 e.1, es with
  | some e, _ => s.entryHold core e.2 e.1
  | none, e :: _ => s.entryHold core e.2 e.1
  | none, [] => .go

/-- A release of cluster scope or wider by a group: the stores that its core holds perform first. Those of other contexts do as far as
they can (R215) (DEDUCED, log 74). -/
def State.drainHold (s : State) (g : Group) : Hold :=
  if g.kind != .compute then .go
  else
    match (s.core g.core).buf.zipIdx.find? fun e => s.entryReady g.core e.2 e.1 with
    | some e => .first (.bufferEntryPerform g.core e.2)
    | none => s.entriesHold g.core fun e => e.part == g.part && e.ctx == g.ctx

/-- A group waits for the acknowledgements that peers owe it: a system-scope release for all of them (R230), and any word for those of the
store before it, as that may still fault (R237, R409) (DEDUCED, log 32). -/
def State.ackHold (s : State) (g : Group) : Hold :=
  match s.dev.peerOut.find? (·.gid == g.gid) with
  | some p => .first (.peerAck p.window)
  | none => .go

/-- What a release of an order and a scope waits for (R215). -/
def State.releaseHold (s : State) (g : Group) (ord : MOrd) (sco : Scope) : Hold :=
  if !ord.releases || sco == .core then .go
  else (s.drainHold g).andThen fun _ => if sco == .sys then s.ackHold g else .go

/-! ## Engines (R222-R224) -/

/-- A running or finished command goes on. -/
def State.cmdHold (s : State) (c : Cmd) : Hold :=
  match c.st with
  | .queued => .stuck
  | .waiting => .stuck
  | .heldFault => .stuck
  | .finished _ => if (s.cluster c.cluster).queueRoom then .first (.asyncCommandComplete c.id.toNat) else .stuck
  | .running ws =>
    if c.op == .lnch then .stuck
    else
      match ws with
      | [] => .first (.asyncCommandComplete c.id.toNat)
      | w :: _ =>
        if (s.engWrite c w).isSome then .first (.asyncCommandComplete c.id.toNat)
        else if w.space = 0 then s.recallHold c w else .stuck

/-- An engine goes on: its next command starts, or one that runs completes. -/
def State.engineHold (s : State) (e : Nat) : Hold :=
  let x := s.engine e
  match s.startNext e with
  | some _ => .first (.engineCommandStart e)
  | none =>
    match (x.cmds.map s.cmdHold).find? fun h => match h with
        | .first _ => true
        | _ => false with
    | some h => h
    | none => .stuck

/-- A matrix engine goes on. -/
def State.matrixHold (s : State) (e : Nat) : Hold :=
  let t := s.mxRefresh e
  if (t.mxChoose e).isSome then .first (.matrixPass e)
  else if (t.mx e).table.any (·.scaleWait) then .first (.scaleFillReturn e)
  else .stuck

/-- What the owner of a line has to do before it is free: a command writes it and gives it up (R224) (DEDUCED, log 34). -/
def State.ownerHold (s : State) (e line : Nat) (c : Cmd) : Hold :=
  match c.st with
  | .running ws =>
    match ws.find? (·.inLine line) with
    | none => .go
    | some w => s.recallHold c w
  | .queued => if c.lines.contains line then s.engineHold e else .go
  | .waiting => if c.lines.contains line then s.engineHold e else .go
  | .heldFault => if c.lines.contains line then .stuck else .go
  | .finished _ => .go

/-- A line that an access of another agent reaches (R224). -/
def State.lineHold (s : State) (line : Nat) : Hold :=
  (Hold.all (fun (x : Nat × Cmd) => s.ownerHold x.1 line x.2) (s.engines.flatMap fun e => e.2.cmds.map fun c => (e.1, c))).andThen fun _ =>
    Hold.all (fun (x : Nat × MxEntry) =>
      if x.2.lines.contains line && !x.2.hold then s.matrixHold x.1 else .go)
      (s.matrix.flatMap fun m => m.2.table.map fun x => (m.1, x))

/-! ## The accesses of an instruction -/

/-- A memory access as its instruction names it: the lanes' addresses, bytes, whether it writes, whether it is an atomic, its order,
scope and PRM; scratchpad accesses own no line. -/
structure MemForm where
  lanes : List (Nat × Word)
  n : Nat
  wr : Bool := false
  rmw : Bool := false
  ord : MOrd := .rlx
  sco : Scope := .core
  prm : Bool := false
  spad : Bool := false
  deriving DecidableEq, Repr

/-- The access of an instruction of a group (R232-R246, R256). -/
def memForm (g : Group) : Instr → Option MemForm
  | .ld sz _ _ _ prm ord sco _ base off =>
    some { lanes := (activeLanes g.em).map fun t => (t, g.addr true base (off.signExtend 64) t), n := sz.bytes, ord := ord, sco := sco, prm := prm }
  | .st sz _ ord sco _ base off =>
    some { lanes := (activeLanes g.em).map fun t => (t, g.addr true base (off.signExtend 64) t), n := sz.bytes, wr := true, ord := ord, sco := sco }
  | .lds sz _ ord sco _ _ _ => some { lanes := [], n := sz.bytes, ord := ord, sco := sco, spad := true }
  | .sts sz ord sco _ _ _ => some { lanes := [], n := sz.bytes, ord := ord, sco := sco, spad := true }
  | .sld sz _ _ ord sco prm _ a off => some { lanes := [(0, g.pos a + off.signExtend 64)], n := sz.bytes, ord := ord, sco := sco, prm := prm }
  | .sst sz _ ord sco _ a off => some { lanes := [(0, g.pos a + off.signExtend 64)], n := sz.bytes, wr := true, ord := ord, sco := sco }
  | .atom _ wide spad _ ord sco prm _ base _ off =>
    some { lanes := if spad then [] else (activeLanes (g.em &&& ~~~g.doneMask)).map fun t => (t, g.aaddr true base (off.signExtend 64) t)
           n := if wide then 8 else 4, wr := true, rmw := true, ord := ord, sco := sco, prm := prm, spad := spad }
  | .atmf _ sz _ ord sco prm _ base _ off =>
    some { lanes := (activeLanes (g.em &&& ~~~g.doneMask)).map fun t => (t, g.aaddr true base (off.signExtend 64) t)
           n := sz.bytes, wr := true, rmw := true, ord := ord, sco := sco, prm := prm }
  | .evwt _ wide spad ord sco prm _ a _ _ =>
    some { lanes := if spad then [] else [(0, g.pos a)], n := if wide then 8 else 4, ord := ord, sco := sco, prm := prm, spad := spad }
  | .fence ord sco => some { lanes := [], n := 0, ord := ord, sco := sco }
  | .fenceFlushx => some { lanes := [], n := 0, ord := .ar, sco := .dev }
  | .fqput _ _ => some { lanes := [], n := 0, ord := .rel, sco := .clus, spad := true }
  | _ => none

/-- The bytes of device or host memory that the lanes reach, lane by lane, up to the first lane that fails. -/
def State.spans (s : State) (f : MemForm) : List (Nat × Nat × Nat) :=
  match f.lanes with
  | [] => []
  | ls => (ls.foldl (fun (p : List (Nat × Nat × Nat) × Bool) l =>
      if p.2 then p
      else
        match (s.locate l.2 f.n (if f.wr then .wr else .rd)).2 with
        | .error _ => (p.1, true)
        | .ok ps => (p.1 ++ ps.filterMap (fun q => match q.1 with
            | .mem pa => some (l.1, pa, q.2)
            | _ => none), false)) ([], false)).1

/-- An acquire with PRM waits until every core that sent a release notice for its line has been promoted, which completes the recalls that its
buffered stores wait for (R220). -/
def State.promoteHold (s : State) (line : Nat) : Hold :=
  let sl := homeSlice line
  match Tbl.get [] (s.slice sl).sharers line with
  | [] => .go
  | c :: _ =>
    match s.entriesHold c fun _ => true with
    | .go => .first (.promote c sl line)
    | .first (.bufferEntryPerform _ _) => .first (.promote c sl line)
    | h => h

/-- Sectors of a store that need an entry of their own (R211). -/
def State.newSectors (s : State) (g : Group) (ps : List (Nat × Nat × Nat)) : List Nat :=
  ((ps.flatMap fun p => sectorsOf p.2.1 p.2.2).dedup).filter fun a =>
    !((s.core g.core).buf.reverse.find? (·.sector == a)).any fun e => e.part == g.part && e.ctx == g.ctx && e.grid == g.grid

/-- The buffer has the entries that bytes need (R211). -/
def State.bufferRoom (s : State) (g : Group) (ps : List (Nat × Nat × Nat)) : Bool :=
  g.kind != .compute || decide ((s.core g.core).buf.length + (s.newSectors g ps).length ≤ 64)

/-- A thread's store waits for the entries of the lanes that have none yet (R211). -/
def State.bufferHold (s : State) (g : Group) (ps : List (Nat × Nat × Nat)) : Hold :=
  if s.bufferRoom g (ps.filter fun p => !g.took.getLsbD p.1) then .go else s.entriesHold g.core fun _ => true

/-- The lanes of an atomic at a home slice, in ascending order. -/
def lanesAt (ps : List (Nat × Nat × Nat)) (sl : Nat) : List Nat := (ps.filter fun p => homeSlice p.2.1 == sl).map (·.1)

/-- In a replay an atomic waits for its turn at each slice (R279). -/
def State.turnHold (s : State) (g : Group) (ps : List (Nat × Nat × Nat)) : Hold :=
  match s.ctx? g.part g.ctx with
  | none => .go
  | some c =>
    Hold.all (fun (o : Nat × List (Nat × Nat × Nat)) =>
      let mine := (lanesAt ps o.1).map fun l => (g.team, g.num, l)
      if o.2.isEmpty || mine.isPrefixOf o.2 then .go else .stuck) c.orders

/-- Room for the ORDR records of an integer atomic beside its captures, behind the writes of its context that are held at its slices (R263,
R271, R279). -/
def State.ordrHold (s : State) (g : Group) (ps : List (Nat × Nat × Nat)) (sectors : List Nat) : Hold :=
  match s.ctx? g.part g.ctx with
  | none => .go
  | some c =>
    let new := (sectors.filter fun a => s.captures a g.part g.ctx g.grid).dedup
    let recs (seg : Nat) : Nat := segCount seg new + ps.countP fun p => homeSlice p.2.1 / 16 == seg
    match sectors.findSome? fun a => s.firstHeld (homeSlice a) g.part g.ctx 0 with
    | some x => s.entryHold x.1 x.2.1 x.2.2
    | none =>
    if !c.logs || (!c.full && (List.range 8).all fun seg => recs seg = 0 || c.room seg (recs seg)) then .go else .full g.part g.ctx

/-- A buffer entry holds a byte that lanes reach (R243). -/
def BufEntry.meets (e : BufEntry) (ps : List (Nat × Nat × Nat)) : Bool :=
  ps.any fun p => (List.range p.2.2).any fun i => (p.2.1 + i) / 32 * 32 == e.sector && e.mask.getLsbD ((p.2.1 + i) % 32)

/-- An atomic in device memory: buffered stores to its bytes perform first, and its writes need log room; an integer atomic of a grid
with RECORD_ATOMICS takes its turn (R212, R221, R243, R271, R279). Exact atomics write only their cells (R229). -/
def State.atomicHold (s : State) (g : Group) (int exact : Bool) (ps : List (Nat × Nat × Nat)) : Hold :=
  let sectors := (ps.flatMap fun p => sectorsOf p.2.1 p.2.2).dedup
  (if g.kind == .compute then s.entriesHold g.core fun e => e.meets ps else .go).andThen fun _ =>
    if exact then .go
    else if int && (s.grid? g.grid).elim false (·.recAtom) then
      (s.turnHold g ps).andThen fun _ => s.ordrHold g ps sectors
    else s.roomHold sectors g.part g.ctx g.grid

/-- A load that is outstanding: it delivers, or an FQGET is matched first, in its turn on the FIFO and in its group. -/
def State.loadHold (s : State) (o : LoadOp) : Hold :=
  match o.fifo with
  | none => .first (.loadComplete o.id)
  | some (k, b) => if (s.bank k b).entries.isEmpty || (s.fqgetNext k b).isNone then .stuck else .first (.fqgetMatch k b)

/-- The register interlock: the operations that have still to write a register which the instruction reads or writes deliver first
(R25). -/
def State.interlock (s : State) (g : Group) (i : Instr) : Hold :=
  match g.loads.find? fun o => o.writes g i with
  | some o => s.loadHold o
  | none => .go

/-- The removals of a group's earlier FQGETs are made: a barrier's arrival and a later access wait for them (R214, R225, R226). -/
def State.removalHold (s : State) (g : Group) : Hold := Hold.all s.loadHold (g.loads.filter (·.fifo.isSome))

/-- What a memory access waits for before the entries and the log: the removals of earlier FQGETs, a release's stores, owned lines, promotes
(R215, R220, R224, R225). -/
def State.orderHold (s : State) (g : Group) (f : MemForm) (ps : List (Nat × Nat × Nat)) : Hold :=
  (s.removalHold g).andThen fun _ =>
    (s.releaseHold g f.ord f.sco).andThen fun _ =>
      let lines := (ps.flatMap fun p => linesOf p.2.1 p.2.2).dedup
      (Hold.all s.lineHold lines).andThen fun _ =>
        if f.prm then Hold.all s.promoteHold (lines.filter fun l => region l == .dev) else .go

/-- What a memory access waits for. -/
def State.accessHold (s : State) (g : Group) (f : MemForm) (int exact : Bool) : Hold :=
  let ps := s.spans f
  (s.orderHold g f ps).andThen fun _ =>
    if f.rmw then s.atomicHold g int exact ps
    else if f.wr then s.bufferHold g ps
    else .go

/-- The lanes of a store that waits for entries take them in ascending order as far as they go (R211). -/
def State.enterLanes (s : State) (i : Instr) : State :=
  let g := s.run
  match i, memForm g i with
  | .st sz hint ord sco d base off, some f =>
    let ps := s.spans f
    if g.kind == .compute && s.interlock g i == .go && s.orderHold g f ps == .go then
      ((activeLanes (g.em &&& ~~~g.took)).foldl (fun (p : State × Bool) l =>
        let mine := ps.filter (·.1 == l)
        if p.2 || mine.isEmpty || !p.1.bufferRoom g mine then (p.1, true)
        else
          let t := (p.1.stLane g sz hint ord sco d base off l).1
          (t.setRun { t.run with took := t.run.took ||| 1#32 <<< l }, false)) (s, false)).1
    else s
  | _, _ => s

/-! ## Ports that go down (R237, R407, R409) -/

/-- The lanes of a store of the running agent that are among unacknowledged requests. Their places are found as at its issue, when the
entries and the ports were there. -/
def State.lostLanes (s : State) (f : MemForm) (lost : List PeerReqOut) : List (Nat × Word) :=
  let then_ := { s with dev := { s.dev with ports := Vector.replicate 12 {}, peers := lost.map fun (p : PeerReqOut) => (p.window, p.entry) } }
  f.lanes.filter fun l => match (then_.locate l.2 f.n .wr).2 with
    | .error _ => false
    | .ok ps => ps.any fun q => match q.1 with
      | .peer _ pa => lost.any (·.pa == pa)
      | _ => false

/-- The load of an atomic of the running agent is outstanding no more: the lanes that have performed have their old values now, and the others
perform again when the group resumes (R237, R409). -/
def State.takeBack (s : State) (pc : Addr) (done : Lane) : State :=
  match s.run.loads.reverse.find? (·.pc == pc) with
  | none => s
  | some o =>
    let t : State := match o.dst with
      | .vec d em vals =>
        if done &&& em = 0 then s
        else vals.zipIdx.foldl (fun (t : State) (x : VReg × Nat) =>
          (t.writeResult (d.toNat + x.2) (mergeLanes (done &&& em) x.1 (t.run.reg (d.toNat + x.2))) false).1) s
      | _ => s
    let g := t.run.endOp o.seta o.setb
    t.setRun { g with loads := g.loads.filter (·.id != o.id) }

/-- A group's store that no port can carry any more faults with ACCESS: the group is still behind it, as no word issues before the store is
acknowledged, and its other lanes have performed (R237, R409) (DEDUCED, log 32). -/
def State.peerLost (s : State) (gid : Nat) (lost : List PeerReqOut) : State :=
  match s.group? gid with
  | none => s
  | some g =>
    let back := { g with word := g.word - 1 }
    match back.instr.bind (memForm back) with
    | none => s
    | some f =>
      s.as g fun t =>
        match t.lostLanes f lost with
        | [] => t
        | l :: ls =>
          if g.word = 0 || !f.wr then t
          else
            let done := mkMask fun i => f.lanes.any (·.1 == i) && !(l :: ls).any (·.1 == i)
            ((t.setRun { back with wait := .none }).takeBack back.wordAddr done).memFault ⟨cACCESS, l.2.toNat, 0⟩ done

/-- Requests not yet acknowledged move from a port that goes down to the one that now serves their line; those that no port can carry
have not performed, and fault (R409) (DEDUCED, log 32). -/
def State.reroute (s : State) (port : Nat) : State :=
  let lost := s.dev.peerOut.filter fun p => p.port == port && (s.livePorts p.entry).isEmpty
  let out := (s.dev.peerOut.filter (!lost.contains ·)).map fun p => if p.port = port then { p with port := s.portOf p.entry p.pa } else p
  ((lost.map (·.gid)).dedup).foldl (fun t k => t.peerLost k (lost.filter (·.gid == k)))
    { s with dev := { s.dev with peerOut := out }, mem := lost.reverse.foldl (fun m p => Memory.write m p.key p.old) s.mem }

/-- FLIT_REPLAY: 16 failures in a row take the port down. -/
def execFlitReplay (port : Nat) (ok : Bool) (s : State) : Host.Outcome State Fault Refusal :=
  let p := s.dev.ports.toList.getD port {}
  let fails := if ok then 0 else p.fails + 1
  let up := p.up && decide (fails < 16)
  let s1 := { s with dev := { s.dev with ports := s.dev.ports.setIfInBounds port { up := up, fails := fails, replays := p.replays + 1 } } }
  .next (if p.up && !up then s1.reroute port else s1)

/-! ## Operations of the group that WMARK waits for (R268) -/

/-- The long-latency operations of a group complete. -/
def State.quietHold (s : State) (g : Group) : Hold :=
  (Hold.all s.loadHold g.loads).andThen fun _ =>
    (Hold.all (fun (e : Nat × Engine) => if e.2.cmds.any (·.gid == g.gid) then s.engineHold e.1 else .go) s.engines).andThen fun _ =>
      (Hold.all (fun (m : Nat × Matrix) => if m.2.table.any (·.gid == g.gid) then s.matrixHold m.1 else .go) s.matrix).andThen fun _ =>
        if s.patch.any fun p => p.2.any (·.gid == g.gid) then .stuck else .go

/-! ## The whole hold -/

/-- WHAT THE RUNNING AGENT'S INSTRUCTION WAITS FOR at its issue (DEDUCED, log 74). -/
def State.hold (s : State) (i : Instr) : Hold :=
  let g := s.run
  (s.ackHold g).andThen fun _ => (s.interlock g i).andThen fun _ =>
    match i with
    | .wmark _ _ =>
      if (s.grid? g.grid).elim true (!·.coop) || g.kind != .compute || (s.grantOf g.gid).isSome then .go
      else (s.quietHold g).andThen fun _ => s.drainHold g
    | .bar _ _ _ => s.removalHold g
    | .barv _ _ _ => s.removalHold g
    | .bdv _ _ _ _ => if g.stack.length < 32 || g.mmode then .go else s.roomHold [s.stackAddr g.mdepth / 32 * 32] g.part g.ctx g.grid
    | _ =>
      match memForm g i with
      | some f => s.accessHold g f (match i with
          | .atom _ _ _ _ _ _ _ _ _ _ _ => true
          | _ => false) (match i with
          | .atmf fn _ _ _ _ _ _ _ _ _ => fn == .exact || fn == .exactb
          | _ => false)
      | none => .go

/-! ## EVWT reads again (R220, R224, R256, R257) -/

/-- What the next read of a sleeping EVWT waits for, as its first one did. -/
def State.evwtHold (s : State) (g : Group) : Hold :=
  match g.wait with
  | .evwt _ wide spad prm va _ _ _ _ _ =>
    if spad || g.core == noCore then .go
    else { s with run := g }.accessHold g { lanes := [(0, va)], n := if wide then 8 else 4, prm := prm } false false
  | _ => .go

/-- A sleeping EVWT that stands as the running agent loads its location, through its own core's buffer and its context's translation as they
now are, and goes on with the value; where the load fails it faults there (R256, R257, R332). -/
def State.evwtLoads (s : State) (g : Group) (k : Group → Nat → Group) : State :=
  match g.wait with
  | .evwt _ wide spad _ va _ _ _ _ _ =>
    match s.evwtRead wide spad va with
    | (u, .error e) => (u.setRun { u.run with wait := .none, word := g.entryWord.getD g.word, resume := none }).memFault e 0
    | (u, .ok x) => u.setRun (k u.run x)
  | _ => s

/-- A sleeping EVWT that a write has woken loads again; one whose location holds what it held sleeps on (R256, R257). -/
def State.evwtReread (s : State) (gid : Nat) : State :=
  match s.group? gid with
  | none => s
  | some g =>
    match g.wait with
    | .evwt eq wide spad prm va b d last dl once =>
      if g.core == noCore || s.evwtHold g != .go then s
      else s.as g fun t =>
        if !once && (match (t.evwtPeek wide spad va).2 with
          | .ok x => BitVec.ofNat 64 x == last
          | .error _ => false) then t
        else t.evwtLoads g fun u x => u.evwtGot eq wide spad prm va b d x dl once
    | _ => s

def execEvwtWake (gid : Nat) (s : State) : Host.Outcome State Fault Refusal := .next (s.evwtReread gid)

def execEvwtPoll (gid : Nat) (s : State) : Host.Outcome State Fault Refusal := .next (s.evwtReread gid)

/-- The timeout ends the wait of a group whose team is resident: it loads once more, and that value is the last one read. A team that comes back
reads once in any case (R256, R257). -/
def execEvwtTimeout (gid : Nat) (s : State) : Host.Outcome State Fault Refusal :=
  match s.group? gid with
  | none => .next s
  | some g =>
    match g.wait with
    | .evwt _ _ _ _ _ _ d _ (some t) false =>
      .next (if t ≤ s.time && g.core != noCore && s.evwtHold g == .go then
          s.as g fun u => u.evwtLoads g fun h x => h.evwtDone d (BitVec.ofNat 64 x)
        else s)
    | _ => .next s

/-! ## Accesses from outside (R224) -/

/-- A host's or a peer's access waits while an engine owns a line that it reaches, but not after a device error, which stops the engines (R406). -/
def State.outsideHold (s : State) (i : Instr) : Hold :=
  let lines (pa n : Nat) : Hold := Hold.all s.lineHold (linesOf pa n)
  if s.dev.devErr then .go
  else
    match i with
    | .hostCxlMemWrite pa data => lines pa data.length
    | .hostCxlMemRead pa n => if region pa == .mmio then .go else lines pa n
    | .hostSnoop line data => lines line data.length
    | .peerRequest _ req => (peerSpan req).elim .go fun p => lines p.1 p.2
    | _ => .go

/-- The first thing that the world brings which does not wait, and the rest. -/
def State.firstOutside (s : State) : List Instr → Option (Instr × List Instr)
  | [] => none
  | i :: is => if s.outsideHold i == .go then some (i, is) else (s.firstOutside is).map fun r => (r.1, i :: r.2)

end Sys2Proof.Machine
end

