-- ==== Sys2Proof/Machine/Issue.lean ====
section
/-! DEFINITION. Issue: which agents are ready, how a lane pipe chooses, how a clause opens and ends, and what an instruction's issue
records (R25-R27, R32, R49-R55, R206, R292, R311, R346, R368, R385). -/

namespace Sys2Proof.Machine

/-! ## The agent inside a clause -/

/-- An agent takes the place of the running one. -/
def State.load (s : State) (g : Group) : State := { s with active := true, run := g, groups := Tbl.del s.groups g.gid }

/-- The running agent goes back to the others. -/
def State.unload (s : State) : State := { s with active := false, run := {}, groups := Tbl.put s.groups s.run.gid s.run }

/-- The agent is outside a clause, or waits at an instruction: it leaves the place of the running one. -/
def Group.leaves (g : Group) : Bool := g.clause.isNone || g.wait != .none

/-- A group's pipe issues (R345, R346). -/
def Core.issues (c : Core) (g : Group) : Core := { c with issued := c.issued ||| 1#32 <<< (g.slot / 2) }

/-- WHAT THE ISSUE OF AN INSTRUCTION RECORDS before its effect: lanes that an interrupted atomic had done count for that atomic alone
(R237), the core has issued in this sample (R346), and its cluster counts the instructions of the lanes (R356). -/
def State.begin (s : State) (i : Instr) : State :=
  let g := s.run
  let keeps : Bool := match i with
    | .atom _ _ _ _ _ _ _ _ _ _ _ => true
    | .atmf _ _ _ _ _ _ _ _ _ _ => true
    | _ => false
  let lanes : Bool := match encode i with
    | some w => 0x20 ≤ opcode w && opcode w ≤ 0x6A
    | none => false
  { s with
    run := if keeps then g else { g with doneMask := 0 }
    cores := if g.kind == .compute then Tbl.put s.cores g.core ((s.core g.core).issues g) else s.cores
    clusters := if g.kind == .compute && lanes then
        Tbl.put s.clusters g.cluster { s.cluster g.cluster with instrs := (s.cluster g.cluster).instrs + 1 }
      else s.clusters }

/-! ## Room in the queues (R292, R300, R311) -/

/-- The engine in whose queue an instruction puts a command. -/
def State.postTarget (s : State) (g : Group) : Instr → Option Nat
  | .cpy _ _ hold _ _ _ _ _ => if hold then none else some g.copyEngine
  | .gath _ hold _ _ _ _ _ _ => if hold then none else some g.copyEngine
  | .scat _ hold _ _ _ _ _ _ => if hold then none else some g.copyEngine
  | .bin _ _ _ _ _ _ _ => some g.binEngine
  | .ptch _ _ _ _ _ _ _ _ => some g.binEngine
  | .rlse _ _ _ _ => some g.binEngine
  | .ecanSlot _ _ _ => some g.binEngine
  | .coll _ _ _ _ _ _ _ => some g.collEngine
  | .lnch _ _ _ _ => some (0x58 + (s.grid? g.grid).elim 0 (·.stream % 4))
  | _ => none

/-- A queue has room for `n` more commands: 64 of a copy or binning engine, 256 of a collective engine, 64 launches of one grid (DEDUCED, log 73). -/
def State.cmdRoom (s : State) (g : Group) (e n : Nat) : Bool :=
  let cs := (s.engine e).cmds
  if e < 0x50 then decide (cs.countP (·.st == .queued) + n ≤ 64)
  else if e < 0x58 then decide (cs.countP (·.st == .queued) + n ≤ 256)
  else decide (cs.countP (·.grid == g.grid) + n ≤ 64)

/-- The engines have room for everything that instructions post (DEDUCED, log 73). -/
def State.postRoom (s : State) (g : Group) (is : List Instr) : Bool :=
  let es := is.filterMap (s.postTarget g)
  let p := is.countP postsMx
  let t := (s.mx g.mxEngine).table
  es.all (fun e => s.cmdRoom g e (es.countP (· == e))) && (p == 0 || decide (t.length + s.owedPosts g.mxEngine g.gid + p ≤ 64 ∧ t.countP (·.gid == g.gid) + p ≤ 16))

/-! ## Readiness (R26, R27, R52, R54, R393) -/

/-- The agent's core, context and device let it issue. A group of a context that is stopped goes on to the end of its clause (R275). -/
def State.mayRun (s : State) (g : Group) : Bool :=
  match g.kind with
  | .compute => g.core != noCore && (s.team? g.teamKey).all (·.saveDue.isNone) && (s.ctxRuns g.part g.ctx || (g.clause.isSome && (s.ctx? g.part g.ctx).isSome)) && !s.dev.devErr
  | .control _ => true
  | .scheduler _ => true

/-- The flags of WAIT are clear. A clause that was left open counts as ended here (R52, R55) (DEDUCED, log 77). -/
def Group.waitLets (g : Group) (h : Header) : Bool :=
  let cf := g.endFlags.cf.toList
  (List.range 12).all fun i => !h.wait.getLsbD i || !(cf.getD i {}).pending

/-- No flag that a clause sets counts above 1,007 (R54). -/
def Group.countLets (g : Group) (h : Header) : Bool :=
  (flagNames h.seta h.setb).all fun n => decide ((g.cf.toList.getD n {}).count ≤ 1007)

/-- A clause may issue. A clause that is entered again at a word does not check WAIT (R55, R374) (DEDUCED, log 77). -/
def State.mayOpen (s : State) (g : Group) (c : Clause) : Bool :=
  (g.resume.isSome || g.waitLets c.h) && g.countLets c.h && !s.limited g c && s.postRoom g (c.instrs (g.entryWord.getD 0))

/-- What an agent that stalls at an instruction waits for can happen. -/
def State.unstalled (s : State) (g : Group) : Bool :=
  match g.instr with
  | none => true
  | some i =>
    match (s.load g).hold i with
    | .stuck => false
    | .full p x => (s.ctx? p x).elim true fun c => !c.full || (decide (1 < c.windows.length) && !c.rwact)
    | _ => true

/-- How a ready agent goes on: inside its open clause, to the handler of a pre-emption, or into its next clause or its fetch fault. -/
inductive Entry where
  | inside
  | preempt
  | enter
  deriving DecidableEq, Repr

/-- An agent is ready, and how it goes on (R26) (DEDUCED, log 76). -/
def State.ready (s : State) (g : Group) : Option Entry :=
  if !s.mayRun g then none
  else if g.clause.isSome then
    if (match g.run with
      | .ready | .stopping | .acked _ _ => true
      | .stopped _ | .ended | .off => false) && (g.wait == .none || (g.wait == .stall && s.unstalled g)) then some .inside else none
  else if g.run != .ready || g.wait != .none || (g.kind == .compute && (s.core g.core).held) then none
  else if g.preempt && !g.inHandler && g.resume.isNone then some .preempt
  else
    match (s.load g).nextClause.2 with
    | .error t => if t.cause = cWAIT then none else some .enter
    | .ok c => if s.mayOpen g c then some .enter else none

/-! ## The choice of a lane pipe (R26, R192) -/

/-- The agents of a pipe that are ready. -/
def State.readyOn (s : State) (core pipe : Nat) : List (Group × Entry) :=
  let gs := (s.groups.filter fun x => x.2.pipe == (core, pipe)).map (·.2)
  let held := gs.any Group.holdsPipe
  gs.filterMap fun g => if held && !g.holdsPipe then none else (s.ready g).map fun e => (g, e)

/-- The first of two ready agents goes before the second: one passed over 16 times, one whose mate yields, the higher priority, the one
that has waited longer, the one passed over more often, the lower slot; two that both yield go by their priority (R26, R192) (DESIGN CHOICE,
log 78). -/
def State.before (s : State) (a b : Group) : Bool :=
  let prio (g : Group) : Nat := (s.grid? g.grid).elim 0 (·.prio)
  if 16 ≤ a.passed || 16 ≤ b.passed then decide (b.passed < a.passed ∨ (b.passed = a.passed ∧ a.slot ≤ b.slot))
  else if (a.yieldN = 0) != (b.yieldN = 0) then a.yieldN = 0
  else if prio a ≠ prio b then prio b < prio a
  else if a.lastIssue ≠ b.lastIssue then a.lastIssue < b.lastIssue
  else if a.passed ≠ b.passed then b.passed < a.passed
  else a.slot ≤ b.slot

/-- A choice of the pipe goes to the slot-mate of an agent. The choices that pass over a ready agent count while they are consecutive, but for
those that it yielded, of which there is one fewer now whether it was ready or not (R26, R192). -/
def Group.passOver (g : Group) (ready : Bool) : Group :=
  { g with passed := if !ready then 0 else if g.yieldN = 0 then g.passed + 1 else g.passed, yieldN := g.yieldN - 1 }

/-- The choice among the ready agents: the one that issues, and those that are passed over (DESIGN CHOICE, log 78). -/
def State.choose (s : State) : List (Group × Entry) → Option (Group × Entry × List Group)
  | [] => none
  | x :: xs =>
    match s.choose xs with
    | none => some (x.1, x.2, [])
    | some (g, e, ls) => if s.before x.1 g then some (x.1, x.2, g :: ls) else some (g, e, x.1 :: ls)

/-! ## A clause opens and ends -/

/-- The group enters a clause: at a word of one that was left open, or at its header, where the SET flags become pending. In explicit-mask
mode a clause that begins with `em` = 0 is skipped whole (R32, R49, R52, R55). -/
def Group.opened (g : Group) (c : Clause) (now : Nat) : Group :=
  let g1 : Group := { g with clause := some c, pc := c.hdr + 8 * (BitVec.ofNat 56 (c.h.cnt.toNat + 2)), wait := .none, lastIssue := now, passed := 0
                             ahead := none, yielded := false, memClause := c.memory }
  match g.entryWord with
  | some w => { g1 with word := w, resume := none }
  | none =>
    let names := flagNames c.h.seta c.h.setb
    { g1 with
      cf := names.foldl (fun cf n => vmod cf n fun f => { f with pending := true }) g.endFlags.cf
      openSets := names
      word := if g.mmode && g.em == 0 then c.h.cnt.toNat + 1 else 0
      resume := none }

/-- The loaded agent enters its next clause, or takes the fault of its fetch. -/
def State.enterClause (s : State) : State :=
  match s.nextClause with
  | (s1, .error t) => s1.takeTrap t
  | (s1, .ok c) =>
    let g := s1.run
    let s2 := s1.setRun (g.opened c s.turn)
    let s3 := if g.kind == .compute then
        s2.setCore g.core (((s2.core g.core).count 0x02 g.part g.ctx 1).issues g)
      else s2
    if g.resume.isNone && g.mmode && g.em == 0 then s3.charge 1 else s3

/-- The running agent goes back to the others. The cycles that one has spent inside its clause are counted (R361). One that stands before a clause which is now its next fetches it, and takes the fault of that
fetch (R72) (DEDUCED, log 108). -/
def State.leave (s : State) : State :=
  let g := s.run
  if g.clause.isSome then s.countCycles.unload
  else if g.run != .ready || g.wait != .none || g.ahead.isSome || (g.preempt && !g.inHandler) || !s.mayRun g then s.unload
  else
    match s.fetch with
    | (s1, .error t) => if t.cause = cWAIT then s1.unload else (s1.takeTrap t).unload
    | (s1, .ok c) => (s1.setRun { s1.run with ahead := some c }).unload

/-! ## CLAUSE_SELECT (R26) -/

/-- The agents of the pipe after a choice: the one chosen, and the others (R26, R192). -/
def State.chosen (s : State) (g : Group) (others : List Group) : State :=
  { s with groups := s.groups.map fun x =>
      if x.1 = g.gid then (x.1, { x.2 with passed := 0, yieldN := if others.isEmpty then x.2.yieldN else x.2.yieldN - 1 })
      else if x.2.pipe == g.pipe then (x.1, x.2.passOver (others.any (·.gid == x.1))) else x }

/-- The chosen agent goes on. One that stalled has held its pipe, which makes no choice for it. -/
def State.issue (s : State) (g : Group) (e : Entry) (others : List Group) : State :=
  let s1 := if g.holdsPipe then s else s.chosen g others
  let s2 := s1.load ((Tbl.find s1.groups g.gid).getD g)
  match e with
  | .inside => s2.setRun { s2.run with wait := .none, lastIssue := s.turn }
  | .preempt => s2.preemptEntry.leave
  | .enter =>
    let s3 := s2.enterClause
    if s3.run.leaves then s3.leave else s3

/-- CLAUSE_SELECT: a lane pipe chooses among its ready agents. One agent of the machine at a time is inside a clause. -/
def execClauseSelect (core pipe : Nat) (s : State) : Host.Outcome State Fault Refusal :=
  if s.active then .next s
  else
    match s.choose (s.readyOn core pipe) with
    | none => .next s
    | some (g, e, others) => .next (s.issue g e others)

/-! ## Full logs and stalls (R271) -/

/-- The running agent waits at its instruction. -/
def State.stalls (s : State) : State := s.setRun { s.run with wait := .stall }

/-- A context's log is full: the oldest of its windows is committed where it has more than one, and otherwise the agent stalls. -/
def State.fullStall (s : State) (part ctx : Nat) : State :=
  match s.ctx? part ctx with
  | none => s.stalls
  | some c =>
    let s1 := s.logFull part ctx c
    if 1 < c.windows.length && !c.rwact then s1 else s1.stalls

/-- The pipes with a ready agent, in pipe order. -/
def State.readyPipes (s : State) : List (Nat × Nat) :=
  ((s.groups.map fun x => x.2.pipe).dedup.filter fun p => !(s.readyOn p.1 p.2).isEmpty)

/-- The number of a pipe in the rotation. -/
def pipeNo (p : Nat × Nat) : Nat := 32 * p.1 + p.2

/-- The pipe with the lowest number of those that meet a condition. -/
def lowestPipe (ps : List (Nat × Nat)) : Option (Nat × Nat) :=
  ps.foldl (fun b p => match b with
    | none => some p
    | some q => if pipeNo p < pipeNo q then some p else b) none

/-- The next pipe that selects: the first ready one in rotation. -/
def State.nextPipe (s : State) : Option (Nat × Nat) :=
  let ps := s.readyPipes
  match lowestPipe (ps.filter fun p => decide (s.rotor ≤ pipeNo p)) with
  | some p => some p
  | none => lowestPipe ps

end Sys2Proof.Machine
end

