-- ==== Sys2Proof/Machine/Rewind.lean ====
section
/-! DEFINITION. Memories IV: RWND, the rewind of a context, and the parts of it that a rollback and a kill share (R273-R279, R394). -/

namespace Sys2Proof.Machine

/-- A privileged instruction faults with PRIV at user level (R69, R72). The fetch of its clause tests this first. -/
def State.privileged (s : State) (k : State → Host.Outcome State Fault Refusal) : Host.Outcome State Fault Refusal :=
  if s.sup then k s else .next (s.faultExact cPRIV)

/-- The partition and the context that an operand names (R273, R395). -/
def opPart (w : Word) : Nat := bitsOf w 8 6
def opCtx (w : Word) : Nat := bitsOf w 0 6

/-- The issuer's own context. -/
def State.ownCtx (s : State) (part ctx : Nat) : Bool := s.run.kind == .compute && s.run.part == part && s.run.ctx == ctx

/-! ## The checks (R273, R274) -/

/-- The retained windows from `t` on; none where `t` is not retained. -/
def Ctx.since (c : Ctx) (t : BitVec 16) : List Window := c.windows.dropWhile (·.num != t)

/-- Status and number of windows of a rewind, also where a retained target is unanchored (R274). -/
def State.rewindCheck (s : State) (part ctx : Nat) (t : BitVec 16) (force : Bool) : Nat × Nat :=
  match s.ctx? part ctx with
  | none => (3, 0)
  | some c =>
    if !c.logs || s.ownCtx part ctx then (3, 0)
    else if c.rwact then (4, 0)
    else
      match c.since t with
      | [] => (1, 0)
      | w :: ws => (if !w.anch then 1 else if !force && (w :: ws).any (·.mark) then 2 else 0, ws.length + 1)

/-- The result word. -/
def rewindWord (r : Nat × Nat) : Word := BitVec.ofNat 64 (r.2 * 2 ^ 16 + r.1)

/-! ## Stopping the streams (R275, step 1) -/

/-- Sets STATE of a stream. -/
def Stream.setState (x : Stream) (st : Nat) : Stream :=
  { x with w2 := (x.w2 &&& 0xFFFFFFFF3FFFFFFF) ||| BitVec.ofNat 64 (st * 2 ^ 30), awake := st = 1 }

/-- The running streams of a context. -/
def State.runningStreams (s : State) (part ctx : Nat) : List Nat :=
  (s.streams.filter fun x => x.2.part == part && x.2.ctx == ctx && x.2.state == 1).map (·.1)

def State.setStates (s : State) (ns : List Nat) (st : Nat) : State := ns.foldl (fun t n => t.setStream n ((t.stream n).setState st)) s

/-- Step 1 of a rewind, on behalf of an agent. -/
def State.beginRewind (s : State) (part ctx : Nat) (t : BitVec 16) (issuer : Nat) : State :=
  match s.ctx? part ctx with
  | none => s
  | some c =>
    let ns := s.runningStreams part ctx
    ((s.setStates ns 2).setCtxLog part ctx { c with
      st := .stopped, stopReq := false, rwact := true, rewound := some (t.toNat, issuer), stoppedStreams := c.stoppedStreams ++ ns }).saveShadows part ctx

/-- The number that stands for the device as the issuer of a rollback. -/
def deviceIssuer : Nat := 20

def execRwnd (force : Bool) (d a b : SReg) (s : State) : Host.Outcome State Fault Refusal :=
  s.privileged fun s =>
    let g := s.run
    let w := g.pos (.s a)
    let t : BitVec 16 := (g.pos (.s b)).setWidth 16
    let r := s.rewindCheck (opPart w) (opCtx w) t force
    if r.1 != 0 then .next (s.done (g.setS d (rewindWord r)) 1)
    else
      let s1 := (s.charge 1).beginRewind (opPart w) (opCtx w) t g.gid
      .next (s1.setRun { g with wait := .rewind d (opPart w) (opCtx w) t.toNat })

def execRwndChk (d a b : SReg) (s : State) : Host.Outcome State Fault Refusal :=
  s.privileged fun s =>
    let g := s.run
    let w := g.pos (.s a)
    .next (s.done (g.setS d (rewindWord (s.rewindCheck (opPart w) (opCtx w) ((g.pos (.s b)).setWidth 16) false))) 1)

/-- RWND.cmt: every window is committed, and an unanchored one opens (R273). -/
def execRwndCmt (d a : SReg) (s : State) : Host.Outcome State Fault Refusal :=
  s.privileged fun s =>
    let g := s.run
    let part := opPart (g.pos (.s a))
    let ctx := opCtx (g.pos (.s a))
    let answer (t : State) (r : Nat × Nat) : Host.Outcome State Fault Refusal := .next (t.done (t.run.setS d (rewindWord r)) 1)
    match s.ctx? part ctx with
    | none => answer s (3, 0)
    | some c =>
      if !c.logs || s.ownCtx part ctx then answer s (3, 0)
      else if c.rwact then answer s (4, 0)
      else
        let empty := { c with windows := [], records := [], bursts := [], fill := Vector.replicate 8 0, full := false }
        answer (s.pushWindow part ctx empty (c.curWin + 1) false false) (0, c.windows.length)

/-! ## Discarding what runs (R275, steps 2 and 3; R394) -/

/-- Commands that meet a condition end with a status. -/
def State.cancelCmds (s : State) (p : Cmd → Bool) (status : Nat) : State :=
  let held := s.patch.flatMap fun x => x.2.filter p
  let s1 := { s with patch := (s.patch.map fun x => (x.1, x.2.filter (!p ·))).filter (!·.2.isEmpty) }
  let s2 := held.foldl (fun (t : State) (c : Cmd) =>
    let x := t.engine c.src
    t.setEngine c.src { x with cmds := x.cmds ++ [c] }) s1
  let cs := s2.engines.flatMap fun x => (x.2.cmds.filter p).map fun c => (x.1, c)
  cs.foldl (fun t x => match x.2.st with
    | .finished _ => t
    | _ => t.finishCmd x.1 x.2 status) s2

/-- A buffered store of a context. -/
def BufEntry.isOf (e : BufEntry) (part ctx : Nat) : Bool := e.part == part && e.ctx == ctx

/-- The buffers that hold stores of a context perform, as far as logs have room. -/
def State.flushCtx (s : State) (part ctx : Nat) : State :=
  (s.cores.filter fun c => c.2.buf.any (·.isOf part ctx)).foldl (fun t kc => t.drainBuf kc.1) s

/-- Stores of a killed context that its log had no room for perform without capture: the log is abandoned (R394). -/
def State.flushRest (s : State) (part ctx : Nat) : State :=
  (s.cores.filter fun c => c.2.buf.any (·.isOf part ctx)).foldl (fun t kc =>
    let c := t.core kc.1
    (c.buf.filter (·.isOf part ctx)).foldl (fun u e => u.perform e.sector e.bytes false e.part e.ctx e.grid)
      (t.setCore kc.1 { c with buf := c.buf.filter (!·.isOf part ctx) })) s

/-- The grids of a context. -/
def State.ctxGrids (s : State) (part ctx : Nat) : List Grid :=
  (s.grids.filter fun g => g.2.part == part && g.2.ctx == ctx).map (·.2)

/-- Exact cells that a grid of a list opened are dropped. -/
def State.dropCells (s : State) (ids : List Nat) : State :=
  { s with slices := s.slices.map fun q => (q.1, { q.2 with cells := q.2.cells.filter fun c => !ids.contains c.grid }) }

/-- LD.inv reuse entries of a context are dropped. -/
def State.dropCtxInv (s : State) (part ctx : Nat) : State :=
  let bad (e : ReuseEntry) : Bool := e.key.tag.isSome && e.key.part == part && e.key.ctx == ctx
  (s.cores.filter fun c => c.2.reuse.any bad).foldl (fun t kc =>
    let c := t.core kc.1
    (t.setCore kc.1 { c with reuse := c.reuse.filter (!bad ·) }).freeRegs kc.1) s

/-- Everything of a context that runs is discarded without a save; its commands and packets end with a status, but for the packet of
the grid that `keep` names. -/
def State.discardCtx (s : State) (part ctx status : Nat) (keep : Option Nat) : State :=
  let gs := s.ctxGrids part ctx
  let ids := gs.map (·.id)
  let s1 := ((s.cancelCmds (fun c => c.part == part && c.ctx == ctx && c.grid != 0) status).flushCtx part ctx).flushRest part ctx
  let s2 := (s1.teams.filter fun t => ids.contains t.2.grid).foldl (fun t k => t.discardTeam k.1) s1
  let s3 := ((s2.dropCells ids).dropCtxInv part ctx).dropScales part ctx
  let s4 := { s3 with grids := s3.grids.filter fun g => !ids.contains g.1 }
  (gs.filter fun g => keep != some g.id).foldl (fun t g => t.tellLaunch g status) s4

/-! ## Restoring memory and streams (R275, steps 4 and 6) -/

/-- The SECT records of windows are applied, the newest first, and cached copies of their lines are dropped (DEDUCED, log 58). -/
def State.undo (s : State) (c : Ctx) (nums : List (BitVec 16)) : State :=
  let rs := (c.records.filter fun r => recKindLog r.2 == 0 && nums.contains (recWin r.2)).map (·.2)
  let lines := (rs.map fun r => recPa r / 128 * 128).dedup
  { s with
    mem := rs.reverse.foldl (fun m r => Memory.write m (recPa r) (leBytes (recOld r).toNat 32)) s.mem
    clusters := s.clusters.map fun k => (k.1, { k.2 with lines := k.2.lines.filter fun l => !lines.contains l.line }) }

/-- A stream returns to a consumed position; later packets are taken again. -/
def State.rewindStream (s : State) (part ctx n q : Nat) : State :=
  let x := s.stream n
  if x.part != part || x.ctx != ctx then s
  else s.putStream n { x with
    w2 := BitVec.ofNat 64 ((q + 1) % 2 ^ 32 * 2 ^ 32) ||| (x.w2.setWidth 32).setWidth 64
    lastTaken := q, lastDone := q, taken := x.taken.filter fun t => !seqGe t.seq ((q + 1) % 2 ^ 32) }

/-! ## Rebuilding the grid of a WMARK window (R275, step 7) -/

/-- A snapshot's group enters its core again, its registers written through WriteResult. -/
def State.rebuildGroup (s : State) (g : Group) (slot block : Nat) : State :=
  let old : Group := { g with slot := slot, block := block, v := Vector.replicate 256 0, lastIssue := s.turn }
  { s with groups := Tbl.put s.groups g.gid old }.as old fun t =>
    (List.range g.budget).foldl (fun u r => (u.writeResult r (g.reg r) false).1) t

/-- A snapshot's team is placed on its core, where it fits. -/
def State.rebuildTeam (s : State) (p : Snapshot) (t : Team) : Option State :=
  (s.fit p.grid t.team t.core).map fun x =>
    let key := teamKey t.grid t.team
    let k := spadKey (x.core / 24) (x.core % 24) x.base
    let base := groupId key 0 * 2 ^ 20
    let cells := p.windows.filter fun c => decide (base ≤ c.1) && decide (c.1 < base + 1024 * t.winRows)
    let s1 := { s with
      nextId := s.nextId + 1
      teams := Tbl.put s.teams key { t with winBase := x.base, winBanks := x.banks, winGen := s.nextId, placedAt := s.time, ceil := 32 }
      spad := cells.foldl (fun m c => Memory.set m (k + (c.1 - base)) c.2) (Memory.clear s.spad k (1024 * t.winRows)) }
    let gs := (p.groups.filter (·.inTeam key)).mergeSort fun a b => a.num ≤ b.num
    (gs.zip x.groups).foldl (fun u y => u.rebuildGroup y.1 y.2.1 y.2.2) s1

/-- All teams of a snapshot, or none. -/
def State.rebuildTeams (s : State) (p : Snapshot) : List Team → Option State
  | [] => some s
  | t :: ts => (s.rebuildTeam p t).bind fun s1 => s1.rebuildTeams p ts

/-- The packet of a rebuilt grid is outstanding again. -/
def State.retake (s : State) (g : Grid) : State :=
  let x := s.stream g.stream
  if g.lnch.isSome then s
  else if x.taken.any (·.seq == g.seq) then s.mapTaken g.stream g.seq fun t => { t with grid := some g.id, done := none }
  else
    let words := BitVec.ofNat 64 (g.seq * 2 ^ 32 + 2 ^ 24) :: List.replicate 6 0 ++ [g.utag.setWidth 64]
    s.setStream g.stream { x with taken := { seq := g.seq, words := words, grid := some g.id } :: x.taken }

/-- The grid of a snapshot is as it was: its teams, windows, FIFOs and cells; where a team does not fit, the grid waits. -/
def State.rebuild (s : State) (p : Snapshot) : Option State :=
  (s.rebuildTeams p p.teams).map fun s1 =>
    let s2 := (s1.setGrid p.grid.id p.grid).retake p.grid
    let s3 := p.fifos.foldl (fun t f => t.setBank f.1 f.2.1 { t.bank f.1 f.2.1 with head := f.2.2.head, entries := f.2.2.entries }) s2
    p.cells.foldl (fun t c =>
      let q := t.slice (homeSlice c.loc)
      t.setSlice (homeSlice c.loc) { q with cells := q.cells ++ [c] }) s3

/-! ## The end of a rewind (R275, steps 8 and 9; R279) -/

/-- The ORDR records of a window, oldest first. -/
def Ctx.ordrOf (c : Ctx) (w : BitVec 16) : List (BitVec 512) := (c.records.filter fun r => recKindLog r.2 == 8 && recWin r.2 == w).map (·.2)

/-- The recorded order of a window's atomics, by slice: those of its latest run, and behind them what that run, where it was a replay of the
current window, had still to perform (R279) (DEDUCED, log 96). -/
def Ctx.ordersOf (c : Ctx) (w : Window) : List (Nat × List (Nat × Nat × Nat)) :=
  let made := ((c.ordrOf w.num).drop w.past).foldl (fun t r =>
    let x := (recOld r).toNat
    Tbl.put t (recSlice r) (Tbl.get [] t (recSlice r) ++ [(x % 2 ^ 32, x / 2 ^ 32 % 32, x / 2 ^ 37 % 32)])) ([] : Tbl (List (Nat × Nat × Nat)))
  if c.curWin = w.num then c.orders.foldl (fun t o => Tbl.put t o.1 (Tbl.get [] t o.1 ++ o.2)) made else made

/-- Keeps the records that meet a condition. -/
def Ctx.keepRecords (c : Ctx) (p : BitVec 512 → Bool) : Ctx :=
  { c with
    records := c.records.filter fun r => p r.2
    fill := Vector.ofFn fun i : Fin 8 => c.fill[i] - 64 * c.records.countP fun r => !p r.2 && r.1 == i.val }

/-- The context after a rewind to `w`: newer windows and their records are gone, and `w` is current without its SECT records. -/
def Ctx.rewoundTo (c : Ctx) (w : Window) : Ctx :=
  let old := c.windows.takeWhile (·.num != w.num)
  let gone := (c.since w.num).tail.map (·.num)
  let c1 := c.keepRecords fun r => !gone.contains (recWin r) && !(recKindLog r == 0 && recWin r == w.num)
  { c1 with
    windows := old ++ [{ w with past := (c.ordrOf w.num).length }], captured := [], full := false, rwact := false, rewound := none
    orders := c.ordersOf w, orderAt := [] }

/-- The streams that a rewind stopped run again, and slices wait for the recorded atomics from now on (R279, R398). -/
def State.restartStreams (s : State) (part ctx : Nat) : State :=
  match s.ctx? part ctx with
  | none => s
  | some c =>
    let ns := c.stoppedStreams.filter fun n =>
      let x := s.stream n
      x.part == part && x.ctx == ctx && x.state == 2
    (s.setStates ns 1).setCtx part ctx { c with stoppedStreams := [], st := .live, orderAt := c.orders.map fun o => (o.1, s.time) }

/-- The issuer of a rewind gets its status; a rollback resumes the context and posts its record (R277). -/
def State.tellRewind (s : State) (part ctx issuer n : Nat) : State :=
  if issuer = deviceIssuer then
    (s.restartStreams part ctx).postSystem (s.supCl part ctx) (mkRecord (ctx * 2 ^ 15 + part * 2 ^ 21) (n * 2 ^ 16) 0xFFF 0xFF 3 cUNCORR)
  else
    match s.group? issuer with
    | some g => match g.wait with
      | .rewind d _ _ _ => s.setGroup (g.setS d (rewindWord (0, n))).wake
      | _ => s
    | none => s

/-- A group of the context is inside a clause and goes on to its boundary: it is the agent that runs, or waits for nothing
(R275). One that waits at an instruction stands at its resume point (R374, R375). -/
def State.runsIn (s : State) (part ctx : Nat) : Bool :=
  (s.active && s.run.kind == .compute && s.run.part == part && s.run.ctx == ctx)
    || s.groups.any fun x => x.2.kind == .compute && x.2.part == part && x.2.ctx == ctx && x.2.core != noCore && x.2.clause.isSome
        && x.2.wait == .none && (match x.2.run with
          | .ready | .stopping | .acked _ _ => true
          | .stopped _ | .ended | .off => false)

/-- REWIND_FINISH: steps 2 to 9 of R275. A rewind whose grid cannot be placed stays in progress (DEDUCED, log 58). -/
def execRewindFinish (part ctx : Nat) (s : State) : Host.Outcome State Fault Refusal :=
  match s.ctx? part ctx with
  | none => .next s
  | some c0 =>
    match c0.rewound with
    | none => .next s
    | some (t, issuer) =>
      if s.runsIn part ctx then .next s
      else
        match c0.since (BitVec.ofNat 16 t) with
        | [] => .next s
        | w :: ws =>
          let s0 := s.flushCtx part ctx
          if s0.cores.any fun x => x.2.buf.any (·.isOf part ctx) then .next s0
          else
          let s1 := (s0.discardCtx part ctx 3 (w.snap.map (·.grid.id))).flushBursts part ctx
          match s1.ctx? part ctx with
          | none => .next s1
          | some c =>
            let s2 := s1.undo c ((w :: ws).map (·.num))
            match (match w.snap with
              | some p => s2.rebuild p
              | none => some s2) with
            | none => .next s2
            | some s3 =>
              let s4 := if w.auto then w.positions.foldl (fun u p => u.rewindStream part ctx p.1 p.2) s3 else s3
              let c1 := (s4.ctx? part ctx).getD c
              .next ((s4.setCtxLog part ctx (c1.rewoundTo ((c1.since w.num).headD w))).tellRewind part ctx issuer (ws.length + 1))

end Sys2Proof.Machine
end

