-- ==== Sys2Proof/Machine/Scalar.lean ====
section
/-! DEFINITION. Registers IV: scalar arithmetic and moves, selectors and control registers (R173-R183). -/

namespace Sys2Proof.Machine

/-! ## Scalar arithmetic (R178) -/

/-- Width and signedness of a scalar type (R178). -/
def Ty.scaW : Ty → Nat
  | .s32 | .n32 => 32
  | _ => 64
def Ty.scaSigned : Ty → Bool
  | .n32 | .n64 => false
  | _ => true

/-- The second operand as 64 bits: IMM32 sign-extended for TY 0, 1 and 14 and zero-extended for TY 2 and 15 (R178). -/
def Group.sop (g : Group) (ty : Ty) : SOp → Word
  | .imm v => if ty = .n32 ∨ ty = .n64 then v.setWidth 64 else v.signExtend 64
  | .pos p => g.pos p

/-- A result of `w` bits extended as its type says to 64 bits (R178). -/
def scaResult (ty : Ty) (x : Nat) : Word :=
  if ty = .s32 then sext64 32 x else BitVec.ofNat 64 (x % 2 ^ Ty.scaW ty)

/-- The two operands as numbers of the type. -/
def Group.scaA (g : Group) (ty : Ty) (a : SPos) : Int := readInt (Ty.scaSigned ty) (Ty.scaW ty) (g.pos a).toNat
def Group.scaB (g : Group) (ty : Ty) (b : SOp) : Int := readInt (Ty.scaSigned ty) (Ty.scaW ty) (g.sop ty b).toNat

/-- An instruction that writes one scalar position and goes on (R176). -/
def State.scalar (s : State) (d : SPos) (x : Word) : State := s.done (s.run.setPos d x) 1

def execSadd (ty : Ty) (d a : SPos) (b : SOp) (s : State) : Host.Outcome State Fault Refusal :=
  .next (s.scalar d (scaResult ty (wrapInt (Ty.scaW ty) (s.run.scaA ty a + s.run.scaB ty b))))

def execSsub (ty : Ty) (d a : SPos) (b : SOp) (s : State) : Host.Outcome State Fault Refusal :=
  .next (s.scalar d (scaResult ty (wrapInt (Ty.scaW ty) (s.run.scaA ty a - s.run.scaB ty b))))

/-- `.lo` keeps the low w bits of the product, `.hi` its floor division by 2^w (R178). -/
def execSmul (ty : Ty) (hi : Bool) (d a : SPos) (b : SOp) (s : State) : Host.Outcome State Fault Refusal :=
  let p := s.run.scaA ty a * s.run.scaB ty b
  .next (s.scalar d (scaResult ty (wrapInt (Ty.scaW ty) (if hi then p / 2 ^ (Ty.scaW ty) else p))))

def execSlog (op : SLogOp) (d a : SPos) (b : SOp) (s : State) : Host.Outcome State Fault Refusal :=
  let x := s.run.pos a
  let y := s.run.sop .b32 b
  .next (s.scalar d (match op with
    | .and => x &&& y
    | .or => x ||| y
    | .xor => x ^^^ y
    | .andn => x &&& ~~~y))

def execSshf (ty : Ty) (op : ShiftOp) (d a : SPos) (b : SOp) (s : State) : Host.Outcome State Fault Refusal :=
  .next (s.scalar d (scaResult ty (shiftBits op (Ty.scaW ty) (s.run.pos a).toNat ((s.run.sop ty b).toNat % 256))))

/-- The result of SCMP is extended as a signed value (R178). -/
def execScmp (ty : Ty) (d a : SPos) (b : SOp) (s : State) : Host.Outcome State Fault Refusal :=
  let x := s.run.scaA ty a
  let y := s.run.scaB ty b
  .next (s.scalar d (if x < y then -1 else if x = y then 0 else 1))

def execSmin (ty : Ty) (max : Bool) (d a : SPos) (b : SOp) (s : State) : Host.Outcome State Fault Refusal :=
  let x := s.run.scaA ty a
  let y := s.run.scaB ty b
  .next (s.scalar d (scaResult ty (wrapInt (Ty.scaW ty) (if max then (if x < y then y else x) else (if y < x then y else x)))))

/-- SBIT; `.ext` with TY 0 zero-extends (R110) (DEDUCED, log 27). -/
def execSbit (ty : Ty) (op : SBitOp) (d a : SPos) (b : SOp) (s : State) : Host.Outcome State Fault Refusal :=
  let w := Ty.scaW ty
  let x := (s.run.pos a).toNat % 2 ^ w
  let y := (s.run.sop ty b).toNat
  .next (s.scalar d (scaResult ty (match op with
    | .ext => extField (ty == .s32 || ty == .s64) w x (y % 256) (y / 256 % 256)
    | .pop => countOnes x w
    | .clz => leadZeros x w
    | .ctz => trailZeros x 0 w)))

def execSdiv (ty : Ty) (rem : Bool) (d a : SPos) (b : SOp) (s : State) : Host.Outcome State Fault Refusal :=
  let x := s.run.scaA ty a
  let y := s.run.scaB ty b
  .next (s.scalar d (scaResult ty (if rem then remInt (Ty.scaW ty) x y else divInt (Ty.scaW ty) x y)))

/-! ## Moves and selection (R179-R181) -/

def execSmovi (form : MoviForm) (zext : Bool) (d : SPos) (imm : BitVec 32) (s : State) :
    Host.Outcome State Fault Refusal :=
  let old := s.run.pos d
  .next (s.scalar d (match form with
    | .whole => if zext then imm.setWidth 64 else imm.signExtend 64
    | .hi => imm ++ old.setWidth 32
    | .lo => old.extractLsb' 32 32 ++ imm))

def execSmov (d b : SPos) (_nr : Bool) (s : State) : Host.Outcome State Fault Refusal := .next (s.scalar d (s.run.pos b))

/-- The lane is read whether or not it is active (R180). -/
def execSmovLane (wide : Bool) (d : SReg) (a : RegNo) (k : BitVec 5) (nr : Bool) (s : State) :
    Host.Outcome State Fault Refusal :=
  s.checked (.smovLane wide d a k nr) fun s =>
    s.scalar (.s d) (if wide then s.run.lane64 a.toNat k.toNat else (lane (s.run.reg a.toNat) k.toNat).setWidth 64)

def execSsel (d a b c : SPos) (_nr : Bool) (s : State) : Host.Outcome State Fault Refusal :=
  .next (s.scalar d (if s.run.pos c = 0 then s.run.pos b else s.run.pos a))

/-! ## Control registers and selectors (R173-R177, R182, R183, R344) -/

/-- A field of a cluster control register stored at the nearest value of its range (R344). -/
def clampField (v : Word) (lo len minV maxV : Nat) : Word :=
  BitVec.ofNat 64 (max minV (min maxV (v.extractLsb' lo len).toNat) * 2 ^ lo)

/-- A signed field of 5 bits, -12 to +8 (R344). -/
def clampBias (v : Word) (lo : Nat) : Word :=
  let x := (v.extractLsb' lo 5).toInt
  BitVec.ofNat 64 ((wrapInt 5 (max (-12) (min 8 x))) * 2 ^ lo)

/-- A cluster control register (R173). -/
def Cluster.ctl (c : Cluster) : Ctl → Word
  | .balth => c.balth
  | .baltt => c.baltt
  | .baldly => c.baldly
  | .dampmin => c.dampmin
  | .bias => c.bias
  | _ => 0

/-- Writes a cluster control register: each field at the nearest value of its range, reserved bits ignored, and 0 in MIN leaves
it unchanged (R344). -/
def Cluster.setCtl (c : Cluster) (r : Ctl) (v : Word) : Cluster :=
  match r with
  | .balth => { c with balth := clampField v 16 12 400 3000 ||| clampField v 0 11 100 1200 }
  | .baltt => { c with baltt := clampField v 16 12 400 3000 ||| clampField v 0 11 100 1200 }
  | .baldly => { c with baldly := clampField v 0 8 5 160 }
  | .dampmin => if v &&& 3 = 0 then c else { c with dampmin := v &&& 3 }
  | .bias => { c with bias := clampBias v 8 ||| clampBias v 0 }
  | _ => c

/-- A control register as the running agent reads it (R173, R174). -/
def State.readCtl (s : State) (c : Ctl) : Word :=
  let g := s.run
  let team := (s.team? g.teamKey).getD {}
  match c with
  | .rm => g.rm.setWidth 64
  | .fte => g.fte.setWidth 64
  | .mmode => if g.mmode then 1 else 0
  | .burnauto => if team.burnAuto then 1 else 0
  | .shuntauto => if team.shuntAuto then 1 else 0
  | .tvt => g.tvt.setWidth 64
  | c => (s.cluster g.cluster).ctl c

/-- A control register write by the running agent (R173, R174, R344). -/
def State.writeCtl (s : State) (c : Ctl) (v : Word) : State :=
  let g := s.run
  let setTeam (f : Team → Team) : State :=
    match s.team? g.teamKey with
    | some t => s.setTeam g.teamKey (f t)
    | none => s
  match c with
  | .rm => if (v &&& 7).toNat < 6 then s.setRun { g with rm := v.setWidth 3 } else s
  | .fte => s.setRun { g with fte := v.setWidth 6 }
  | .mmode => s.setRun { g with mmode := v.getLsbD 0 }
  | .burnauto => setTeam fun t => { t with burnAuto := v.getLsbD 0 }
  | .shuntauto => setTeam fun t => { t with shuntAuto := v.getLsbD 0 }
  | .tvt => s.setRun { g with tvt := v.setWidth 56 &&& ~~~7 }
  | c => s.setCluster g.cluster ((s.cluster g.cluster).setCtl c v)

/-- What SRD reads (R175). `$lane` is per lane and has no scalar value. What `$part`, `$ctx`, `$window`, `$perf` and the selectors of a
group read on a control or scheduler core is the model's choice (DESIGN CHOICE, log 101). -/
def State.selector (s : State) (sel : Sel) : Word :=
  let g := s.run
  let n (x : Nat) : Word := BitVec.ofNat 64 x
  let k := s.cluster g.cluster
  match sel with
  | .lane => 0
  | .group => n g.num
  | .role => n g.role
  | .team => n g.team
  | .grid => n ((s.grid? g.grid).elim 0 (·.id % 2 ^ 32))
  | .core => n (g.core % 24)
  | .cluster => n g.cluster
  | .flue => n (g.core % 24 / 2)
  | .tier => n (g.core % 2)
  | .flmis => BitVec.ofInt 64 (k.flue.toList.getD (g.core % 24 / 2) 0)
  | .clmis => BitVec.ofInt 64 k.reading
  | .time => n s.time
  | .cyc => s.cycOf g
  | .cap => n (2 ^ 56 + 0x1000)
  | .part => n g.part
  | .ctx => n (((s.desc g.part g.ctx)[0].extractLsb' 52 12).toNat * 2 ^ 16 + g.ctx)
  | .window => match s.ctx? g.part g.ctx with
    | some c => if c.logs then c.curWin.setWidth 64 else 0
    | none => 0
  | .depth => n (g.stack.length + g.mdepth)
  | .live => g.live.setWidth 64
  | .perf i =>
    let c := s.core g.core
    let w := c.sels[i.toNat]
    if (w.extractLsb' 8 6).toNat = g.ctx && (w.extractLsb' 14 6).toNat = g.part then c.ctrs[i.toNat] else 0
  | .ctl c => s.readCtl c

def execSrd (sel : Sel) (d : SrdDst) (nr : Bool) (s : State) : Host.Outcome State Fault Refusal :=
  match d with
  | .sca r => .next (s.scalar (.s r) (s.selector sel))
  | .vec wide r =>
    s.checked (.srd sel d nr) fun s =>
      let val (t : Nat) : Word := if sel = .lane then BitVec.ofNat 64 t else s.selector sel
      s.vecDone (.srd sel d nr)
        (if wide then s.run.put64 r {} val else s.run.put32 r {} fun t => (val t).setWidth 32) 0 1

def execSwr (op : SwrOp) (c : Ctl) (b : SPos) (_nr : Bool) (s : State) : Host.Outcome State Fault Refusal :=
  let x := s.run.pos b
  let old := s.readCtl c
  let t := s.writeCtl c (match op with
    | .write => x
    | .set => old ||| x
    | .clr => old &&& ~~~x)
  .next (t.done t.run 1)

end Sys2Proof.Machine
end

