-- ==== Sys2Proof/Machine/System.lean ====
section
/-! DEFINITION. Traps, pre-emption and context switch: the system instructions, kills, uncorrectable errors, and the change lists of the
partition table (R277, R332, R339-R341, R370, R393-R402). -/

namespace Sys2Proof.Machine

/-! ## TLBI (R332, R396) -/

/-- A translation is covered by a TLBI: 0 a range of an address-space id, 1 an address-space id, otherwise everything. -/
def tlbiCovers (form lo len asid : Nat) (e : TlbEntry) : Bool :=
  if form = 0 then e.asid == asid && decide (e.va < lo + len) && decide (lo < e.va + e.size)
  else if form = 1 then e.asid == asid else true

def State.tlbi (s : State) (form lo len asid : Nat) : Host.Outcome State Fault Refusal :=
  s.privileged fun s => .next ((s.charge 1).setRun { s.run with wait := .tlbi form lo len asid })

/-- The range begins at sa and holds 2^sb[5:0] bytes, the exponent clamped to 12-56. -/
def execTlbiRng (a b : SReg) (s : State) : Host.Outcome State Fault Refusal :=
  let w := s.run.pos (.s b)
  s.tlbi 0 (s.run.pos (.s a)).toNat (2 ^ max 12 (min 56 (bitsOf w 0 6))) (bitsOf w 32 12)

def execTlbiAsid (b : SReg) (s : State) : Host.Outcome State Fault Refusal := s.tlbi 1 0 0 (bitsOf (s.run.pos (.s b)) 32 12)

def execTlbiAll (s : State) : Host.Outcome State Fault Refusal := s.tlbi 2 0 0 0

/-- Every cache drops what a TLBI covers; pointer caches drop every pointer of the address-space id. -/
def State.dropTlb (s : State) (form lo len asid : Nat) : State :=
  let keep (e : TlbEntry) : Bool := !tlbiCovers form lo len asid e
  { s with
    cores := s.cores.map fun c => (c.1, { c.2 with tlb := c.2.tlb.filter keep })
    clusters := s.clusters.map fun c => (c.1, { c.2 with tlb := c.2.tlb.filter keep })
    dev := { s.dev with pointers := s.dev.pointers.map fun p => (p.1, p.2.filter fun x => form < 2 && x.1 != asid) } }

/-- The buffered stores of every core perform as far as the logs have room. -/
def State.drainAll (s : State) : State := (s.cores.map (·.1)).foldl (fun t n => t.drainBuf n) s

/-- A running command has still to make writes whose addresses were translated for a context that a TLBI covers (R332). -/
def State.usesOld (s : State) (form asid : Nat) (c : Cmd) : Bool :=
  (2 ≤ form || s.asid c.part c.ctx == asid) && match c.st with
    | .running ws => ws.any fun w => w.space == 0 || w.space == 3 || w.space == 6
    | _ => false

/-- TLBI_COMPLETE: the accesses that used covered entries have performed, and the entries are gone (R332). -/
def execTlbiComplete (gid : Nat) (s : State) : Host.Outcome State Fault Refusal :=
  match s.group? gid with
  | none => .next s
  | some g =>
    match g.wait with
    | .tlbi form lo len asid =>
      let s1 := s.drainAll.dropTlb form lo len asid
      let busy := s1.cores.any (fun c => !c.2.buf.isEmpty) || s1.engines.any fun e => e.2.cmds.any (s1.usesOld form asid)
      .next (if busy then s1 else s1.setGroup ((s1.group? gid).getD g).wake)
    | _ => .next s

/-- TRANSLATION_WALK: a walk for a core on behalf of the context that has an address-space id (R327, R333). -/
def execTranslationWalk (core asid va : Nat) (write : Bool) (s : State) : Host.Outcome State Fault Refusal :=
  match s.ctxs.find? fun c => bitsOf c.2.desc[0] 52 12 == asid with
  | some c =>
    let part := c.1 / 64
    let ctx := c.1 % 64
    .next (s.walkInstall core part ctx va (if write then .wr else .rd) (!s.ctxSup part ctx)).1
  | none => .next s

/-! ## Answers and checks of CTXS and CTXL (R395) -/

/-- A status goes to sd, and the group goes on. -/
def State.answer (s : State) (d : SReg) (status : Nat) : State := s.done (s.run.setS d (BitVec.ofNat 64 status)) 1

/-- The first status that a context operation fails with: 1, 5, 4; where `live` is set also 2 for a context that is not LIVE. -/
def State.ctxFails (s : State) (part ctx : Nat) (live : Bool) : Option Nat :=
  match s.ctx? part ctx with
  | none => some 1
  | some c =>
    if s.ownCtx part ctx then some 5
    else if c.rwact then some 4
    else if live && c.st != .live then some 2
    else none

/-- A context operation: its checks, then its effect. -/
def State.ctxOp (s : State) (d a : SReg) (live : Bool) (k : State → Nat → Nat → State) : Host.Outcome State Fault Refusal :=
  s.privileged fun s =>
    let w := s.run.pos (.s a)
    match s.ctxFails (opPart w) (opCtx w) live with
    | some st => .next (s.answer d st)
    | none => .next (k s (opPart w) (opCtx w))

/-- The keys of the resident teams of a context. -/
def State.residentTeams (s : State) (part ctx : Nat) : List Nat :=
  (s.teams.filter fun t => t.2.at' == .resident && (s.grid? t.2.grid).any fun g => g.part == part && g.ctx == ctx).map (·.1)

/-- Forced saves of every resident team of a context. -/
def State.saveCtx (s : State) (part ctx : Nat) : State := (s.residentTeams part ctx).foldl (fun t k => t.saveTeam k false) s

/-- Saves of teams that a CTXS has asked for: it is done once none of them waits, for its stores or for acknowledgements (R228, R397). -/
def State.awaitSaves (s : State) (d : SReg) (part ctx : Nat) (keys : List Nat) : State :=
  if keys.any fun k => (s.team? k).any fun t => t.at' == .resident && t.pre then
    (s.charge 1).setRun { s.run with wait := .evict d part ctx }
  else s.answer d 0

/-! ## CTXS (R370, R397) -/

/-- CTXS.stop: the context's streams take nothing more, and the group waits for its taken packets. -/
def execCtxsStop (d a : SReg) (s : State) : Host.Outcome State Fault Refusal :=
  s.ctxOp d a true fun s part ctx =>
    match s.ctx? part ctx with
    | some c => ((s.charge 1).setCtx part ctx { c with stopReq := true }).setRun { s.run with wait := .stop d part ctx }
    | none => s

def execCtxsSave (d a : SReg) (s : State) : Host.Outcome State Fault Refusal :=
  s.ctxOp d a true fun s part ctx => ((s.saveCtx part ctx).saveShadows part ctx).awaitSaves d part ctx (s.residentTeams part ctx)

/-- CTXS.evict waits until every team that it pre-empts has been saved. -/
def execCtxsEvict (d a : SReg) (s : State) : Host.Outcome State Fault Refusal :=
  s.ctxOp d a true fun s part ctx =>
    let keys := s.residentTeams part ctx
    ((keys.foldl (fun t k => t.preempt k) s).saveShadows part ctx).awaitSaves d part ctx keys

/-- CTXS.team: a core or a slot that holds no team of the context gives status 1 (DEDUCED, log 61). -/
def execCtxsTeam (d a b : SReg) (s : State) : Host.Outcome State Fault Refusal :=
  let w := s.run.pos (.s b)
  s.ctxOp d a false fun s part ctx =>
    match s.allGroups.find? fun g => g.kind == .compute && g.core == bitsOf w 0 9 && g.slot == bitsOf w 9 6 && g.part == part && g.ctx == ctx with
    | some g => ((s.saveTeam g.teamKey false).saveShadows part ctx).awaitSaves d part ctx [g.teamKey]
    | none => s.answer d 1

/-- Agents that wait for the end of a context stop go on with a status. -/
def State.wakeStop (s : State) (part ctx status : Nat) : State :=
  s.mapGroups (fun g => match g.wait with
      | .stop _ p c => p == part && c == ctx
      | _ => false) fun g => match g.wait with
    | .stop d _ _ => (g.setS d (BitVec.ofNat 64 status)).wake
    | _ => g

/-- The issuer of a rewind whose context is killed gets status 5 (R274). -/
def State.wakeRewind (s : State) (part ctx : Nat) : State :=
  s.mapGroups (fun g => match g.wait with
      | .rewind _ p c _ => p == part && c == ctx
      | _ => false) fun g => match g.wait with
    | .rewind d _ _ _ => (g.setS d 5).wake
    | _ => g

/-- Every packet that the context's streams have taken has completed (R370) (DEDUCED, log 53). -/
def State.packetsDone (s : State) (part ctx : Nat) : Bool :=
  s.streams.all fun x => !(x.2.part == part && x.2.ctx == ctx) || x.2.taken.isEmpty

/-- CONTEXT_STOP_COMPLETE: the resident teams take forced saves, and the context is STOPPED (R370, R397). A rewind that stopped it
meanwhile ends the wait too (DEDUCED, log 53). -/
def execContextStopComplete (part ctx : Nat) (s : State) : Host.Outcome State Fault Refusal :=
  match s.ctx? part ctx with
  | none => .next s
  | some c =>
    if c.st == .stopped then .next (s.wakeStop part ctx 0)
    else if c.stopReq && s.packetsDone part ctx && !s.runsIn part ctx then
      let s1 := (s.saveCtx part ctx).saveShadows part ctx
      match s1.ctx? part ctx with
      | some x => if !(s1.residentTeams part ctx).isEmpty then .next s1 else .next ((s1.setCtx part ctx { x with st := .stopped, stopReq := false }).wakeStop part ctx 0)
      | none => .next s1
    else .next s

/-! ## Context descriptors (R382) -/

/-- A watch word is valid (R369). -/
def watchOk (w : Word) : Bool := !w.getLsbD 63 || (bitsOf w 61 2 != 0 && decide (bitsOf w 56 5 ≤ 24) && bitsOf w 0 56 % 2 ^ bitsOf w 56 5 == 0)

/-- Bits of each descriptor word that hold no field (DEDUCED, log 64). -/
def descReserved : List (Nat × Nat × Nat) :=
  [(0, 0, 14), (1, 0, 15), (1, 52, 12), (2, 18, 46), (3, 0, 4), (3, 56, 8), (4, 32, 32), (5, 0, 12), (5, 52, 12), (6, 32, 32),
   (7, 12, 10), (7, 52, 12), (8, 0, 3), (8, 56, 8), (9, 0, 3), (9, 56, 8), (11, 5, 7), (11, 52, 12)]

/-- A descriptor is valid but for its ASID: no reserved bit, and every field in its range (DEDUCED, log 64). -/
def descOk (d : Vector Word 16) : Bool :=
  descReserved.all (fun r => bitsOf (d.toList.getD r.1 0) r.2.1 r.2.2 == 0)
    && (!d[1].getLsbD 15 || (decide (16 ≤ bitsOf d[2] 0 18) && decide (bitsOf d[2] 0 18 ≤ 131072)))
    && bitsOf d[7] 0 12 != 0
    && (bitsOf d[10] 44 5 == 0 || (decide (10 ≤ bitsOf d[10] 44 5) && decide (bitsOf d[10] 44 5 ≤ 24)
        && decide (12 ≤ bitsOf d[11] 0 5) && decide (bitsOf d[11] 0 5 ≤ 30)))
    && watchOk d[12] && watchOk d[13] && watchOk d[14] && watchOk d[15]

/-- The descriptor at a device-memory address aligned to 128 bytes. -/
def State.readDesc (s : State) (pa : Nat) : Option (Vector Word 16) :=
  if pa % 128 = 0 ∧ region pa = .dev ∧ pa < 2 ^ 39 then some (Vector.ofFn fun i => Memory.word s.mem (pa + 8 * i.val)) else none

/-- A partition may hold contexts (R334). -/
def State.partOn (s : State) (part : Nat) : Bool := part < 48 && (s.partDesc part).getLsbD 32

/-- A context is created: LIVE, and with window 0 open where it logs (R260, R266). -/
def State.createCtx (s : State) (part ctx : Nat) (d : Vector Word 16) : State :=
  let c : Ctx := { desc := d }
  if c.logs then
    ({ s with mem := Memory.words s.mem (c.logBase + 8) [8#64 <<< 16 ||| 224#64 <<< 8] }).pushWindow part ctx c 0 true true
  else s.setCtx part ctx { c with lastMark := s.time }

/-- CTXL.create. -/
def execCtxlCreate (d a b : SReg) (s : State) : Host.Outcome State Fault Refusal :=
  s.privileged fun s =>
    let w := s.run.pos (.s a)
    let part := opPart w
    let ctx := opCtx w
    if !s.partOn part then .next (s.answer d 1)
    else if s.ownCtx part ctx then .next (s.answer d 5)
    else
      match s.ctx? part ctx, s.readDesc (s.run.pos (.s b)).toNat with
      | some c, _ => .next (s.answer d (if c.rwact then 4 else 2))
      | none, none => .next (s.answer d 3)
      | none, some x =>
        if descOk x && !s.ctxs.any (fun c => bitsOf c.2.desc[0] 52 12 == bitsOf x[0] 52 12) then .next ((s.createCtx part ctx x).answer d 0)
        else .next (s.answer d 3)

/-- An update keeps every field but those of R398, and LOGSZ does not shrink. -/
def descUpd (old new : Vector Word 16) : Bool :=
  [0, 1, 3, 4, 5, 6, 7].all (fun i => old.toList.getD i 0 == new.toList.getD i 0)
    && (old[10] ^^^ new[10]) &&& 0x00F80FFFFFFFFFFF == 0 && decide (bitsOf old[2] 0 18 ≤ bitsOf new[2] 0 18)

/-- CTXL.upd; a log that grows ends a LOGFULL stall (R271). -/
def execCtxlUpd (d a b : SReg) (s : State) : Host.Outcome State Fault Refusal :=
  let at' := (s.run.pos (.s b)).toNat
  s.ctxOp d a false fun s part ctx =>
    match s.ctx? part ctx, s.readDesc at' with
    | some c, some x =>
      if descOk x && descUpd c.desc x then
        (s.setCtxLog part ctx { c with desc := x, full := c.full && bitsOf c.desc[2] 0 18 == bitsOf x[2] 0 18 }).answer d 0
      else s.answer d 3
    | _, _ => s.answer d 3

/-! ## CTXL.resume (R381, R398) -/

/-- The core of a group's team, resident or saved. -/
def State.homeCore (s : State) (g : Group) : Nat := (s.team? g.teamKey).elim g.core (·.core)

/-- A stopped group goes on: from its frame where it has one, which the supervisor may have edited. -/
def State.restart (s : State) (g : Group) : State :=
  match g.run with
  | .stopping => s.setGroup { g with run := .ready }
  | .stopped c =>
    if c = 0 ∨ 256 ≤ c then s.setGroup { g with run := .ready, ahead := none }
    else
      let f := s.frameAt g.part g.ctx (s.homeCore g) g.slot
      let w (i : Nat) : Word := Memory.word s.mem (f + 8 * i)
      let ridx := bitsOf (w 1) 56 5
      let g1 := { g with mmode := (w 6).getLsbD 0 }
      s.setGroup { g1 with
        run := .ready, em := (w 2).extractLsb' 32 32 &&& g1.z, s := g.s.set 63 (w 5), pc := (w 1).setWidth 56
        clause := none, word := 0, ahead := none, resume := if 16 ≤ ridx then none else some ridx
        doneMask := if 16 ≤ ridx then 0 else (w 2).setWidth 32 }
  | _ => s

/-- A group that a supervisor-path stop holds. -/
def Group.held (g : Group) : Bool := g.isStopped || g.run == .stopping

/-- CTXL.resume: a STOPPED context, or a LIVE one with supervisor-path stops (R381) (DEDUCED, log 60). -/
def execCtxlResume (d a : SReg) (s : State) : Host.Outcome State Fault Refusal :=
  s.ctxOp d a false fun s part ctx =>
    let gs := s.allGroups.filter fun g => g.kind == .compute && g.part == part && g.ctx == ctx && g.held
    if gs.isEmpty && (s.ctx? part ctx).any (·.st == .live) then s.answer d 2
    else
      let s1 := gs.foldl State.restart ((s.loadShadows part ctx).restartStreams part ctx)
      (((gs.map Group.teamKey).dedup).foldl State.thaw s1).answer d 0

/-! ## Kills (R394) -/

/-- Untaken packets of a killed context's stream are taken and end with KILLED. -/
def State.killPackets (s : State) (n : Nat) : Nat → State
  | 0 => s
  | k + 1 => if s.slotReady (s.stream n) then (s.takeDone n 5).killPackets n k else s

/-- Packets that a killed context's stream has taken and that are not done end with KILLED. -/
def State.killTaken (s : State) (n : Nat) : State :=
  ((s.stream n).taken.filter (·.done.isNone)).foldl (fun t x => t.packetDone n x.seq 5) s

/-- Reuse entries of a context are dropped (R88). -/
def State.dropReuse (s : State) (p : Nat → Nat → Nat → Bool) : State :=
  let bad (n : Nat) (e : ReuseEntry) : Bool := p n e.key.part e.key.ctx
  (s.cores.filter fun c => c.2.reuse.any (bad c.1)).foldl (fun t kc =>
    let c := t.core kc.1
    (t.setCore kc.1 { c with reuse := c.reuse.filter (!bad kc.1 ·) }).freeRegs kc.1) s

/-- A context is killed, in the order of R394: it is FREE after it (DEDUCED, log 57). -/
def State.killCtx (s : State) (part ctx cause seq : Nat) : State :=
  let ns := (s.streams.filter fun x => x.2.part == part && x.2.ctx == ctx && x.2.state != 0).map (·.1)
  let sup := s.supCl part ctx
  let s1 := (s.setStates ns 2).discardCtx part ctx 5 none
  let s2 := ns.foldl (fun t n => (t.killTaken n).killPackets n (2 ^ bitsOf (t.stream n).w0 58 6)) s1
  let s3 := (s2.dropReuse fun _ p c => p == part && c == ctx).postSystem sup
    (mkRecord (ctx * 2 ^ 15 + part * 2 ^ 21) seq 0xFFF 0xFF 3 cause)
  ({ s3 with ctxs := Tbl.del s3.ctxs (ctxKey part ctx) }.freeAll.wakeStop part ctx 1).wakeRewind part ctx

/-- CTXL.kill: the spec names no killing cause for it, and its record has KILLED (DESIGN CHOICE, log 59). -/
def execCtxlKill (d a : SReg) (s : State) : Host.Outcome State Fault Refusal :=
  s.ctxOp d a false fun s part ctx => (s.killCtx part ctx 5 0).answer d 0

/-! ## Operations held on a translation fault (R294, R398) -/

/-- The commands of a context that a translation fault holds, with their engines. -/
def State.heldCmds (s : State) (part ctx : Nat) : List (Nat × Cmd) :=
  s.engines.flatMap fun x => (x.2.cmds.filter fun c => c.part == part && c.ctx == ctx && c.st == .heldFault).map fun c => (x.1, c)

/-- CTXL.eres: the held operations resume. -/
def execCtxlEres (d a : SReg) (s : State) : Host.Outcome State Fault Refusal :=
  s.ctxOp d a false fun s part ctx =>
    let s1 := (s.heldCmds part ctx).foldl (fun (t : State) (x : Nat × Cmd) => t.setCmd x.1 { x.2 with st := .queued }) s
    let s2 := s1.mapMx fun x => some (if x.part == part && x.ctx == ctx then { x with faultWait := false } else x)
    ((s2.matrix.map (·.1)).foldl State.mxRefresh s2).answer d 0

/-- CTXL.efail: the held operations end (DEDUCED, log 44). -/
def execCtxlEfail (d a : SReg) (s : State) : Host.Outcome State Fault Refusal :=
  s.ctxOp d a false fun s part ctx =>
    let s1 := (s.heldCmds part ctx).foldl (fun (t : State) (x : Nat × Cmd) => t.finishCmd x.1 x.2 4) s
    let ms := s1.allMx.filter fun x => x.part == part && x.ctx == ctx && x.faultWait
    ((ms.foldl (fun t x => (t.deferFault x.gid 4 x.failed).freeEntry x) s1).mxRefreshAll).answer d 0

/-! ## Returns and PRACK (R399, R400) -/

def execTret (s : State) : Host.Outcome State Fault Refusal := s.privileged fun s => .next s.trapReturn

/-- PRACK.RET returns, whether or not a PRACK came before it (R400) (DEDUCED, log 63). -/
def execPrackRet (s : State) : Host.Outcome State Fault Refusal := .next s.trapReturn

/-- PRACK acknowledges a pending pre-emption in its PVEC handler; the group stops at the end of its clause. -/
def execPrack (mat : Bool) (b : SReg) (s : State) : Host.Outcome State Fault Refusal :=
  let g := s.run
  if g.kind == .compute && g.preempt && g.inHandler then
    .next (s.done { g with run := .acked (min (bitsOf (g.pos (.s b)) 0 9) g.budget) mat } 1)
  else .next (s.faultExact cILLENC)

/-! ## Change lists (R339-R341, R401) -/

/-- Two ranges overlap. -/
def overlap (a n b m : Nat) : Bool := n != 0 && m != 0 && decide (a < b + m) && decide (b < a + n)

/-- Two partitions' ranges on one core overlap (R335). -/
def Quota.clash (x y : Quota) : Bool :=
  overlap x.slot0 x.slotN y.slot0 y.slotN || overlap x.row0 x.rowN y.row0 y.rowN || overlap x.spad0 x.spadN y.spad0 y.spadN

/-- A quota's fields are in range, its slots within the pipes of its rows. -/
def Quota.ok (q : Quota) : Bool :=
  decide (q.slot0 + q.slotN ≤ 64) && decide (q.row0 + q.rowN ≤ 32) && decide (q.spad0 + q.spadN ≤ 512)
    && (q.slotN == 0 || (decide (2 * q.row0 ≤ q.slot0) && decide (q.slot0 + q.slotN ≤ 2 * (q.row0 + q.rowN))))

/-- A resident team or a running grid of the partition uses what a new quota takes away. -/
def State.quotaInUse (s : State) (n part : Nat) (q : Quota) : Bool :=
  let old := s.quota n part
  let groups := s.allGroups.filter fun g => g.kind == .compute && g.core == n && g.part == part
  let teams := (s.teamsOn n).filter fun t => (s.grid? t.grid).any (·.part == part)
  groups.any (fun g => decide (g.slot < q.slot0) || decide (q.slot0 + q.slotN ≤ g.slot)
      || decide (g.slot / 2 < q.row0) || decide (q.row0 + q.rowN ≤ g.slot / 2))
    || teams.any (fun t => t.winRows != 0 && (decide (t.winBase < 1024 * q.spad0) || decide (1024 * (q.spad0 + q.spadN) < t.winBase + 1024 * t.winRows)))
    || ((decide (q.slotN < old.slotN) || decide (q.rowN < old.rowN) || decide (q.spadN < old.spadN))
      && s.grids.any fun g => g.2.part == part && (List.range g.2.map.length).any fun j => g.2.map.getD j 0 == n
        && decide ((g.2.placed.countP fun t => t % g.2.map.length == j) * g.2.map.length + j < g.2.teams))

/-- Sum of a share over the partitions that are enabled. -/
def State.shareSum (s : State) (lo : Nat) : Nat :=
  ((List.range 48).map fun p => if (s.partDesc p).getLsbD 32 then bitsOf (s.partDesc p) lo 8 else 0).sum

/-- The registers of SETCLREG. -/
def ctlOf : Nat → Option Ctl
  | 0x88 => some .balth
  | 0x89 => some .baltt
  | 0x8A => some .baldly
  | 0x8B => some .dampmin
  | 0x8C => some .bias
  | _ => none

/-- SETBANKS gives banks to a partition; each is first written back and invalidated as a cache bank on conversion (R201, R339). -/
def State.moveBanks (s : State) (k part : Nat) (mask : Word) : State :=
  let t := (List.range 48).foldl (fun t b => if mask.getLsbD b then t.leaveCache k b else t) s
  let c := t.cluster k
  t.setCluster k { c with banks := Vector.ofFn fun i : Fin 48 => if mask.getLsbD i.val then { c.banks[i] with owner := part } else c.banks[i] }

/-- The bits of a cluster register that are not reserved (R344); no other register is one. -/
def ctlBits : Ctl → Word
  | .balth | .baltt => 0xFFF07FF
  | .baldly => 0xFF
  | .dampmin => 3
  | .bias => 0x1F1F
  | _ => -1

/-- One entry of a change list: its status, or the state after it. -/
def State.change (s : State) (w v : Word) : Except Nat State :=
  let op := bitsOf w 0 8
  let part := bitsOf w 8 7
  let clus := bitsOf w 15 4
  let core := bitsOf w 19 5
  let reg := bitsOf w 24 8
  let n := 24 * clus + core
  let q := Quota.ofWord v
  if op = 0 || 5 ≤ op || bitsOf w 32 32 != 0 || (op != 4 && (reg != 0)) || (op != 1 && core != 0) || (op == 2 && clus != 0)
      || (op == 4 && part != 0) || (op == 1 && bitsOf v 43 21 != 0) || (op == 2 && bitsOf v 33 31 != 0) || (op == 3 && bitsOf v 48 16 != 0)
      || (op == 4 && (ctlOf reg).any fun r => v &&& ~~~(ctlBits r) != 0) then .error 1
  else if 48 ≤ part || 24 ≤ core || (op == 4 && (ctlOf reg).isNone) || (op == 1 && !q.ok) then .error 2
  else if op = 1 then
    if (List.range 48).any fun p => p != part && q.clash (s.quota n p) then .error 3
    else if s.quotaInUse n part q then .error 4
    else
      let s1 := { s with dev := { s.dev with quota := Tbl.put s.dev.quota (48 * n + part) v } }
      .ok (if q.slotN = 0 then s1.dropReuse fun m p _ => m == n && p == part else s1)
  else if op = 2 then
    if !v.getLsbD 32 && s.ctxs.any fun c => c.1 / 64 == part then .error 4
    else .ok { s with dev := { s.dev with desc := Tbl.put s.dev.desc part v } }
  else if op = 3 then
    if (List.range 48).any fun b => v.getLsbD b && (s.bank clus b).owner != part && !((s.bank clus b).mode == .cache && (s.bank clus b).st == .stable) then .error 4
    else .ok (s.moveBanks clus part v)
  else
    match ctlOf reg with
    | some r => .ok (s.setCluster clus ((s.cluster clus).setCtl r v))
    | none => .error 2

/-- A whole list: each entry is checked against the state that the entries before it leave. -/
def State.changes (s : State) (i : Nat) : List (Word × Word) → Except (Nat × Nat) State
  | [] => if 256 < s.shareSum 16 || 256 < s.shareSum 24 then .error (5, 256) else .ok s
  | (w, v) :: es =>
    match s.change w v with
    | .error st => .error (st, i)
    | .ok s1 => s1.changes (i + 1) es

/-- The agent may submit change lists: a scheduler core, or the control core that partition 0's contexts name as supervisor; with no
such context, that of cluster 0 (DESIGN CHOICE, log 62). -/
def State.mayConfigure (s : State) : Bool :=
  match s.run.kind with
  | .scheduler _ => true
  | .control k =>
    let own := s.ctxs.filter fun c => c.1 / 64 == 0
    if own.isEmpty then k == 0 else own.any fun c => bitsOf c.2.desc[10] 52 4 == k
  | .compute => false

/-- The entries at an address of device memory. -/
def State.changeList (s : State) (pa n : Nat) : Option (List (Word × Word)) :=
  if n = 0 ∨ 256 < n ∨ pa % 16 ≠ 0 ∨ region pa ≠ .dev ∨ 2 ^ 39 < pa + 16 * n then none
  else some ((List.range n).map fun i => (Memory.word s.mem (pa + 16 * i), Memory.word s.mem (pa + 16 * i + 8)))

def execPcfg (d a b : SReg) (s : State) : Host.Outcome State Fault Refusal :=
  s.privileged fun s =>
    let g := s.run
    if !s.mayConfigure then .next (s.answer d 6)
    else
      match s.changeList (g.pos (.s a)).toNat (g.pos (.s b)).toNat with
      | none => .next (s.answer d 6)
      | some es =>
        match s.changes 0 es with
        | .error e => .next (s.answer d (e.2 * 256 + e.1))
        | .ok s1 => .next (s1.answer d 0)

/-! ## HALT (R402) -/

/-- HALT stops the issuing control or scheduler core; on a compute core it is reserved (DESIGN CHOICE, log 22). -/
def execHalt (s : State) : Host.Outcome State Fault Refusal :=
  s.privileged fun s =>
    let g := s.run
    if g.kind == .compute then .next (s.faultExact cILLENC)
    else .next { (s.charge 1) with
      run := { g with run := .off, clause := none, word := 0 }
      dev := { s.dev with schedRecs := s.dev.schedRecs ++ [s.trapRecord g cHALTED] } }

/-- A device core goes out of service: its teams take forced saves. The issuer's own team may be among them. -/
def execHaltOff (d a : SReg) (s : State) : Host.Outcome State Fault Refusal :=
  s.privileged fun s =>
    let n := bitsOf (s.run.pos (.s a)) 0 9
    if 384 ≤ n then .next (s.answer d 1)
    else
      let waits := (s.charge 1).setRun { s.run with wait := .haltOff d n }
      let s1 := waits.setCore n { waits.core n with inService := false }
      .next ((s1.teamsOn n).foldl (fun t x => t.saveTeam (teamKey x.grid x.team) false) s1).wakeEvict

def execHaltOn (d a : SReg) (s : State) : Host.Outcome State Fault Refusal :=
  s.privileged fun s =>
    let n := bitsOf (s.run.pos (.s a)) 0 9
    if 384 ≤ n then .next (s.answer d 1) else .next ((s.setCore n { s.core n with inService := true }).answer d 0)

/-! ## Uncorrectable errors (R277, R393) -/

/-- A rollback to a window begins, or the context is killed (R277). -/
def State.rollback (s : State) (part ctx : Nat) (t : Option (BitVec 16)) : State :=
  match s.ctx? part ctx, t with
  | none, _ => s
  | some _, none => s.killCtx part ctx cUNCORR 1
  | some c, some t =>
    let ws := c.since t
    if !c.logs || c.rwact || ws.isEmpty || ws.any (·.mark) || !(ws.head?.any (·.anch)) then s.killCtx part ctx cUNCORR 1
    else s.beginRewind part ctx t deviceIssuer

/-- The newest retained window with a SECT record of a sector. -/
def Ctx.sectorWindow (c : Ctx) (sector : Nat) : Option (BitVec 16) :=
  (c.records.reverse.find? fun r => recKindLog r.2 == 0 && recPa r.2 == sector).map fun r => recWin r.2

/-- The block that holds a copy, as the errors of clean copies are counted: clusters from 0, slices from 16, cores from 144, dies from 528,
matrix engines from 530 (R393) (DESIGN CHOICE, log 94). -/
def copyBlock : CleanCopy → Nat
  | .clusterLine k _ => k
  | .clusterTlb k _ => k
  | .sliceLine line => 16 + homeSlice line
  | .reuse n _ => 144 + n
  | .tlb n _ => 144 + n
  | .pointer d _ => 528 + d
  | .scale e _ => 530 + e

/-- A clean copy is dropped (R393). -/
def State.dropCopy (s : State) : CleanCopy → State
  | .clusterLine k line => s.dropLine k line
  | .sliceLine line =>
    let q := s.slice (homeSlice line)
    s.setSlice (homeSlice line) { q with lines := q.lines.filter (·.line != line) }
  | .reuse n i => (s.setCore n { s.core n with reuse := (s.core n).reuse.eraseIdx i }).freeRegs n
  | .tlb n i => s.setCore n { s.core n with tlb := (s.core n).tlb.eraseIdx i }
  | .clusterTlb k i => s.setCluster k { s.cluster k with tlb := (s.cluster k).tlb.eraseIdx i }
  | .pointer d i => { s with dev := { s.dev with pointers := Tbl.put s.dev.pointers d ((Tbl.get [] s.dev.pointers d).eraseIdx i) } }
  | .scale e i => s.setMx e { s.mx e with scales := (s.mx e).scales.eraseIdx i }

/-- UNCORRECTABLE_ERROR: what follows from where it struck, and a snapshot. -/
def execUncorrectableError (site : ErrSite) (s : State) : Host.Outcome State Fault Refusal :=
  let count (d : Dev) : Dev := match site with
    | .cleanCopy c => { d with errCount := d.errCount + 1, blockErrs := Tbl.put d.blockErrs (copyBlock c) (Tbl.get 0 d.blockErrs (copyBlock c) + 1) }
    | _ => { d with errCount := d.errCount + 1 }
  let s1 := { s with dev := count s.dev }.snapTrigger 2
  match site with
  | .cleanCopy c => .next (s1.dropCopy c)
  | .latent pa => .next { s with dev := { s.dev with bad := pa / 32 :: s.dev.bad } }
  | .contextState part ctx => .next (s1.rollback part ctx ((s1.ctx? part ctx).map (·.curWin)))
  | .sector part ctx pa => .next (s1.rollback part ctx ((s1.ctx? part ctx).bind fun c => c.sectorWindow (pa / 32 * 32)))
  | .logOrSave part ctx => .next (s1.rollback part ctx none)
  | .shared => .next (s1.deviceError cUNCORR)

end Sys2Proof.Machine
end

