-- ==== Sys2Proof/Machine/Dispatch.lean ====
section
/-! DEFINITION. One arm for each step of spec/opcode_table.json. -/

namespace Sys2Proof.Machine

def exec (i : Instr) (s : State) : Host.Outcome State Fault Refusal :=
  match i with
  | .nop nr => Sys2Proof.Machine.execNop nr s
  | .bra off => Sys2Proof.Machine.execBra off s
  | .brx a => Sys2Proof.Machine.execBrx a s
  | .brc cnd a off => Sys2Proof.Machine.execBrc cnd a off s
  | .bdv cnd a off1 off2 => Sys2Proof.Machine.execBdv cnd a off1 off2 s
  | .join => Sys2Proof.Machine.execJoin s
  | .call d off => Sys2Proof.Machine.execCall d off s
  | .ret a => Sys2Proof.Machine.execRet a s
  | .exit => Sys2Proof.Machine.execExit s
  | .exitLanes => Sys2Proof.Machine.execExitLanes s
  | .emsav d nr => Sys2Proof.Machine.execEmsav d nr s
  | .emset op b nr => Sys2Proof.Machine.execEmset op b nr s
  | .mlog d a b c lut nr => Sys2Proof.Machine.execMlog d a b c lut nr s
  | .vote op d a nr => Sys2Proof.Machine.execVote op d a nr s
  | .tfence nr => Sys2Proof.Machine.execTfence nr s
  | .trap e => Sys2Proof.Machine.execTrap e s
  | .yield n nr => Sys2Proof.Machine.execYield n nr s
  | .sadd ty d a b => Sys2Proof.Machine.execSadd ty d a b s
  | .ssub ty d a b => Sys2Proof.Machine.execSsub ty d a b s
  | .smul ty hi d a b => Sys2Proof.Machine.execSmul ty hi d a b s
  | .slog op d a b => Sys2Proof.Machine.execSlog op d a b s
  | .sshf ty op d a b => Sys2Proof.Machine.execSshf ty op d a b s
  | .scmp ty d a b => Sys2Proof.Machine.execScmp ty d a b s
  | .smin ty max d a b => Sys2Proof.Machine.execSmin ty max d a b s
  | .sbit ty op d a b => Sys2Proof.Machine.execSbit ty op d a b s
  | .sdiv ty rem d a b => Sys2Proof.Machine.execSdiv ty rem d a b s
  | .smov d b nr => Sys2Proof.Machine.execSmov d b nr s
  | .smovLane wide d a k nr => Sys2Proof.Machine.execSmovLane wide d a k nr s
  | .smovi form zext d imm => Sys2Proof.Machine.execSmovi form zext d imm s
  | .ssel d a b c nr => Sys2Proof.Machine.execSsel d a b c nr s
  | .srd sel d nr => Sys2Proof.Machine.execSrd sel d nr s
  | .swr op c b nr => Sys2Proof.Machine.execSwr op c b nr s
  | .sld sz sx hint ord sco prm d a off => Sys2Proof.Machine.execSld sz sx hint ord sco prm d a off s
  | .sst sz hint ord sco d a off => Sys2Proof.Machine.execSst sz hint ord sco d a off s
  | .vadd ty sat d a b m => Sys2Proof.Machine.execVadd ty sat d a b m s
  | .vsub ty sat d a b m => Sys2Proof.Machine.execVsub ty sat d a b m s
  | .vmul ty hi sat d a b m => Sys2Proof.Machine.execVmul ty hi sat d a b m s
  | .vmad ty sat d a b c m => Sys2Proof.Machine.execVmad ty sat d a b c m s
  | .vdot ty sat d a b c m => Sys2Proof.Machine.execVdot ty sat d a b c m s
  | .vlog wide d a b c lut m => Sys2Proof.Machine.execVlog wide d a b c lut m s
  | .vshf ty op uni sat d a b m => Sys2Proof.Machine.execVshf ty op uni sat d a b m s
  | .vcmp ty cond d a b m => Sys2Proof.Machine.execVcmp ty cond d a b m s
  | .vsel ty d a b c m => Sys2Proof.Machine.execVsel ty d a b c m s
  | .vmin ty op d a b c m => Sys2Proof.Machine.execVmin ty op d a b c m s
  | .vuni ty op sat d a m => Sys2Proof.Machine.execVuni ty op sat d a m s
  | .vbit ty ins d a b c m => Sys2Proof.Machine.execVbit ty ins d a b c m s
  | .vmov wide d src m => Sys2Proof.Machine.execVmov wide d src m s
  | .vmovi ty d imm => Sys2Proof.Machine.execVmovi ty d imm s
  | .vnrw ty rm sat d a b el m => Sys2Proof.Machine.execVnrw ty rm sat d a b el m s
  | .vidx wide mode d nr => Sys2Proof.Machine.execVidx wide mode d nr s
  | .fadd ty rm sat d a b m => Sys2Proof.Machine.execFadd ty rm sat d a b m s
  | .fsub ty rm sat d a b m => Sys2Proof.Machine.execFsub ty rm sat d a b m s
  | .fmul ty rm sat d a b m => Sys2Proof.Machine.execFmul ty rm sat d a b m s
  | .ffma ty rm sat negp negc d a b c m => Sys2Proof.Machine.execFfma ty rm sat negp negc d a b c m s
  | .fmin ty op d a b m => Sys2Proof.Machine.execFmin ty op d a b m s
  | .fcmp ty cond d a b m => Sys2Proof.Machine.execFcmp ty cond d a b m s
  | .fcls ty d a set m => Sys2Proof.Machine.execFcls ty d a set m s
  | .frcp ty rm sat d a m => Sys2Proof.Machine.execFrcp ty rm sat d a m s
  | .frsq ty rm sat d a m => Sys2Proof.Machine.execFrsq ty rm sat d a m s
  | .fsqt ty rm sat d a m => Sys2Proof.Machine.execFsqt ty rm sat d a m s
  | .fex2 ty rm sat d a m => Sys2Proof.Machine.execFex2 ty rm sat d a m s
  | .flg2 ty rm sat d a m => Sys2Proof.Machine.execFlg2 ty rm sat d a m s
  | .ftrg ty rm sat cos d a m => Sys2Proof.Machine.execFtrg ty rm sat cos d a m s
  | .fdiv ty rm sat d a b m => Sys2Proof.Machine.execFdiv ty rm sat d a b m s
  | .fcvt dst src rm sat d a el nr => Sys2Proof.Machine.execFcvt dst src rm sat d a el nr s
  | .icvt dst src n4 rm sat d a el nr => Sys2Proof.Machine.execIcvt dst src n4 rm sat d a el nr s
  | .dadd sub rm sat d a b nr => Sys2Proof.Machine.execDadd sub rm sat d a b nr s
  | .dmul rm sat d a b nr => Sys2Proof.Machine.execDmul rm sat d a b nr s
  | .dfma rm sat negp negc d a b c nr => Sys2Proof.Machine.execDfma rm sat negp negc d a b c nr s
  | .scvn e5m2 rm sat d a b el nr => Sys2Proof.Machine.execScvn e5m2 rm sat d a b el nr s
  | .scvw e5m2 rm sat d a b el nr => Sys2Proof.Machine.execScvw e5m2 rm sat d a b el nr s
  | .kclr k nr => Sys2Proof.Machine.execKclr k nr s
  | .kadd ty k a nr => Sys2Proof.Machine.execKadd ty k a nr s
  | .krnd ty rm sat clr k d nr => Sys2Proof.Machine.execKrnd ty rm sat clr k d nr s
  | .kscn ty rm sat excl k d a nr => Sys2Proof.Machine.execKscn ty rm sat excl k d a nr s
  | .kmovGet k d nr => Sys2Proof.Machine.execKmovGet k d nr s
  | .kmovSet k a nr => Sys2Proof.Machine.execKmovSet k a nr s
  | .kmovCpy k j nr => Sys2Proof.Machine.execKmovCpy k j nr s
  | .kmovAdd k j nr => Sys2Proof.Machine.execKmovAdd k j nr s
  | .fsrGet d nr => Sys2Proof.Machine.execFsrGet d nr s
  | .fsrSet b nr => Sys2Proof.Machine.execFsrSet b nr s
  | .fsrClr b nr => Sys2Proof.Machine.execFsrClr b nr s
  | .fsrOr b nr => Sys2Proof.Machine.execFsrOr b nr s
  | .ixset k a b nr => Sys2Proof.Machine.execIxset k a b nr s
  | .ixadd k b wrap nr => Sys2Proof.Machine.execIxadd k b wrap nr s
  | .shfl wide mode d a b fill nr => Sys2Proof.Machine.execShfl wide mode d a b fill nr s
  | .slide wide up gran d a b k nr => Sys2Proof.Machine.execSlide wide up gran d a b k nr s
  | .bcst wide d a sel nr => Sys2Proof.Machine.execBcst wide d a sel nr s
  | .gred ty op sat d a nr => Sys2Proof.Machine.execGred ty op sat d a nr s
  | .gscn ty op sat excl d a nr => Sys2Proof.Machine.execGscn ty op sat excl d a nr s
  | .perm byte zero d a b c nr => Sys2Proof.Machine.execPerm byte zero d a b c nr s
  | .ld sz hint inv sx prm ord sco d base off => Sys2Proof.Machine.execLd sz hint inv sx prm ord sco d base off s
  | .st sz hint ord sco d base off => Sys2Proof.Machine.execSt sz hint ord sco d base off s
  | .lds sz sx ord sco d base off => Sys2Proof.Machine.execLds sz sx ord sco d base off s
  | .sts sz ord sco d base off => Sys2Proof.Machine.execSts sz ord sco d base off s
  | .atom fn wide spad hint ord sco prm d base b off => Sys2Proof.Machine.execAtom fn wide spad hint ord sco prm d base b off s
  | .atmf fn sz hint ord sco prm d base b off => Sys2Proof.Machine.execAtmf fn sz hint ord sco prm d base b off s
  | .fence ord sco => Sys2Proof.Machine.execFence ord sco s
  | .fenceFlushx => Sys2Proof.Machine.execFenceFlushx s
  | .prf hint base off => Sys2Proof.Machine.execPrf hint base off s
  | .cmnt fn base off => Sys2Proof.Machine.execCmnt fn base off s
  | .fqput d a => Sys2Proof.Machine.execFqput d a s
  | .fqget d a => Sys2Proof.Machine.execFqget d a s
  | .bankRequest mode d b nr => Sys2Proof.Machine.execBankRequest mode d b nr s
  | .bankQuery d b nr => Sys2Proof.Machine.execBankQuery d b nr s
  | .bar n cnt nr => Sys2Proof.Machine.execBar n cnt nr s
  | .barv n cnt nr => Sys2Proof.Machine.execBarv n cnt nr s
  | .barw n nr => Sys2Proof.Machine.execBarw n nr s
  | .evwt eq wide spad ord sco prm d a b timeout => Sys2Proof.Machine.execEvwt eq wide spad ord sco prm d a b timeout s
  | .evps d a b c tag => Sys2Proof.Machine.execEvps d a b c tag s
  | .nap n => Sys2Proof.Machine.execNap n s
  | .balBurn x => Sys2Proof.Machine.execBalBurn x s
  | .balShunt x => Sys2Proof.Machine.execBalShunt x s
  | .balMatch x => Sys2Proof.Machine.execBalMatch x s
  | .balCeil x => Sys2Proof.Machine.execBalCeil x s
  | .wmark d nr => Sys2Proof.Machine.execWmark d nr s
  | .dbrk code nr => Sys2Proof.Machine.execDbrk code nr s
  | .snap d nr => Sys2Proof.Machine.execSnap d nr s
  | .mlda fa a => Sys2Proof.Machine.execMlda fa a s
  | .mma fa keep tile a c sid => Sys2Proof.Machine.execMma fa keep tile a c sid s
  | .mmal fa keep hold slot tile a n c sid => Sys2Proof.Machine.execMmal fa keep hold slot tile a n c sid s
  | .mdrn spad latch tile a => Sys2Proof.Machine.execMdrn spad latch tile a s
  | .mfil spad latch tile a => Sys2Proof.Machine.execMfil spad latch tile a s
  | .mzroGrant a => Sys2Proof.Machine.execMzroGrant a s
  | .mzro tile => Sys2Proof.Machine.execMzro tile s
  | .msts fa sat spad tile a c => Sys2Proof.Machine.execMsts fa sat spad tile a c s
  | .mscl pin a n sid => Sys2Proof.Machine.execMscl pin a n sid s
  | .mrel => Sys2Proof.Machine.execMrel s
  | .msta clr status d => Sys2Proof.Machine.execMsta clr status d s
  | .cpy rows ev hold slot d a b tag => Sys2Proof.Machine.execCpy rows ev hold slot d a b tag s
  | .gath ev hold slot d a b c tag => Sys2Proof.Machine.execGath ev hold slot d a b c tag s
  | .scat ev hold slot d a b c tag => Sys2Proof.Machine.execScat ev hold slot d a b c tag s
  | .bin n16 ev d a b c tag => Sys2Proof.Machine.execBin n16 ev d a b c tag s
  | .ptch floor ev slot d a b c tag => Sys2Proof.Machine.execPtch floor ev slot d a b c tag s
  | .rlse ev slot d tag => Sys2Proof.Machine.execRlse ev slot d tag s
  | .coll kind ev d a b c tag => Sys2Proof.Machine.execColl kind ev d a b c tag s
  | .lnch ev d a tag => Sys2Proof.Machine.execLnch ev d a tag s
  | .ecan d a tag => Sys2Proof.Machine.execEcan d a tag s
  | .ecanSlot slot d tag => Sys2Proof.Machine.execEcanSlot slot d tag s
  | .eqrd d tag => Sys2Proof.Machine.execEqrd d tag s
  | .eqrdWait d tag => Sys2Proof.Machine.execEqrdWait d tag s
  | .tlbiRng a b => Sys2Proof.Machine.execTlbiRng a b s
  | .tlbiAsid b => Sys2Proof.Machine.execTlbiAsid b s
  | .tlbiAll => Sys2Proof.Machine.execTlbiAll s
  | .ctxsStop d a => Sys2Proof.Machine.execCtxsStop d a s
  | .ctxsSave d a => Sys2Proof.Machine.execCtxsSave d a s
  | .ctxsEvict d a => Sys2Proof.Machine.execCtxsEvict d a s
  | .ctxsTeam d a b => Sys2Proof.Machine.execCtxsTeam d a b s
  | .ctxlCreate d a b => Sys2Proof.Machine.execCtxlCreate d a b s
  | .ctxlResume d a => Sys2Proof.Machine.execCtxlResume d a s
  | .ctxlKill d a => Sys2Proof.Machine.execCtxlKill d a s
  | .ctxlUpd d a b => Sys2Proof.Machine.execCtxlUpd d a b s
  | .ctxlEres d a => Sys2Proof.Machine.execCtxlEres d a s
  | .ctxlEfail d a => Sys2Proof.Machine.execCtxlEfail d a s
  | .tret => Sys2Proof.Machine.execTret s
  | .prack mat b => Sys2Proof.Machine.execPrack mat b s
  | .prackRet => Sys2Proof.Machine.execPrackRet s
  | .rwnd force d a b => Sys2Proof.Machine.execRwnd force d a b s
  | .rwndChk d a b => Sys2Proof.Machine.execRwndChk d a b s
  | .rwndCmt d a => Sys2Proof.Machine.execRwndCmt d a s
  | .pcfg d a b => Sys2Proof.Machine.execPcfg d a b s
  | .halt => Sys2Proof.Machine.execHalt s
  | .haltOff d a => Sys2Proof.Machine.execHaltOff d a s
  | .haltOn d a => Sys2Proof.Machine.execHaltOn d a s
  | .clauseSelect core pipe => Sys2Proof.Machine.execClauseSelect core pipe s
  | .loadComplete op => Sys2Proof.Machine.execLoadComplete op s
  | .asyncCommandComplete id => Sys2Proof.Machine.execAsyncCommandComplete id s
  | .compaction core group toPipe => Sys2Proof.Machine.execCompaction core group toPipe s
  | .stackSpillComplete group => Sys2Proof.Machine.execStackSpillComplete group s
  | .bufferEntryPerform core entry => Sys2Proof.Machine.execBufferEntryPerform core entry s
  | .logBurstWrite stack => Sys2Proof.Machine.execLogBurstWrite stack s
  | .logBurstTimeout stack => Sys2Proof.Machine.execLogBurstTimeout stack s
  | .automaticWindowOpen part ctx => Sys2Proof.Machine.execAutomaticWindowOpen part ctx s
  | .wmarkComplete grid => Sys2Proof.Machine.execWmarkComplete grid s
  | .rewindFinish part ctx => Sys2Proof.Machine.execRewindFinish part ctx s
  | .ordrTimeout slice => Sys2Proof.Machine.execOrdrTimeout slice s
  | .promote core slice line => Sys2Proof.Machine.execPromote core slice line s
  | .ownedLineRecall line => Sys2Proof.Machine.execOwnedLineRecall line s
  | .flushxComplete group => Sys2Proof.Machine.execFlushxComplete group s
  | .evwtWake group => Sys2Proof.Machine.execEvwtWake group s
  | .evwtPoll group => Sys2Proof.Machine.execEvwtPoll group s
  | .evwtTimeout group => Sys2Proof.Machine.execEvwtTimeout group s
  | .napDeadline group => Sys2Proof.Machine.execNapDeadline group s
  | .fqputRoom cluster bank => Sys2Proof.Machine.execFqputRoom cluster bank s
  | .fqgetMatch cluster bank => Sys2Proof.Machine.execFqgetMatch cluster bank s
  | .bankRelease cluster bank => Sys2Proof.Machine.execBankRelease cluster bank s
  | .bankConvertEnd cluster bank => Sys2Proof.Machine.execBankConvertEnd cluster bank s
  | .issueLimitAdjust core => Sys2Proof.Machine.execIssueLimitAdjust core s
  | .translationWalk core asid va write => Sys2Proof.Machine.execTranslationWalk core asid va write s
  | .tlbiComplete group => Sys2Proof.Machine.execTlbiComplete group s
  | .streamWake stream => Sys2Proof.Machine.execStreamWake stream s
  | .streamSlotPoll stream => Sys2Proof.Machine.execStreamSlotPoll stream s
  | .packetNop stream => Sys2Proof.Machine.execPacketNop stream s
  | .packetLaunch stream => Sys2Proof.Machine.execPacketLaunch stream s
  | .packetWait stream => Sys2Proof.Machine.execPacketWait stream s
  | .waitSatisfied stream => Sys2Proof.Machine.execWaitSatisfied stream s
  | .packetMark stream => Sys2Proof.Machine.execPacketMark stream s
  | .packetBadpkt stream => Sys2Proof.Machine.execPacketBadpkt stream s
  | .teamPlacement grid team => Sys2Proof.Machine.execTeamPlacement grid team s
  | .halfActiveFlue cluster flue => Sys2Proof.Machine.execHalfActiveFlue cluster flue s
  | .teamRetire grid team => Sys2Proof.Machine.execTeamRetire grid team s
  | .gridComplete grid => Sys2Proof.Machine.execGridComplete grid s
  | .completionRecordPost stream => Sys2Proof.Machine.execCompletionRecordPost stream s
  | .eventQueuePost cluster => Sys2Proof.Machine.execEventQueuePost cluster s
  | .engineCommandStart engine => Sys2Proof.Machine.execEngineCommandStart engine s
  | .ecanAnswer group => Sys2Proof.Machine.execEcanAnswer group s
  | .collJoinTimeout engine id => Sys2Proof.Machine.execCollJoinTimeout engine id s
  | .matrixPass engine => Sys2Proof.Machine.execMatrixPass engine s
  | .scaleFillReturn engine => Sys2Proof.Machine.execScaleFillReturn engine s
  | .grantServed engine => Sys2Proof.Machine.execGrantServed engine s
  | .balanceSample cluster raw => Sys2Proof.Machine.execBalanceSample cluster raw s
  | .damperTick cluster => Sys2Proof.Machine.execDamperTick cluster s
  | .balRequestLapse group => Sys2Proof.Machine.execBalRequestLapse group s
  | .bodyBiasStep cluster => Sys2Proof.Machine.execBodyBiasStep cluster s
  | .frequencyInterval cluster => Sys2Proof.Machine.execFrequencyInterval cluster s
  | .frequencyStep cluster headroom => Sys2Proof.Machine.execFrequencyStep cluster headroom s
  | .thermalStateChange stack next => Sys2Proof.Machine.execThermalStateChange stack next s
  | .stallSample core => Sys2Proof.Machine.execStallSample core s
  | .timeSliceEnd grid team => Sys2Proof.Machine.execTimeSliceEnd grid team s
  | .budgetExpiry grid team => Sys2Proof.Machine.execBudgetExpiry grid team s
  | .teamSave grid team => Sys2Proof.Machine.execTeamSave grid team s
  | .uncorrectableError site => Sys2Proof.Machine.execUncorrectableError site s
  | .contextStopComplete part ctx => Sys2Proof.Machine.execContextStopComplete part ctx s
  | .counterLowRead block index => Sys2Proof.Machine.execCounterLowRead block index s
  | .counterHighRead block index => Sys2Proof.Machine.execCounterHighRead block index s
  | .streamEntryWrite stream word value => Sys2Proof.Machine.execStreamEntryWrite stream word value s
  | .statbaseWrite value => Sys2Proof.Machine.execStatbaseWrite value s
  | .fwctlGo verified => Sys2Proof.Machine.execFwctlGo verified s
  | .mmioRegisterWrite off value => Sys2Proof.Machine.execMmioRegisterWrite off value s
  | .hostCxlMemWrite pa data => Sys2Proof.Machine.execHostCxlMemWrite pa data s
  | .hostCxlMemRead pa n => Sys2Proof.Machine.execHostCxlMemRead pa n s
  | .hostSnoop line data => Sys2Proof.Machine.execHostSnoop line data s
  | .peerRequest dev req => Sys2Proof.Machine.execPeerRequest dev req s
  | .peerAck window => Sys2Proof.Machine.execPeerAck window s
  | .flitReplay port ok => Sys2Proof.Machine.execFlitReplay port ok s
  | .challenge nonce => Sys2Proof.Machine.execChallenge nonce s
  | .getMeasurements nonce => Sys2Proof.Machine.execGetMeasurements nonce s
  | .keyExchange pub => Sys2Proof.Machine.execKeyExchange pub s
  | .ideKm key => Sys2Proof.Machine.execIdeKm key s
  | .frequencyTransitionEnd cluster => Sys2Proof.Machine.execFrequencyTransitionEnd cluster s
  | .timerForwardStep ns => Sys2Proof.Machine.execTimerForwardStep ns s
  | .hostSnapshotTrigger => Sys2Proof.Machine.execHostSnapshotTrigger s
  | .snapshotStatusRead => Sys2Proof.Machine.execSnapshotStatusRead s
  | .snapshotArm => Sys2Proof.Machine.execSnapshotArm s
  | .liveUpdateHeartbeat => Sys2Proof.Machine.execLiveUpdateHeartbeat s
  | .liveUpdateTimeout => Sys2Proof.Machine.execLiveUpdateTimeout s
  | .heartbeat => Sys2Proof.Machine.execHeartbeat s
  | .getVersion => Sys2Proof.Machine.execGetVersion s
  | .getCapabilities => Sys2Proof.Machine.execGetCapabilities s
  | .negotiateAlgorithms => Sys2Proof.Machine.execNegotiateAlgorithms s
  | .getDigests => Sys2Proof.Machine.execGetDigests s
  | .getCertificate => Sys2Proof.Machine.execGetCertificate s
  | .finish => Sys2Proof.Machine.execFinish s
  | .endSession => Sys2Proof.Machine.execEndSession s
  | .deviceReset => Sys2Proof.Machine.execDeviceReset s
  | .cxlReset => Sys2Proof.Machine.execCxlReset s

end Sys2Proof.Machine
end

