-- ==== Sys2Proof/Machine/Turn.lean ====
section
/-! DEFINITION. Whose turn it is: the running agent's, a lane pipe's, or an event's of the device that is due; and the ticks of the global
timer. The order of events that the spec leaves open is the model's (log 4). -/

namespace Sys2Proof.Machine

/-! ## Events that are due -/

/-- An event can happen: it changes the state. -/
def State.happens (s : State) (e : Instr) : Bool :=
  match exec e s with
  | .next t => decide (t ≠ s)
  | _ => false

/-- Events that may end what a group waits for. -/
def groupEvents (g : Group) : List Instr :=
  [.evwtWake g.gid, .evwtTimeout g.gid, .napDeadline g.gid, .flushxComplete g.gid, .ecanAnswer g.gid, .tlbiComplete g.gid,
   .stackSpillComplete g.gid, .balRequestLapse g.gid]
  ++ g.loads.map (fun o => match o.fifo with
    | none => .loadComplete o.id
    | some (k, b) => .fqgetMatch k b)
  ++ match g.wait with
    | .fqput k b _ => [.fqputRoom k b]
    | _ => []

/-- Buffer entries of a core that may perform: the oldest of each sector (R211). -/
def coreEvents (n : Nat) (c : Core) : List Instr :=
  (List.range c.buf.length).filterMap fun i =>
    match c.buf[i]? with
    | some e => if (c.buf.take i).any (·.sector == e.sector) then none else some (.bufferEntryPerform n i)
    | none => none

def clusterEvents (k : Nat) (c : Cluster) : List Instr :=
  [.damperTick k, .eventQueuePost k] ++ (if c.transition.isSome then [.frequencyTransitionEnd k] else [])
  ++ (List.range 12).map (.halfActiveFlue k ·)
  ++ (List.range 48).flatMap fun b => match (c.banks.toList.getD b {}).st with
    | .stable => []
    | .pending _ _ => [.bankRelease k b]
    | .convert _ _ => [.bankConvertEnd k b]

def engineEvents (n : Nat) (x : Engine) : List Instr :=
  .engineCommandStart n :: x.cmds.map fun c => .asyncCommandComplete c.id.toNat

def streamEvents (n : Nat) : List Instr :=
  [.streamWake n, .packetNop n, .packetLaunch n, .packetWait n, .packetMark n, .packetBadpkt n, .waitSatisfied n,
   .completionRecordPost n]

/-- The teams of a grid that may be placed: those that are saved, and the next of each entry of its map (R21, R391). -/
def State.gridEvents (s : State) (g : Grid) : List Instr :=
  [.wmarkComplete g.id, .gridComplete g.id]
  ++ (s.teams.filter fun t => t.2.grid == g.id && t.2.at' != .resident).map (fun t => .teamPlacement g.id t.2.team)
  ++ (List.range g.map.length).filterMap fun j => (g.nextAt j).map (.teamPlacement g.id ·)

def ctxEvents (k : Nat) : List Instr :=
  [.automaticWindowOpen (k / 64) (k % 64), .rewindFinish (k / 64) (k % 64), .contextStopComplete (k / 64) (k % 64)]

/-- Slices that have waited 1 ms for the next atomic of a recorded order (R279). -/
def State.orderEvents (s : State) : List Instr :=
  s.ctxs.flatMap fun x => (x.2.orders.filter fun o => x.2.orderLate o.1 s.time).map fun o => .ordrTimeout o.1

/-- What the next reads of sleeping EVWTs, the reads of packets and the accesses from outside wait for (R220, R224). -/
def State.recallEvents (s : State) : List Instr :=
  let first (h : Hold) : Option Instr := match h with
    | .first e => some e
    | _ => none
  s.allGroups.filterMap (fun g => first (s.evwtHold g)) ++ s.pending.filterMap (fun i => first (s.outsideHold i))
    ++ (s.streams.flatMap fun x => ((s.streamBytes x.1).flatMap fun p => linesOf p.1 p.2).filterMap fun l => first (s.ownedHold l))

/-- Events of the device that nothing outside it has to bring about (DESIGN CHOICE, log 81). -/
def State.candidates (s : State) : List Instr :=
  s.allGroups.flatMap groupEvents
  ++ s.cores.flatMap (fun x => coreEvents x.1 x.2 ++ s.compactions x.1)
  ++ s.clusters.flatMap (fun x => clusterEvents x.1 x.2)
  ++ s.engines.flatMap (fun x => engineEvents x.1 x.2)
  ++ s.matrix.flatMap (fun x => [.matrixPass x.1, .scaleFillReturn x.1, .grantServed x.1])
  ++ s.streams.flatMap (fun x => streamEvents x.1)
  ++ s.teams.flatMap (fun x => [.teamRetire x.2.grid x.2.team, .teamSave x.2.grid x.2.team, .budgetExpiry x.2.grid x.2.team])
  ++ s.grids.flatMap (fun x => s.gridEvents x.2)
  ++ s.ctxs.flatMap (fun x => ctxEvents x.1)
  ++ (List.range 8).flatMap (fun k => [.logBurstWrite k, .logBurstTimeout k])
  ++ s.orderEvents ++ s.recallEvents ++ [.liveUpdateTimeout]

/-- The events that are due. -/
def State.due (s : State) : List Instr := s.candidates.filter (s.happens ·)

/-! ## Time (R206, R355, R356, R364, R365, R405) -/

/-- The clusters that are in use: one of their records, or of their cores', is there. -/
def State.usedClusters (s : State) : List Nat :=
  (List.range 16).filter fun k => s.clusters.any (fun x => x.1 == k) || s.cores.any fun x => x.1 / 24 == k

/-- The events that the clock brings at time `t` (DESIGN CHOICE, log 81). -/
def State.timerEvents (s : State) (t : Nat) : List Instr :=
  (if t % 1000000 = 0 then [.heartbeat] else [])
  ++ s.clusters.flatMap (fun x =>
    (if t % 2000 = 0 then [.bodyBiasStep x.1] else []) ++ if t % 64000 = 0 then [.frequencyInterval x.1] else [])
  ++ (if t % 50 = 0 then s.usedClusters.map fun k => .balanceSample k ((List.range 12).map (Config.flueDelta t k)) else [])
  ++ s.cores.flatMap fun x =>
    (if periodEnds (s.cluster (x.1 / 24)) 2048 t then [.issueLimitAdjust x.1] else [])
      ++ if (s.sampled x.1 t).isEmpty then [] else [.stallSample x.1]

/-- The global timer goes on by 1 ns, and with it the arithmetic clocks that BAL requests count (R356, R358, R365) (DESIGN CHOICE, log 6). -/
def State.tick (s : State) : State :=
  { s.mapGroups (fun g => g.burn.isSome || g.shunt.isSome || g.match_.isSome) fun g => g.balTick (s.cluster g.cluster).freq with
    time := s.time + 1, pending := s.pending ++ s.timerEvents (s.time + 1) }

/-! ## Turns -/

/-- The device's turn: an event that is due, or a tick of the timer. -/
def State.device (s : State) : Host.Outcome State Fault Refusal :=
  let es := s.due
  match es[s.turn / 2 % (es.length + 1)]? with
  | some e => exec e s
  | none => .next s.tick

/-- No agent is inside a clause: pipes and the device take turns (DESIGN CHOICE, log 4). -/
def State.idle (s : State) : Host.Outcome State Fault Refusal :=
  let s1 := { s with turn := s.turn + 1 }
  match (if s.turn % 2 = 0 then s1.nextPipe else none) with
  | some p => exec (.clauseSelect p.1 p.2) { s1 with rotor := pipeNo p + 1 }
  | none => s1.device

/-- The running agent's turn: it leaves, its clause ends, or the instruction it is at issues, once nothing comes before it. -/
def State.runs (s : State) : Host.Outcome State Fault Refusal :=
  match s.run.clause with
  | none => .next s.leave
  | some c =>
    if s.run.wait != .none then .next s.leave
    else if s.run.isOver c then
      match s.ackHold s.run with
      | .first e => exec e s
      | _ => .next (s.endClause c).leave
    else
      match s.run.instr with
      | none => .next (s.faultExact cILLOP)
      | some i =>
        match s.hold i with
        | .go => exec i (s.begin i)
        | .first e => exec e (s.enterLanes i)
        | .full part ctx => .next ((s.enterLanes i).fullStall part ctx)
        | .stuck => .next (s.enterLanes i).stalls

/-- What the machine does where the world does nothing: bring-up first, then the turns (DESIGN CHOICE, log 4). After a device error every
partition stops, with its engines and cores, and only the timer goes on (R393). -/
def State.act (s : State) : Host.Outcome State Fault Refusal :=
  if s.dev.devErr then .next s.tick
  else if !s.dev.ready then .next s.bringUp
  else if s.ctxs.any (·.2.due) then .next s.syncLogs
  else if s.active then s.runs
  else s.idle

/-- What the world brings: an event of the device, which has no word (R72). -/
def isEvent (i : Instr) : Bool := i.wf && (encode i).isNone

/-! ## A program that is in place (log 5) -/

/-- A context whose groups run at supervisor level, so that every word may be fetched (R382). -/
def supCtx : Ctx := { desc := (Vector.replicate 16 0).set 10 (1#64 <<< 51) }

/-- The machine, up, with one resident group of such a context inside a clause of one word (DESIGN CHOICE, log 5). -/
def State.placed (s : State) (w : Word) : State :=
  let key := teamKey 1 0
  { s with
    pending := [], active := true
    dev := { s.dev with ready := true }
    ctxs := Tbl.put s.ctxs (ctxKey 0 0) supCtx
    grids := Tbl.put s.grids 1 { id := 1, roles := [(1, 256)], map := [0], placed := [0] }
    teams := Tbl.put s.teams key { grid := 1 }
    run := { gid := groupId key 0, grid := 1, budget := 256, pc := 16, clause := some ⟨0, {}, [w]⟩ } }

end Sys2Proof.Machine
end

