-- ==== Sys2Proof/Machine/Step.lean ====
section
/-! DEFINITION. One step of the machine. -/

namespace Sys2Proof.Machine

/-- ONE STEP: what the world brings next that does not wait for an engine's line, or what the machine does. -/
def step (s : State) : Host.Outcome State Fault Refusal :=
  match s.firstOutside s.pending with
  | some (i, rest) => if isEvent i then exec i { s with pending := rest } else .fault .illFormed
  | none => s.act

/-- The machine with an instruction as the next word of a running group's open clause, as its fetch read it (DESIGN CHOICE, log 5). -/
def State.withFetchWord (s : State) (nbits w : Nat) : State := s.placed (BitVec.ofNat 64 (w % 2 ^ nbits))

end Sys2Proof.Machine
end

