-- ==== Sys2Proof/Safety.lean ====
section
/-! DEFINITION. The terms that the claims use: what every step keeps, what an instruction of each shape touches, and the
reference operations of the spec on bit vectors and on numbers. -/

namespace Sys2Proof.Machine

/-! ## What a completion touches -/

/-- Memory and scratchpad are in canonical form. -/
def State.memOk (s : State) : Prop := Memory.wf s.mem = true ∧ Memory.wf s.spad = true

/-- The cores of `t` and the cycle counts of its control and scheduler cores are those of `s`, but for `n` cycles charged to the core of a
compute group, or to the control or scheduler core that runs (R25, R175). -/
def State.charged (s t : State) (n : Nat) : Prop :=
  (∀ k, t.core k =
    if s.run.kind = .compute ∧ k = s.run.core then { s.core k with cyc := (s.core k).cyc + BitVec.ofNat 64 n } else s.core k) ∧
  ∀ k, Tbl.get 0 t.agentCyc k =
    if s.run.kind ≠ .compute ∧ k = s.run.gid then Tbl.get 0 s.agentCyc k + BitVec.ofNat 64 n else Tbl.get 0 s.agentCyc k

/-- Only the running group changes, and its core is charged: memory, scratchpad and every other agent are as before. -/
def State.onlyGroup (s t : State) (n : Nat) : Prop :=
  t = { s with run := t.run, cores := t.cores, agentCyc := t.agentCyc } ∧ s.charged t n

/-- A core but for its storage registers, its reuse table, its cycles and its counters (R74-R86, R360). -/
def Core.bare (c : Core) : Core :=
  { c with phys := [], reuse := [], stamp := 0, cyc := 0, ctrs := Vector.replicate 16 0 }

/-- A context but for the records of its log, the places where they are counted, and the mark that its header has still to follow (R260, R261,
R270). -/
def Ctx.bare (c : Ctx) : Ctx :=
  { c with
    windows := c.windows.map fun w => { w with snap := w.snap.map fun p => { p with spilled := [] } }
    records := [], bursts := [], fill := Vector.replicate 8 0, seqs := Vector.replicate 8 0, due := false }

/-- The states `s` and `t` differ only in the running group, in the storage registers, reuse table, cycles and counters of core `n`,
and in the records that evicted snapshot registers add to the logs (R75, R80, R270). Memory and scratchpad are as before. -/
def State.booked (n : Nat) (s t : State) : Prop :=
  t = { s with run := t.run, cores := t.cores, ctxs := t.ctxs } ∧
  (∀ k, k ≠ n → t.core k = s.core k) ∧ (t.core n).bare = (s.core n).bare ∧
  ∀ p x, (t.ctx? p x).map Ctx.bare = (s.ctx? p x).map Ctx.bare

/-- The value that a scalar position holds once `x` is written to it (R167, R168). -/
def Group.stored (g : Group) (p : SPos) (x : Word) : Word :=
  match p with
  | .s _ => x
  | .m _ => (x.setWidth 32).setWidth 64
  | .em => (x.setWidth 32 &&& g.z).setWidth 64

/-- A SCALAR INSTRUCTION wrote `x` to position `d` and took `n` cycles: every other position, register, flag and byte is as before,
and the group goes on to its next word. -/
def State.scalarStep (s t : State) (d : SPos) (x : Word) (n : Nat := 1) : Prop :=
  t.run.pos d = s.run.stored d x ∧ (∀ p, p ≠ d → t.run.pos p = s.run.pos p) ∧
  t.run = { s.run with s := t.run.s, m := t.run.m, em := t.run.em, word := s.run.word + 1 } ∧ s.onlyGroup t n

/-- The bits that lane `l` of a destination `d` holds: one register's lane, or a pair's (R66, R89). -/
def State.destBits (s t : State) (pair : Bool) (m : VMode) (d : RegNo) (l : Nat) : Nat :=
  let r := s.run.opReg m.ixn m.id d l
  if pair then (t.run.lane64 r l).toNat else (lane (t.run.reg r) l).toNat

/-- In each active lane the destination `d` holds bits `x` with `P l x`; every other lane of every register is as before (R91). -/
def State.lanesWritten (s t : State) (pair : Bool) (m : VMode) (d : RegNo) (P : Nat → Nat → Prop) : Prop :=
  (∀ l, l < 32 → s.run.em.getLsbD l = true → s.run.opReg m.ixn m.id d l + (if pair then 1 else 0) < 256 →
    P l (s.destBits t pair m d l)) ∧
  (∀ r l, r < 256 → l < 32 →
    ¬ (s.run.em.getLsbD l = true ∧ (s.run.opReg m.ixn m.id d l = r ∨ pair = true ∧ s.run.opReg m.ixn m.id d l + 1 = r)) →
    lane (t.run.reg r) l = lane (s.run.reg r) l)

/-- A VECTOR INSTRUCTION completed with destination `d`: the active lanes hold what `P` says, the group goes on to its next word, and
nothing else changes but `fsr` and what the register sharing books. -/
def State.vecStep (s t : State) (pair : Bool) (m : VMode) (d : RegNo) (P : Nat → Nat → Prop) : Prop :=
  State.booked s.run.core s t ∧
  t.run = { s.run with v := t.run.v, fsr := t.run.fsr, word := s.run.word + 1 } ∧ s.lanesWritten t pair m d P

/-- A FLOATING-POINT INSTRUCTION completed: as a vector instruction, and the sequence count of the stochastic mode steps where the
effective mode is rsr (R133, R143). -/
def State.floatStep (s t : State) (pair : Bool) (m : VMode) (d : RegNo) (rm : Rm) (P : Nat → Nat → Prop) : Prop :=
  State.booked s.run.core s t ∧
  t.run = { s.run with
    v := t.run.v, fsr := t.run.fsr, word := s.run.word + 1
    srSeq := if rm = .rsr then s.run.srSeq + 1 else s.run.srSeq } ∧ s.lanesWritten t pair m d P

/-- The sticky flags after an instruction: those that were set, and those that an element of an active lane raises (R142, R145). -/
def State.flagged (s t : State) (n : Nat) (f : Nat → Nat → Nat) : Prop :=
  ∀ i, i < 32 → (t.run.fsr.getLsbD i = true ↔ s.run.fsr.getLsbD i = true ∨
    ∃ l e, l < 32 ∧ s.run.em.getLsbD l = true ∧ e < n ∧ (f l e).testBit i = true)

/-- The sticky flags `f` are raised where `b` holds, and `fsr` is as before where it does not (R145). -/
def State.raises (s t : State) (f : Lane) (b : Prop) : Prop :=
  (b → t.run.fsr = s.run.fsr ||| f) ∧ (¬ b → t.run.fsr = s.run.fsr)

/-- A COMPARE wrote mask register `k`: bit `l` of an active lane is `p l`, every other bit and register is as before (R111, R152). -/
def State.maskStep (s t : State) (k : BitVec 3) (p : Nat → Prop) : Prop :=
  (∀ l, l < 32 → s.run.em.getLsbD l = true → (t.run.m[k.toNat].getLsbD l = true ↔ p l)) ∧
  (∀ l, l < 32 → s.run.em.getLsbD l = false → t.run.m[k.toNat].getLsbD l = s.run.m[k.toNat].getLsbD l) ∧
  t.run = { s.run with m := s.run.m.set k.toNat t.run.m[k.toNat], fsr := t.run.fsr, word := s.run.word + 1 } ∧
  s.onlyGroup t s.run.cyc

end Sys2Proof.Machine

namespace Sys2Proof.Claims

open Sys2Proof.Machine

/-! ## Reference operations on bit vectors (R108-R114, R178) -/

/-- An operation of two operands by the type of a scalar instruction: on 32 bits with the result extended as the type says, or on 64
bits; `f` is told whether the type is signed (R178). -/
def byType (ty : Ty) (f : Bool → (w : Nat) → BitVec w → BitVec w → BitVec w) (x y : Word) : Word :=
  match ty with
  | .s32 => (f true 32 (x.setWidth 32) (y.setWidth 32)).signExtend 64
  | .n32 => (f false 32 (x.setWidth 32) (y.setWidth 32)).setWidth 64
  | .n64 => f false 64 x y
  | _ => f true 64 x y

/-- Less than, signed or unsigned. -/
def less (signed : Bool) {w : Nat} (x y : BitVec w) : Bool := if signed then x.slt y else x.ult y

/-- The upper half of the exact product, signed or unsigned. -/
def mulHigh (signed : Bool) {w : Nat} (x y : BitVec w) : BitVec w :=
  if signed then ((x.signExtend (2 * w) * y.signExtend (2 * w)) >>> w).setWidth w
  else ((x.setWidth (2 * w) * y.setWidth (2 * w)) >>> w).setWidth w

/-- A shift by `n` (R109). -/
def shifted (op : ShiftOp) {w : Nat} (x : BitVec w) (n : Nat) : BitVec w :=
  match op with
  | .shl => x <<< n
  | .shr => x >>> n
  | .sra => x.sshiftRight n
  | .rol => x.rotateLeft n

/-- The quotient truncated toward zero, all ones for a divisor of 0 (R178). -/
def quotient (signed : Bool) {w : Nat} (x y : BitVec w) : BitVec w :=
  if y = 0 then BitVec.allOnes w else if signed then x.sdiv y else x / y

/-- The remainder with the sign of the dividend, which it is for a divisor of 0 (R178). -/
def remainder (signed : Bool) {w : Nat} (x y : BitVec w) : BitVec w :=
  if y = 0 then x else if signed then x.srem y else x % y

/-- The number of ones, of leading zeros and of trailing zeros. -/
def ones {w : Nat} (x : BitVec w) : Nat := ((List.range w).filter fun i => x.getLsbD i).length
def zerosAbove {w : Nat} (x : BitVec w) : Nat := ((List.range w).find? fun i => x.getLsbD (w - 1 - i)).getD w
def zerosBelow {w : Nat} (x : BitVec w) : Nat := ((List.range w).find? fun i => x.getLsbD i).getD w

/-- The field of `len` bits from `pos`, extended from its own top bit or with zeros (R110). -/
def field (signed : Bool) {w : Nat} (x : BitVec w) (pos len : Nat) : BitVec w :=
  if w ≤ pos ∨ len = 0 then 0
  else
    let l := min len (w - pos)
    let y := x <<< (w - pos - l)
    if signed then y.sshiftRight (w - l) else y >>> (w - l)

/-- `c` with the field of `len` bits from `pos` replaced by the low bits of `x` (R110). -/
def inserted {w : Nat} (x c : BitVec w) (pos len : Nat) : BitVec w :=
  if w ≤ pos ∨ len = 0 then c
  else
    let l := min len (w - pos)
    let mask : BitVec w := (BitVec.allOnes w >>> (w - l)) <<< pos
    (c &&& ~~~mask) ||| ((x <<< pos) &&& mask)

/-! ## Elements (R101-R103) -/

/-- The least and the greatest number of an element. -/
def least (ty : Ty) : Int := if elSigned ty then -(2 ^ (elW ty - 1)) else 0
def greatest (ty : Ty) : Int := if elSigned ty then 2 ^ (elW ty - 1) - 1 else 2 ^ elW ty - 1

/-- The number does not fit the element. -/
def outside (ty : Ty) (x : Int) : Prop := x < least ty ∨ greatest ty < x

/-- The bits `r` are Fit(x): the nearest number of the element where it saturates, and the low bits where it does not (R103). -/
def isFit (ty : Ty) (sat : Bool) (x : Int) (r : Nat) : Prop :=
  if sat then readInt (elSigned ty) (elW ty) r = max (least ty) (min (greatest ty) x) else (r : Int) = x % 2 ^ elW ty

/-- Each element of the lane bits `x` is Fit of the exact result `v e`. -/
def fits (ty : Ty) (sat : Bool) (v : Nat → Int) (x : Nat) : Prop := ∀ e, e < ty.elems → isFit ty sat (v e) (elBits ty x e)

/-- Each element of the lane bits `x` is the bit vector `v e`. -/
def isBits (ty : Ty) (v : Nat → BitVec (elW ty)) (x : Nat) : Prop := ∀ e, e < ty.elems → elBits ty x e = (v e).toNat

/-- Some element of an active lane saturates. -/
def saturates (s : State) (ty : Ty) (sat : Bool) (v : Nat → Nat → Int) : Prop :=
  ∃ l e, l < 32 ∧ s.run.em.getLsbD l = true ∧ e < ty.elems ∧ sat = true ∧ outside ty (v l e)

/-- The sticky flag SAT of R169. -/
def satFlag : Lane := 1#32 <<< 5

/-- Element `e` of lane `l` of operand A, and of an operand B or C, as numbers and as bits (R101, R102). -/
def elA (s : State) (ty : Ty) (a : RegNo) (m : VMode) (l e : Nat) : Int := el ty (s.run.aN ty a m l) e
def elB (s : State) (ty : Ty) (b : Opnd) (l e : Nat) : Int := el ty (s.run.oN ty b l) e
def bitsA (s : State) (ty : Ty) (a : RegNo) (m : VMode) (l e : Nat) : BitVec (elW ty) :=
  BitVec.ofNat (elW ty) (elBits ty (s.run.aN ty a m l) e)
def bitsB (s : State) (ty : Ty) (b : Opnd) (l e : Nat) : BitVec (elW ty) :=
  BitVec.ofNat (elW ty) (elBits ty (s.run.oN ty b l) e)

/-- The reduction of a list of elements: the exact sum, the least, the greatest, or the bits of all, with the identity for no
element (R120). -/
def reduced (ty : Ty) (op : RedOp) (xs : List Int) : Int :=
  let bits := xs.map (BitVec.ofInt (elW ty))
  match op with
  | .add => xs.sum
  | .min => xs.foldl min (greatest ty)
  | .max => xs.foldl max (least ty)
  | .and => ((bits.foldl (· &&& ·) (BitVec.allOnes _)).toNat : Int)
  | .or => ((bits.foldl (· ||| ·) 0).toNat : Int)
  | .xor => ((bits.foldl (· ^^^ ·) 0).toNat : Int)

/-! ## Floating point on exact values (R127-R138, R147-R159) -/

/-- A power of two with an integer exponent. -/
def pow2 (e : Int) : Rat := if 0 ≤ e then (2 ^ e.toNat : Nat) else 1 / ((2 ^ (-e).toNat : Nat) : Rat)

/-- The exact value of a finite number. -/
def valueOf : FVal → Rat
  | .fin s m e => (if s then -1 else 1) * (m : Rat) * pow2 e
  | _ => 0

/-- RoundTo of an exact value, a zero with the sign given (R128-R134). -/
def rounded (q : Fmt) (rm : Rm) (sat : Bool) (w : Nat) (x : Rat) (zero : Bool) : Nat × Nat :=
  if x = 0 then (q.signBit zero, 0) else q.round rm sat w (x < 0) x.num.natAbs x.den 0

/-- The first NaN of the operands, quieted; IV where one is signalling (R135). -/
def nanOf (q : Fmt) (xs : List FVal) : Nat × Nat :=
  (match xs.find? FVal.isNan with
    | some (.nan s _ f) => q.nan s f
    | _ => q.cnan, if xs.any FVal.isSnan then IV else 0)

/-- The exact sum of two operands (R130, R131, R147). -/
def sumOf (q : Fmt) (rm : Rm) (sat : Bool) (w : Nat) (a b : FVal) : Nat × Nat :=
  if a.isNan || b.isNan then nanOf q [a, b]
  else match a, b with
    | .inf s, .inf t => if s = t then q.deliverInf sat s else (q.cnan, IV)
    | .inf s, _ => q.deliverInf sat s
    | _, .inf t => q.deliverInf sat t
    | _, _ => rounded q rm sat w (valueOf a + valueOf b) (if a.sign = b.sign then a.sign else rm == .rdn)

/-- The exact product of two operands (R130, R131, R147). -/
def productOf (q : Fmt) (rm : Rm) (sat : Bool) (w : Nat) (a b : FVal) : Nat × Nat :=
  if a.isNan || b.isNan then nanOf q [a, b]
  else match a, b with
    | .fin .., .fin .. => rounded q rm sat w (valueOf a * valueOf b) (a.sign != b.sign)
    | _, _ => if a.isZero || b.isZero then (q.cnan, IV) else q.deliverInf sat (a.sign != b.sign)

/-- The exact quotient of two operands (R150). -/
def quotientOf (q : Fmt) (rm : Rm) (sat : Bool) (w : Nat) (a b : FVal) : Nat × Nat :=
  let s := a.sign != b.sign
  if a.isNan || b.isNan then nanOf q [a, b]
  else match a, b with
    | .inf _, .inf _ => (q.cnan, IV)
    | .inf _, _ => q.deliverInf sat s
    | _, .inf _ => (q.signBit s, 0)
    | _, _ =>
      if b.isZero then (if a.isZero then (q.cnan, IV) else ((q.deliverInf sat s).1, (q.deliverInf sat s).2 ||| DZ))
      else rounded q rm sat w (valueOf a / valueOf b) s

/-- The exact product and sum, rounded once; a product 0 × ∞ is invalid, and gives way to the NaN of C (R135, R148). -/
def productSumOf (q : Fmt) (rm : Rm) (sat : Bool) (w : Nat) (a b c : FVal) : Nat × Nat :=
  let p := a.sign != b.sign
  let isInf (x : FVal) : Bool := match x with
    | .inf _ => true
    | _ => false
  let bad := (isInf a && b.isZero) || (a.isZero && isInf b)
  if a.isNan || b.isNan then nanOf q [a, b, c]
  else if c.isNan then ((nanOf q [c]).1, if bad then IV else (nanOf q [c]).2)
  else if bad then (q.cnan, IV)
  else if isInf a || isInf b then (if isInf c && c.sign != p then (q.cnan, IV) else q.deliverInf sat p)
  else if isInf c then q.deliverInf sat c.sign
  else rounded q rm sat w (valueOf a * valueOf b + valueOf c) (if p = c.sign then p else rm == .rdn)

/-- Element `e` of lane `l` of operand A, and of an operand B or C, as floating-point values. -/
def fltA (s : State) (ty : Ty) (a : RegNo) (m : VMode) (l e : Nat) : FVal := (fmtOf ty).read (elBits ty (s.run.aN ty a m l) e)
def fltB (s : State) (ty : Ty) (b : Opnd) (l e : Nat) : FVal := (fmtOf ty).read (elBits ty (s.run.oN ty b l) e)

/-- An elementwise floating-point instruction gives element `e` of lane `l` the bits and the flags of `f` (R142). -/
def elementwise (s t : State) (ty : Ty) (m : VMode) (d : RegNo) (rm : Rm) (f : Nat → Nat → Nat × Nat) : Prop :=
  s.floatStep t ty.isPair m d rm (fun l x => ∀ e, e < ty.elems → elBits ty x e = (f l e).1 % 2 ^ elW ty) ∧
  s.flagged t ty.elems fun l e => (f l e).2

/-- Order and equality of two values that are no NaN, -0 equal to +0 (R152). -/
def below (a b : FVal) : Bool :=
  match a, b with
  | .inf s, .inf t => s && !t
  | .inf s, _ => s
  | _, .inf t => !t
  | _, _ => valueOf a < valueOf b
def same (a b : FVal) : Bool := !below a b && !below b a

/-- A condition of FCMP and whether it raises IV (R152). -/
def conditionOf (c : FCond) (a b : FVal) : Bool × Bool :=
  let un := a.isNan || b.isNan
  let sig := a.isSnan || b.isSnan
  match c with
  | .eq => (!un && same a b, sig)
  | .ne => (un || !same a b, sig)
  | .lt => (!un && below a b, un)
  | .le => (!un && !below b a, un)
  | .gt => (!un && below b a, un)
  | .ge => (!un && !below a b, un)
  | .un => (un, sig)
  | .ord => (!un, sig)

/-- The class of a value in a format (R153). -/
def classNumber (q : Fmt) (a : FVal) : Nat :=
  match a with
  | .nan _ quiet _ => if quiet then 1 else 0
  | .inf s => if s then 2 else 9
  | .fin s m e =>
    if m = 0 then (if s then 5 else 6)
    else if (m : Rat) * pow2 e < pow2 (1 - q.bias) then (if s then 4 else 7)
    else (if s then 3 else 8)

/-- An exact value rounded to an integer by a mode (R128, R132). -/
def isRounded (rm : Rm) (w : Nat) (x : Rat) (y : Int) : Prop :=
  let g := (if x < 0 then -x else x) - ((if x < 0 then -x else x).floor : Rat)
  let k := (if x < 0 then -x else x).floor
  let up := if x < 0 then -(k + 1) else k + 1
  let down := if x < 0 then -k else k
  if g = 0 then y = down
  else match rm with
    | .rne => (g < 1 / 2 → y = down) ∧ (1 / 2 < g → y = up) ∧ (g = 1 / 2 → (y = down ∨ y = up) ∧ y % 2 = 0)
    | .rtz => y = down
    | .rup => y = if x < 0 then down else up
    | .rdn => y = if x < 0 then up else down
    | .rna => y = if g < 1 / 2 then down else up
    | .rsr => y = if 2 ^ 16 ≤ (g * 2 ^ 16).floor + (w : Int) then up else down
    | .dyn => True

/-- A NaN of one format in another (R136). -/
def nanIn (src dst : Fmt) (s : Bool) (frac : Nat) : Nat :=
  if !dst.inf then dst.nan s 0
  else if !src.inf then dst.nan s 0
  else if src.f ≤ dst.f then dst.nan s (frac * 2 ^ (dst.f - src.f))
  else dst.nan s (frac / 2 ^ (src.f - dst.f))

/-- A floating-point value in another format (R136, R156). -/
def convertedTo (src dst : Fmt) (rm : Rm) (sat : Bool) (w : Nat) (a : FVal) (x : Rat) : Nat × Nat :=
  match a with
  | .nan s quiet f => (nanIn src dst s f, if quiet then 0 else IV)
  | .inf s => dst.deliverInf sat s
  | .fin s _ _ => rounded dst rm sat w x s

/-- A NaN, an infinity and a zero give what the table of the single-operand functions says (R154). -/
def special (q : Fmt) (x : FVal) (y plusInf minusInf : Nat × Nat) (zero : Bool → Nat × Nat) : Prop :=
  match x with
  | .nan .. => y = nanOf q [x]
  | .inf s => y = if s then minusInf else plusInf
  | .fin s m _ => m = 0 → y = zero s

/-- A finite value other than zero. -/
def proper (x : FVal) : Prop :=
  match x with
  | .fin _ m _ => m ≠ 0
  | _ => False

/-- A real number that lies between some rationals `lo` and `hi` as `isBetween lo hi` says is rounded once: everything between those two rounds
to `y` (R128, R154). -/
def roundsReal (q : Fmt) (rm : Rm) (sat : Bool) (w : Nat) (isBetween : Rat → Rat → Prop) (y : Nat × Nat) : Prop :=
  ∃ lo hi, isBetween lo hi ∧ ∀ z, lo ≤ z → z ≤ hi → y = rounded q rm sat w z false

/-- A power of a rational, and the alternating sum of the terms `f k` below `n`. -/
def power (x : Rat) : Nat → Rat
  | 0 => 1
  | n + 1 => x * power x n
def alternating (f : Nat → Rat) : Nat → Rat
  | 0 => 0
  | n + 1 => alternating f n + (if n % 2 = 0 then f n else - f n)

/-- 2^x lies between two rationals, for x with a denominator that is a power of two (R154). -/
def exp2Between (x lo hi : Rat) : Prop := 0 < lo ∧ power lo x.den < pow2 x.num ∧ pow2 x.num < power hi x.den
/-- The binary logarithm of x lies between two rationals (R154). -/
def log2Between (x lo hi : Rat) : Prop := pow2 lo.num < power x lo.den ∧ power x hi.den < pow2 hi.num
/-- sin(πx) lies between two rationals: π and the sine by their series (R154). -/
def sinPiBetween (x lo hi : Rat) : Prop :=
  ∃ n, ∀ m, n ≤ m →
    let y := 4 * alternating (fun k => 1 / ((2 * k + 1 : Nat) : Rat)) m * x
    let sine := alternating (fun k => power y (2 * k + 1) / (((List.range (2 * k + 1)).foldl (fun t i => t * (i + 1)) 1 : Nat) : Rat)) m
    lo < sine ∧ sine < hi

/-- An accumulator after ExactAdd of values: the exact sum in units of 2^-149, and a status bit for a NaN, a +∞ and a -∞ (R126, R127). -/
def added (w : WAcc) (xs : List FVal) : WAcc :=
  ⟨w.val + BitVec.ofInt 384 ((xs.map fun x => (valueOf x * pow2 149).floor).sum),
   w.st ||| (if xs.any FVal.isNan then 1 else 0) ||| (if xs.contains (.inf false) then 2 else 0)
     ||| (if xs.contains (.inf true) then 4 else 0)⟩

/-- RoundW of an accumulator (R127). -/
def roundW (q : Fmt) (rm : Rm) (sat : Bool) (w : Nat) (a : WAcc) : Nat × Nat :=
  if a.st.getLsbD 0 then (q.cnan, 0)
  else if a.st.getLsbD 1 && a.st.getLsbD 2 then (q.cnan, IV)
  else if a.st.getLsbD 1 then q.deliverInf sat false
  else if a.st.getLsbD 2 then q.deliverInf sat true
  else rounded q rm sat w ((a.val.toInt : Rat) * pow2 (-149)) false

/-- Only the group changes, from `s` to the group `g` at its next word, in `n` cycles. -/
def becomes (s t : State) (g : Group) (n : Nat) : Prop := t.run = { g with word := s.run.word + 1 } ∧ s.onlyGroup t n

/-! ## Control transfers and exceptions (R72, R171, R184, R374-R381, R399) -/

/-- The target of a transfer passes its test: bits [2:0] and [63:56] are zero and its header word reads as code and passes check 2
(R72). `s1` is the machine after that read, which may fill translation caches. -/
def passes (s : State) (target : Word) (s1 : State) : Prop :=
  target.extractLsb' 0 3 = 0 ∧ target.extractLsb' 56 8 = 0 ∧
  ∃ h, s.codeWord (target.setWidth 56) = (s1, .ok h) ∧ (decodeHeader h).isSome = true

/-- The target of an offset from the header of the open clause (R60). -/
def offsetTarget (s : State) (off : BitVec 16) : Word := (s.run.hdr + 8 * off.signExtend 56).setWidth 64

/-- The words of a trap frame, read by `word`, hold the trap `x` of the group `g` (R376). -/
def frameHolds (word : Nat → Word) (g : Group) (x : Trap) (busy nest : Bool) : Prop :=
  (word 0).extractLsb' 56 8 = BitVec.ofNat 8 x.cause ∧ (word 0).extractLsb' 0 56 = x.fpc ∧
  (word 1).extractLsb' 61 3 = 0 ∧ (word 1).extractLsb' 56 5 = BitVec.ofNat 5 x.ridx ∧ (word 1).extractLsb' 0 56 = x.clause ∧
  (word 2).extractLsb' 32 32 = g.em ∧ (word 2).extractLsb' 0 32 = x.done ∧ word 3 = BitVec.ofNat 64 x.addr ∧
  (word 4).extractLsb' 37 27 = 0 ∧ (word 4).extractLsb' 32 5 = BitVec.ofNat 5 x.fidx ∧ (word 4).extractLsb' 0 32 = BitVec.ofNat 32 x.info ∧
  word 5 = g.s[63] ∧ (word 6).extractLsb' 3 61 = 0 ∧ (word 6).getLsbD 2 = nest ∧ (word 6).getLsbD 1 = busy ∧
  (word 6).getLsbD 0 = g.mmode ∧ ∀ i, 7 ≤ i → i < 16 → word i = 0

/-- The group `g` after entry to a handler whose frame lies at `f` (R379): the frame's address in `s63`, explicit-mask mode, every live
lane active, and the PC at the handler. -/
def inHandlerAt (g : Group) (f : Nat) (handler : Addr) : Group :=
  { g with
    s := g.s.set 63 (BitVec.ofNat 64 f), mmode := true, em := g.live, pc := handler, clause := none, word := 0, ahead := none, resume := none
    openSets := [], cf := g.endFlags.cf, inHandler := true, preempt := false, pend := none, doneMask := 0, wait := .none }

/-- The user frame of the running group can be written at `pa` and is not busy (R379). -/
def frameFree (s : State) (s1 : State) (pa : Nat) : Prop :=
  s.translate s.run.core s.run.part s.run.ctx (s.userFrame s.run) .wr (!s.isSup s.run) = (s1, .ok pa) ∧
  (region pa = .dev ∨ region pa = .host) ∧ (s1.coreByte s.run.core (pa + 48)).getLsbD 1 = false

/-- The fields of the record of a trap (R288, R377). -/
def recordOf (s : State) (g : Group) (cause : Nat) (r : BitVec 128) : Prop :=
  r.extractLsb' 40 4 = 3 ∧ r.extractLsb' 44 8 = 0xFF ∧ r.extractLsb' 32 8 = BitVec.ofNat 8 cause ∧
  r.extractLsb' 52 12 = BitVec.ofNat 12 (s.launchOf g).1 ∧ r.extractLsb' 64 32 = BitVec.ofNat 32 (s.launchOf g).2 ∧
  (g.core < 512 → g.slot < 64 → g.ctx < 64 → g.part < 64 →
    r.extractLsb' 96 9 = BitVec.ofNat 9 g.core ∧ r.extractLsb' 105 6 = BitVec.ofNat 6 g.slot ∧
    r.extractLsb' 111 6 = BitVec.ofNat 6 g.ctx ∧ r.extractLsb' 117 6 = BitVec.ofNat 6 g.part ∧ r.extractLsb' 123 5 = 0)

/-! ## Memory (R194-R199, R205, R211, R234, R244) -/

/-- The `n` bytes at virtual address `a` lie in the page that the core of the running agent translated last, which its cache holds and which
allows the access; they are the bytes of device memory at `pa` (R194, R195, R327, R330). -/
def inPage (s : State) (acc : Access) (a : Word) (n pa : Nat) : Prop :=
  ∃ e rest, (s.core s.run.core).tlb = e :: rest ∧ e.asid = s.asid s.run.part s.run.ctx ∧
    e.va ≤ a.toNat ∧ a.toNat + n ≤ e.va + e.size ∧ a.toNat + n ≤ 2 ^ 56 ∧ pa = e.pa + (a.toNat - e.va) ∧ pa + n ≤ 2 ^ 39 ∧
    acc ≠ .ex ∧ (acc = .wr → e.w = true ∧ e.d = true) ∧ (e.s = true → s.isSup s.run = true)

/-- From `s` to `t` only the running group, the lines, tags and translation copies of caches, the sharers of lines, write-through buffers,
cycles and counters change, names of operations are used up, and a line that leaves its home slice takes the bits of its captured sectors
with it: no cache holds a value of its own (R204-R206, R211, R263, R330, R360). -/
def cachesOnly (s t : State) : Prop :=
  t = { s with
    run := t.run, cores := t.cores, agentCyc := t.agentCyc, clusters := t.clusters, slices := t.slices, ctxs := t.ctxs, nextId := t.nextId } ∧
  (∀ p x, (t.ctx? p x).map (fun c => { c with captured := [] }) = (s.ctx? p x).map fun c => { c with captured := [] }) ∧
  (∀ n, t.core n = { s.core n with
    buf := (t.core n).buf, tlb := (t.core n).tlb, tags := (t.core n).tags, misses := (t.core n).misses
    lost := (t.core n).lost, cyc := (t.core n).cyc, ctrs := (t.core n).ctrs }) ∧
  (∀ k, t.cluster k = { s.cluster k with lines := (t.cluster k).lines, tlb := (t.cluster k).tlb }) ∧
  ∀ n, t.slice n = { s.slice n with lines := (t.slice n).lines, sharers := (t.slice n).sharers, ctrs := (t.slice n).ctrs }

/-- The byte at a physical address as the running agent reads it: a compute group through its core's write-through buffer (R211). -/
def byteOf (s : State) (b : Nat) : Byte := if s.run.kind = .compute then s.coreByte s.run.core b else Memory.get s.mem b

/-- Every agent reads every byte of memory as before, and scratchpad is as before. -/
def sameBytes (s t : State) : Prop := t.mem = s.mem ∧ t.spad = s.spad ∧ ∀ n b, t.coreByte n b = s.coreByte n b

/-- The write generations of the windows of the teams with `written` have risen, and with them the reuse entries that the old generations
tagged are dropped; nothing else changes (R87, R88). -/
def raised (s u : State) (written : Nat → Prop) : Prop :=
  u = { s with teams := u.teams, cores := u.cores, nextId := u.nextId } ∧
  (∀ n, u.core n = { s.core n with reuse := (u.core n).reuse, phys := (u.core n).phys }) ∧
  ∀ k x, s.team? k = some x → ∃ y, u.team? k = some y ∧ y = { x with winGen := y.winGen } ∧ (¬ written k → y = x) ∧
    (written k → s.nextId ≤ y.winGen ∧ ∀ e, e ∈ (u.core x.core).reuse → e.key.tag ≠ some x.winGen)

/-- A load-class operation `op` issued: it is outstanding, counted on the flags that the clause's header names, and the group goes on to
its next word; `pend` may take a watch (R52, R53, R369). -/
def issued (s t : State) (op : LoadOp) : Prop :=
  t.run = { s.run with
    loads := s.run.loads ++ [op], cf := t.run.cf, doneMask := 0, word := s.run.word + 1
    pend := t.run.pend, relFence := t.run.relFence } ∧
  op.seta = s.run.sets.1 ∧ op.setb = s.run.sets.2 ∧
  ∀ (n : Nat) (h : n < 12), t.run.cf[n] =
    if s.run.sets.1.toNat = n ∨ s.run.sets.2.toNat = n then ⟨true, s.run.cf[n].count + 1⟩ else s.run.cf[n]

/-- A release fence of core scope is behind the group: one was, or the access of no lane acts as one (R219, R235). -/
def fenceBehind (s t : State) (ord : MOrd) (sco : Scope) : Prop :=
  t.run.relFence = (s.run.relFence || (s.run.em == 0 && ord.releases && sco == .core))

/-- The bytes of an access lie in no sector of a log header, whose fields the device keeps (R260). -/
def offHeaders (s : State) (pa n : Nat) : Prop :=
  ∀ k c, (k, c) ∈ s.ctxs → c.logs = true → pa + n ≤ c.logBase ∨ c.logBase + 96 ≤ pa / 32 * 32

/-- A loaded value of `n` bytes extended to `w` bits: by sign, or with zeros (R234). -/
def loaded (sx : Bool) (n w x : Nat) : Nat := if sx = true ∧ x.testBit (8 * n - 1) = true then x + 2 ^ w - 2 ^ (8 * n) else x

/-- The registers `vals` hold, in lane `l`, the value `x`, 32 bits in each (R234). -/
def lanesHold (vals : List VReg) (l x : Nat) : Prop :=
  ∀ (k : Nat) (h : k < vals.length), lane vals[k] l = BitVec.ofNat 32 (x / 2 ^ (32 * k))

/-- Byte `j` of the data of lane `l` in registers from `d` (R234). -/
def dataByte (g : Group) (d : RegNo) (l j : Nat) : Byte := (lane (g.reg (d.toNat + j / 4)) l).extractLsb' (8 * (j % 4)) 8

/-- Active lane `l` writes byte `b`, and no higher active lane does (R212). -/
def writes (em : Lane) (covers : Nat → Nat → Prop) (l b : Nat) : Prop :=
  l < 32 ∧ em.getLsbD l = true ∧ covers l b ∧ ∀ k, l < k → k < 32 → em.getLsbD k = true → ¬ covers k b

/-- No active lane writes byte `b`. -/
def unwritten (em : Lane) (covers : Nat → Nat → Prop) (b : Nat) : Prop :=
  ∀ l, l < 32 → em.getLsbD l = true → ¬ covers l b

/-- The new value of an integer atomic (R244). -/
def atomic {w : Nat} (fn : AtomFn) (old b keep : BitVec w) : BitVec w :=
  match fn with
  | .add => old + b
  | .and => old &&& b
  | .or => old ||| b
  | .xor => old ^^^ b
  | .smin => if b.slt old then b else old
  | .smax => if old.slt b then b else old
  | .nmin => if b.ult old then b else old
  | .nmax => if old.ult b then b else old
  | .xchg => b
  | .cas => if old = b then keep else old

/-- Read-modify-writes of `n` bytes at the places `at_`, lane by lane: the memory after them, and the old values (R235, R243). -/
def rmwAll (n : Nat) (at_ : Nat → List Nat) (f : Nat → Nat → Nat) : Memory → List Nat → Memory × List (Nat × Nat)
  | m, [] => (m, [])
  | m, l :: ls =>
    let old := leNat ((at_ l).map (Memory.get m))
    let r := rmwAll n at_ f (((at_ l).zip (leBytes (f l old) n)).foldl (fun m x => Memory.set m x.1 x.2) m) ls
    (r.1, (l, old) :: r.2)

/-! ## The matrix engine (R305-R316) -/

/-- An entry but for what its eligibility says of its age (R312). -/
def entryBare (x : MxEntry) : MxEntry := { x with aged := 0, since := 0 }

/-- A request `op` was posted: it is the youngest entry of the engine of the group's hob, counted on the clause's flags where it is a
long-latency operation, and it owns the lines that it will write; the group goes on, with `latch` as its latch in issue order (R53, R206,
R224, R306, R311, R313). -/
def posted (s t : State) (op : MxOp) (long front : Bool) (hold : Option Nat) (latch : Option (Option FA)) (cyc : Nat) : Prop :=
  let g := s.run
  let e := g.core / 4
  let f : BitVec 4 × BitVec 4 := if long then g.sets else (15, 15)
  let x : MxEntry :=
    { gid := g.gid, part := g.part, ctx := g.ctx, grid := g.grid, team := g.team, core := g.core, op := op, seta := f.1, setb := f.2
      hold := hold.isSome, slot := hold.getD 0, ord := s.nextId, front := front && s.frozen g.teamKey, pc := g.wordAddr, mem := long && g.memClause }
  t.run = { g with cf := t.run.cf, latchIssue := latch, word := g.word + 1 } ∧
  (∀ (n : Nat) (h : n < 12), t.run.cf[n] = if f.1.toNat = n ∨ f.2.toNat = n then ⟨true, g.cf[n].count + 1⟩ else g.cf[n]) ∧
  (t.mx e).table.map entryBare = (s.mx e).table.map entryBare ++ [{ x with lines := s.mxLines x }] ∧
  t.mx e = { s.mx e with table := (t.mx e).table, order := (t.mx e).order } ∧ (∀ k, k ≠ e → t.mx k = s.mx k) ∧
  t = { s with run := t.run, cores := t.cores, agentCyc := t.agentCyc, matrix := t.matrix, nextId := s.nextId + 1 } ∧ s.charged t cyc

/-! ## Engine commands (R288-R301) -/

/-- The cluster whose engines and event queue an agent uses: a scheduler core those of its die's first cluster (R290, R291) (DESIGN CHOICE,
log 97). -/
def homeCluster (g : Group) : Nat :=
  match g.kind with
  | .scheduler i => 8 * (i / 2)
  | _ => g.cluster

/-- The command that the running group posts to engine `e` (R206, R288, R292, R293). -/
def cmdOf (s : State) (e : Nat) (op : CmdOp) (a b c : Word) (ev : Bool) (tag : BitVec 16) (long : Bool) : Cmd :=
  let g := s.run
  let f : BitVec 4 × BitVec 4 := if long then g.sets else (15, 15)
  { id := BitVec.ofNat 64 (e * 2 ^ 32 + ((s.engine e).count + 1) % 2 ^ 32), op := op, a := a, b := b, c := c, ev := ev, tag := tag, gid := g.gid
    part := g.part, ctx := g.ctx, grid := g.grid, team := g.team, core := g.core, cluster := homeCluster g, stream := (s.launchOf g).1
    prio := (s.grid? g.grid).elim 7 (·.prio), seta := f.1, setb := f.2, issuedAt := s.time, ord := s.nextId, pc := g.wordAddr
    mem := long && g.memClause }

/-- The command's writes reach the window of team `k` (R87, R295). -/
def reaches (s : State) (c : Cmd) (k : Nat) : Prop :=
  ∃ w, w ∈ s.cmdWrites c ∧ ((w.space = 2 ∨ w.space = 4) ∧ k = teamKey c.grid c.team ∨
    w.space = 1 ∧ k ≠ teamKey c.grid c.team ∧ ∃ t, (k, t) ∈ s.teams ∧ t.holds (24 * (w.at' / 2 ^ 24) + w.at' / 2 ^ 19 % 32) (w.at' % 2 ^ 19) = true)

/-- A command of operation `op` was posted to engine `e`: its id, with the engine in [39:32] and the engine's count in [31:0], is in `sd`; it is
the youngest in the engine's queue, where it owns the lines that it will write, or in the patch slot `held`; it counts on the clause's flags
where `long` says so (R224, R292, R293, R297). -/
def commandPosted (s t : State) (e : Nat) (op : CmdOp) (a b c : Word) (ev : Bool) (tag : BitVec 16) (long : Bool) (d : SReg)
    (held : Option Nat) : Prop :=
  let g := s.run
  let cmd0 := cmdOf s e op a b c ev tag long
  let cmd := { cmd0 with lines := if held = none then writeLines (s.cmdWrites cmd0) else [] }
  let slot := 4 * g.teamKey + held.getD 0
  t.run = { g with s := g.s.set d.toNat cmd.id, cf := t.run.cf, word := g.word + 1 } ∧
  (∀ (n : Nat) (h : n < 12), t.run.cf[n] = if cmd.seta.toNat = n ∨ cmd.setb.toNat = n then ⟨true, g.cf[n].count + 1⟩ else g.cf[n]) ∧
  t.engine e = { s.engine e with count := (s.engine e).count + 1, cmds := if held = none then (s.engine e).cmds ++ [cmd] else (s.engine e).cmds } ∧
  (∀ k, k ≠ e → t.engine k = s.engine k) ∧ (held = none → t.patch = s.patch) ∧
  (held ≠ none → Tbl.get [] t.patch slot = Tbl.get [] s.patch slot ++ [cmd] ∧ ∀ k, k ≠ slot → Tbl.get [] t.patch k = Tbl.get [] s.patch k) ∧
  t = { s with
    run := t.run, cores := t.cores, agentCyc := t.agentCyc, engines := t.engines, patch := t.patch, nextId := s.nextId + 1 } ∧ s.charged t 1

/-- The flags of group `g` are counted down for an operation on flags `a` and `b`: a flag clears at zero unless its clause is open
(R52, R55). -/
def countedDown (g h : Group) (a b : BitVec 4) : Prop :=
  h = { g with cf := h.cf } ∧ ∀ (n : Nat) (k : n < 12), h.cf[n] =
    if a.toNat = n ∨ b.toNat = n then ⟨g.cf[n].count - 1 != 0 || g.openSets.contains n, g.cf[n].count - 1⟩ else g.cf[n]

/-- Records wait for room in a cluster's queue: of finished commands, or of sleeping EVPS (R291, R303). -/
def recordsWait (s : State) (k : Nat) : Prop :=
  (∃ e c st, e ∈ s.engines ∧ c ∈ e.2.cmds ∧ c.cluster = k ∧ c.st = .finished st) ∨ ∃ g d r, g ∈ s.allGroups ∧ g.wait = .evps k d r

/-- The clusters are as before, but for lines of their caches. -/
def linesOnly (s t : State) : Prop := ∀ k, t.cluster k = { s.cluster k with lines := (t.cluster k).lines }

/-- Command `c` of engine `e` ended with a status: it is gone and its flags are counted down; with EV it first posts its record, or keeps
its status until its queue has room, behind the records that wait there (R288-R291). -/
def ended (s t : State) (e : Nat) (c : Cmd) (status : Nat) : Prop :=
  let q := s.cluster c.cluster
  let room := q.queueRoom = true ∧ ¬ recordsWait s c.cluster
  let gone := (t.engine e).cmds = (s.engine e).cmds.filter (fun y => y.id != c.id) ∧
    ∀ g, s.group? c.gid = some g → g.gid = c.gid → ∃ h, t.group? c.gid = some h ∧ countedDown g h c.seta c.setb
  (c.ev = false → gone ∧ linesOnly s t) ∧
  (c.ev = true → room → gone ∧ ∃ r, (t.cluster c.cluster).queue = q.queue ++ [r] ∧
    r.extractLsb' 0 32 = BitVec.ofNat 32 q.cseq ∧ r.extractLsb' 32 8 = BitVec.ofNat 8 status ∧ r.extractLsb' 40 4 = 1 ∧
    r.extractLsb' 44 8 = c.id.extractLsb' 32 8 ∧ r.extractLsb' 52 12 = BitVec.ofNat 12 c.stream ∧
    r.extractLsb' 64 32 = c.id.extractLsb' 0 32 ∧ r.extractLsb' 96 32 = c.tag.setWidth 32) ∧
  (c.ev = true → ¬ room → linesOnly s t ∧
    ∃ n, s.nextId ≤ n ∧ (t.engine e).cmds = (s.engine e).cmds.map fun y => if y.id = c.id then { c with st := .finished status, fin := n } else y)

/-- No operation that goes before command `c` owns a line (R224) (DEDUCED, log 34). -/
def nothingAhead (s : State) (c : Cmd) : Prop :=
  (∀ e x line, e ∈ s.engines → x ∈ e.2.cmds → x ≠ c → x.owns line = false) ∧
  ∀ m x, m ∈ s.matrix → x ∈ m.2.table → x.hold = false → x.lines = []

/-- No engine owns a line, but for the matrix request of number `but`, and no write is held at a slice: writes to memory perform at once (R224,
R263). -/
def nothingWaits (s : State) (but : Option Nat := none) : Prop :=
  (∀ e c line, e ∈ s.engines → c ∈ e.2.cmds → c.owns line = false) ∧
  (∀ m x, m ∈ s.matrix → x ∈ m.2.table → x.hold = false → some x.ord ≠ but → x.lines = []) ∧ ∀ n b, b ∈ (s.core n).buf → b.held = 0

/-- No grid of a context writes under a log (R238). -/
def unlogged (s : State) (part ctx : Nat) : Prop := ∀ c, s.ctx? part ctx = some c → c.logs = false

/-- The instruction is well formed and its register operands pass the checks of R90. -/
abbrev Ready (s : State) (i : Instr) : Prop := i.wf = true ∧ regFault s.run i = none

/-- The machine answers a next state with `P`. -/
def Runs (i : Instr) (s : State) (P : State → Prop) : Prop := ∃ t, exec i s = .next t ∧ P t

end Sys2Proof.Claims
end

