-- ==== Sys2Proof/Certificates/Slice0/Obligations.lean ====
section
/-! DEFINITION. The statements for the provers: what the instructions and the machine of the ZA-960 do, from the numbered rules of
the spec. -/

section

open Sys2Proof Sys2Proof.Machine Sys2Proof.Claims

/-! ## Scalar instructions (R178-R181) -/

/-- SADD, SSUB and SMUL write the sum, the difference, and the low or the high half of the product of their operands as the type reads
them, and nothing else (R178).
SDIV, SMIN and SCMP: the quotient truncated toward zero and the remainder with the dividend's sign, with all ones and the dividend
for a divisor of 0; the lesser and the greater; and -1, 0 or 1 (R178). -/
def Obligations.ScalarArithmetic : Prop :=
  (
  ∀ (s : State) (ty : Ty) (d a : SPos) (b : SOp), ty.isScalar = true →
    Runs (.sadd ty d a b) s (fun t => s.scalarStep t d (byType ty (fun _ _ x y => x + y) (s.run.pos a) (s.run.sop ty b))) ∧
    Runs (.ssub ty d a b) s (fun t => s.scalarStep t d (byType ty (fun _ _ x y => x - y) (s.run.pos a) (s.run.sop ty b))) ∧
    Runs (.smul ty false d a b) s (fun t => s.scalarStep t d (byType ty (fun _ _ x y => x * y) (s.run.pos a) (s.run.sop ty b))) ∧
    Runs (.smul ty true d a b) s (fun t => s.scalarStep t d (byType ty (fun g _ x y => mulHigh g x y) (s.run.pos a) (s.run.sop ty b)))) ∧
  (
  ∀ (s : State) (ty : Ty) (d a : SPos) (b : SOp), ty.isScalar = true →
    Runs (.sdiv ty false d a b) s (fun t => s.scalarStep t d (byType ty (fun g _ x y => quotient g x y) (s.run.pos a) (s.run.sop ty b))) ∧
    Runs (.sdiv ty true d a b) s (fun t => s.scalarStep t d (byType ty (fun g _ x y => remainder g x y) (s.run.pos a) (s.run.sop ty b))) ∧
    Runs (.smin ty false d a b) s (fun t =>
      s.scalarStep t d (byType ty (fun g _ x y => if less g y x then y else x) (s.run.pos a) (s.run.sop ty b))) ∧
    Runs (.smin ty true d a b) s (fun t =>
      s.scalarStep t d (byType ty (fun g _ x y => if less g x y then y else x) (s.run.pos a) (s.run.sop ty b))) ∧
    Runs (.scmp ty d a b) s (fun t => s.scalarStep t d
      (byType (if ty = .n32 then .s32 else if ty = .n64 then .s64 else ty)
        (fun _ _ x y => if less (ty ≠ .n32 ∧ ty ≠ .n64) x y then -1 else if x = y then 0 else 1) (s.run.pos a) (s.run.sop ty b))))

/-- SLOG, SSHF and SBIT: the logical operations on 64 bits, the shifts by the low 8 bits of b, and the field extract and the counts, as
the type reads the operand (R109, R110, R178).
SMOV, SMOVI and SMOV.lane: a copy, an immediate extended or put into one half, and a lane or the lanes of a pair, read whether or
not the lane is active (R179, R180). -/
def Obligations.ScalarLogicShiftsAndMoves : Prop :=
  (
  ∀ (s : State) (ty : Ty) (d a : SPos) (b : SOp), ty.isScalar = true →
    Runs (.slog .and d a b) s (fun t => s.scalarStep t d (s.run.pos a &&& s.run.sop .b32 b)) ∧
    Runs (.slog .or d a b) s (fun t => s.scalarStep t d (s.run.pos a ||| s.run.sop .b32 b)) ∧
    Runs (.slog .xor d a b) s (fun t => s.scalarStep t d (s.run.pos a ^^^ s.run.sop .b32 b)) ∧
    Runs (.slog .andn d a b) s (fun t => s.scalarStep t d (s.run.pos a &&& ~~~ s.run.sop .b32 b)) ∧
    (∀ op, Runs (.sshf ty op d a b) s (fun t => s.scalarStep t d
      (byType ty (fun _ _ x y => shifted op x (y.toNat % 256)) (s.run.pos a) (s.run.sop ty b)))) ∧
    Runs (.sbit ty .ext d a b) s (fun t => s.scalarStep t d
      (byType ty (fun _ _ x y => field (ty == .s32 || ty == .s64) x (y.toNat % 256) (y.toNat / 256 % 256)) (s.run.pos a) (s.run.sop ty b))) ∧
    Runs (.sbit ty .pop d a b) s (fun t => s.scalarStep t d
      (byType ty (fun _ w x _ => BitVec.ofNat w (ones x)) (s.run.pos a) (s.run.sop ty b))) ∧
    Runs (.sbit ty .clz d a b) s (fun t => s.scalarStep t d
      (byType ty (fun _ w x _ => BitVec.ofNat w (zerosAbove x)) (s.run.pos a) (s.run.sop ty b))) ∧
    Runs (.sbit ty .ctz d a b) s (fun t => s.scalarStep t d
      (byType ty (fun _ w x _ => BitVec.ofNat w (zerosBelow x)) (s.run.pos a) (s.run.sop ty b)))) ∧
  (
  ∀ (s : State) (d b : SPos) (nr : Bool) (imm : BitVec 32),
    Runs (.smov d b nr) s (fun t => s.scalarStep t d (s.run.pos b)) ∧
    Runs (.smovi .whole false d imm) s (fun t => s.scalarStep t d (imm.signExtend 64)) ∧
    Runs (.smovi .whole true d imm) s (fun t => s.scalarStep t d (imm.setWidth 64)) ∧
    Runs (.smovi .hi false d imm) s (fun t => s.scalarStep t d (imm ++ (s.run.pos d).extractLsb' 0 32)) ∧
    Runs (.smovi .lo false d imm) s (fun t => s.scalarStep t d ((s.run.pos d).extractLsb' 32 32 ++ imm)) ∧
    (∀ (r : SReg) (a : RegNo) (k : BitVec 5), Ready s (.smovLane false r a k nr) →
      Runs (.smovLane false r a k nr) s (fun t => s.scalarStep t (.s r) ((lane (s.run.reg a.toNat) k.toNat).setWidth 64))) ∧
    (∀ (r : SReg) (a : RegNo) (k : BitVec 5), Ready s (.smovLane true r a k nr) →
      Runs (.smovLane true r a k nr) s (fun t =>
        s.scalarStep t (.s r) (lane (s.run.reg (a.toNat + 1)) k.toNat ++ lane (s.run.reg a.toNat) k.toNat))))

/-- SSEL: d := (c ≠ 0 ? a : b), with A, B and C scalar positions 0-72, D 0-71, BS = CK = 1 and TY 0 in its word (R181). -/
def Obligations.SselSelects : Prop :=
  ∀ (s : State) (d a b c : SPos) (nr : Bool),
    Runs (.ssel d a b c nr) s (fun t => s.scalarStep t d (if s.run.pos c ≠ 0 then s.run.pos a else s.run.pos b)) ∧
    ((Instr.ssel d a b c nr).wf = true ↔ d ≠ .em) ∧
    ∀ w, encode (.ssel d a b c nr) = some w →
      fld w 56 8 = 0x18 ∧ fld w 48 8 = d.code ∧ fld w 40 8 = a.code ∧ fld w 32 8 = b.code ∧ fld w 24 8 = c.code ∧
      fld w 20 4 = 0 ∧ w.getLsbD 15 = true ∧ w.getLsbD 14 = true

/-! ## Vector integer instructions (R94-R121) -/

/-- VADD, VSUB, VMUL and VMAD put Fit of the exact sum, difference, product (low or upper half) and product plus C into each element of
each active lane, raise SAT where an element saturates, and touch nothing else (R103, R106).
VDOT: the 32-bit accumulator C and the products of all elements of A and B are summed exactly and reduced once (R107). -/
def Obligations.VectorArithmetic : Prop :=
  (
  ∀ (s : State) (ty : Ty) (sat hi : Bool) (d a : RegNo) (b c : Opnd) (m : VMode),
    (Ready s (.vadd ty sat d a b m) → Runs (.vadd ty sat d a b m) s fun t =>
      let v := fun l e => elA s ty a m l e + elB s ty b l e
      s.vecStep t ty.isPair m d (fun l x => fits ty sat (v l) x) ∧ s.raises t satFlag (saturates s ty sat v)) ∧
    (Ready s (.vsub ty sat d a b m) → Runs (.vsub ty sat d a b m) s fun t =>
      let v := fun l e => elA s ty a m l e - elB s ty b l e
      s.vecStep t ty.isPair m d (fun l x => fits ty sat (v l) x) ∧ s.raises t satFlag (saturates s ty sat v)) ∧
    (Ready s (.vmul ty hi sat d a b m) → Runs (.vmul ty hi sat d a b m) s fun t =>
      let v := fun l e => if hi then elA s ty a m l e * elB s ty b l e / 2 ^ elW ty else elA s ty a m l e * elB s ty b l e
      s.vecStep t ty.isPair m d (fun l x => fits ty sat (v l) x) ∧ s.raises t satFlag (saturates s ty sat v)) ∧
    (Ready s (.vmad ty sat d a b c m) → Runs (.vmad ty sat d a b c m) s fun t =>
      let v := fun l e => elA s ty a m l e * elB s ty b l e + elB s ty c l e
      s.vecStep t ty.isPair m d (fun l x => fits ty sat (v l) x) ∧ s.raises t satFlag (saturates s ty sat v))) ∧
  (
  ∀ (s : State) (ty : Ty) (sat : Bool) (d a : RegNo) (b c : Opnd) (m : VMode), Ready s (.vdot ty sat d a b c m) →
    Runs (.vdot ty sat d a b c m) s fun t =>
      let acc : Ty := if elSigned ty then .s32 else .n32
      let v := fun l (_ : Nat) => elB s acc c l 0 + ((List.range ty.elems).map fun e => elA s ty a m l e * elB s ty b l e).sum
      s.vecStep t false m d (fun l x => fits acc sat (v l) x) ∧ s.raises t satFlag (saturates s acc sat v))

/-- VLOG, VSHF and VBIT: bit i is SUB[4 a[i] + 2 b[i] + c[i]]; the shifts by an element of B or by 8 bits of it for every element, with
SAT the exact product with a power of two; and the bit field extracted or inserted (R108-R110).
VMOV, VMOVI, VIDX and the vector form of SRD: a copy, of the pair that starts at the indexed register where a 64-bit one is indexed (log
entry 7), an immediate, the thread's identity, and a selector, in the active lanes (R94, R95, R97, R182). -/
def Obligations.VectorLogicShiftsAndMoves : Prop :=
  (
  ∀ (s : State) (ty : Ty) (wide uni sat ins : Bool) (op : ShiftOp) (d a : RegNo) (b c : Opnd) (lut : BitVec 8) (m : VMode),
    (Ready s (.vlog wide d a b c lut m) → Runs (.vlog wide d a b c lut m) s fun t =>
      let ty : Ty := if wide then .s64 else .b32
      s.vecStep t wide m d (fun l x => ∀ i, i < elW ty →
        x.testBit i = lut.getLsbD (4 * ((s.run.aN ty a m l).testBit i).toNat + 2 * ((s.run.oN ty b l).testBit i).toNat
          + ((s.run.oN ty c l).testBit i).toNat)) ∧ s.raises t satFlag False) ∧
    (Ready s (.vshf ty op uni sat d a b m) → Runs (.vshf ty op uni sat d a b m) s fun t =>
      let n := fun l e => if uni then s.run.oN ty b l % 256 else elBits ty (s.run.oN ty b l) e
      let v := fun l e => elA s ty a m l e * 2 ^ n l e
      s.vecStep t ty.isPair m d (fun l x =>
        if sat then fits ty true (v l) x else isBits ty (fun e => shifted op (bitsA s ty a m l e) (n l e)) x) ∧
      s.raises t satFlag (saturates s ty sat v)) ∧
    (Ready s (.vbit ty ins d a b c m) → Runs (.vbit ty ins d a b c m) s fun t =>
      let pos := fun l => s.run.oN ty b l % 256
      let len := fun l => s.run.oN ty b l / 256 % 256
      s.vecStep t ty.isPair m d (fun l x => isBits ty (fun e =>
        if ins then inserted (bitsA s ty a m l e) (bitsB s ty c l e) (pos l) (len l)
        else field (elSigned ty) (bitsA s ty a m l e) (pos l) (len l)) x) ∧ s.raises t satFlag False)) ∧
  (
  ∀ (s : State) (wide nr : Bool) (ty : Ty) (d : RegNo) (src : Opnd) (imm : BitVec 32) (mode : IdxMode) (sel : Sel) (m : VMode),
    (Ready s (.vmov wide d src m) → Runs (.vmov wide d src m) s fun t =>
      s.vecStep t wide m d (fun l x => x = match src with
        | .v a => s.run.aN (if wide then .s64 else .b32) a m l
        | .s p => if wide then (s.run.pos p).toNat else ((s.run.pos p).setWidth 32).toNat) ∧ s.raises t satFlag False) ∧
    (Ready s (.vmovi ty d imm) → Runs (.vmovi ty d imm) s fun t =>
      s.vecStep t ty.isPair {} d (fun _ x => x = if ty = .s64 then (imm.signExtend 64).toNat else imm.toNat) ∧
      s.raises t satFlag False) ∧
    (Ready s (.vidx wide mode d nr) → Runs (.vidx wide mode d nr) s fun t =>
      s.vecStep t wide {} d (fun l x => x = (match mode with
        | .lane => l
        | .group => 32 * s.run.num + l
        | .grid => (s.run.team * s.teamGroups + s.run.num) * 32 + l) % 2 ^ (if wide then 64 else 32)) ∧ s.raises t satFlag False) ∧
    (Ready s (.srd sel (.vec wide d) nr) → Runs (.srd sel (.vec wide d) nr) s fun t =>
      s.vecStep t wide {} d (fun l x => x = (if sel = .lane then l else (s.selector sel).toNat) % 2 ^ (if wide then 64 else 32)) ∧
      s.raises t satFlag False))

/-- VCMP: with a mask destination bit t of an active lane says whether the condition holds for every element, or for some with `.any`;
with a vector destination an element is all ones or all zeros (R111).
VSEL: a scalar C selects whole lanes by its bits, a vector C selects element by element (R112). VMIN: minimum, maximum, absolute
difference, and the clamp max(b, min(a, c)) (R113). -/
def Obligations.VectorComparesAndSelects : Prop :=
  (
  ∀ (s : State) (ty : Ty) (cond : ICond) (k : BitVec 3) (any : Bool) (d a : RegNo) (b : Opnd) (m : VMode),
    let holds := fun l e => match cond with
      | .eq => elA s ty a m l e = elB s ty b l e
      | .ne => elA s ty a m l e ≠ elB s ty b l e
      | .lt => elA s ty a m l e < elB s ty b l e
      | .le => elA s ty a m l e ≤ elB s ty b l e
      | .gt => elB s ty b l e < elA s ty a m l e
      | .ge => elB s ty b l e ≤ elA s ty a m l e
    (Ready s (.vcmp ty cond (.mask k any) a b m) → Runs (.vcmp ty cond (.mask k any) a b m) s fun t =>
      s.maskStep t k (fun l => if any then ∃ e, e < ty.elems ∧ holds l e else ∀ e, e < ty.elems → holds l e) ∧
      s.raises t satFlag False) ∧
    (Ready s (.vcmp ty cond (.vec d) a b m) → Runs (.vcmp ty cond (.vec d) a b m) s fun t =>
      s.vecStep t ty.isPair m d (fun l x => ∀ e, e < ty.elems →
        (holds l e → elBits ty x e = 2 ^ elW ty - 1) ∧ (¬ holds l e → elBits ty x e = 0)) ∧ s.raises t satFlag False)) ∧
  (
  ∀ (s : State) (ty : Ty) (d a r : RegNo) (b c : Opnd) (p : SPos) (m : VMode),
    (Ready s (.vsel ty d a b (.s p) m) → Runs (.vsel ty d a b (.s p) m) s fun t =>
      s.vecStep t ty.isPair m d (fun l x => x = if (s.run.pos p).getLsbD l then s.run.aN ty a m l else s.run.oN ty b l) ∧
      s.raises t satFlag False) ∧
    (Ready s (.vsel ty d a b (.v r) m) → Runs (.vsel ty d a b (.v r) m) s fun t =>
      s.vecStep t ty.isPair m d (fun l x => isBits ty (fun e =>
        if bitsB s ty (.v r) l e ≠ 0 then bitsA s ty a m l e else bitsB s ty b l e) x) ∧ s.raises t satFlag False) ∧
    (∀ op, Ready s (.vmin ty op d a b c m) → Runs (.vmin ty op d a b c m) s fun t =>
      s.vecStep t ty.isPair m d (fun l x => fits ty false (fun e => match op with
        | .min => min (elA s ty a m l e) (elB s ty b l e)
        | .max => max (elA s ty a m l e) (elB s ty b l e)
        | .adf => ((elA s ty a m l e - elB s ty b l e).natAbs : Int)
        | .clmp => max (elB s ty b l e) (min (elA s ty a m l e) (elB s ty c l e))) x) ∧ s.raises t satFlag False))

/-- VUNI: absolute value and negation through Fit, the complement, the counts, and the bits or the bytes in reverse order (R114).
VNRW: the 32-bit lane, or the pair for TY 1 and 2, which starts at the indexed register (log entry 7), divided by 2^n and rounded as RM says goes through Fit into one element; the
other elements keep their bits (R115). -/
def Obligations.VectorUnaryAndNarrowing : Prop :=
  (
  ∀ (s : State) (ty : Ty) (sat : Bool) (d a : RegNo) (m : VMode),
    (Ready s (.vuni ty .abs sat d a m) → Runs (.vuni ty .abs sat d a m) s fun t =>
      s.vecStep t ty.isPair m d (fun l x => fits ty sat (fun e => ((elA s ty a m l e).natAbs : Int)) x) ∧
      s.raises t satFlag (saturates s ty sat fun l e => ((elA s ty a m l e).natAbs : Int))) ∧
    (Ready s (.vuni ty .neg sat d a m) → Runs (.vuni ty .neg sat d a m) s fun t =>
      s.vecStep t ty.isPair m d (fun l x => fits ty sat (fun e => - elA s ty a m l e) x) ∧
      s.raises t satFlag (saturates s ty sat fun l e => - elA s ty a m l e)) ∧
    (∀ op, op ≠ .abs → op ≠ .neg → Ready s (.vuni ty op sat d a m) → Runs (.vuni ty op sat d a m) s fun t =>
      s.vecStep t ty.isPair m d (fun l x => match op with
        | .not => isBits ty (fun e => ~~~ bitsA s ty a m l e) x
        | .pop => ∀ e, e < ty.elems → elBits ty x e = ones (bitsA s ty a m l e)
        | .clz => ∀ e, e < ty.elems → elBits ty x e = zerosAbove (bitsA s ty a m l e)
        | .ctz => ∀ e, e < ty.elems → elBits ty x e = zerosBelow (bitsA s ty a m l e)
        | .brev => isBits ty (fun e => (bitsA s ty a m l e).reverse) x
        | .bswp => ∀ e j, e < ty.elems → j < elW ty / 8 →
            elBits ty x e / 2 ^ (8 * j) % 256 = elBits ty (s.run.aN ty a m l) e / 2 ^ (8 * (elW ty / 8 - 1 - j)) % 256
        | _ => False) ∧ s.raises t satFlag False)) ∧
  (
  ∀ (s : State) (ty : Ty) (rm : Rm) (sat : Bool) (d a : RegNo) (b : Opnd) (el : BitVec 3) (m : VMode),
    Ready s (.vnrw ty rm sat d a b el m) → Runs (.vnrw ty rm sat d a b el m) s fun t =>
      let src := fun l => let r := s.run.opReg m.ixn m.ia a l
        if ty = .s32 ∨ ty = .n32 then readInt (elSigned ty) 64 (s.run.lane64 r l).toNat
        else readInt (elSigned ty) 32 (lane (s.run.reg r) l).toNat
      let n := fun l => (s.run.op32 b l).toNat % 64
      ∃ y : Nat → Int,
        (∀ l, let q := 2 ^ n l * y l - src l
          match rm with
          | .rtz => (0 ≤ src l → -(2 ^ n l) < q ∧ q ≤ 0) ∧ (src l < 0 → 0 ≤ q ∧ q < 2 ^ n l)
          | .rup => 0 ≤ q ∧ q < 2 ^ n l
          | .rdn => -(2 ^ n l) < q ∧ q ≤ 0
          | .rna => 2 * q.natAbs ≤ 2 ^ n l ∧ (2 * q.natAbs = 2 ^ n l → (0 ≤ src l → 0 < q) ∧ (src l < 0 → q < 0))
          | _ => 2 * q.natAbs ≤ 2 ^ n l ∧ (2 * q.natAbs = 2 ^ n l → y l % 2 = 0)) ∧
        s.vecStep t false m d (fun l x => isFit ty sat (y l) (elBits ty x el.toNat) ∧
          ∀ e, e < ty.elems → e ≠ el.toNat →
            elBits ty x e = elBits ty (lane (s.run.reg (s.run.opReg m.ixn m.id d l)) l).toNat e) ∧
        s.raises t satFlag (∃ l, l < 32 ∧ s.run.em.getLsbD l = true ∧ sat = true ∧ outside ty (y l)))

/-- SHFL and BCST: each active lane takes the lane of A that B or the mode names, with the index modulo 32 or the fill where it is
outside; and every active lane takes one lane. Source lanes are read whether or not they are active (R116, R117, R119).
SLIDE: element i of the active lanes takes A[i + k] or, past the end, B[i + k - N] with `.dn`, and A[i - k] or B[N + i - k] with
`.up`; a scalar B is every element of the neighbour (R118).
PERM: the table of A and B by lanes, with index modulo 64 or zero past the end, or by bytes (R121). -/
def Obligations.LanesMoveAndPermute : Prop :=
  (
  ∀ (s : State) (wide nr : Bool) (mode : ShflMode) (d a : RegNo) (b : Opnd) (fill : Option Opnd) (sel : BcstSel),
    let at_ := fun j : Nat => if wide then (s.run.lane64 a.toNat j).toNat else (lane (s.run.reg a.toNat) j).toNat
    (Ready s (.shfl wide mode d a b fill nr) → Runs (.shfl wide mode d a b fill nr) s fun t =>
      let j : Nat → Int := fun l => match mode with
        | .idx => ((s.run.op32 b l).toNat : Int)
        | .xor => ((l ^^^ (s.run.op32 b l).toNat : Nat) : Int)
        | .up => (l : Int) - (s.run.op32 b l).toNat
        | .dn => (l : Int) + (s.run.op32 b l).toNat
      s.vecStep t wide {} d (fun l x =>
        (0 ≤ j l ∧ j l ≤ 31 → x = at_ (j l).toNat) ∧
        (¬ (0 ≤ j l ∧ j l ≤ 31) → match fill with
          | none => x = at_ (j l % 32).toNat
          | some c => x = if wide then (s.run.op64 c l).toNat else (s.run.op32 c l).toNat)) ∧ s.raises t satFlag False) ∧
    (Ready s (.bcst wide d a sel nr) → Runs (.bcst wide d a sel nr) s fun t =>
      s.vecStep t wide {} d (fun _ x => match sel with
        | .lane k => x = at_ k.toNat
        | .sca p => x = at_ ((s.run.pos p).toNat % 32)
        | .first => ∃ f, s.run.em.getLsbD f = true ∧ (∀ j, j < f → s.run.em.getLsbD j = false) ∧ x = at_ f) ∧
      s.raises t satFlag False)) ∧
  (
  ∀ (s : State) (wide up nr : Bool) (g : Gran) (d a : RegNo) (b : Opnd) (k : BitVec 5), Ready s (.slide wide up g d a b k nr) →
    Runs (.slide wide up g d a b k nr) s fun t =>
      let w := match g with
        | .w => if wide then 64 else 32
        | .h => 16
        | .b => 8
      let n := if wide then 32 else 1024 / w
      let per := if wide then 1 else 32 / w
      let ofA := fun i => if wide then (s.run.lane64 a.toNat i).toNat else ((s.run.reg a.toNat).extractLsb' (w * i) w).toNat
      let ofB := fun i => match b with
        | .v r => if wide then (s.run.lane64 r.toNat i).toNat else ((s.run.reg r.toNat).extractLsb' (w * i) w).toNat
        | .s p => (s.run.pos p).toNat % 2 ^ w
      s.vecStep t wide {} d (fun l x => ∀ e, e < per →
        let i := per * l + e
        let k := k.toNat
        x / 2 ^ (w * e) % 2 ^ w =
          if up then (if k ≤ i then ofA (i - k) else ofB (n + i - k)) else (if i + k < n then ofA (i + k) else ofB (i + k - n))) ∧
      s.raises t satFlag False) ∧
  (
  ∀ (s : State) (zero nr : Bool) (d a b c : RegNo),
    (Ready s (.perm false zero d a b c nr) → Runs (.perm false zero d a b c nr) s fun t =>
      s.vecStep t false {} d (fun l x =>
        let j := (lane (s.run.reg c.toNat) l).toNat
        (64 ≤ j → zero = true → x = 0) ∧
        ((j < 64 ∨ zero = false) → x = if j % 64 < 32 then (lane (s.run.reg a.toNat) (j % 64)).toNat
          else (lane (s.run.reg b.toNat) (j % 64 - 32)).toNat)) ∧ s.raises t satFlag False) ∧
    (Ready s (.perm true false d a b c nr) → Runs (.perm true false d a b c nr) s fun t =>
      s.vecStep t false {} d (fun l x => ∀ e, e < 4 →
        let j := ((lane (s.run.reg c.toNat) l).extractLsb' (8 * e) 8).toNat
        x / 2 ^ (8 * e) % 256 = if j < 128 then ((s.run.reg a.toNat).extractLsb' (8 * j) 8).toNat
          else ((s.run.reg b.toNat).extractLsb' (8 * (j - 128)) 8).toNat) ∧ s.raises t satFlag False))

/-- GRED and GSCN: the exact reduction of the active lanes, and of the active lanes up to or before each, goes through Fit once; a
scalar destination takes it extended as its type says, and with `em` = 0 nothing is written (R120). -/
def Obligations.ReductionsAndScans : Prop :=
  ∀ (s : State) (ty : Ty) (op : RedOp) (sat excl nr : Bool) (d a : RegNo) (sd : SReg),
    (Ready s (.gred ty op sat (.v d) a nr) → Runs (.gred ty op sat (.v d) a nr) s fun t =>
      let v := fun (_ : Nat) e => reduced ty op ((activeLanes s.run.em).map fun k => elA s ty a {} k e)
      s.vecStep t ty.isPair {} d (fun l x => fits ty sat (v l) x) ∧ s.raises t satFlag (saturates s ty sat v)) ∧
    (Ready s (.gred ty op sat (.s sd) a nr) → Runs (.gred ty op sat (.s sd) a nr) s fun t =>
      let v := fun (_ : Nat) e => reduced ty op ((activeLanes s.run.em).map fun k => elA s ty a {} k e)
      (s.run.em = 0 → t.run = { s.run with word := s.run.word + 1 }) ∧
      (s.run.em ≠ 0 → fits ty sat (v 0) (t.run.s[sd.toNat].toNat % 2 ^ (if ty.isPair then 64 else 32)) ∧
        (ty.isPair = false → t.run.s[sd.toNat] =
          if ty = .s32 then (t.run.s[sd.toNat].setWidth 32).signExtend 64 else (t.run.s[sd.toNat].setWidth 32).setWidth 64)) ∧
      t.run = { s.run with s := s.run.s.set sd.toNat t.run.s[sd.toNat], fsr := t.run.fsr, word := s.run.word + 1 } ∧
      s.raises t satFlag (saturates s ty sat v) ∧ s.onlyGroup t s.run.cyc) ∧
    (Ready s (.gscn ty op sat excl d a nr) → Runs (.gscn ty op sat excl d a nr) s fun t =>
      let v := fun l e => reduced ty op (((activeLanes s.run.em).filter fun k => if excl then k < l else k ≤ l).map fun k => elA s ty a {} k e)
      s.vecStep t ty.isPair {} d (fun l x => fits ty sat (v l) x) ∧ s.raises t satFlag (saturates s ty sat v))

/-- IXSET and IXADD: in active lanes the index and the bound are loaded, or the index steps modulo 2^16 or modulo the bound, with 0 for
a bound of 0; inactive lanes and every other register keep their values (R98, R99).
FSR reads the sticky flags, writes them, and clears or sets those that its operand names; bits outside the six flags are ignored
(R166, R169). -/
def Obligations.IndexRegistersAndFlags : Prop :=
  (
  ∀ (s : State) (k : BitVec 2) (a : RegNo) (b : Opnd) (wrap nr : Bool),
    let step := fun (t : State) (f : Nat → Nat × Nat) =>
      (∀ l, l < 32 → lane t.run.ix[k.toNat] l =
        if s.run.em.getLsbD l then BitVec.ofNat 16 (f l).2 ++ BitVec.ofNat 16 (f l).1 else lane s.run.ix[k.toNat] l) ∧
      t.run = { s.run with ix := s.run.ix.set k.toNat t.run.ix[k.toNat], word := s.run.word + 1 } ∧ s.onlyGroup t s.run.cyc
    (Ready s (.ixset k a b nr) → Runs (.ixset k a b nr) s fun t =>
      step t fun l => ((lane (s.run.reg a.toNat) l).toNat, (s.run.op32 b l).toNat)) ∧
    (Ready s (.ixadd k b wrap nr) → Runs (.ixadd k b wrap nr) s fun t =>
      step t fun l =>
        let index := ((lane s.run.ix[k.toNat] l).extractLsb' 0 16).toNat
        let bound := ((lane s.run.ix[k.toNat] l).extractLsb' 16 16).toNat
        let n := index + (s.run.op32 b l).toNat % 2 ^ 16
        (if wrap = false then n % 2 ^ 16 else if bound = 0 then 0 else n % bound, bound))) ∧
  (
  ∀ (s : State) (d : SReg) (b : SPos) (nr : Bool),
    let x : Lane := (s.run.pos b).setWidth 32
    let flags : Lane := BitVec.ofNat 32 (2 ^ 6 - 1)
    Runs (.fsrGet d nr) s (fun t => s.scalarStep t (.s d) (s.run.fsr.setWidth 64)) ∧
    Runs (.fsrSet b nr) s (fun t => becomes s t { s.run with fsr := x &&& flags } 1) ∧
    Runs (.fsrClr b nr) s (fun t => becomes s t { s.run with fsr := t.run.fsr } 1 ∧
      ∀ i, i < 32 → t.run.fsr.getLsbD i = (s.run.fsr.getLsbD i && !(decide (i < 6) && (s.run.pos b).getLsbD i))) ∧
    Runs (.fsrOr b nr) s (fun t => becomes s t { s.run with fsr := t.run.fsr } 1 ∧
      ∀ i, i < 32 → t.run.fsr.getLsbD i = (s.run.fsr.getLsbD i || (decide (i < 6) && (s.run.pos b).getLsbD i))))

/-! ## Floating point, conversions and the exact accumulators (R122-R166) -/

/-- RoundTo of a value that the format holds is that value, in every mode, and raises no flag (R128).
RoundTo chooses, between the two neighbours of an inexact value, the one its mode names; NX is raised, UF where the result is tiny,
and no other flag unless the result overflows (R128, R130). -/
def Obligations.RoundingIsExact : Prop :=
  (
  ∀ (ty : Ty) (rm : Rm) (sat : Bool) (w x : Nat) (s : Bool) (m : Nat) (e : Int), ty.isFloat = true → w < 2 ^ 16 → x < 2 ^ (fmtOf ty).bits →
    (fmtOf ty).read x = .fin s m e → (fmtOf ty).round rm sat w s m 1 e = (x, 0)) ∧
  (
  ∀ (ty : Ty) (rm : Rm) (sat : Bool) (w n d : Nat) (e u : Int) (s : Bool) (y : Int), ty.isFloat = true → rm ≠ .dyn → w < 2 ^ 16 → 0 < n →
    0 < d →
    let q := fmtOf ty
    let x : Rat := (n : Rat) / d * pow2 e
    -- u is the exponent of the spacing of the neighbours
    (1 - (q.bias : Int) - q.f ≤ u) →
    (pow2 (u + q.f) ≤ x ∧ x < pow2 (u + q.f + 1) ∨ u = 1 - (q.bias : Int) - q.f ∧ x < pow2 (u + q.f)) →
    isRounded rm w ((if s then -1 else 1) * (x / pow2 u)) y →
    (y.natAbs : Rat) * pow2 u ≤ (q.maxM : Rat) * pow2 q.maxE →
    let r := q.round rm sat w s n d e
    valueOf (q.read r.1) = y * pow2 u ∧ (q.read r.1).sign = s ∧
    r.2 = (if (y.natAbs : Rat) * pow2 u = x then 0 else if y.natAbs < 2 ^ q.f then NX ||| UF else NX))

/-- FADD, FSUB, FMUL, FDIV and FFMA, and DADD, DMUL and DFMA on pairs: special operands decide first, and otherwise the exact result is
rounded once under the effective mode (R142, R147-R150). -/
def Obligations.FloatArithmetic : Prop :=
  ∀ (s : State) (ty : Ty) (rm : Rm) (sat negp negc sub nr : Bool) (d a : RegNo) (b c : Opnd) (m : VMode),
    let r := s.run.rmOf rm
    let q := fmtOf ty
    (Ready s (.fadd ty rm sat d a b m) → Runs (.fadd ty rm sat d a b m) s fun t =>
      elementwise s t ty m d r fun l e => sumOf q r sat (s.sr l e) (fltA s ty a m l e) (fltB s ty b l e)) ∧
    (Ready s (.fsub ty rm sat d a b m) → Runs (.fsub ty rm sat d a b m) s fun t =>
      elementwise s t ty m d r fun l e => sumOf q r sat (s.sr l e) (fltA s ty a m l e) ((fltB s ty b l e).negIf true)) ∧
    (Ready s (.fmul ty rm sat d a b m) → Runs (.fmul ty rm sat d a b m) s fun t =>
      elementwise s t ty m d r fun l e => productOf q r sat (s.sr l e) (fltA s ty a m l e) (fltB s ty b l e)) ∧
    (Ready s (.fdiv ty rm sat d a b m) → Runs (.fdiv ty rm sat d a b m) s fun t =>
      elementwise s t ty m d r fun l e => quotientOf q r sat (s.sr l e) (fltA s ty a m l e) (fltB s ty b l e)) ∧
    (Ready s (.ffma ty rm sat negp negc d a b c m) → Runs (.ffma ty rm sat negp negc d a b c m) s fun t =>
      elementwise s t ty m d r fun l e =>
        productSumOf q r sat (s.sr l e) ((fltA s ty a m l e).negIf negp) (fltB s ty b l e) ((fltB s ty c l e).negIf negc)) ∧
    (Ready s (.dadd sub rm sat d a b nr) → Runs (.dadd sub rm sat d a b nr) s fun t =>
      elementwise s t .f64 {} d r fun l e => sumOf fmtF64 r sat (s.sr l e) (fltA s .f64 a {} l e) ((fltB s .f64 b l e).negIf sub)) ∧
    (Ready s (.dmul rm sat d a b nr) → Runs (.dmul rm sat d a b nr) s fun t =>
      elementwise s t .f64 {} d r fun l e => productOf fmtF64 r sat (s.sr l e) (fltA s .f64 a {} l e) (fltB s .f64 b l e)) ∧
    (Ready s (.dfma rm sat negp negc d a b c nr) → Runs (.dfma rm sat negp negc d a b c nr) s fun t =>
      elementwise s t .f64 {} d r fun l e =>
        productSumOf fmtF64 r sat (s.sr l e) ((fltA s .f64 a {} l e).negIf negp) (fltB s .f64 b l e) ((fltB s .f64 c l e).negIf negc))

/-- FMIN, FCMP and FCLS: the least or the greatest with -0 below +0 and NaNs as the form treats them, the conditions with their IV, and
the ten classes, which raise no flag (R151-R153).
FRCP is the exact reciprocal rounded once; FSQT and FRSQ are the root, by its square, and the reciprocal of the root rounded once; FEX2, FLG2
and FTRG deliver the special and exact cases of their table, and touch nothing but the destination, the flags and the sequence count (R154). -/
def Obligations.FloatSelectionAndFunctions : Prop :=
  (
  ∀ (s : State) (ty : Ty) (op : FMinOp) (cond : FCond) (k : BitVec 3) (any : Bool) (d a : RegNo) (b : Opnd) (set : SPos) (m : VMode),
    let q := fmtOf ty
    let x := fun l e => fltA s ty a m l e
    let y := fun l e => fltB s ty b l e
    let iv := fun l e => if (conditionOf cond (x l e) (y l e)).2 then IV else 0
    let chosen := fun (p : Nat → Nat → Bool) (l : Nat) =>
      if any then ∃ e, e < ty.elems ∧ p l e = true else ∀ e, e < ty.elems → p l e = true
    (Ready s (.fmin ty op d a b m) → Runs (.fmin ty op d a b m) s fun t =>
      s.floatStep t ty.isPair m d .rne (fun l z => ∀ e, e < ty.elems →
        let bx := elBits ty (s.run.aN ty a m l) e
        let bz := elBits ty (s.run.oN ty b l) e
        let numbers := op = .min ∨ op = .max
        let least := op = .min ∨ op = .minp
        ((x l e).isNan = true → (y l e).isNan = true → elBits ty z e = (nanOf q [x l e, y l e]).1 % 2 ^ elW ty) ∧
        ((x l e).isNan = true → (y l e).isNan = false →
          elBits ty z e = if numbers then bz else (nanOf q [x l e, y l e]).1 % 2 ^ elW ty) ∧
        ((x l e).isNan = false → (y l e).isNan = true →
          elBits ty z e = if numbers then bx else (nanOf q [x l e, y l e]).1 % 2 ^ elW ty) ∧
        ((x l e).isNan = false → (y l e).isNan = false →
          let before := below (x l e) (y l e) || (same (x l e) (y l e) && ((x l e).sign || !(y l e).sign))
          elBits ty z e = if least ↔ before = true then bx else bz)) ∧
      s.flagged t ty.elems fun l e => if (x l e).isSnan || (y l e).isSnan then IV else 0) ∧
    (Ready s (.fcmp ty cond (.mask k any) a b m) → Runs (.fcmp ty cond (.mask k any) a b m) s fun t =>
      (∃ n, (∀ l, l < 32 → s.run.em.getLsbD l = true →
          (t.run.m[k.toNat].getLsbD l = true ↔ chosen (fun l e => (conditionOf cond (x l e) (y l e)).1) l)) ∧
        (∀ l, l < 32 → s.run.em.getLsbD l = false → t.run.m[k.toNat].getLsbD l = s.run.m[k.toNat].getLsbD l) ∧
        t.run = { s.run with m := s.run.m.set k.toNat t.run.m[k.toNat], fsr := t.run.fsr, word := s.run.word + 1 } ∧ s.onlyGroup t n) ∧
      s.flagged t ty.elems iv) ∧
    (Ready s (.fcmp ty cond (.vec d) a b m) → Runs (.fcmp ty cond (.vec d) a b m) s fun t =>
      s.floatStep t ty.isPair m d .rne (fun l z => ∀ e, e < ty.elems →
        elBits ty z e = if (conditionOf cond (x l e) (y l e)).1 then 2 ^ elW ty - 1 else 0) ∧ s.flagged t ty.elems iv) ∧
    (Ready s (.fcls ty (.mask k any) a set m) → Runs (.fcls ty (.mask k any) a set m) s fun t =>
      (∃ n, (∀ l, l < 32 → s.run.em.getLsbD l = true →
          (t.run.m[k.toNat].getLsbD l = true ↔ chosen (fun l e => (s.run.pos set).getLsbD (classNumber q (x l e))) l)) ∧
        (∀ l, l < 32 → s.run.em.getLsbD l = false → t.run.m[k.toNat].getLsbD l = s.run.m[k.toNat].getLsbD l) ∧
        t.run = { s.run with m := s.run.m.set k.toNat t.run.m[k.toNat], word := s.run.word + 1 } ∧ s.onlyGroup t n)) ∧
    (Ready s (.fcls ty (.vec d) a set m) → Runs (.fcls ty (.vec d) a set m) s fun t =>
      s.vecStep t ty.isPair m d (fun l z => ∀ e, e < ty.elems → elBits ty z e = classNumber q (x l e)) ∧
      s.raises t satFlag False)) ∧
  (
  ∀ (s : State) (ty : Ty) (rm : Rm) (sat : Bool) (d a : RegNo) (m : VMode),
    let r := s.run.rmOf rm
    let q := fmtOf ty
    let x := fun l e => fltA s ty a m l e
    let invalid := (q.cnan, IV)
    let dz := fun z => ((q.deliverInf sat z).1, (q.deliverInf sat z).2 ||| DZ)
    let exact := fun (f : Nat → Nat → Nat × Nat) (p : Rat → Rat → Prop) =>
      ∀ l e y, proper (x l e) → p (valueOf (x l e)) y → f l e = rounded q r sat (s.sr l e) y false
    let root := fun (f : Nat → Nat → Nat × Nat) (p : Rat → Rat → Rat → Prop) =>
      ∀ l e, proper (x l e) → (x l e).sign = false → (∀ y, y * y ≠ valueOf (x l e)) → roundsReal q r sat (s.sr l e) (p (valueOf (x l e))) (f l e)
    let negative := fun (f : Nat → Nat → Nat × Nat) => ∀ l e, proper (x l e) → (x l e).sign = true → f l e = invalid
    (Ready s (.frcp ty rm sat d a m) → Runs (.frcp ty rm sat d a m) s fun t =>
      elementwise s t ty m d r fun l e => quotientOf q r sat (s.sr l e) (.fin false 1 0) (x l e)) ∧
    (Ready s (.fsqt ty rm sat d a m) → Runs (.fsqt ty rm sat d a m) s fun t => ∃ f, elementwise s t ty m d r f ∧
      (∀ l e, special q (x l e) (f l e) (q.deliverInf sat false) invalid fun z => (q.signBit z, 0)) ∧ negative f ∧
      (exact f fun x y => 0 < y ∧ y * y = x) ∧ root f fun x lo hi => 0 < lo ∧ lo * lo < x ∧ x < hi * hi ∧ 0 < hi) ∧
    (Ready s (.frsq ty rm sat d a m) → Runs (.frsq ty rm sat d a m) s fun t => ∃ f, elementwise s t ty m d r f ∧
      (∀ l e, special q (x l e) (f l e) (0, 0) invalid dz) ∧ negative f ∧ (exact f fun x y => 0 < y ∧ y * y * x = 1) ∧
      root f fun x lo hi => 0 < lo ∧ lo * lo * x < 1 ∧ 1 < hi * hi * x ∧ 0 < hi) ∧
    (Ready s (.fex2 ty rm sat d a m) → Runs (.fex2 ty rm sat d a m) s fun t => ∃ f, elementwise s t ty m d r f ∧
      (∀ l e, special q (x l e) (f l e) (q.deliverInf sat false) (0, 0) fun _ => rounded q r sat (s.sr l e) 1 false) ∧
      exact f fun x y => ∃ n : Int, -4096 ≤ n ∧ n ≤ 4096 ∧ x = n ∧ y = pow2 n) ∧
    (Ready s (.flg2 ty rm sat d a m) → Runs (.flg2 ty rm sat d a m) s fun t => ∃ f, elementwise s t ty m d r f ∧
      (∀ l e, special q (x l e) (f l e) (q.deliverInf sat false) invalid fun _ => dz true) ∧ negative f ∧
      exact f fun x y => ∃ n : Int, x = pow2 n ∧ y = n) ∧
    (Ready s (.ftrg ty rm sat false d a m) → Runs (.ftrg ty rm sat false d a m) s fun t => ∃ f, elementwise s t ty m d r f ∧
      (∀ l e, special q (x l e) (f l e) invalid invalid fun z => (q.signBit z, 0)) ∧
      (∀ l e (n : Int), proper (x l e) → valueOf (x l e) = n → f l e = (q.signBit (n < 0), 0)) ∧
      exact f fun x y => ∃ n : Int, x = n + 1 / 2 ∧ y = if n % 2 = 0 then 1 else -1) ∧
    (Ready s (.ftrg ty rm sat true d a m) → Runs (.ftrg ty rm sat true d a m) s fun t => ∃ f, elementwise s t ty m d r f ∧
      (∀ l e, special q (x l e) (f l e) invalid invalid fun _ => rounded q r sat (s.sr l e) 1 false) ∧
      exact f fun x y => (∃ n : Int, x = n + 1 / 2 ∧ y = 0) ∨ ∃ n : Int, x = n ∧ y = if n % 2 = 0 then 1 else -1))

/-- FEX2, FLG2 and FTRG deliver 2^x, log2 x, sin(πx) and cos(πx) of a finite value rounded once, in every mode and every format, outside the
exact cases (R154). The model computes with a fixed number of bits (log entry 17), and that they always suffice is open. -/
def Obligations.FunctionsAreCorrectlyRounded : Prop :=
  ∀ (s : State) (ty : Ty) (rm : Rm) (sat cos : Bool) (d a : RegNo) (m : VMode),
    let r := s.run.rmOf rm
    let q := fmtOf ty
    let x := fun l e => fltA s ty a m l e
    let v := fun l e => valueOf (x l e)
    let delivers := fun (t : State) (p : Rat → Prop) (between : Rat → Rat → Rat → Prop) => ∃ f, elementwise s t ty m d r f ∧
      ∀ l e, proper (x l e) → p (v l e) → roundsReal q r sat (s.sr l e) (between (v l e)) (f l e)
    (Ready s (.fex2 ty rm sat d a m) → Runs (.fex2 ty rm sat d a m) s fun t => delivers t (fun x => x.den ≠ 1) exp2Between) ∧
    (Ready s (.flg2 ty rm sat d a m) → Runs (.flg2 ty rm sat d a m) s fun t =>
      delivers t (fun x => 0 < x ∧ ∀ n, x ≠ pow2 n) log2Between) ∧
    (Ready s (.ftrg ty rm sat cos d a m) → Runs (.ftrg ty rm sat cos d a m) s fun t =>
      delivers t (fun x => (2 * x).den ≠ 1) fun x => sinPiBetween (if cos then x + 1 / 2 else x))

/-- FCVT, ICVT, SCVN and SCVW: by the rule of placement each destination element that is written takes one source element, converted
with one rounding; the others keep their bits (R136-R138, R155-R159). -/
def Obligations.ConversionsRoundOnce : Prop :=
  ∀ (s : State) (dst src : Ty) (n4 e5m2 : Bool) (rm : Rm) (sat nr : Bool) (d a : RegNo) (b : Opnd) (el : BitVec 3),
    let r := s.run.rmOf rm
    -- the destination element that source element i goes to, and the source element, of the i-th conversion
    let n := fun dst src : Ty => min src.elems dst.elems
    let se := fun (dst src : Ty) i => if n dst src < src.elems then el.toNat * n dst src + i else i
    let de := fun (dst src : Ty) i => if n dst src < dst.elems then el.toNat * n dst src + i else i
    let converts := fun (t : State) (dst src : Ty) (conv : Nat → Nat → Nat → Nat × Nat → Prop) =>
      ∃ f : Nat → Nat → Nat × Nat,
        s.floatStep t dst.isPair {} d r (fun l x =>
          (∀ i, i < n dst src → elBits dst x (de dst src i) = (f l (de dst src i)).1 % 2 ^ elW dst) ∧
          ∀ k, k < dst.elems → (∀ i, i < n dst src → k ≠ de dst src i) → elBits dst x k = elBits dst (s.run.aN dst d {} l) k) ∧
        (∀ l i, i < n dst src →
          conv (s.sr l (de dst src i)) l (elBits src (s.run.aN src a {} l) (se dst src i)) (f l (de dst src i))) ∧
        s.flagged t dst.elems fun l k => if ∃ i, i < n dst src ∧ k = de dst src i then (f l k).2 else 0
    let byte : Ty := if e5m2 then .e5m2x4 else .e4m3x4
    let scale := fun l => fmtF32.read (s.run.op32 b l).toNat
    let normal := fun l => ∃ m e, scale l = .fin false m e ∧ 2 ^ 23 ≤ m
    (Ready s (.fcvt dst src rm sat d a el nr) → Runs (.fcvt dst src rm sat d a el nr) s fun t =>
      converts t dst src fun w _ x y => y = convertedTo (fmtOf src) (fmtOf dst) r sat w ((fmtOf src).read x) (valueOf ((fmtOf src).read x))) ∧
    (Ready s (.icvt dst src n4 rm sat d a el nr) → dst.isFloat = true → Runs (.icvt dst src n4 rm sat d a el nr) s fun t =>
      converts t dst src fun w _ x y =>
        y = rounded (fmtOf dst) r sat w (readInt (elSigned src && !(n4 && src == .s4x8)) (elW src) x : Int) false) ∧
    (Ready s (.icvt dst src n4 rm sat d a el nr) → dst.isFloat = false → Runs (.icvt dst src n4 rm sat d a el nr) s fun t =>
      converts t dst src fun w _ x y =>
        let signed := elSigned dst && !(n4 && dst == .s4x8)
        let lo : Int := if signed then -(2 ^ (elW dst - 1)) else 0
        let hi : Int := if signed then 2 ^ (elW dst - 1) - 1 else 2 ^ elW dst - 1
        match (fmtOf src).read x with
        | .nan .. => y = (0, IV)
        | .inf z => y = (((if z then lo else hi) % 2 ^ elW dst).toNat, IV)
        | .fin z m e => ∃ k, (r ≠ .dyn → isRounded r w (valueOf (.fin z m e)) k) ∧
          y = if hi < k then ((hi % 2 ^ elW dst).toNat, IV) else if k < lo then ((lo % 2 ^ elW dst).toNat, IV)
            else ((k % 2 ^ elW dst).toNat, if valueOf (.fin z m e) = (k : Rat) then 0 else NX)) ∧
    (Ready s (.scvn e5m2 rm sat d a b el nr) → Runs (.scvn e5m2 rm sat d a b el nr) s fun t =>
      converts t byte .f32 fun w l x y =>
        (normal l → y = convertedTo fmtF32 (fmtOf byte) r sat w (fmtF32.read x) (valueOf (fmtF32.read x) / valueOf (scale l))) ∧
        (¬ normal l → y = ((fmtOf byte).cnan, IV))) ∧
    (Ready s (.scvw e5m2 rm sat d a b el nr) → Runs (.scvw e5m2 rm sat d a b el nr) s fun t =>
      converts t .f32 byte fun w l x y =>
        (normal l → y = convertedTo (fmtOf byte) fmtF32 r sat w ((fmtOf byte).read x) (valueOf ((fmtOf byte).read x) * valueOf (scale l))) ∧
        (¬ normal l → y = (fmtF32.cnan, IV)))

/-- KCLR clears an accumulator: all 387 bits of it become zero, whatever `em` holds, and nothing else changes (R161). -/
def Obligations.KclrClears : Prop :=
  ∀ (s : State) (k : BitVec 2) (nr : Bool),
    Runs (.kclr k nr) s (fun t => becomes s t { s.run with wa := s.run.wa.set k.toNat ⟨0, 0⟩ } 1) ∧
    ∀ w, encode (.kclr k nr) = some w → fld w 56 8 = 0x45 ∧ fld w 24 32 = 0

/-- KADD adds the elements of the active lanes exactly; KRND rounds an accumulator once, into every element of the active lanes or a
scalar, which raises no flag with `em` = 0 (log entry 105), and clears it with `.clr`; KSCN gives each active element its exact running sum, rounded once (R126, R127, R162-R164).
KMOV moves an accumulator to lanes, from lanes read whatever `em` holds, to another accumulator, and adds one exactly (R165). -/
def Obligations.ExactAccumulation : Prop :=
  (
  ∀ (s : State) (ty : Ty) (rm : Rm) (sat clr excl nr : Bool) (k : BitVec 2) (d a : RegNo) (sd : SReg),
    let r := s.run.rmOf rm
    let q := fmtOf ty
    let x := fun l e => fltA s ty a {} l e
    let elems := fun (ls : List Nat) => ls.flatMap fun l => (List.range ty.elems).map (x l)
    let old := s.run.wa[k.toNat]
    let cleared := if clr then s.run.wa.set k.toNat ⟨0, 0⟩ else s.run.wa
    (Ready s (.kadd ty k a nr) → Runs (.kadd ty k a nr) s fun t =>
      becomes s t { s.run with
        wa := s.run.wa.set k.toNat (added old (elems (activeLanes s.run.em)))
        fsr := s.run.fsr ||| (if (elems (activeLanes s.run.em)).any FVal.isSnan then 1 else 0) } s.run.cyc) ∧
    (Ready s (.krnd ty rm sat clr k (.v d) nr) → Runs (.krnd ty rm sat clr k (.v d) nr) s fun t =>
      t.run.wa = cleared ∧
      elementwise s { t with run := { t.run with wa := s.run.wa } } ty {} d r fun l e => roundW q r sat (s.sr l e) old) ∧
    (Ready s (.krnd ty rm sat clr k (.s sd) nr) → Runs (.krnd ty rm sat clr k (.s sd) nr) s fun t =>
      let y := roundW q r sat (s.sr 0 0) old
      let both := if ty = .f16x2 ∨ ty = .bf16x2 then y.1 % 2 ^ 16 * 2 ^ 16 + y.1 % 2 ^ 16 else y.1
      becomes s t { s.run with
        s := if s.run.em = 0 then s.run.s else s.run.s.set sd.toNat (BitVec.ofNat 64 both)
        fsr := if s.run.em = 0 then s.run.fsr else s.run.fsr ||| BitVec.ofNat 32 y.2
        wa := cleared
        srSeq := if r = .rsr then s.run.srSeq + 1 else s.run.srSeq } 1) ∧
    (Ready s (.kscn ty rm sat excl k d a nr) → Runs (.kscn ty rm sat excl k d a nr) s fun t =>
      t.run.wa = s.run.wa.set k.toNat (added old (elems (activeLanes s.run.em))) ∧
      elementwise s { t with run := { t.run with wa := s.run.wa } } ty {} d r fun l e =>
        let upTo := elems ((activeLanes s.run.em).filter (· < l)) ++ (List.range (if excl then e else e + 1)).map (x l)
        let y := roundW q r sat (s.sr l e) (added old upTo)
        (y.1, y.2 ||| (if (x l e).isSnan then IV else 0)))) ∧
  (
  ∀ (s : State) (k j : BitVec 2) (d a : RegNo) (nr : Bool),
    let w := s.run.wa[k.toNat]
    (Ready s (.kmovGet k d nr) → Runs (.kmovGet k d nr) s fun t =>
      s.vecStep t false {} d (fun l x =>
        (l < 12 → x = (w.val.extractLsb' (32 * l) 32).toNat) ∧ (l = 12 → x = w.st.toNat) ∧ (12 < l → x = 0)) ∧
      s.raises t satFlag False) ∧
    (Ready s (.kmovSet k a nr) → Runs (.kmovSet k a nr) s fun t =>
      let v := s.run.reg a.toNat
      (∀ l, l < 12 → t.run.wa[k.toNat].val.extractLsb' (32 * l) 32 = lane v l) ∧
      t.run.wa[k.toNat].st = (lane v 12).setWidth 3 ∧
      becomes s t { s.run with wa := s.run.wa.set k.toNat t.run.wa[k.toNat] } 13) ∧
    Runs (.kmovCpy k j nr) s (fun t => becomes s t { s.run with wa := s.run.wa.set k.toNat s.run.wa[j.toNat] } 1) ∧
    Runs (.kmovAdd k j nr) s (fun t => becomes s t { s.run with
      wa := s.run.wa.set k.toNat ⟨w.val + s.run.wa[j.toNat].val, w.st ||| s.run.wa[j.toNat].st⟩ } 1))

/-! ## Control flow, masks and exceptions (R170-R192, R374-R381, R399) -/

/-- NOP and YIELD only go on; BRA, BRX, RET and CALL move the group to a target that passes its test, CALL with its link; BRC moves it
where the condition holds and goes on where it does not (R60, R61, R184, R192).
A target that fails its test faults at the branching instruction with the target's address in the record, ILLCLS for bad bits or a
bad header word, PAGE or ACCESS for one that is not readable, each with FIDX 31 and the record of the register's bits (log entry 13); CALL leaves
its link register unwritten. Where an engine owns the header's line, the transfer waits at its instruction (R72, R184, R224). -/
def Obligations.ControlTransfers : Prop :=
  (
  ∀ (s s1 : State) (off : BitVec 16) (a : SReg) (p : SPos) (c : Cnd) (n : BitVec 4) (nr : Bool),
    let bits : Lane := (s.run.pos p).setWidth 32
    let holds := match c with
      | .al => True
      | .eq => (s.run.pos p).toInt = 0
      | .ne => (s.run.pos p).toInt ≠ 0
      | .lt => (s.run.pos p).toInt < 0
      | .ge => 0 ≤ (s.run.pos p).toInt
      | .le => (s.run.pos p).toInt ≤ 0
      | .gt => 0 < (s.run.pos p).toInt
      | .any => ∃ l, l < 32 ∧ s.run.em.getLsbD l = true ∧ bits.getLsbD l = true
      | .all => ∀ l, l < 32 → s.run.em.getLsbD l = true → bits.getLsbD l = true
      | .none => ∀ l, l < 32 → s.run.em.getLsbD l = true → bits.getLsbD l = false
    let next : Addr := match s.run.clause with
      | some x => x.hdr + 8 * BitVec.ofNat 56 (x.h.cnt.toNat + 2)
      | none => s.run.pc
    Runs (.nop nr) s (fun t => becomes s t s.run 1) ∧
    Runs (.yield n nr) s (fun t => becomes s t { s.run with yieldN := n.toNat, yielded := true } 1) ∧
    (passes s (offsetTarget s off) s1 → s1.run = s.run ∧
      Runs (.bra off) s (fun t => becomes s1 t { s.run with pc := (offsetTarget s off).setWidth 56 } 1) ∧
      Runs (.call a off) s (fun t => becomes s1 t { s.run with
        s := s.run.s.set a.toNat (next.setWidth 64), pc := (offsetTarget s off).setWidth 56 } 1) ∧
      (holds → Runs (.brc c p off) s fun t => becomes s1 t { s.run with pc := (offsetTarget s off).setWidth 56 } 1)) ∧
    (¬ holds → Runs (.brc c p off) s fun t => becomes s t s.run 1) ∧
    (passes s s.run.s[a.toNat] s1 → s1.run = s.run ∧
      Runs (.brx a) s (fun t => becomes s1 t { s.run with pc := s.run.s[a.toNat].setWidth 56 } 1) ∧
      Runs (.ret a) s (fun t => becomes s1 t { s.run with pc := s.run.s[a.toNat].setWidth 56 } 1))) ∧
  (
  ∀ (s s1 : State) (target : Word),
    let x := fun cause info : Nat => (⟨cause, target.setWidth 56, 31, target.toNat, info, 0, s.run.hdr, s.run.word⟩ : Trap)
    let fails := fun r => (∀ off, offsetTarget s off = target →
        exec (.bra off) s = .next r ∧ ∀ d, exec (.call d off) s = .next r) ∧
      ∀ a : SReg, s.run.s[a.toNat] = target → exec (.brx a) s = .next r ∧ exec (.ret a) s = .next r
    (target.extractLsb' 0 3 ≠ 0 ∨ target.extractLsb' 56 8 ≠ 0 → fails (s.takeTrap (x 0x03 0))) ∧
    (target.extractLsb' 0 3 = 0 → target.extractLsb' 56 8 = 0 →
      (∀ e, s.codeWord (target.setWidth 56) = (s1, .error e) →
        if e.1 = cWAIT then fails { s1 with run := { s.run with wait := .stall } } else fails (s1.takeTrap (x e.1 e.2))) ∧
      ∀ h, s.codeWord (target.setWidth 56) = (s1, .ok h) → decodeHeader h = none → fails (s1.takeTrap (x 0x03 0))))

/-- BDV splits the group by a condition on its lanes and pushes an entry; JOIN runs the pending side, or pops and restores `em` with the
live lanes; in explicit-mask mode both fault with ILLENC, and a JOIN that does not match faults with ILLCLS (R171, R172).
A push that finds 32 entries on chip writes the oldest to the group's stack area of the save area, entry m at offset 32m, and a pop
that leaves 31 reads the newest back with SMASK := RMASK ∧ ¬PMASK; either holds the group for the access; a BDV that would push a
1,057th entry, and a refill of an entry that an uncorrectable error has struck, fault with STKSPILL (R170).
EXIT ends the group whatever `em` and LIVE hold: its BAL requests and unmatched FQGETs lapse. The lane form retires the active lanes,
and ends the group where no lane is left (R28, R185, R252, R358). -/
def Obligations.DivergenceStackAndExit : Prop :=
  (
  ∀ (s s1 : State) (c : Cnd) (a : RegNo) (off1 off2 : BitVec 16),
    let holds := fun x : Int => match c with
      | .eq => x = 0
      | .ne => x ≠ 0
      | .lt => x < 0
      | .ge => 0 ≤ x
      | .le => x ≤ 0
      | .gt => 0 < x
      | _ => True
    let g := s.run
    let next := g.nextHdr
    let jpc : Addr := (offsetTarget s off2).setWidth 56
    (Ready s (.bdv c a off1 off2) → g.mmode = false → g.stack.length < 32 → ∀ t f : Lane,
      (∀ l, l < 32 → (t.getLsbD l = true ↔ g.em.getLsbD l = true ∧ holds (lane (g.reg a.toNat) l).toInt)) → f = g.em &&& ~~~t →
      let pushed := fun pm sm => (⟨jpc, next, pm, g.em, sm⟩ : StackEntry) :: g.stack
      (t ≠ 0 → passes s (offsetTarget s off1) s1 → Runs (.bdv c a off1 off2) s fun u =>
        becomes s1 u { g with stack := pushed f t, em := t, pc := (offsetTarget s off1).setWidth 56 } 1) ∧
      (t = 0 → f ≠ 0 → Runs (.bdv c a off1 off2) s fun u => becomes s u { g with stack := pushed 0 f, em := f, pc := next } 1) ∧
      (t = 0 → f = 0 → passes s (offsetTarget s off2) s1 → Runs (.bdv c a off1 off2) s fun u =>
        becomes s1 u { g with stack := pushed 0 0, em := 0, pc := jpc } 1)) ∧
    (Ready s (.bdv c a off1 off2) → g.mmode = true → Runs (.bdv c a off1 off2) s fun u => u = s.faultExact 0x02) ∧
    (g.mmode = true → Runs .join s fun u => u = s.faultExact 0x02) ∧
    (g.mmode = false → (∀ top rest, g.stack = top :: rest → top.jpc ≠ g.hdr) → Runs .join s fun u => u = s.faultExact 0x03) ∧
    (g.mmode = false → ∀ top rest, g.stack = top :: rest → top.jpc = g.hdr →
      (top.pmask &&& g.live ≠ 0 → Runs .join s fun u => becomes s u { g with
        em := top.pmask &&& g.live, pc := top.ppc
        stack := { top with smask := top.pmask &&& g.live, pmask := 0 } :: rest } 1) ∧
      (top.pmask &&& g.live = 0 → rest.length ≠ 31 ∨ g.mdepth = 0 → Runs .join s fun u =>
        becomes s u { g with em := top.rmask &&& g.live, pc := next, stack := rest } 1))) ∧
  (
  ∀ (s : State) (e old : StackEntry) (rest : List StackEntry) (a : Nat),
    Memory.wf s.mem = true → s.run.stack.length = 32 → s.run.stack.getLast? = some old →
    a = s.teamImage s.run + 0x20000 + 0x8000 * s.run.num + 32 * s.run.mdepth →
    (1024 ≤ s.run.mdepth ∨ region a ≠ .dev → s.push e = none) ∧
    (1024 ≤ s.run.mdepth → s.run.mmode = false → ∀ (s1 : State) (c : Cnd) (v : RegNo) (off1 off2 : BitVec 16),
      Ready s (.bdv c v off1 off2) →
      (s.run.bdvTaken c v = 0 → s.run.em ≠ 0 → exec (.bdv c v off1 off2) s = .next (s.faultExact 0x42)) ∧
      (s.run.bdvTaken c v ≠ 0 → passes s (offsetTarget s off1) s1 → exec (.bdv c v off1 off2) s = .next (s1.faultExact 0x42))) ∧
    (s.run.mdepth < 1024 → region a = .dev → region (a + 31) = .dev → s.logRoom [a / 32 * 32] s.run.part s.run.ctx s.run.grid = true → a % 32 = 0 →
      offHeaders s a 32 → ∃ t, s.push e = some t ∧ t.run.stack = e :: s.run.stack.dropLast ∧ t.run.mdepth = s.run.mdepth + 1 ∧
        t.run.wait = .stackAccess false ∧ t.run.em = s.run.em ∧
        t.dev.bad.contains (a / 32) = false ∧
        (∀ b, b < a ∨ a + 32 ≤ b → (∀ k c, (k, c) ∈ s.ctxs → c.logs = true → b < c.logBase ∨ c.logBase + 80 ≤ b) →
          Memory.get t.mem b = Memory.get s.mem b) ∧
        ∀ (u : State) (top : StackEntry), u.run.stack = top :: rest → rest.length = 31 → u.run.mdepth = s.run.mdepth + 1 → u.mem = t.mem →
          u.dev.bad.contains (a / 32) = false → u.teamImage u.run + 0x8000 * u.run.num = s.teamImage s.run + 0x8000 * s.run.num →
          ∃ v, u.pop = some v ∧ v.run.mdepth = s.run.mdepth ∧ v.run.wait = .stackAccess true ∧ v.mem = u.mem ∧
            v.run.stack = rest ++ [{ old with smask := old.rmask &&& ~~~old.pmask }]) ∧
    ∀ (u : State) (top : StackEntry), u.run.mmode = false → u.run.stack = top :: rest → rest.length = 31 → u.run.mdepth = s.run.mdepth + 1 →
      top.jpc = u.run.hdr → top.pmask &&& u.run.live = 0 → u.teamImage u.run + 0x8000 * u.run.num = s.teamImage s.run + 0x8000 * s.run.num →
      u.dev.bad.contains (a / 32) = true →
      exec .join u = .next { u.faultExact 0x42 with
        pending := .uncorrectableError (.logOrSave u.run.part u.run.ctx) :: (u.faultExact 0x42).pending }) ∧
  (
  ∀ s : State,
    let ended := fun g : Group => { g with run := .ended, burn := none, shunt := none, match_ := none, loads := g.loads.filter (·.fifo.isNone) }
    let g := { s.run with live := s.run.live &&& ~~~s.run.em, em := 0 }
    Runs .exit s (fun t => becomes s t (ended s.run) 1) ∧
    (g.live = 0 → Runs .exitLanes s fun t => becomes s t (ended g) 1) ∧
    (g.live ≠ 0 → Runs .exitLanes s fun t => becomes s t { g with pc := s.run.nextHdr } 1))

/-- EMSET combines `em` with a scalar's low 32 bits or with the lanes that are not 0, every lane read, and stores it ANDed with Z; VOTE
gives the ballot, any, all and uniformity of the active lanes (R168, R187, R189).
EMSAV: d := `em`, in both modes, with D a scalar position 0-71 and A, B, C, TY and SUB 0 in its word (R186).
MLOG: for each bit i from 0 to 31, d[i] := SUB[4 a[i] + 2 b[i] + c[i]]; an `s` destination is written zero-extended, and an `em`
destination obeys R168. A, B and C are scalar positions with BS = CK = 1, and TY is 0 (R188).
TFENCE (R190, R374): if (`fsr` ∧ `ctl.fte`) ≠ 0 it raises ARITH exactly at itself, with the resume point after it, and `fsr` is kept; otherwise
it has no effect. -/
def Obligations.MasksMoveCombineAndTest : Prop :=
  (
  ∀ (s : State) (op : EmOp) (b : Opnd) (d : SPos) (a : RegNo) (nr : Bool),
    (Ready s (.emset op b nr) → Runs (.emset op b nr) s fun t =>
      (∀ l, l < 32 →
        let x : Bool := match b with
          | .s p => (s.run.pos p).getLsbD l
          | .v r => lane (s.run.reg r.toNat) l != 0
        let old := s.run.em.getLsbD l
        t.run.em.getLsbD l = ((match op with
          | .set => x
          | .and => old && x
          | .or => old || x
          | .andn => old && !x) && s.run.z.getLsbD l)) ∧
      becomes s t { s.run with em := t.run.em } 1) ∧
    (let holds := fun l => lane (s.run.reg a.toNat) l ≠ 0
     (Ready s (.vote .ballot d a nr) → Runs (.vote .ballot d a nr) s fun t => ∃ p : Lane,
        (∀ l, l < 32 → (p.getLsbD l = true ↔ s.run.em.getLsbD l = true ∧ holds l)) ∧ s.scalarStep t d (p.setWidth 64)) ∧
     (Ready s (.vote .any d a nr) → Runs (.vote .any d a nr) s fun t => ∃ x : Word,
        ((∃ l, l < 32 ∧ s.run.em.getLsbD l = true ∧ holds l) → x = 1) ∧
        ((∀ l, l < 32 → s.run.em.getLsbD l = true → ¬ holds l) → x = 0) ∧ s.scalarStep t d x) ∧
     (Ready s (.vote .all d a nr) → Runs (.vote .all d a nr) s fun t => ∃ x : Word,
        ((∀ l, l < 32 → s.run.em.getLsbD l = true → holds l) → x = 1) ∧
        ((∃ l, l < 32 ∧ s.run.em.getLsbD l = true ∧ ¬ holds l) → x = 0) ∧ s.scalarStep t d x) ∧
     (Ready s (.vote .uni d a nr) → Runs (.vote .uni d a nr) s fun t => ∃ x : Word,
        ((∀ k l, k < 32 → l < 32 → s.run.em.getLsbD k = true → s.run.em.getLsbD l = true →
          lane (s.run.reg a.toNat) k = lane (s.run.reg a.toNat) l) → x = 1) ∧
        ((∃ k l, k < 32 ∧ l < 32 ∧ s.run.em.getLsbD k = true ∧ s.run.em.getLsbD l = true ∧
          lane (s.run.reg a.toNat) k ≠ lane (s.run.reg a.toNat) l) → x = 0) ∧ s.scalarStep t d x))) ∧
  (
  ∀ (s : State) (d : SPos) (nr : Bool),
    Runs (.emsav d nr) s (fun t => s.scalarStep t d (s.run.em.setWidth 64)) ∧
    ((Instr.emsav d nr).wf = true ↔ d ≠ .em) ∧
    ∀ w, encode (.emsav d nr) = some w → fld w 56 8 = 0x09 ∧ fld w 48 8 = d.code ∧ fld w 20 28 = 0 ∧ fld w 0 8 = 0) ∧
  (
  ∀ (s : State) (d a b c : SPos) (lut : BitVec 8) (nr : Bool),
    Runs (.mlog d a b c lut nr) s (fun t => ∃ x : Lane,
      (∀ i, i < 32 → x.getLsbD i = lut.getLsbD (4 * ((s.run.pos a).getLsbD i).toNat + 2 * ((s.run.pos b).getLsbD i).toNat
        + ((s.run.pos c).getLsbD i).toNat)) ∧ s.scalarStep t d (x.setWidth 64)) ∧
    ∀ w, encode (.mlog d a b c lut nr) = some w →
      fld w 56 8 = 0x0B ∧ fld w 48 8 = d.code ∧ fld w 40 8 = a.code ∧ fld w 32 8 = b.code ∧ fld w 24 8 = c.code ∧ fld w 20 4 = 0 ∧
      w.getLsbD 15 = true ∧ w.getLsbD 14 = true ∧ fld w 0 8 = lut) ∧
  (
  ∀ (s : State) (nr : Bool),
    let after : Addr × Nat := match s.run.clause with
      | some c => if s.run.word < c.h.cnt.toNat then (c.hdr, s.run.word + 1) else (s.run.nextHdr, 31)
      | none => (s.run.pc, 31)
    ((∀ i, i < 6 → ¬ (s.run.fsr.getLsbD i = true ∧ s.run.fte.getLsbD i = true)) → Runs (.tfence nr) s fun t => becomes s t s.run 1) ∧
    ((∃ i, i < 6 ∧ s.run.fsr.getLsbD i = true ∧ s.run.fte.getLsbD i = true) → Runs (.tfence nr) s fun t =>
      t = s.takeTrap ⟨0x20, s.run.wordAddr, s.run.word, 0, 0, 0, after.1, after.2⟩ ∧ t.run.fsr = s.run.fsr))

/-- TRAP of a user-level group with a handler raises TRAPI: its frame holds IMM32 and the resume point after TRAP, and the handler at
`ctl.tvt` is entered (R191, R376, R379).
A user-kind trap of a user-level group enters its handler at `ctl.tvt` through its frame, unless the debugger takes BRK or WATCH; the
frame is written with BUSY set, and the team's matrix entries freeze; BRK and WATCH halt the rest of the team at its clause boundaries, and
for any other cause it runs on (R51, R368, R378, R379). -/
def Obligations.UserTrapEntry : Prop :=
  (
  ∀ (s s1 : State) (pa : Nat) (e : BitVec 32), s.memOk → s.run.kind = .compute → s.isSup s.run = false → s.run.tvt ≠ 0 →
    frameFree s s1 pa → Runs (.trap e) s fun t =>
      t.run = inHandlerAt s.run (s.userFrame s.run) s.run.tvt ∧
      frameHolds (fun i => Memory.word t.mem (pa + 8 * i)) s.run
        ⟨0x22, s.run.wordAddr, s.run.word, 0, e.toNat, 0, s.run.after.1, s.run.after.2⟩ true false) ∧
  (
  ∀ (s s1 : State) (pa : Nat) (x : Trap), s.memOk → s.run.kind = .compute → s.isSup s.run = false → s.run.tvt ≠ 0 →
    (x.cause = 0x20 ∨ x.cause = 0x22 ∨
      (x.cause = 0x21 ∨ x.cause = 0x50) ∧ (s.desc s.run.part s.run.ctx)[10].getLsbD 49 = false) → frameFree s s1 pa →
    let t := s.takeTrap x
    t.run = inHandlerAt s.run (s.userFrame s.run) s.run.tvt ∧
    frameHolds (fun i => Memory.word t.mem (pa + 8 * i)) s.run x true false ∧
    (∀ team, s.team? s.run.teamKey = some team → t.team? s.run.teamKey = some { team with frozen := true }) ∧
    ∀ n g, Tbl.find s.groups n = some g → Tbl.find t.groups n = some (
      if (x.cause = 0x21 ∨ x.cause = 0x50) ∧ g.inTeam s.run.teamKey = true ∧ g.gid ≠ s.run.gid ∧ g.run = .ready then
        { g with run := if g.clause.isSome then .stopping else .stopped 0, brkHalt := true } else g))

/-- A trap goes to the supervisor where its kind is system or there is no handler: the group stops exactly at its resume point, the rest
of its team halts at its clause boundaries, the matrix entries freeze, the frame is written with BUSY 0 (log entry 12), and the record is
posted (R377, R378, R381).
A control or scheduler core enters its handler through the frame words at its MMIO offset, whatever `ctl.tvt` holds (log entry 14); one
whose frame is busy halts, a control core with its record to scheduler core 0 and a scheduler core with a device error (R380). -/
def Obligations.SupervisorAndCoreTrapEntry : Prop :=
  (
  ∀ (s : State) (x : Trap), s.memOk → s.run.kind = .compute → s.isSup s.run = false →
    (s.run.tvt = 0 ∨ (x.cause ≠ 0x20 ∧ x.cause ≠ 0x21 ∧ x.cause ≠ 0x22 ∧ x.cause ≠ 0x50)) →
    let t := s.takeTrap x
    let k := ((s.desc s.run.part s.run.ctx)[10].extractLsb' 52 4).toNat
    let base := ((s.desc s.run.part s.run.ctx)[7].extractLsb' 22 30).toNat * 2 ^ 22
    t.run = { s.run with
      run := .stopped x.cause, pc := x.clause, clause := none, word := 0, ahead := none, pend := none
      resume := if x.ridx = 31 then none else some x.ridx } ∧
    frameHolds (fun i => Memory.word t.mem (base + 0x100000 + 128 * (64 * s.run.core + s.run.slot) + 8 * i)) s.run x false s.run.inHandler ∧
    (∃ r, (t.cluster k).queue.getLast? = some r ∧ recordOf s s.run x.cause r) ∧
    (∀ team, s.team? s.run.teamKey = some team → t.team? s.run.teamKey = some { team with frozen := true }) ∧
    ∀ n g, Tbl.find s.groups n = some g → g.inTeam s.run.teamKey = true → g.gid ≠ s.run.gid →
      Tbl.find t.groups n = some { g with
        brkHalt := false, run := if g.run = .ready then (if g.clause.isSome then .stopping else .stopped 0) else g.run }) ∧
  (
  ∀ (s : State) (x : Trap) (off : Nat),
    (∃ k, s.run.kind = .control k ∧ off = 0x300000 + 128 * k) ∨ (∃ i, s.run.kind = .scheduler i ∧ off = 0x300800 + 128 * i) →
    let t := s.takeTrap x
    ((Tbl.get 0 s.dev.frames (off + 48)).getLsbD 1 = false →
      t.run = inHandlerAt s.run off s.run.tvt ∧ frameHolds (fun i => Tbl.get 0 t.dev.frames (off + 8 * i)) s.run x true false ∧ t.mem = s.mem) ∧
    ((Tbl.get 0 s.dev.frames (off + 48)).getLsbD 1 = true → t.run.run = .off ∧
      ((∃ k, s.run.kind = .control k) → ∃ r, t.dev.schedRecs = s.dev.schedRecs ++ [r] ∧ recordOf s s.run 0x61 r) ∧
      ((∃ i, s.run.kind = .scheduler i) → t.dev.devErr = true ∧ t.dev.errc = x.cause)))

/-- Every trap posted to the supervisor also sends a system record of KIND 3, SRC 0xFF and STATUS the cause, with STREAM and SEQ of the
launch and TAG the core, the slot, the context and the partition, whatever the queue holds (R377). -/
def Obligations.TrapRecordsNameTheirGroup : Prop :=
  ∀ (s : State) (x : Trap) (nest : Bool), ∃ r,
    ((s.supTrap x nest).cluster (s.supCl s.run.part s.run.ctx)).queue.getLast? = some r ∧ recordOf s s.run x.cause r

/-- TRET of a control or scheduler core reads the busy frame at the MMIO offset in `s63`, sets `em` to EM ∧ Z, with Z of the mode before the
return (log entry 11), `ctl.mmode` to MMODE and `s63` to S63, clears BUSY and continues at the frame's resume point, where a breakpoint or
watch of the clause that TRET ends is taken with FIDX 31 and the frame's RIDX (log entry 75); with no busy frame it faults with ILLENC, with
RIDX 16-30 or a bad CLAUSE with ILLCLS; while an engine owns the line of CLAUSE it waits (R51, R224, R369, R371, R380, R399).
TRET and PRACK.RET of a compute group read the busy frame at `s63`, set `em` to EM ∧ Z, with Z of the mode before the return (log entry 11),
`ctl.mmode` to MMODE and `s63` to S63, clear BUSY in memory, leave the handler and continue at the frame's resume point, where a breakpoint or
watch of the clause that they end is taken with FIDX 31 and the frame's RIDX (log entry 75), or halt there where the group was told to; with
no busy frame they fault with ILLENC, and while an engine owns the line of CLAUSE they wait (R51, R224, R369, R371, R379, R399, R400). -/
def Obligations.ReturnsFromTraps : Prop :=
  (
  ∀ (s s1 : State) (h : Word), (∃ k, s.run.kind = .control k) ∨ (∃ i, s.run.kind = .scheduler i) →
    let frame := s.run.s[63].toNat
    let word := fun i => Tbl.get 0 s.dev.frames (frame + 8 * i)
    let ridx := ((word 1).extractLsb' 56 5).toNat
    let clause : Addr := (word 1).setWidth 56
    ((word 6).getLsbD 1 = false → Runs .tret s fun t => t = s.faultExact 0x02) ∧
    ((word 6).getLsbD 1 = true → 16 ≤ ridx → ridx ≤ 30 → Runs .tret s fun t => t = s.faultExact 0x03 clause.toNat) ∧
    ((word 6).getLsbD 1 = true → (ridx < 16 ∨ ridx = 31) → s.codeWord clause = (s1, .ok h) → decodeHeader h = none →
      Runs .tret s fun t => t = s1.faultExact 0x03 clause.toNat) ∧
    ((word 6).getLsbD 1 = true → (ridx < 16 ∨ ridx = 31) → s.codeWord clause = (s1, .ok h) → (decodeHeader h).isSome = true →
      Runs .tret s fun r => ∃ t,
        (r = match s.run.clause, s.run.pend with
          | none, _ => t
          | some _, some (.brk code) => t.takeTrap ⟨0x21, clause, 31, 0, code, 0, clause, ridx⟩
          | some c, some (.watch n a i) => t.takeTrap ⟨0x50, c.hdr + 8 + 8 * BitVec.ofNat 56 i, i, a, n, 0, clause, ridx⟩
          | some c, none => if c.h.brk = true then t.takeTrap ⟨0x21, clause, 31, 0, 0, 0, clause, ridx⟩ else t) ∧
        t.run.em = (word 2).extractLsb' 32 32 &&& s.run.z ∧ t.run.mmode = (word 6).getLsbD 0 ∧
        t.run.s = s.run.s.set 63 (word 5) ∧ t.run.pc = clause ∧ t.run.clause = none ∧
        t.run.resume = (if ridx = 31 then none else some ridx) ∧ t.run.v = s.run.v ∧ t.run.m = s.run.m ∧ t.run.fsr = s.run.fsr ∧
        t.run.live = s.run.live ∧ t.run.stack = s.run.stack ∧ t.run.tvt = s.run.tvt ∧ t.mem = s1.mem ∧
        Tbl.get 0 t.dev.frames (frame + 48) = word 6 &&& ~~~2#64 ∧
        (∀ i, i < 16 → i ≠ 6 → Tbl.get 0 t.dev.frames (frame + 8 * i) = word i)) ∧
    ((word 6).getLsbD 1 = true → (ridx < 16 ∨ ridx = 31) → ∀ i, s.codeWord clause = (s1, .error (cWAIT, i)) →
      Runs .tret s fun t => t = { s1 with run := { s.run with wait := .stall } })) ∧
  (
  ∀ (s s1 s2 : State) (pa : Nat) (h : Word), s.memOk → s.run.kind = .compute →
    let g := s.run
    let word := fun i => (BitVec.ofNat 64 (leNat ((List.range 8).map fun j => s1.coreByte g.core (pa + 8 * i + j))) : Word)
    let ridx := ((word 1).extractLsb' 56 5).toNat
    let clause : Addr := (word 1).setWidth 56
    let returns := fun (P : State → Prop) => Runs .prackRet s P ∧ (s.isSup g = true → Runs .tret s P)
    s.translate g.core g.part g.ctx ((g.s[63]).toNat % 2 ^ 56) .wr (!s.isSup g) = (s1, .ok pa) →
    ((word 6).getLsbD 1 = false → returns fun t => t = s1.faultExact 0x02) ∧
    ((word 6).getLsbD 1 = true → 16 ≤ ridx → ridx ≤ 30 → returns fun t => t = s1.faultExact 0x03 clause.toNat) ∧
    ((word 6).getLsbD 1 = true → (ridx < 16 ∨ ridx = 31) → s1.codeWord clause = (s2, .ok h) → (decodeHeader h).isSome = true →
      returns fun r => ∃ t,
        (r = match g.clause, g.pend with
          | none, _ => t
          | some _, some (.brk code) => t.takeTrap ⟨0x21, clause, 31, 0, code, 0, clause, ridx⟩
          | some c, some (.watch n a i) => t.takeTrap ⟨0x50, c.hdr + 8 + 8 * BitVec.ofNat 56 i, i, a, n, 0, clause, ridx⟩
          | some c, none => if c.h.brk = true then t.takeTrap ⟨0x21, clause, 31, 0, 0, 0, clause, ridx⟩ else t) ∧
        t.run.em = (word 2).extractLsb' 32 32 &&& g.z ∧ t.run.mmode = (word 6).getLsbD 0 ∧ t.run.s = g.s.set 63 (word 5) ∧
        t.run.pc = clause ∧ t.run.clause = none ∧ t.run.resume = (if ridx = 31 then none else some ridx) ∧ t.run.inHandler = false ∧
        t.run.v = g.v ∧ t.run.m = g.m ∧ t.run.fsr = g.fsr ∧ t.run.live = g.live ∧ t.run.stack = g.stack ∧ t.run.tvt = g.tvt ∧
        (g.brkHalt = false → t.run.run = if g.run = .stopping then .stopped 0 else g.run) ∧
        Memory.word t.mem (pa + 48) = word 6 &&& ~~~2#64) ∧
    ((word 6).getLsbD 1 = true → (ridx < 16 ∨ ridx = 31) → ∀ i, s1.codeWord clause = (s2, .error (cWAIT, i)) →
      returns fun t => t = { s2 with run := { g with wait := .stall } }))

/-! ## Selectors, control registers and register checks (R90, R173-R177, R182, R183, R344) -/

/-- SRD of a selector gives the running group its value: what names it, its place, its readings, its clocks and its counters, zero- or
sign-extended to 64 bits (R175, R182). `$cyc` counts the cycles of the core's clock as log entry 6 says; what the selectors that name a group,
a grid, a partition or a context read on a control or scheduler core is log entry 101's.
SWR writes a control register, or sets or clears bits of it: each field takes its new value, the nearest of its range for a cluster
register, and keeps the old one where the spec says so; every other control register, and everything else, is as before (R173, R174,
R183, R344). -/
def Obligations.SelectorsAndControlRegisters : Prop :=
  (
  ∀ (s : State) (sel : Sel) (r : SReg) (nr : Bool),
    let g := s.run
    let n := fun x : Nat => BitVec.ofNat 64 x
    Runs (.srd sel (.sca r) nr) s fun t => ∃ x, s.scalarStep t (.s r) x ∧
      match sel with
      | .lane => True
      | .group => x = n g.num
      | .role => x = n g.role
      | .team => x = n g.team
      | .grid => ∀ y, s.grid? g.grid = some y → x = n (y.id % 2 ^ 32)
      | .core => g.kind = .compute → x.toNat = g.core % 24
      | .cluster => (g.kind = .compute → g.core < 384 → x.toNat = g.core / 24) ∧ ∀ k, k < 16 → g.kind = .control k → x.toNat = k
      | .flue => g.kind = .compute → x.toNat = g.core % 24 / 2
      | .tier => g.kind = .compute → x.toNat = g.core % 2
      | .flmis => ∀ (f : Nat) (h : f < 12), g.core % 24 / 2 = f → x = BitVec.ofInt 64 (s.cluster g.cluster).flue[f]
      | .clmis => x = BitVec.ofInt 64 (s.cluster g.cluster).reading
      | .time => x = n s.time
      | .cyc =>
        let k := s.cluster g.cluster
        x = n ((k.clk + (s.time - k.clkAt) * k.freq) / 1000) + if g.kind = .compute then (s.core g.core).cyc else Tbl.get 0 s.agentCyc g.gid
      | .cap => x.toNat / 2 ^ 56 = 1
      | .part => x = n g.part
      | .ctx => g.ctx < 64 → x.extractLsb' 16 12 = (s.desc g.part g.ctx)[0].extractLsb' 52 12 ∧ x.extractLsb' 0 6 = BitVec.ofNat 6 g.ctx ∧
          x.extractLsb' 6 10 = 0 ∧ x.extractLsb' 28 36 = 0
      | .window => ∀ c, s.ctx? g.part g.ctx = some c →
          (c.logs = true → ∀ w, c.windows.getLast? = some w → x = w.num.setWidth 64) ∧ (c.logs = false → x = 0)
      | .depth => x = n (g.stack.length + g.mdepth)
      | .live => x = g.live.setWidth 64
      | .perf i => let w := (s.core g.core).sels[i.toNat]
          g.ctx < 64 → g.part < 64 → x = if w.extractLsb' 8 6 = BitVec.ofNat 6 g.ctx ∧ w.extractLsb' 14 6 = BitVec.ofNat 6 g.part
            then (s.core g.core).ctrs[i.toNat] else 0
      | .ctl c => x = s.readCtl c) ∧
  (
  ∀ (s : State) (op : SwrOp) (c : Ctl) (b : SPos) (nr : Bool),
    let x := s.run.pos b
    let v : Word := match op with
      | .write => x
      | .set => s.readCtl c ||| x
      | .clr => s.readCtl c &&& ~~~x
    let near := fun i n lo hi : Nat => max lo (min hi (v.extractLsb' i n).toNat)
    (c = .burnauto ∨ c = .shuntauto → (s.team? s.run.teamKey).isSome = true) →
    Runs (.swr op c b nr) s fun t =>
      (match c with
        | .rm => (t.readCtl c).toNat = if v.toNat % 8 < 6 then v.toNat % 8 else s.run.rm.toNat
        | .fte => (t.readCtl c).toNat = v.toNat % 64
        | .mmode | .burnauto | .shuntauto => (t.readCtl c).toNat = v.toNat % 2
        | .tvt => (t.readCtl c).toNat = v.toNat % 2 ^ 56 / 8 * 8
        | .balth | .baltt => (t.readCtl c).toNat = near 16 12 400 3000 * 2 ^ 16 + near 0 11 100 1200
        | .baldly => (t.readCtl c).toNat = near 0 8 5 160
        | .dampmin => (t.readCtl c) = if v.toNat % 4 = 0 then s.readCtl c else BitVec.ofNat 64 (v.toNat % 4)
        | .bias => ((t.readCtl c).extractLsb' 8 5).toInt = max (-12) (min 8 (v.extractLsb' 8 5).toInt) ∧
            ((t.readCtl c).extractLsb' 0 5).toInt = max (-12) (min 8 (v.extractLsb' 0 5).toInt) ∧
            (t.readCtl c).extractLsb' 5 3 = 0 ∧ (t.readCtl c).extractLsb' 13 51 = 0) ∧
      (∀ d, d ≠ c → t.readCtl d = s.readCtl d) ∧
      t.run = { s.run with rm := t.run.rm, fte := t.run.fte, mmode := t.run.mmode, tvt := t.run.tvt, word := s.run.word + 1 } ∧
      t = { s with run := t.run, cores := t.cores, agentCyc := t.agentCyc, teams := t.teams, clusters := t.clusters } ∧ s.charged t 1 ∧
      (∀ k, k ≠ s.run.teamKey → t.team? k = s.team? k) ∧ ∀ k, k ≠ s.run.cluster → t.cluster k = s.cluster k)

/-- The register checks pass exactly where, in every active lane, or in every lane for an operand used whatever `em` holds, each indexed
operand's index is below its bound and its registers lie within the budget; where one fails, the instruction takes the exact fault of
that check and nothing else changes, BDV in explicit-mask mode too (log entry 80) (R90). -/
def Obligations.RegisterChecks : Prop :=
  (∀ (g : Group) (i : Instr), regFault g i = none ↔
    ∀ o, o ∈ vops i → ∀ l, l < 32 → (o.always = true ∨ g.em.getLsbD l = true) →
      (o.ix = true → g.ixIndex (ixnOf i) l < g.ixBound (ixnOf i) l) ∧ g.opReg (ixnOf i) o.ix o.r l + o.n ≤ g.budget) ∧
  ∀ (s : State) (i : Instr) (c : Nat), regFault s.run i = some c → (c = 0x05 ∨ c = 0x06) ∧ exec i s = .next (s.faultExact c)

/-! ## Memory (R194-R253) -/

/-- LD and SLD from device memory: the operation is outstanding with each active lane's bytes, as its core reads them, zero- or
sign-extended; no byte of memory changes, and LD in no lane is still a fence. A load that the reuse table answers shares its results instead
(R83-R86, R211, R233-R235, R240, R242). -/
def Obligations.LoadsReadMemory : Prop :=
  ∀ (s : State) (sz : Sz) (hint : Hint) (inv sx prm : Bool) (ord : MOrd) (sco : Scope) (d : RegNo) (base : Base) (off : BitVec 16)
    (r : SReg) (a : SPos) (pa : Nat → Nat),
    let n := sz.bytes
    let value := fun l : Nat => leNat ((List.range n).map fun i => byteOf s (pa l + i))
    let keys := if inv then s.loadKeys (.ld sz hint inv sx prm ord sco d base off) d sz.regs s.run.grid else []
    (Ready s (.ld sz hint inv sx prm ord sco d base off) → s.run.kind = .compute → s.loadHit keys = none →
      (∀ l, l < 32 → s.run.em.getLsbD l = true → inPage s .rd (s.run.addr true base (off.signExtend 64) l) n (pa l)) →
      Runs (.ld sz hint inv sx prm ord sco d base off) s fun t => ∃ vals keys,
        issued s t ⟨s.nextId, .vec d s.run.em vals, s.run.sets.1, s.run.sets.2, none, keys, s.run.wordAddr⟩ ∧
        vals.length = sz.regs ∧ (∀ l, l < 32 → s.run.em.getLsbD l = true → lanesHold vals l (loaded sx n 32 (value l))) ∧
        cachesOnly s t ∧ sameBytes s t ∧ fenceBehind s t ord sco) ∧
    (∀ res, Ready s (.ld sz hint inv sx prm ord sco d base off) → s.loadHit keys = some res →
      Runs (.ld sz hint inv sx prm ord sco d base off) s fun t => State.booked s.run.core s t ∧
        t.run = { s.run with v := t.run.v, word := s.run.word + 1 } ∧
        ∀ i, i < 256 → t.run.reg i = if d.toNat ≤ i ∧ i < d.toNat + res.length then res.getD (i - d.toNat) 0 else s.run.reg i) ∧
    ((Instr.sld sz sx hint ord sco prm r a off).wf = true → inPage s .rd (s.run.pos a + off.signExtend 64) n (pa 0) →
      Runs (.sld sz sx hint ord sco prm r a off) s fun t =>
        issued s t ⟨s.nextId, .sca r (BitVec.ofNat 64 (loaded sx n 64 (value 0))), s.run.sets.1, s.run.sets.2, none, [], s.run.wordAddr⟩ ∧
        cachesOnly s t ∧ sameBytes s t ∧ t.run.relFence = s.run.relFence)

/-- ST and SST of a compute group enter its core's write-through buffer: that core reads each stored byte from the highest active lane that
wrote it, and every other byte, every other core and memory itself as before; a lane that has taken its entries while the store waited for
room does not write again (R211, R212, R219, R233-R235, R241, R242).
SST of a control or scheduler core (R73, R242) performs in device memory at once (log entry 33), through context 0 (log entry 16); every
other byte is as before (R211), but for the fields of log headers, which the device keeps as log entry 21 says (R260). -/
def Obligations.StoresEnterTheBufferOrPerform : Prop :=
  (
  ∀ (s : State) (sz : Sz) (hint : Hint) (ord : MOrd) (sco : Scope) (d : RegNo) (base : Base) (off : BitVec 16) (r : SReg) (a : SPos)
    (pa : Nat → Nat), s.run.kind = .compute →
    let n := sz.bytes
    let covers := fun l b : Nat => pa l ≤ b ∧ b < pa l + n
    let rest := fun t : State => t.mem = s.mem ∧ t.spad = s.spad ∧ cachesOnly s t ∧ (∀ k b, k ≠ s.run.core → t.coreByte k b = s.coreByte k b) ∧
      t.run = { s.run with word := s.run.word + 1, pend := t.run.pend, took := t.run.took, relFence := t.run.relFence }
    let lanes := s.run.em &&& ~~~s.run.took
    (Ready s (.st sz hint ord sco d base off) →
      (∀ l, l < 32 → lanes.getLsbD l = true → inPage s .wr (s.run.addr true base (off.signExtend 64) l) n (pa l)) →
      Runs (.st sz hint ord sco d base off) s fun t => rest t ∧ t.run.took = 0 ∧ fenceBehind s t ord sco ∧
        (∀ l b, writes lanes covers l b → t.coreByte s.run.core b = dataByte s.run d l (b - pa l)) ∧
        ∀ b, unwritten lanes covers b → t.coreByte s.run.core b = s.coreByte s.run.core b) ∧
    ((Instr.sst sz hint ord sco r a off).wf = true → inPage s .wr (s.run.pos a + off.signExtend 64) n (pa 0) →
      Runs (.sst sz hint ord sco r a off) s fun t => rest t ∧ t.run.took = s.run.took ∧ t.run.relFence = s.run.relFence ∧
        ∀ b, t.coreByte s.run.core b = if covers 0 b then (s.run.pos (.s r)).extractLsb' (8 * (b - pa 0)) 8 else s.coreByte s.run.core b)) ∧
  (
  ∀ (s : State) (sz : Sz) (hint : Hint) (ord : MOrd) (sco : Scope) (off : BitVec 16) (r : SReg) (a : SPos) (pa : Nat),
    s.memOk → s.run.kind ≠ .compute → s.grid? s.run.grid = none → (Instr.sst sz hint ord sco r a off).wf = true →
    inPage s .wr (s.run.pos a + off.signExtend 64) sz.bytes pa →
    Runs (.sst sz hint ord sco r a off) s fun t =>
      (∀ b, (∀ k c, (k, c) ∈ s.ctxs → c.logs = true → b < c.logBase ∨ c.logBase + 80 ≤ b) → Memory.get t.mem b =
        if pa ≤ b ∧ b < pa + sz.bytes then (s.run.pos (.s r)).extractLsb' (8 * (b - pa)) 8 else Memory.get s.mem b) ∧
      t.spad = s.spad ∧ cachesOnly s { t with mem := s.mem } ∧ t.run = { s.run with word := s.run.word + 1 })

/-- The bytes of scratchpad, by the formed address (log entry 106): core 31 names the own team's window, cores 0 to 23 a resident team's window
of the accessor's partition; every other address is no byte (R197, R199).
LDS gives the bytes of scratchpad that its addresses name; STS writes them, the highest active lane last, and leaves every other byte of
scratchpad and all of memory alone. The write generation of a window it writes rises (R87, R199, R212, R234, R240, R241). -/
def Obligations.ScratchpadAccesses : Prop :=
  (
  ∀ (s : State) (a : Nat), let g := s.run
    let off := a % 2 ^ 19
    (2 ^ 24 ≤ a → s.spadByte g a = none) ∧
    (a < 2 ^ 24 → a / 2 ^ 19 = 31 → g.kind = .compute → ∀ t, s.team? g.teamKey = some t →
      (off < 1024 * t.winRows → s.spadByte g a = some (2 ^ 24 * g.cluster + 2 ^ 19 * (g.core % 24) + t.winBase + off, g.teamKey)) ∧
      (1024 * t.winRows ≤ off → s.spadByte g a = none)) ∧
    (a < 2 ^ 24 → a / 2 ^ 19 = 31 → g.kind ≠ .compute → s.spadByte g a = none) ∧
    (24 ≤ a / 2 ^ 19 → a / 2 ^ 19 < 31 → s.spadByte g a = none) ∧
    (a / 2 ^ 19 < 24 → g.kind = .compute → ∀ k,
      let core := 24 * g.cluster + a / 2 ^ 19
      let lies := fun t : Team => t.at' = .resident ∧ t.core = core ∧ t.winBase ≤ off ∧ off < t.winBase + 1024 * t.winRows ∧
        ∃ x, s.grid? t.grid = some x ∧ x.part = g.part
      (s.spadByte g a = some (2 ^ 24 * g.cluster + a, k) → ∃ t, (k, t) ∈ s.teams ∧ lies t) ∧
      ((∀ p, p ∈ s.teams → ¬ lies p.2) → s.spadByte g a = none))) ∧
  (
  ∀ (s : State) (sz : Sz) (sx : Bool) (ord : MOrd) (sco : Scope) (d : RegNo) (base : Base) (off : BitVec 16) (ks : Nat → List (Nat × Nat)),
    s.memOk → let n := sz.bytes
    (∀ l, l < 32 → s.run.em.getLsbD l = true → s.spadBytes s.run (s.run.addr false base (off.signExtend 64) l) n = some (ks l)) →
    let covers := fun l b : Nat => b ∈ (ks l).map (·.1)
    (Ready s (.lds sz sx ord sco d base off) →
      s.loadHit (s.loadKeys (.lds sz sx ord sco d base off) d sz.regs ((s.team? s.run.teamKey).elim 0 (·.winGen))) = none →
      Runs (.lds sz sx ord sco d base off) s fun t => ∃ vals keys,
        issued s t ⟨s.nextId, .vec d s.run.em vals, s.run.sets.1, s.run.sets.2, none, keys, s.run.wordAddr⟩ ∧ vals.length = sz.regs ∧
        (∀ l, l < 32 → s.run.em.getLsbD l = true →
          lanesHold vals l (loaded sx n 32 (leNat ((ks l).map fun k => Memory.get s.spad k.1)))) ∧ cachesOnly s t ∧ sameBytes s t ∧
        fenceBehind s t ord sco) ∧
    (Ready s (.sts sz ord sco d base off) → (∀ l, l < 32 → ((ks l).map (·.1)).Nodup) → Runs (.sts sz ord sco d base off) s fun t =>
      (∀ l j, (h : j < (ks l).length) → writes s.run.em covers l (ks l)[j].1 → Memory.get t.spad (ks l)[j].1 = dataByte s.run d l j) ∧
      (∀ b, unwritten s.run.em covers b → Memory.get t.spad b = Memory.get s.spad b) ∧
      ∃ u, raised s u (fun k => ∃ l p, l < 32 ∧ s.run.em.getLsbD l = true ∧ p ∈ ks l ∧ p.2 = k) ∧
        t = { u with
          run := { s.run with word := s.run.word + 1, relFence := t.run.relFence }, cores := t.cores, agentCyc := t.agentCyc, spad := t.spad } ∧
        fenceBehind s t ord sco ∧ u.charged t (s.run.memCyc sz)))

/-- ATOM, and ATMF `.add`, `.min` and `.max`: each active lane that has not performed yet reads the old value, which D receives, and writes
the function's new value, in ascending lane order; no other byte changes, and the operation is outstanding, in a grid that neither logs its
writes nor records its atomics (R234, R235, R243-R245).
The exact forms of ATMF add each lane's value to the cell of its location at its home slice, which the grid's first such atomic opens
with the location's value as its base, also where another grid holds a cell there (log entry 88); memory is as before. A grid launched without
EXACT takes ILLENC (R126, R229, R246). -/
def Obligations.AtomicsReadModifyWrite : Prop :=
  (
  ∀ (s : State) (fn : AtomFn) (fl : AtmfFn) (wide : Bool) (hint : Hint) (ord : MOrd) (sco : Scope) (prm : Bool) (d : RegNo)
    (base : ABase) (b : RegNo) (off : BitVec 12) (pa : Nat → Nat) (ks : Nat → List (Nat × Nat)),
    (∀ x, s.grid? s.run.grid = some x → x.log = false ∧ x.recAtom = false) →
    let n := if wide then 8 else 4
    let lanes := s.run.em &&& ~~~s.run.doneMask
    let val := fun (r : RegNo) (l : Nat) => if wide then (s.run.lane64 r.toNat l).toNat else (lane (s.run.reg r.toNat) l).toNat
    let int := fun l old : Nat => (atomic fn (BitVec.ofNat (8 * n) old) (BitVec.ofNat (8 * n) (val b l)) (BitVec.ofNat (8 * n) (val d l))).toNat
    let q := if wide then fmtF64 else fmtF32
    let flt := fun l old : Nat => match fl with
      | .add => (sumOf q .rne false 0 (q.read old) (q.read (val b l))).1
      | .min => (q.minmax .min old (val b l)).1
      | _ => (q.minmax .max old (val b l)).1
    let bytes := fun l => (List.range n).map (pa l + ·)
    let outstanding := fun (t : State) (olds : List (Nat × Nat)) => ∃ vals,
      issued s t ⟨s.nextId, .vec d lanes vals, s.run.sets.1, s.run.sets.2, none, [], s.run.wordAddr⟩ ∧ vals.length = (if wide then 2 else 1) ∧
      ∀ l x, (l, x) ∈ olds → lanesHold vals l x
    let global := fun (t : State) (f : Nat → Nat → Nat) =>
      let r := rmwAll n bytes f s.mem (activeLanes lanes)
      t.mem = r.1 ∧ t.spad = s.spad ∧ cachesOnly s { t with mem := s.mem } ∧ (∀ k, (t.core k).buf = (s.core k).buf) ∧ outstanding t r.2
    let ready := fun l => (s.run.aaddr true base (off.signExtend 64) l).toNat % n = 0 ∧
      inPage s .wr (s.run.aaddr true base (off.signExtend 64) l) n (pa l)
    ((∀ l, l < 32 → lanes.getLsbD l = true → ready l ∧ offHeaders s (pa l) n) →
      (Ready s (.atom fn wide false hint ord sco prm d base b off) →
        Runs (.atom fn wide false hint ord sco prm d base b off) s fun t => global t int) ∧
      (Ready s (.atmf fl (if wide then .b8 else .b4) hint ord sco prm d base b off) → fl ≠ .exact → fl ≠ .exactb →
        Runs (.atmf fl (if wide then .b8 else .b4) hint ord sco prm d base b off) s fun t => global t flt)) ∧
    (Ready s (.atom fn wide true hint ord sco prm d base b off) → (∀ l, l < 32 → lanes.getLsbD l = true →
        (s.run.aaddr false base (off.signExtend 64) l).toNat % n = 0 ∧
        s.spadBytes s.run (s.run.aaddr false base (off.signExtend 64) l) n = some (ks l)) →
      Runs (.atom fn wide true hint ord sco prm d base b off) s fun t =>
        let r := rmwAll n (fun l => (ks l).map (·.1)) int s.spad (activeLanes lanes)
        t.mem = s.mem ∧ t.spad = r.1 ∧ t = { s with
          run := t.run, cores := t.cores, agentCyc := t.agentCyc, spad := t.spad, teams := t.teams, nextId := t.nextId } ∧
        ∃ vals, issued s t ⟨t.nextId - 1, .vec d lanes vals, s.run.sets.1, s.run.sets.2, none, [], s.run.wordAddr⟩ ∧
          vals.length = (if wide then 2 else 1) ∧ ∀ l x, (l, x) ∈ r.2 → lanesHold vals l x)) ∧
  (
  ∀ (s : State) (half bf : Bool) (hint : Hint) (ord : MOrd) (sco : Scope) (prm : Bool) (d : RegNo) (base : ABase) (b : RegNo)
    (off : BitVec 12) (pa : Nat → Nat) (x : Grid),
    let fn : AtmfFn := if bf then .exactb else .exact
    let sz : Sz := if bf || half then .b2 else .b4
    let i := Instr.atmf fn sz hint ord sco prm d base b off
    let n := sz.bytes
    let q := if bf then fmtBF16 else if half then fmtF16 else fmtF32
    let ty : Ty := if bf then .bf16x2 else if half then .f16x2 else .f32
    let lanes := s.run.em &&& ~~~s.run.doneMask
    let operand := fun l : Nat => q.read ((lane (s.run.reg b.toNat) l).toNat % 2 ^ (8 * n))
    let feed := fun (cells : List Cell) (l : Nat) =>
      match cells.find? fun c => c.loc == pa l && c.grid == s.run.grid with
      | some c => cells.map fun y => if y = c then { c with acc := added c.acc [operand l] } else y
      | none => cells ++ [⟨pa l, ty, added ⟨0, 0⟩ [operand l], BitVec.ofNat 32 (leNat (Memory.read s.mem (pa l) n)), s.run.grid⟩]
    Ready s i → s.grid? s.run.grid = some x →
    (x.exact = false → exec i s = .next (s.faultExact 0x02)) ∧
    (x.exact = true → (∀ k, (s.slice k).cells.length ≤ 224) →
      (∀ k c, c ∈ (s.slice k).cells → c.grid = s.run.grid → (∃ l, l < 32 ∧ lanes.getLsbD l = true ∧ c.loc = pa l) → c.fmt = ty) →
      (∀ l, l < 32 → lanes.getLsbD l = true → (s.run.aaddr true base (off.signExtend 64) l).toNat % n = 0 ∧
        inPage s .wr (s.run.aaddr true base (off.signExtend 64) l) n (pa l)) →
      Runs i s fun t => issued s t ⟨s.nextId, .none, s.run.sets.1, s.run.sets.2, none, [], s.run.wordAddr⟩ ∧ sameBytes s t ∧
        cachesOnly s { t with slices := s.slices } ∧
        ∀ k, t.slice k = { s.slice k with
          cells := ((activeLanes lanes).filter fun l => homeSlice (pa l) == k).foldl feed (s.slice k).cells
          lines := (t.slice k).lines, sharers := (t.slice k).sharers, ctrs := (t.slice k).ctrs }))

/-- A memory instruction whose access fails takes that access's fault, with its address: PAGE or ACCESS where it cannot be translated or
placed, ALIGN for a misaligned atomic, SCRBND outside scratchpad; when no lane has performed, nothing else changes (R194, R199, R237). -/
def Obligations.FailedAccessesFault : Prop :=
  ∀ (s s1 : State) (sz : Sz) (hint : Hint) (sx prm wide spad : Bool) (ord : MOrd) (sco : Scope) (d : RegNo) (base : Base) (ab : ABase)
    (b : RegNo) (off : BitVec 16) (o12 : BitVec 12) (r : SReg) (a : SPos) (fn : AtomFn) (l : Nat) (e : Fail),
    let va := s.run.pos a + off.signExtend 64
    let first := fun em : Lane => l < 32 ∧ em.getLsbD l = true ∧ ∀ k, k < l → em.getLsbD k = false
    let global := s.run.addr true base (off.signExtend 64) l
    let scratch := s.run.addr false base (off.signExtend 64) l
    let at_ := s.run.aaddr (!spad) ab (o12.signExtend 64) l
    (s.locate va sz.bytes .rd = (s1, .error e) →
      exec (.sld sz sx hint ord sco prm r a off) s = .next (s1.faultExact e.cause e.addr e.info)) ∧
    (s.locate va sz.bytes .wr = (s1, .error e) →
      exec (.sst sz hint ord sco r a off) s = .next (s1.faultExact e.cause e.addr e.info)) ∧
    (s.locate va sz.bytes .rd = (s1, .error e) ∨ s.locate va sz.bytes .wr = (s1, .error e) →
      (e.cause = 0x10 ∨ e.cause = 0x11 ∨ e.cause = 0x12) ∧ (e.addr = va.toNat ∨ e.addr = va.toNat + (4096 - va.toNat % 4096))) ∧
    (first s.run.em → Ready s (.ld sz hint false sx prm ord sco d base off) → s.locate global sz.bytes .rd = (s1, .error e) →
      exec (.ld sz hint false sx prm ord sco d base off) s = .next (s1.faultExact e.cause e.addr e.info)) ∧
    (first s.run.em → Ready s (.st sz hint ord sco d base off) → s.locate global sz.bytes .wr = (s1, .error e) →
      exec (.st sz hint ord sco d base off) s = .next (s1.faultExact e.cause e.addr e.info)) ∧
    (first s.run.em → Ready s (.sts sz ord sco d base off) → s.spadBytes s.run scratch sz.bytes = none →
      exec (.sts sz ord sco d base off) s = .next (s.faultExact 0x13 scratch.toNat)) ∧
    (first (s.run.em &&& ~~~s.run.doneMask) → Ready s (.atom fn wide spad hint ord sco prm d ab b o12) →
      at_.toNat % (if wide then 8 else 4) ≠ 0 →
      exec (.atom fn wide spad hint ord sco prm d ab b o12) s = .next (s.faultExact 0x12 at_.toNat 0 s.run.doneMask))

/-- FENCE, PRF and CMNT change no value that an access reads and no register, and a release fence of core scope is then behind the group;
FENCE.flushx waits for the grid's cells to be rounded (R219, R229, R247-R249). -/
def Obligations.FencesAndHintsKeepValues : Prop :=
  ∀ (s : State) (ord : MOrd) (sco : Scope) (hint : Hint) (fn : CmntFn) (base : Base) (off : BitVec 16) (o12 : BitVec 12),
    Runs (.fence ord sco) s (fun t =>
      becomes s t { s.run with relFence := s.run.relFence || (ord.releases && sco == .core) } 1) ∧
    Runs .fenceFlushx s (fun t => t.run = { s.run with wait := .flushx } ∧ s.onlyGroup t 1) ∧
    (Ready s (.prf hint base off) → Runs (.prf hint base off) s fun t =>
      cachesOnly s t ∧ sameBytes s t ∧ t.run = { s.run with word := s.run.word + 1 }) ∧
    (Ready s (.cmnt fn base o12) → Runs (.cmnt fn base o12) s fun t =>
      cachesOnly s t ∧ sameBytes s t ∧ t.run = { s.run with word := s.run.word + 1 })

/-- FQPUT publishes one entry, bytes 32t to 32t+31 from active lane t and zeros elsewhere, or waits at a full FIFO; FQGET is outstanding
until it is matched. A bank that is no stable FIFO of the partition gives FIFOERR, and FQGET of one that feeds a matrix engine too
(R250-R252).
BANK asks for a mode of a bank of the issuer's cluster and writes what became of the request; `bank.q` writes the bank's mode, its
state and whether the issuer's partition owns it (R201, R202, R253). -/
def Obligations.FifosAndBanks : Prop :=
  (
  ∀ (s : State) (d : RegNo) (a : SPos) (n : Nat) (e : BitVec 8192), n = (s.run.pos a).toNat →
    let k := s.run.cluster
    let b := s.bank k n
    let ok := n < 48 ∧ b.mode = .fifo ∧ b.st = .stable ∧ b.owner = s.run.part
    (∀ l j, l < 32 → j < 32 → e.extractLsb' (256 * l + 8 * j) 8 = if s.run.em.getLsbD l then dataByte s.run d l j else 0) →
    (Ready s (.fqput d a) → ok → Runs (.fqput d a) s fun t =>
      (b.entries.length < 128 → (t.bank k n) = { b with entries := b.entries ++ [e] } ∧ t.run = { s.run with word := s.run.word + 1 }) ∧
      (128 ≤ b.entries.length → t.bank k n = b ∧ t.run = { s.run with wait := .fqput k n e }) ∧
      (∀ j m, j ≠ k ∨ m ≠ n → t.bank j m = s.bank j m) ∧ (∀ j, t.cluster j = { s.cluster j with banks := (t.cluster j).banks }) ∧
      (∀ j, t.mx j = { s.mx j with table := (t.mx j).table, order := (t.mx j).order } ∧
        (t.mx j).table.map entryBare = (s.mx j).table.map entryBare) ∧
      t = { s with
        run := t.run, cores := t.cores, agentCyc := t.agentCyc, clusters := t.clusters, teams := t.teams, grids := t.grids
        matrix := t.matrix, nextId := t.nextId }) ∧
    (Ready s (.fqput d a) → ¬ ok → exec (.fqput d a) s = .next (s.faultExact 0x14)) ∧
    (Ready s (.fqget d a) → ok → s.fifoBound k n = false → Runs (.fqget d a) s fun t =>
      issued s t ⟨s.nextId, .vec d s.run.em (List.replicate 8 0), s.run.sets.1, s.run.sets.2, some (k, n), [], s.run.wordAddr⟩ ∧
      t = { s with run := t.run, cores := t.cores, agentCyc := t.agentCyc, grids := t.grids, nextId := s.nextId + 1 }) ∧
    (Ready s (.fqget d a) → ¬ ok ∨ s.fifoBound k n = true → exec (.fqget d a) s = .next (s.faultExact 0x14))) ∧
  (
  ∀ (s : State) (m : BankMode) (d : SReg) (b : SPos) (nr : Bool),
    let k := s.run.cluster
    let n := (s.run.pos b).toNat
    let x := s.bank k n
    let asks := fun (v : Word) (st : BankSt) => Runs (.bankRequest m d b nr) s fun t =>
      s.scalarStep { t with clusters := s.clusters } (.s d) v ∧ t.bank k n = { x with st := st } ∧
      (∀ j i, j ≠ k ∨ i ≠ n → t.bank j i = s.bank j i) ∧ ∀ j, t.cluster j = { s.cluster j with banks := (t.cluster j).banks }
    (48 ≤ n ∨ x.owner ≠ s.run.part → asks 3 x.st) ∧
    (n < 48 → x.owner = s.run.part →
      (x.st = .stable → x.mode = m → asks 1 .stable) ∧ (x.st = .stable → x.mode ≠ m → asks 0 (.pending m false)) ∧
      (∀ u v, x.st = .pending u v → (x.mode = m → asks 0 .stable) ∧ (x.mode ≠ m → asks 0 (.pending m false))) ∧
      ∀ u v, x.st = .convert u v → asks 2 (.convert u (some m))) ∧
    (48 ≤ n → Runs (.bankQuery d b nr) s fun t => s.scalarStep t (.s d) (BitVec.allOnes 64)) ∧
    (n < 48 → Runs (.bankQuery d b nr) s fun t => ∃ v, s.scalarStep t (.s d) v ∧
      v.extractLsb' 5 59 = 0 ∧ (v.getLsbD 4 = true ↔ x.owner = s.run.part) ∧
      v.extractLsb' 0 2 = (match x.mode with
        | .cache => 0
        | .spad => 1
        | .fifo => 2) ∧
      v.extractLsb' 2 2 = match x.st with
        | .stable => 0
        | .pending .. => 1
        | .convert .. => 2))

/-! ## Barriers, sleeping, markers, balance requests and debug (R254-R258, R268, R288, R302, R303, R357, R358, R366, R371) -/

/-- BAR and BARV arrive at a named barrier, with the count given or the team's group count; the arrival that makes the expected count
completes the phase and releases every group that waits on it, BAR waits for the phase otherwise, and BARW waits for the current phase
without arriving. A count of 0 or above the group count gives ILLENC (R254, R255).
WMARK of a COOP grid arrives at the grid's marker and waits; in any other grid it faults with ILLENC, and where the group holds a tile
grant with MATFAULT (R267, R268). -/
def Obligations.BarriersAndWatermarks : Prop :=
  (
  ∀ (s : State) (n : BitVec 4) (cnt : Option SPos) (nr : Bool) (t : Team),
    s.team? s.run.teamKey = some t → s.run.wait = .none →
    let key := s.run.teamKey
    let c := match cnt with
      | some p => (s.run.pos p).toNat % 64
      | none => s.teamGroups
    let b := t.bars[n.toNat]
    let e := b.expect.getD c
    let last := b.arrivals + 1 = e
    let next : Barrier := if last then ⟨0, none, b.phase + 1⟩ else ⟨b.arrivals + 1, some e, b.phase⟩
    let after := fun u : State =>
      u.team? key = some { t with bars := t.bars.set n.toNat next } ∧
      (∀ k, k ≠ key → u.team? k = s.team? k) ∧
      (∀ k g, Tbl.find s.groups k = some g → Tbl.find u.groups k =
        some (if last ∧ g.kind = .compute ∧ g.teamKey = key ∧ g.wait = .bar n.toNat b.phase
          then { g with wait := .none, word := g.word + 1 } else g)) ∧
      u = { s with run := u.run, groups := u.groups, cores := u.cores, agentCyc := u.agentCyc, teams := u.teams } ∧ s.charged u 1
    (c = 0 ∨ s.teamGroups < c → exec (.bar n cnt nr) s = .next (s.faultExact 0x02) ∧ exec (.barv n cnt nr) s = .next (s.faultExact 0x02)) ∧
    (0 < c → c ≤ s.teamGroups →
      Runs (.bar n cnt nr) s (fun u => after u ∧
        u.run = if last then { s.run with word := s.run.word + 1 } else { s.run with wait := .bar n.toNat b.phase }) ∧
      Runs (.barv n cnt nr) s fun u => after u ∧ u.run = { s.run with word := s.run.word + 1 }) ∧
    Runs (.barw n nr) s fun u => u.run = { s.run with wait := .bar n.toNat b.phase } ∧ s.onlyGroup u 1) ∧
  (
  ∀ (s : State) (d : SReg) (nr : Bool) (x : Grid), s.run.kind = .compute → s.grid? s.run.grid = some x →
    (x.coop = false → exec (.wmark d nr) s = .next (s.faultExact 0x02)) ∧
    (x.coop = true → (s.grantOf s.run.gid).isSome = true → exec (.wmark d nr) s = .next (s.faultExact 0x43)) ∧
    (x.coop = true → s.grantOf s.run.gid = none → Runs (.wmark d nr) s fun t =>
      t.run = { s.run with wait := .wmark d } ∧ t.grid? s.run.grid = some { x with marked := x.marked ++ [s.run.gid] } ∧
      (∀ k, k ≠ s.run.grid → t.grid? k = s.grid? k) ∧
        t = { s with run := t.run, cores := t.cores, agentCyc := t.agentCyc, grids := t.grids } ∧ s.charged t 1))

/-- EVWT reads its location once: where the value meets the condition the group goes on with it in `sd`, and otherwise it sleeps, until its
timeout where one is given. A misaligned address gives ALIGN, and one that is no device memory ACCESS (R233, R237, R256).
EVPS posts a record of KIND 2 to a cluster's queue and writes its CSEQ, or sleeps until there is room behind the records that wait for it;
EQRD removes the oldest record, reads the lost count of an empty queue and clears it, or sleeps with `.wait`. The accesses that R302 and R303
forbid give ACCESS (R288-R291, R302, R303). The queue and the SRC of a scheduler core are those of cluster 0 or 8 (log entry 97). -/
def Obligations.EventWaitsAndQueues : Prop :=
  (
  ∀ (s : State) (eq wide spad prm : Bool) (ord : MOrd) (sco : Scope) (d : SReg) (a b : SPos) (timeout : BitVec 16) (pa : Nat),
    let i := Instr.evwt eq wide spad ord sco prm d a b timeout
    let n := if wide then 8 else 4
    let va := s.run.pos a
    let deadline := if timeout = 0 then none else some (s.time + 1000 * timeout.toNat)
    let outcome := fun x : Nat =>
      let meets := if eq then x = (s.run.pos b).toNat % 2 ^ (8 * n) else x ≠ (s.run.pos b).toNat % 2 ^ (8 * n)
      Runs i s fun t => cachesOnly s t ∧ sameBytes s t ∧
        (meets → t.run = { s.run with s := s.run.s.set d.toNat (BitVec.ofNat 64 x), wait := .none, word := s.run.word + 1 }) ∧
        (¬ meets → t.run = { s.run with wait := .evwt eq wide spad prm va (s.run.pos b) d (BitVec.ofNat 64 x) deadline false })
    (va.toNat % n ≠ 0 → exec i s = .next (s.faultExact 0x12 va.toNat)) ∧
    (va.toNat % n = 0 → spad = false → inPage s .rd va n pa →
      outcome (leNat ((List.range n).map fun j => byteOf s (pa + j)))) ∧
    (va.toNat % n = 0 → spad = true → ∀ k key, s.spadByte s.run va.toNat = some (pa, key) →
      s.spadByte s.run (va.toNat + n - 1) = some k → outcome (leNat (Memory.read s.spad pa n))) ∧
    (va.toNat % n = 0 → spad = true → s.spadByte s.run va.toNat = none → exec i s = .next (s.faultExact 0x13 va.toNat)) ∧
    (va.toNat % n = 0 → spad = false → ∀ s1 p, s.locate1 va n .rd = (s1, .ok p) → (∀ q, p = .mem q → region q ≠ .dev) →
      exec i s = .next (s1.faultExact 0x11 va.toNat))) ∧
  (
  ∀ (s : State) (d : SReg) (a b c : SPos) (tag : BitVec 16),
    let g := s.run
    let home := homeCluster g
    let dst := (g.pos a).toNat % 16
    let may := s.isSup g = true ∨ (dst = home ∧ (g.pos a).toNat < 16)
    let q := s.cluster dst
    let mine := s.cluster home
    let room := q.queueRoom = true ∧ ¬ recordsWait s dst
    let reads := g.kind ≠ .compute ∨ s.isSup g = true
    let only := fun (t : State) (k : Nat) =>
      t = { s with run := t.run, cores := t.cores, agentCyc := t.agentCyc, clusters := t.clusters } ∧ s.charged t 1 ∧
        ∀ j, j ≠ k → t.cluster j = s.cluster j
    let pair := fun (t : State) (lo hi : Word) => t.run = { g with s := (g.s.set d.toNat lo).set (d + 1).toNat hi, word := g.word + 1 }
    let takes := fun (t : State) => ∀ r rest, mine.queue = r :: rest →
      only t home ∧ t.cluster home = { mine with queue := rest } ∧ pair t (r.extractLsb' 0 64) (r.extractLsb' 64 64)
    (¬ may → exec (.evps d a b c tag) s = .next (s.faultExact 0x11)) ∧
    (may → room → Runs (.evps d a b c tag) s fun t => ∃ r, only t dst ∧
      (t.cluster dst).queue = q.queue ++ [r] ∧ t.run = { g with s := g.s.set d.toNat (BitVec.ofNat 64 q.cseq), word := g.word + 1 } ∧
      r.extractLsb' 0 32 = BitVec.ofNat 32 q.cseq ∧ r.extractLsb' 32 8 = (g.pos c).extractLsb' 0 8 ∧ r.extractLsb' 40 4 = 2 ∧
      r.extractLsb' 44 8 = BitVec.ofNat 8 (0x80 + home) ∧ r.extractLsb' 52 12 = BitVec.ofNat 12 (s.launchOf g).1 ∧
      r.extractLsb' 64 32 = (g.pos b).extractLsb' 0 32 ∧ r.extractLsb' 96 32 = tag.setWidth 32) ∧
    (may → ¬ room → Runs (.evps d a b c tag) s fun t => s.onlyGroup t 1 ∧ ∃ r, t.run = { g with wait := .evps dst d r }) ∧
    (¬ reads → exec (.eqrd d tag) s = .next (s.faultExact 0x11) ∧ exec (.eqrdWait d tag) s = .next (s.faultExact 0x11)) ∧
    (reads → mine.queue ≠ [] → Runs (.eqrd d tag) s takes ∧ Runs (.eqrdWait d tag) s takes) ∧
    (reads → mine.queue = [] → Runs (.eqrd d tag) s (fun t => only t home ∧ t.cluster home = { mine with lost := 0 } ∧
        pair t 0 (BitVec.ofNat 64 (mine.lost % 2 ^ 32 * 2 ^ 32))) ∧
      Runs (.eqrdWait d tag) s fun t => t.run = { g with wait := .eqrd d } ∧ s.onlyGroup t 1))

/-- NAP sleeps until its absolute deadline, and `nap 0` goes on; the four BAL forms set or cancel the group's request, clamped, or the
team's ceiling (R258, R357, R358).
DBRK records its code for a stop at the end of the clause, unless a cause stands (log entry 35); SNAP writes whether a snapshot latched and
GEN, and latches where the context may and ARM = 1; one in the tick of the latest snapshot joins it, as log entry 65 says (R366, R371). -/
def Obligations.NapBalanceBreakAndSnap : Prop :=
  (
  ∀ (s : State) (x : TOp),
    let v := match x with
      | .imm n => n.toNat
      | .pos p => (s.run.pos p).toNat % 2 ^ 32
    let amt := v / 2 ^ 20
    let k := v % 2 ^ 20
    let req := fun (a : Nat) (r : Option BalReq) => r = if k = 0 then none else some ⟨a, 1000 * k⟩
    (v = 0 → Runs (.nap x) s fun t => becomes s t { s.run with yielded := true } 1) ∧
    (v ≠ 0 → Runs (.nap x) s fun t => t.run = { s.run with wait := .nap (s.time + v) } ∧ s.onlyGroup t 1) ∧
    Runs (.balBurn x) s (fun t => req (min 32 amt) t.run.burn ∧ becomes s t { s.run with burn := t.run.burn } 1) ∧
    Runs (.balShunt x) s (fun t => req (min 400 amt) t.run.shunt ∧ becomes s t { s.run with shunt := t.run.shunt } 1) ∧
    Runs (.balMatch x) s (fun t => req 0 t.run.match_ ∧ becomes s t { s.run with match_ := t.run.match_ } 1) ∧
    Runs (.balCeil x) s fun t => t.run = { s.run with word := s.run.word + 1 } ∧
      t = { s with run := t.run, cores := t.cores, agentCyc := t.agentCyc, teams := t.teams } ∧ s.charged t 1 ∧
      (∀ key, key ≠ s.run.teamKey → t.team? key = s.team? key) ∧
      ∀ team, s.team? s.run.teamKey = some team → t.team? s.run.teamKey = some { team with ceil := max 1 (min 32 amt) }) ∧
  (
  ∀ (s : State) (code : BitVec 8) (d : SReg) (nr : Bool),
    let allowed := s.isSup s.run = true ∨ (s.desc s.run.part s.run.ctx)[10].getLsbD 50 = true
    let n := s.dev.snap
    let answers := fun (t : State) (status : Nat) (gen : BitVec 32) =>
      t.run.s = s.run.s.set d.toNat (gen ++ BitVec.ofNat 32 status) ∧ t.run = { s.run with s := t.run.s, word := s.run.word + 1 } ∧
      t = { s with run := t.run, cores := t.cores, agentCyc := t.agentCyc, dev := t.dev } ∧ s.charged t 1
    Runs (.dbrk code nr) s (fun t => becomes s t { s.run with pend := some (s.run.pend.getD (.brk code.toNat)) } 1) ∧
    (¬ allowed → Runs (.snap d nr) s fun t => answers t 2 n.gen ∧ t.dev = s.dev) ∧
    (allowed → n.arm = false → s.dev.snapAt ≠ some s.time → Runs (.snap d nr) s fun t => answers t 1 n.gen ∧ t.dev = s.dev) ∧
    (allowed → n.arm = false → s.dev.snapAt = some s.time → Runs (.snap d nr) s fun t => answers t 0 n.gen ∧
      t.dev = { s.dev with snap := { n with cause := n.cause ||| 1 } }) ∧
    (allowed → n.arm = true → Runs (.snap d nr) s fun t => answers t 0 (n.gen + 1) ∧
      t.dev.snap = { n with gen := n.gen + 1, cause := 1, arm := false } ∧
        t.dev = { s.dev with snap := t.dev.snap, snapRegs := t.dev.snapRegs, snapAt := some s.time }))

/-! ## The matrix engine (R305-R324) -/

/-- The matrix instructions post their requests: where the group holds a grant that no fault has marked and their operands pass the checks,
each is the youngest entry of the engine of its hob, and the group goes on; one that is to write scratchpad raises the generations of its
windows at once (R87, R306, R311, R316-R323).
What the engine does not take gives MATFAULT, exactly: no grant, a tile beyond it, a faulted grant with its cause and address; MREL, MDRN
and MFIL work with a faulted one. A misaligned address gives MATFAULT, and a range outside scratchpad SCRBND (R314, R316, R321, R322). -/
def Obligations.MatrixRequestsPostOrFault : Prop :=
  (
  ∀ (s : State) (fa : FA) (a : RegNo) (keep hold spad latch sat pin : Bool) (slot : BitVec 2) (tile : BitVec 4) (x c sid : SReg)
    (n : MCnt) (r : Grant), s.grantOf s.run.gid = some r →
    let g := s.run
    let k := tile.toNat
    let b := g.s[x.toNat]
    let w := g.s[c.toNat]
    let id := g.s[sid.toNat]
    let count := match n with
      | .imm v => v.toNat
      | .pos p => (g.pos p).toNat
    let inScratch := fun (addr stride len rows : Nat) =>
      ∀ i, i < rows → (s.spadBytes g (BitVec.ofNat 64 (addr + i * stride)) len).isSome = true
    let lifts := fun (spad : Bool) (addr stride len rows : Nat) (u : State) => (spad = false → u = s) ∧
      raised s u fun k => spad = true ∧ ∃ i ks p, i < rows ∧ s.spadBytes g (BitVec.ofNat 64 (addr + i * stride)) len = some ks ∧ p ∈ ks ∧ p.2 = k
    let stepsOk := fun (m : Nat) (inc : Word) =>
      (g.latchIssue = some (some fa) ∨ g.latchIssue = some none) ∧
      inc.extractLsb' 48 16 = 0 ∧ inc.extractLsb' 37 3 = 0 ∧ id.extractLsb' 48 16 = 0 ∧
      (∀ i, i < m → k + (if inc.getLsbD 36 then ((inc.extractLsb' 32 2).toNat + i * (inc.extractLsb' 34 2).toNat) / 4 else 0) < r.tiles.length) ∧
      (b.getLsbD 63 = true → b.extractLsb' 6 57 = 0 ∧ s.fifoOk g.cluster g.part ((b.extractLsb' 0 6).setWidth 64) = true ∧
        s.boundElsewhere g.cluster (b.extractLsb' 0 6).toNat g.mxEngine = false) ∧
      (b.getLsbD 63 = false → b.extractLsb' 24 39 = 0 ∧ b.extractLsb' 0 7 = 0 ∧ inc.extractLsb' 0 7 = 0 ∧
        ∀ i, i < m → s.blockOk g (b.toNat + i * (inc.extractLsb' 0 32).toInt) = true)
    (Ready s (.mlda fa a) → r.fault = none → r.tiles ≠ [] → Runs (.mlda fa a) s fun t => ∃ rows scales,
      posted s t (.mlda fa rows scales) true false none (some (some fa)) 34 ∧
      (∀ i, i < 32 → rows.extractLsb' (1024 * i) 1024 = g.reg (a.toNat + i)) ∧
      ∀ i, i < 2 → scales.extractLsb' (1024 * i) 1024 = g.reg (a.toNat + 32 + i)) ∧
    (let inc := w &&& 0x300000000
     r.fault = none → k < r.tiles.length → w.extractLsb' 48 16 = 0 → w.extractLsb' 37 3 = 0 → (b.getLsbD 63 = false → w.extractLsb' 0 7 = 0) →
      stepsOk 1 inc →
      Runs (.mma fa keep tile x c sid) s fun t =>
        posted s t (.mma fa keep k b 1 inc id 0) true false none (if keep then g.latchIssue else none) 1) ∧
    (r.fault = none → k < r.tiles.length → count < 4096 → stepsOk count w →
      (hold = true → s.slotCount g.teamKey slot.toNat < 64) →
      Runs (.mmal fa keep hold slot tile x n c sid) s fun t =>
        posted s t (.mma fa keep k b count w id 0) true false (if hold then some slot.toNat else none)
          (if keep = true ∨ count = 0 ∧ hold = false then g.latchIssue else none) 1) ∧
    (k < r.tiles.length → b.toNat % 128 = 0 → (spad = true → inScratch b.toNat 32 32 (if latch then 137 else 512)) →
      Runs (.mdrn spad latch tile x) s (fun t => ∃ u, lifts spad b.toNat 32 32 (if latch then 137 else 512) u ∧
        posted u t (.mdrn spad latch k b) true true none g.latchIssue 1) ∧
      Runs (.mfil spad latch tile x) s fun t =>
        posted s t (.mfil spad latch k b) true true none (if latch then some none else g.latchIssue) 1) ∧
    (r.fault = none → k < r.tiles.length → Runs (.mzro tile) s fun t => posted s t (.mzro k) false true none g.latchIssue 1) ∧
    (let size := match fa with
      | .bf16 | .f16 => 2
      | .f32 => 4
      | _ => 1
     let stride := (w.extractLsb' 32 32).toNat
     r.fault = none → k < r.tiles.length → b.toNat % 32 = 0 → stride % 32 = 0 → 64 * size ≤ stride →
      (spad = true → inScratch b.toNat stride (64 * size) 64) →
      Runs (.msts fa sat spad tile x c) s fun t => ∃ u, lifts spad b.toNat stride (64 * size) 64 u ∧
        posted u t (.msts fa sat spad k b w) true false none g.latchIssue 1) ∧
    (r.fault = none → 0 < count → count < 4096 → id.extractLsb' 16 48 = 0 →
      Runs (.mscl pin x n sid) s fun t => posted s t (.mscl pin b count id.toNat) false false none g.latchIssue 1) ∧
    (r.tiles ≠ [] → Runs .mrel s fun t => posted s t .mrel false true none g.latchIssue 1)) ∧
  (
  ∀ (s : State) (fa : FA) (a : RegNo) (keep hold spad latch sat : Bool) (slot : BitVec 2) (tile : BitVec 4) (x c sid : SReg) (n : MCnt),
    let count := match n with
      | .imm v => v.toNat
      | .pos p => (s.run.pos p).toNat
    let fails := fun (i : Instr) (addr info : Nat) => exec i s = .next (s.faultExact 0x43 addr info)
    let all := fun (addr info : Nat) =>
      fails (.mma fa keep tile x c sid) addr info ∧ fails (.mmal fa keep hold slot tile x n c sid) addr info ∧ fails (.mzro tile) addr info ∧
      fails (.msts fa sat spad tile x c) addr info
    let images := fails (.mdrn spad latch tile x) 0 0 ∧ fails (.mfil spad latch tile x) 0 0
    (s.grantOf s.run.gid = none → all 0 0 ∧ images ∧ fails .mrel 0 0 ∧ (Ready s (.mlda fa a) → fails (.mlda fa a) 0 0)) ∧
    (∀ r, s.grantOf s.run.gid = some r →
      (∀ cause addr, r.fault = some (cause, addr) → all addr cause ∧ (Ready s (.mlda fa a) → fails (.mlda fa a) addr cause)) ∧
      (r.tiles.length ≤ tile.toNat → images ∧ (r.fault = none → all 0 0)) ∧
      (tile.toNat < r.tiles.length → s.run.s[x.toNat].toNat % 128 ≠ 0 → images) ∧
      (tile.toNat < r.tiles.length → r.fault = none →
        (4096 ≤ count → fails (.mmal fa keep hold slot tile x n c sid) 0 0) ∧
        (s.run.latchIssue = none ∨ (∃ f, s.run.latchIssue = some (some f) ∧ f ≠ fa) → count < 4096 →
          fails (.mma fa keep tile x c sid) 0 0 ∧ fails (.mmal fa keep hold slot tile x n c sid) 0 0) ∧
        (s.run.s[x.toNat].toNat % 32 ≠ 0 → fails (.msts fa sat spad tile x c) 0 0))))

/-- One element of a step, of values that are no NaN and no infinity: C + P × rowscale × ts, exactly, rounded once to FP32 to nearest even,
where an exact P of 0 counts as +0 (log entry 46); a NaN among its inputs gives the canonical NaN without an exception, and 0 × ∞ or infinities of opposite sign give it as an invalid operation
(R308, R309).
`mzro.grant` takes the lowest free tiles of its engine at once, zeroed and with no valid latch, or waits behind the requests before it;
a group that holds a grant takes MATFAULT, with the cause and address of its fault state. MSTA reads the counters or the state of the grant
once no earlier entry of the group is left (R305, R309, R313, R317, R324).
The passes of MLDA, MZRO and MREL: the latch of the grant is loaded and valid, the relative tile is zero, or the grant ends and its
tiles are free; the entry leaves its table (R305, R306, R311, R317, R323). One that stands behind an MREL and whose tile the group's new grant
has not, or that finds no grant, changes no tile, and a grant that stands takes its deferred fault, of cause 1 (log entry 109). -/
def Obligations.MatrixEngineWorks : Prop :=
  (
  ∀ (as bs : List FVal) (r ts c : FVal),
    let finite := fun x : FVal => match x with
      | .fin .. => True
      | _ => False
    let nan := fun x : FVal => x.isNan = true
    ((∃ x, (x ∈ as ∨ x ∈ bs ∨ x = r ∨ x = ts ∨ x = c) ∧ nan x) → stepElem as bs r ts c = (0x7FC00000, 0)) ∧
    ((∀ x, x ∈ as ∨ x ∈ bs → finite x) → finite r → finite ts → finite c →
      let p := ((as.zip bs).map fun q => valueOf q.1 * valueOf q.2).sum
      let sign := (decide (p < 0) != r.sign) != ts.sign
      stepElem as bs r ts c =
        rounded fmtF32 .rne false 0 (valueOf c + p * valueOf r * valueOf ts) (if c.sign = sign then sign else false)) ∧
    (as.length = bs.length → (∀ x, x ∈ as ∨ x ∈ bs ∨ x = r ∨ x = ts ∨ x = c → ¬ nan x) →
      (∃ q, q ∈ as.zip bs ∧ (q.1.isZero = true ∧ ¬ finite q.2 ∨ q.2.isZero = true ∧ ¬ finite q.1)) →
      stepElem as bs r ts c = (0x7FC00000, IV))) ∧
  (
  ∀ (s : State) (tile : BitVec 4) (k : BitVec 5) (clr status : Bool) (d : SReg),
    let g := s.run
    let e := g.core / 4
    let m := s.mx e
    let entries := BitVec.ofNat 5 (s.allMx.countP (·.gid == g.gid))
    let free := fun t : Nat => t < 16 ∧ ∀ r, r ∈ m.grants → t ∉ r.tiles
    let only := fun t : State =>
      t = { s with run := t.run, cores := t.cores, agentCyc := t.agentCyc, matrix := t.matrix } ∧ s.charged t 1 ∧ ∀ j, j ≠ e → t.mx j = s.mx j
    (∀ r, s.grantOf g.gid = some r → (r.fault = none → exec (.mzroGrant ⟨tile, k⟩) s = .next (s.faultExact 0x43)) ∧
      ∀ cause addr, r.fault = some (cause, addr) → exec (.mzroGrant ⟨tile, k⟩) s = .next (s.faultExact 0x43 addr cause)) ∧
    (s.grantOf g.gid = none → m.grantQ = [] → k.toNat ≤ m.free.length → Runs (.mzroGrant ⟨tile, k⟩) s fun t => only t ∧ ∃ tiles,
      (t.mx e).grants = m.grants ++ [⟨g.gid, tiles, {}, none⟩] ∧ tiles.length = k.toNat ∧ tiles.Pairwise (· < ·) ∧
      (∀ x, x ∈ tiles → free x) ∧ (∀ x y, x ∈ tiles → free y → y < x → y ∈ tiles) ∧
      (∀ (x : Nat) (h : x < 16), (t.mx e).tiles[x] = if x ∈ tiles then 0 else m.tiles[x]) ∧
      t.mx e = { m with grants := (t.mx e).grants, tiles := (t.mx e).tiles } ∧
      t.run = { g with latchIssue := none, word := g.word + 1 }) ∧
    (s.grantOf g.gid = none → m.grantQ ≠ [] ∨ m.free.length < k.toNat → Runs (.mzroGrant ⟨tile, k⟩) s fun t => only t ∧
      t.mx e = { m with grantQ := m.grantQ ++ [(g.gid, k.toNat)] } ∧ t.run = { g with wait := .grant k.toNat }) ∧
    (s.mstaPending g.gid (s.frozen g.teamKey) = true → Runs (.msta clr status d) s fun t =>
      t.run = { g with wait := .msta clr status (s.frozen g.teamKey) d } ∧ s.onlyGroup t 1) ∧
    (s.mstaPending g.gid (s.frozen g.teamKey) = false → Runs (.msta clr status d) s fun t => ∃ v : Word,
      (status = false → v = g.mxc[3] ++ g.mxc[2] ++ g.mxc[1] ++ g.mxc[0]) ∧
      (status = true →
        (∀ r, s.grantOf g.gid = some r → r.tiles.length ≤ 16 → (∀ f, r.fault = some f → f.1 < 256) →
          v.extractLsb' 0 8 = BitVec.ofNat 8 (r.fault.elim 0 (·.1)) ∧ v.extractLsb' 8 5 = BitVec.ofNat 5 r.tiles.length ∧
          v.getLsbD 13 = r.latch.valid ∧ v.getLsbD 14 = r.latch.keep ∧ v.getLsbD 15 = false ∧ v.extractLsb' 16 5 = entries) ∧
        (s.grantOf g.gid = none → v.extractLsb' 0 16 = 0 ∧ v.extractLsb' 16 5 = entries)) ∧
      becomes s t { g with s := g.s.set d.toNat v, mxc := if clr then Vector.replicate 4 0 else g.mxc } 1)) ∧
  (
  ∀ (s : State) (e : Nat) (x : MxEntry) (r : Grant) (m : Matrix) (fa : FA) (rows : BitVec 32768) (scales : BitVec 2048) (tile : Nat),
    (e, m) ∈ s.matrix → s.savedMx = [] → m.grants = [r] → r.gid = x.gid →
    (∀ p, p ∈ s.matrix → p ≠ (e, m) → p.1 ≠ e ∧ p.2.grants = []) →
    let gone := fun t : State => ∀ p, p ∈ t.matrix → ∀ y, y ∈ p.2.table → y.ord ≠ x.ord
    (x.op = .mlda fa rows scales → r.tiles ≠ [] → gone (s.runPass e x).1 ∧
      ((s.runPass e x).1.mx e).grants = [{ r with latch := ⟨rows, scales, fa.code, true, false⟩ }] ∧ ((s.runPass e x).1.mx e).tiles = m.tiles) ∧
    (x.op = .mzro tile → tile < r.tiles.length → gone (s.runPass e x).1 ∧ ((s.runPass e x).1.mx e).grants = [r] ∧
      ∀ (k : Nat) (h : k < 16), ((s.runPass e x).1.mx e).tiles[k] = if k = r.tiles.getD tile 0 then 0 else m.tiles[k]) ∧
    (x.op = .mzro tile → r.tiles.length ≤ tile → r.fault = none → gone (s.runPass e x).1 ∧ ((s.runPass e x).1.mx e).tiles = m.tiles ∧
      ((s.runPass e x).1.mx e).grants = [{ r with fault := some (1, 0) }]) ∧
    (x.op = .mzro tile → ∀ y, y.gid ≠ r.gid → y.op = .mzro tile → y.ord = x.ord → gone (s.runPass e y).1 ∧
      ((s.runPass e y).1.mx e).tiles = m.tiles ∧ ((s.runPass e y).1.mx e).grants = [r]) ∧
    (x.op = .mrel → gone (s.runPass e x).1 ∧ ((s.runPass e x).1.mx e).grants = [] ∧ ((s.runPass e x).1.mx e).free = List.range 16))

/-! ## Engine commands (R288-R301) -/

/-- CPY, GATH, SCAT, BIN, PTCH, RLSE, COLL and LNCH post their command to the engine of R290 and write its id to `sd`; PTCH and RLSE
count on no flag. With HOLD the command enters its patch slot, and a full slot of 64 gives ENGFAULT. A copy raises the write generation of
the windows that it will write. That a scheduler core uses the copy and binning engines of its die's first cluster is the model's choice
(log entry 97), and so is scheduler core 0 for the LNCH of a core without a grid (log entry 40) (R87, R290, R292, R293, R297, R300).
ECAN by id answers 0 where the command was queued or held in a patch slot or is a launch with no team placed, 1 where it had started, was
held on a fault or waited to post its record, 2 where it is not there or has completed, and 3 where it is of another context, and ends it with
CANCELLED in the first two; a copy goes on to the next 1 KiB boundary of its destination. ECAN by slot queues at the binning engine, for a
scheduler core that of log entry 97. The group waits, and the answer goes to `sd`. That a launch which was rejected or waits has not started is
log entry 73's (R291, R297, R301). -/
def Obligations.EngineCommandsPostAndCancel : Prop :=
  (
  ∀ (s : State) (rows ev hold n16 floor : Bool) (kind : CollKind) (slot : BitVec 2) (d : SReg) (a b c : SPos) (tag : BitVec 16),
    let g := s.run
    let x := g.pos a
    let y := g.pos b
    let z := g.pos c
    let own := homeCluster g
    let copy := 4 * own + (if g.kind = .compute then g.core % 24 / 6 else 0)
    let held := if hold then some slot.toNat else none
    let launches := 0x58 + (s.grid? g.grid).elim 0 (·.stream % 4)
    let all := fun P : Instr → Word → Word → CmdOp → Prop =>
      P (.cpy rows ev hold slot d a b tag) y 0 (.cpy rows) ∧ P (.gath ev hold slot d a b c tag) y z .gath ∧
      P (.scat ev hold slot d a b c tag) y z .scat
    ((hold = true → s.slotCount g.teamKey slot.toNat < 64) → all fun i y z op => Runs i s fun t =>
      ∃ u, raised s u (reaches s (cmdOf s copy op x (if y = 0 then 1 else y) z ev tag true)) ∧
        commandPosted u t copy op x y z ev tag true d held) ∧
    (hold = true → 64 ≤ s.slotCount g.teamKey slot.toNat → all fun i _ _ _ => exec i s = .next (s.faultExact 0x44)) ∧
    Runs (.bin n16 ev d a b c tag) s (fun t => commandPosted s t (0x40 + own) (.bin n16) x y z ev tag true d none) ∧
    Runs (.ptch floor ev slot d a b c tag) s (fun t =>
      commandPosted s t (0x40 + own) (.ptch floor slot.toNat) x y z ev tag false d none) ∧
    Runs (.rlse ev slot d tag) s (fun t => commandPosted s t (0x40 + own) (.rlse slot.toNat) 0 0 0 ev tag false d none) ∧
    Runs (.coll kind ev d a b c tag) s (fun t => commandPosted s t (0x50 + own / 8) (.coll kind) x y z ev tag true d none) ∧
    Runs (.lnch ev d a tag) s (fun t => commandPosted s t launches .lnch x 0 0 ev tag true d none)) ∧
  (
  ∀ (s : State) (d : SReg) (a : SPos) (slot : BitVec 2) (tag : BitVec 16) (gid : Nat),
    let g := s.run
    let id := g.pos a
    let e := (id.extractLsb' 32 8).toNat
    let there := (s.engine e).cmds.find? (fun c => c.id == id)
    let waits := fun (t : State) (v : Word) => t.run = { g with cf := t.run.cf, wait := .answer d v }
    let quiet := fun (v : Word) => Runs (.ecan d a tag) s fun t => waits t v ∧ t.run.cf = g.cf ∧
      t = { s with run := t.run, cores := t.cores, agentCyc := t.agentCyc }
    let ends := fun (c : Cmd) (v : Word) => Runs (.ecan d a tag) s fun t => waits t v ∧
      ∃ u, ended s u e c 3 ∧ t = { u with run := { u.run with wait := .answer d v } }
    (∀ c, there = some c → (c.part ≠ g.part ∨ c.ctx ≠ g.ctx) → quiet 3) ∧
    (∀ c, there = some c → c.part = g.part → c.ctx = g.ctx →
      (c.st = .queued → ends c 0) ∧ (c.st = .heldFault ∨ c.st = .waiting → ends c (if c.op = .lnch then 0 else 1)) ∧
      (∀ ws, c.st = .running ws → ((∃ rows, c.op = .cpy rows) ∨ c.op = .gath ∨ c.op = .scat) → Runs (.ecan d a tag) s fun t => waits t 1 ∧
        ∃ rest, rest <+: ws ∧
          (t.engine e).cmds = (s.engine e).cmds.map (fun y => if y.id = c.id then { c with st := .running rest, cut := true } else y) ∧
          ∀ w ws', ws = w :: ws' →
            (w.at' % 1024 = 0 → rest = []) ∧ (∀ v, v ∈ rest → v.space = w.space ∧ v.at' / 1024 = w.at' / 1024) ∧
            ∀ v, ws[rest.length]? = some v → w.space ≠ 2 → w.at' % 1024 ≠ 0 → v.space ≠ w.space ∨ v.at' / 1024 ≠ w.at' / 1024) ∧
      (∀ ws, c.st = .running ws → (∀ rows, c.op ≠ .cpy rows) → c.op ≠ .gath → c.op ≠ .scat → c.op ≠ .lnch → ends c 1) ∧
      (∀ st, c.st = .finished st → c.op ≠ .lnch ∨ c.begun = false → Runs (.ecan d a tag) s fun t => waits t (if c.op = .lnch then 0 else 1) ∧
        (t.engine e).cmds = (s.engine e).cmds.map fun y => if y.id = c.id then { c with st := .finished 3 } else y) ∧
      (c.op = .lnch → (∀ st, c.st = .finished st → c.begun = true → quiet 2) ∧ ∀ ws, c.st = .running ws →
        ((∀ y, y ∈ s.grids → y.2.lnch ≠ some id) → quiet 2) ∧
        ∀ k x, s.grids = [(k, x)] → x.lnch = some id → (x.placed ≠ [] → quiet 2) ∧
          (x.placed = [] → ends c 0 ∧ Runs (.ecan d a tag) s fun t => t.grids = []))) ∧
    (∀ k c, there = none → s.patch = [(k, [c])] → c.id = id →
      (c.part ≠ g.part ∨ c.ctx ≠ g.ctx → quiet 3) ∧
      (c.part = g.part → c.ctx = g.ctx → c.ev = false → Runs (.ecan d a tag) s fun t => waits t 0 ∧ Tbl.get [] t.patch k = [] ∧
        (t.engine e).cmds = (s.engine e).cmds.filter fun y => y.id != id)) ∧
    (there = none → (∀ p, p ∈ s.patch → ∀ c, c ∈ p.2 → c.id ≠ id) → quiet 2) ∧
    Runs (.ecanSlot slot d tag) s (fun t => t.run = { g with wait := .ecanSlot d slot.toNat } ∧
      let e := 0x40 + homeCluster g
      ∃ c, (t.engine e).cmds = (s.engine e).cmds ++ [c] ∧ c.op = .ecanSlot slot.toNat g.gid d ∧
        t = { s with run := t.run, cores := t.cores, agentCyc := t.agentCyc, engines := t.engines, nextId := s.nextId + 1 }) ∧
    (∀ x v r, s.group? gid = some x → x.gid = gid → x.wait = .answer r v → Runs (.ecanAnswer gid) s fun t =>
      t.group? gid = some { x with s := x.s.set r.toNat v, wait := .none, word := x.word + 1 }))

/-- An engine goes on with the first command that waits for its first access, or starts the oldest queued one while it runs fewer than its
width; it makes its accesses once the issuer's stores have performed and the earlier FQGETs of its group are matched: a copy or a collective runs with the writes that its descriptor gives, RLSE empties its slot, and a count
outside its limit ends with BADDESC. A running command makes its writes in order and then ends; a line that an access waits for is written
first; a collective whose member fails ends with PEERFAIL, one that has not started among them (log entry 87) (R222-R224, R292-R299). -/
def Obligations.CommandsStartAndComplete : Prop :=
  ∀ (s s1 : State) (e : Nat) (c : Cmd) (ws : List EngWrite) (rest : List Cmd) (line : Nat) (cid : BitVec 32), s.memOk →
    let next := (∀ y, y ∈ (s.engine e).cmds → y.st ≠ .waiting) ∧
      (e < 0x58 → (s.engine e).cmds.countP (fun y => y.st != .queued) < if e < 0x40 then 8 else 1) ∧
      (s.engine e).cmds.find? (fun y => y.st == .queued) = some c
    let starts := (next ∨ (s.engine e).cmds.find? (fun y => y.st == .waiting) = some c) ∧ (c.core = 2 ^ 16 ∨ (s.core c.core).buf = []) ∧
      ∀ g, s.group? c.gid = some g → ∀ o, o ∈ g.loads → o.fifo ≠ none → c.ord ≤ o.id
    let mine := fun w : EngWrite => w.space == 0 && w.at' / 128 == line / 128
    let written := fun (t : State) (ws : List EngWrite) => ∀ b, Memory.get t.mem b =
      Memory.get (ws.foldl (fun m w => Memory.write m w.at' w.bytes) s.mem) b
    let toMemory := ∀ w, w ∈ ws → w.space = 0 ∧ offHeaders s w.at' w.bytes.length
    (starts → (∃ rows, c.op = .cpy rows) ∨ c.op = .gath ∨ c.op = .scat ∨ (∃ k, c.op = .coll k) → s.plan c = (s1, .ok ws) →
      nothingAhead s1 c → Runs (.engineCommandStart e) s fun t => (t.engine e).cmds = (s.engine e).cmds.map fun y =>
        if y.id = c.id then { c with st := .running ws, win := ws.any (·.space == 4) } else y) ∧
    (starts → (c.op = .cpy false ∧ 2 ^ 40 ≤ c.b.toNat) ∨ ((c.op = .cpy true ∨ c.op = .gath ∨ c.op = .scat) ∧ 2 ^ 32 ≤ c.b.toNat) ∨
        ((∃ n16, c.op = .bin n16) ∧ (2 ^ 32 ≤ c.b.toNat ∨ c.c = 0 ∨ 4096 < c.c.toNat)) ∨
        ((∃ f k, c.op = .ptch f k) ∧ (c.b = 0 ∨ 64 < c.b.toNat ∨ 16 ≤ c.c.toNat)) →
      Runs (.engineCommandStart e) s fun t => ended s t e c 2) ∧
    (starts → ∀ slot, c.op = .rlse slot → slot < 4 →
      Runs (.engineCommandStart e) s fun t => Tbl.find t.patch (4 * teamKey c.grid c.team + slot) = none) ∧
    (c.id.toNat / 2 ^ 32 % 256 = e → (s.engine e).cmds = c :: rest → c.st = .running ws → c.op ≠ .lnch → toMemory →
      (∀ n b, b ∈ (s.core n).buf → b.held = 0) → unlogged s c.part c.ctx → c.ev = false → Runs (.asyncCommandComplete c.id.toNat) s fun t =>
        written t ws ∧ ended s t e c (if c.cut = true then 3 else if c.patched = true then 6 else 0)) ∧
    (s.engines = [(e, { s.engine e with cmds := [c] })] → c.st = .running ws → ws.any mine = true → toMemory → unlogged s c.part c.ctx →
      (∀ n b, b ∈ (s.core n).buf → b.held = 0) → Runs (.ownedLineRecall line) s fun t => written t (ws.filter mine) ∧
        (t.engine e).cmds = [{ c with st := .running (ws.filter fun w => !mine w) }]) ∧
    ((s.engine e).cmds = c :: rest → (∀ z, c.st ≠ .finished z) → c.c.extractLsb' 0 32 = cid →
      Runs (.collJoinTimeout e cid) s fun t => ended s t e c 7)

/-- The events of engines complete: with one command in the device, a queued copy of count 0 starts and a queued RLSE ends; a running command
makes its last write to memory and ends; a recall makes the write that waits for the line, which the command then does not own; and a
collective whose member does not join ends with PEERFAIL, one that has not started among them (log entry 87). With no command each leaves the
state as it is (log entry 81) (R222-R224, R295, R297, R299). -/
def Obligations.EngineEventsComplete : Prop :=
  ∀ (s : State) (e line : Nat) (cid : BitVec 32) (c : Cmd) (w : EngWrite) (slot : Nat), s.memOk →
    let quiet := (∀ n b, b ∈ (s.core n).buf → b.held = 0) ∧ unlogged s c.part c.ctx ∧ w.space = 0 ∧ offHeaders s w.at' w.bytes.length
    let written := fun t : State => ∀ b, Memory.get t.mem b = Memory.get (Memory.write s.mem w.at' w.bytes) b
    ((∀ x, x ∈ s.engines → x.2.cmds = []) → ∀ i, (i = .engineCommandStart e ∨ i = .asyncCommandComplete cid.toNat ∨ i = .ownedLineRecall line ∨
      i = .collJoinTimeout e cid) → exec i s = .next s) ∧
    (s.engines = [(e, { s.engine e with cmds := [c] })] →
      (c.st = .queued → (c.core = 2 ^ 16 ∨ (s.core c.core).buf = []) → (∀ g, s.group? c.gid = some g → ∀ o, o ∈ g.loads → o.fifo = none) →
        ((∃ rows, c.op = .cpy rows) → c.b = 0 → Runs (.engineCommandStart e) s fun t =>
          (t.engine e).cmds = [{ c with st := .running [], win := false }] ∧ t = { s with engines := t.engines }) ∧
        (c.op = .rlse slot → slot < 4 → c.ev = false → Runs (.engineCommandStart e) s fun t =>
          (t.engine e).cmds = [] ∧ Tbl.find t.patch (4 * teamKey c.grid c.team + slot) = none)) ∧
      (c.st = .running [w] → c.op ≠ .lnch → c.id.toNat / 2 ^ 32 % 256 = e → c.ev = false → quiet →
        Runs (.asyncCommandComplete c.id.toNat) s fun t => written t ∧ (t.engine e).cmds = []) ∧
      (c.st = .running [w] → w.at' / 128 = line / 128 → quiet → Runs (.ownedLineRecall line) s fun t =>
        written t ∧ (t.engine e).cmds = [{ c with st := .running [] }] ∧
        ((∀ m x, m ∈ s.matrix → x ∈ m.2.table → x.lines = []) → ∀ k, t.engineOwns k = false)) ∧
      ((∃ k, c.op = .coll k) → (∀ z, c.st ≠ .finished z) → c.c.extractLsb' 0 32 = cid → c.ev = false →
        Runs (.collJoinTimeout e cid) s fun t => (t.engine e).cmds = []))
/-! ## System instructions (R273, R274, R332, R340, R370, R394-R402) -/

/-- CTXS and CTXL fault with PRIV at user level, and answer 1 for a FREE context, 5 for the issuer's own, 4 while a rewind is in progress, and
2 where CTXS needs a LIVE one, without any other effect. Otherwise `.stop` asks the streams to take nothing more and waits; `.save` saves every
resident team by force; `.evict` pre-empts each and waits where one is to acknowledge; `.team` saves the team that holds a slot, 1 where none
of the context does (log entry 61). A save waits where a full log holds stores of the team (R228, R395, R397, R398).
CTXL.create makes a FREE context LIVE with the descriptor at sb, with window 0 open where it logs; it answers 1 for a partition that is not
enabled, 2 for a context that is not FREE and 3 for a descriptor that is bad, as log entry 64 says, or a live ASID. `.upd` replaces a descriptor that differs only in the
fields of R398, and with a log whose segments all lie below the high watermark
changes nothing else, `.resume` makes the context LIVE, `.kill` makes it FREE, and `.eres` and `.efail` leave no operation held on a fault
(R382, R383, R394, R398). -/
def Obligations.ContextsStopSaveAndLive : Prop :=
  (
  ∀ (s : State) (d a b : SReg),
    let g := s.run
    let w := g.s[a.toNat]
    let v := g.s[b.toNat]
    let part := (w.extractLsb' 8 6).toNat
    let ctx := (w.extractLsb' 0 6).toNat
    let own := g.kind = .compute ∧ g.part = part ∧ g.ctx = ctx
    let ctxs := [Instr.ctxsStop d a, .ctxsSave d a, .ctxsEvict d a]
    let others := [Instr.ctxsTeam d a b, .ctxlUpd d a b, .ctxlResume d a, .ctxlKill d a, .ctxlEres d a, .ctxlEfail d a]
    let answers := fun (i : Instr) (st : Nat) => Runs i s fun t => becomes s t { g with s := g.s.set d.toNat (BitVec.ofNat 64 st) } 1
    let done := fun (t : State) => t.run = { g with s := g.s.set d.toNat 0, word := g.word + 1 }
    let saved := fun (t : State) (k : Nat) => ∃ y, t.team? k = some y ∧ y.at' = .saved false
    let mine := fun (k : Nat) (x : Team) => s.team? k = some x ∧ x.at' = .resident ∧
      ∃ y, s.grid? x.grid = some y ∧ y.part = part ∧ y.ctx = ctx
    (s.isSup g = false → ∀ i, i ∈ ctxs ++ others ++ [.ctxlCreate d a b] → exec i s = .next (s.faultExact 0x04)) ∧
    (s.isSup g = true → ∀ i, i ∈ ctxs ++ others →
      (s.ctx? part ctx = none → answers i 1) ∧
      (∀ c, s.ctx? part ctx = some c → (own → answers i 5) ∧ (¬ own → c.rwact = true → answers i 4) ∧
        (¬ own → c.rwact = false → c.st ≠ .live → i ∈ ctxs → answers i 2))) ∧
    (s.isSup g = true → ¬ own → g.wait = .none → ∀ c, s.ctx? part ctx = some c → c.rwact = false →
      (c.st = .live →
        Runs (.ctxsStop d a) s (fun t => t.run = { g with wait := .stop d part ctx } ∧
          t.ctx? part ctx = some { c with stopReq := true } ∧ t = { s with run := t.run, cores := t.cores, agentCyc := t.agentCyc, ctxs := t.ctxs }) ∧
        Runs (.ctxsSave d a) s (fun t => ((t.run.s[d.toNat] = 0 ∧ t.run.wait = .none) ∨ t.run.wait = .evict d part ctx) ∧
          (∀ k x, mine k x → saved t k ∨ ((∃ y, t.team? k = some y ∧ y.pre = true) ∧ t.run.wait = .evict d part ctx)) ∧
          ((∀ m, (s.core m).buf = []) → t.run.s[d.toNat] = 0 ∧ ∀ k x, mine k x → saved t k)) ∧
        Runs (.ctxsEvict d a) s fun t =>
          ((t.run.s[d.toNat] = 0 ∧ t.run.wait = .none) ∨ t.run.wait = .evict d part ctx) ∧
          ∀ k x, mine k x → saved t k ∨ ((∃ y, t.team? k = some y ∧ y.pre = true) ∧ t.run.wait = .evict d part ctx)) ∧
      ((∀ x, x ∈ s.allGroups → ¬ (x.kind = .compute ∧ x.core = (v.extractLsb' 0 9).toNat ∧ x.slot = (v.extractLsb' 9 6).toNat ∧
          x.part = part ∧ x.ctx = ctx)) → answers (.ctxsTeam d a b) 1) ∧
      (∀ x y, x ∈ s.allGroups → x.kind = .compute → x.core = (v.extractLsb' 0 9).toNat → x.slot = (v.extractLsb' 9 6).toNat →
        x.part = part → x.ctx = ctx → (∀ z, z ∈ s.allGroups → z.kind = .compute → z.core = x.core → z.slot = x.slot → z.teamKey = x.teamKey) →
        s.team? x.teamKey = some y → y.at' = .resident →
        Runs (.ctxsTeam d a b) s fun t =>
          (saved t x.teamKey ∧ t.run.s[d.toNat] = 0 ∧ t.run.wait = .none ∨
            (∃ z, t.team? x.teamKey = some z ∧ z.pre = true) ∧ t.run.wait = .evict d part ctx) ∧
          ((s.core y.core).buf = [] → saved t x.teamKey)))) ∧
  (
  ∀ (s : State) (d a b : SReg),
    let g := s.run
    let w := g.s[a.toNat]
    let at_ := (g.s[b.toNat]).toNat
    let part := (w.extractLsb' 8 6).toNat
    let ctx := (w.extractLsb' 0 6).toNat
    let answers := fun (i : Instr) (st : Nat) => Runs i s fun t => becomes s t { g with s := g.s.set d.toNat (BitVec.ofNat 64 st) } 1
    let there := at_ % 128 = 0 ∧ region at_ = .dev ∧ at_ < 2 ^ 39
    let x : Vector Word 16 := Vector.ofFn fun i => Memory.word s.mem (at_ + 8 * i.val)
    let enabled := part < 48 ∧ (s.partDesc part).getLsbD 32 = true
    let unused := ∀ c, c ∈ s.ctxs → c.2.desc[0].extractLsb' 52 12 ≠ x[0].extractLsb' 52 12
    let create := Instr.ctxlCreate d a b
    s.isSup g = true → ¬ (g.kind = .compute ∧ g.part = part ∧ g.ctx = ctx) → g.wait = .none →
    (¬ enabled → answers create 1) ∧
    (enabled → ∀ c, s.ctx? part ctx = some c → answers create (if c.rwact then 4 else 2)) ∧
    (enabled → s.ctx? part ctx = none → ¬ (there ∧ descOk x = true ∧ unused) → answers create 3) ∧
    (enabled → s.ctx? part ctx = none → there → descOk x = true → unused → Runs create s fun t =>
      t.run = { g with s := g.s.set d.toNat 0, word := g.word + 1 } ∧
      (∀ p q, ctxKey p q ≠ ctxKey part ctx → t.ctx? p q = s.ctx? p q) ∧
      ∃ c, t.ctx? part ctx = some c ∧ c.desc = x ∧ c.st = .live ∧ c.rwact = false ∧
        c.windows.map (fun y => (y.num, y.auto, y.anch)) = if x[1].getLsbD 15 then [(0, true, true)] else []) ∧
    (∀ c, s.ctx? part ctx = some c → c.rwact = false →
      (there → descOk x = true → descUpd c.desc x = true →
        (∀ z, z ∈ c.fill.toList → 256 * z ≤ s.logHwm c * ({ c with desc := x } : Ctx).segSize) → Runs (.ctxlUpd d a b) s fun t =>
        t.run = { g with s := g.s.set d.toNat 0, word := g.word + 1 } ∧ ∃ y : Ctx, t.ctx? part ctx = some { y with desc := x } ∧
          y = { c with full := y.full, due := y.due } ∧ (y.full = true ↔ c.full = true ∧ (c.desc[2]).extractLsb' 0 18 = (x[2]).extractLsb' 0 18)) ∧
      (¬ (there ∧ descOk x = true ∧ descUpd c.desc x = true) → answers (.ctxlUpd d a b) 3) ∧
      ((∀ y, y ∈ s.allGroups → y.kind = .compute → y.part = part → y.ctx = ctx →
          y.run ≠ .stopping ∧ ∀ n, y.run ≠ .stopped n) → c.st = .live → answers (.ctxlResume d a) 2) ∧
      (c.st ≠ .live → Runs (.ctxlResume d a) s fun t => t.run.s[d.toNat] = 0 ∧ ∃ y, t.ctx? part ctx = some y ∧ y.st = .live) ∧
      Runs (.ctxlKill d a) s (fun t => t.run.s[d.toNat] = 0 ∧ t.ctx? part ctx = none) ∧
      Runs (.ctxlEres d a) s (fun t => t.run.s[d.toNat] = 0 ∧
        (∀ e y, y ∈ (t.engine e).cmds → y.part = part → y.ctx = ctx → y.st ≠ .heldFault) ∧
        ∀ y, y ∈ t.allMx → y.part = part → y.ctx = ctx → y.faultWait = false) ∧
      Runs (.ctxlEfail d a) s fun t => t.run.s[d.toNat] = 0 ∧
        (∀ e y, y ∈ (t.engine e).cmds → y.part = part → y.ctx = ctx → y.st ≠ .heldFault) ∧
        ∀ y, y ∈ t.allMx → y.part = part → y.ctx = ctx → y.faultWait = false))

/-- TLBI waits for its completion; RWND writes status and window count, and with status 0 stops the context and waits for the rewind; RWND.cmt
commits every window; PRACK acknowledges a pending pre-emption, and faults elsewhere with ILLENC; PCFG applies a change list whole or answers
why not; HALT stops a control or scheduler core and is reserved on a compute core, and its other forms take a device core out of service and
back. At user level all but PRACK fault with PRIV (R273, R274, R332, R340, R395, R396, R400-R402). -/
def Obligations.SystemInstructions : Prop :=
  ∀ (s : State) (force mat : Bool) (d a b : SReg),
    let g := s.run
    let w := g.s[a.toNat]
    let v := g.s[b.toNat]
    let part := (w.extractLsb' 8 6).toNat
    let ctx := (w.extractLsb' 0 6).toNat
    let own := g.kind = .compute ∧ g.part = part ∧ g.ctx = ctx
    let answers := fun (i : Instr) (x : Word) => Runs i s fun t => becomes s t { g with s := g.s.set d.toNat x } 1
    let waits := fun (i : Instr) (form lo len asid : Nat) => Runs i s fun t => t.run = { g with wait := .tlbi form lo len asid } ∧ s.onlyGroup t 1
    let result := fun (n st : Nat) => (BitVec.ofNat 64 (n * 2 ^ 16 + st) : Word)
    let check := fun (force : Bool) (c : Ctx) => match c.windows.dropWhile (fun y => y.num != v.setWidth 16) with
      | [] => (1, 0)
      | y :: ys => (if y.anch = false then 1 else if force = false ∧ (y :: ys).any (·.mark) = true then 2 else 0, ys.length + 1)
    let rewinds := [Instr.rwnd force d a b, .rwndChk d a b, .rwndCmt d a]
    let n := (w.extractLsb' 0 9).toNat
    let halts := [Instr.haltOff d a, .haltOn d a]
    (s.isSup g = false → ∀ i, i ∈ rewinds ++ halts ++ [.tlbiRng a b, .tlbiAsid b, .tlbiAll, .pcfg d a b, .halt, .tret] →
      exec i s = .next (s.faultExact 0x04)) ∧
    (s.isSup g = true →
      waits (.tlbiRng a b) 0 w.toNat (2 ^ max 12 (min 56 (v.extractLsb' 0 6).toNat)) (v.extractLsb' 32 12).toNat ∧
      waits (.tlbiAsid b) 1 0 0 (v.extractLsb' 32 12).toNat ∧ waits .tlbiAll 2 0 0 0 ∧
      (∀ i, i ∈ rewinds → ((s.ctx? part ctx = none ∨ own ∨ ∃ c, s.ctx? part ctx = some c ∧ c.logs = false) → answers i 3) ∧
        (∀ c, s.ctx? part ctx = some c → c.logs = true → ¬ own → c.rwact = true → answers i 4)) ∧
      (∀ c, s.ctx? part ctx = some c → c.logs = true → ¬ own → c.rwact = false →
        answers (.rwndChk d a b) (result (check false c).2 (check false c).1) ∧
        ((check force c).1 ≠ 0 → answers (.rwnd force d a b) (result (check force c).2 (check force c).1)) ∧
        ((check force c).1 = 0 → Runs (.rwnd force d a b) s fun t =>
          t.run = { g with wait := .rewind d part ctx (v.setWidth 16).toNat } ∧
          ∃ y, t.ctx? part ctx = some y ∧ y.st = .stopped ∧ y.rwact = true ∧
            ((∀ z, z ∈ c.fill.toList → 256 * z ≤ s.logHwm c * c.segSize) → y.windows = c.windows ∧ y.records = c.records)) ∧
        Runs (.rwndCmt d a) s fun t => t.run = { g with s := g.s.set d.toNat (result c.windows.length 0), word := g.word + 1 } ∧
          ∃ y, t.ctx? part ctx = some y ∧ y.full = false ∧ y.windows.map (fun z => (z.num, z.auto, z.anch)) = [(c.curWin + 1, false, false)] ∧
            ∀ r, r ∈ y.records → recKindLog r.2 = 7)) ∧
    (g.kind = .compute → g.preempt = true → g.inHandler = true → Runs (.prack mat b) s fun t =>
      becomes s t { g with run := .acked (min (v.extractLsb' 0 9).toNat g.budget) mat } 1) ∧
    (¬ (g.kind = .compute ∧ g.preempt = true ∧ g.inHandler = true) → exec (.prack mat b) s = .next (s.faultExact 0x02)) ∧
    (s.isSup g = true →
      ((s.mayConfigure = false ∨ s.changeList w.toNat v.toNat = none) → answers (.pcfg d a b) 6) ∧
      (s.mayConfigure = true → ∀ es, s.changeList w.toNat v.toNat = some es →
        (∀ st k, s.changes 0 es = .error (st, k) → answers (.pcfg d a b) (BitVec.ofNat 64 (k * 256 + st))) ∧
        (∀ u, s.changes 0 es = .ok u → Runs (.pcfg d a b) s fun t =>
          t.run = { g with s := g.s.set d.toNat 0, word := g.word + 1 } ∧ t.dev = u.dev ∧ t.clusters = u.clusters)) ∧
      (g.kind = .compute → exec .halt s = .next (s.faultExact 0x02)) ∧
      (g.kind ≠ .compute → Runs .halt s fun t => t.run = { g with run := .off, clause := none, word := 0 } ∧
        t = { s with run := t.run, dev := t.dev, agentCyc := t.agentCyc } ∧ s.charged t 1 ∧
        ∃ r, t.dev = { s.dev with schedRecs := s.dev.schedRecs ++ [r] } ∧ recordOf s g 0x61 r) ∧
      (384 ≤ n → ∀ i, i ∈ halts → answers i 1) ∧
      (n < 384 → Runs (.haltOn d a) s (fun t => t.run = { g with s := g.s.set d.toNat 0, word := g.word + 1 } ∧ (t.core n).inService = true) ∧
        Runs (.haltOff d a) s fun t => (t.core n).inService = false ∧ ((s.core n).buf = [] → g.core ≠ n →
          (∀ z, z ∈ s.teams → z.2.core = n → z.2.at' = .resident → z.2.pre = false) → t.run.s[d.toNat] = 0) ∧
          ((s.core n).buf = [] → ∀ k x, s.team? k = some x → k = teamKey x.grid x.team → x.at' = .resident → x.core = n →
            ∃ y, t.team? k = some y ∧ y.at' = .saved false)))

/-! ## Events of the device (R53, R201, R206, R211, R220, R251-R257, R291, R301-R303, R310-R317, R332, R358) -/

/-- What a sleeping or waiting group waits for ends its wait: a NAP or EVWT deadline, the value that EVWT watches, the access of a stack spill, the
answer of ECAN, an invalidation, a flush, a record or room in an event queue, room in a FIFO. EVWT reads as its first read did, sleeps on where
it finds what it found before, and loads once more at its timeout; a team that came back completes it with its next read. BAL requests lapse once their cycles have gone by (R170, R229, R251, R256-R258, R301-R303, R332,
R358).
LOAD_COMPLETE writes what the operation read to its scalar register or, in the lanes that were active at its issue, to its vector
registers, and counts its flags down; the oldest FQGET, once its group's earlier ones are matched, takes the oldest entry of its FIFO, lane
t its bytes 32t to 32t + 31 (R52, R53, R91, R234, R252). -/
def Obligations.WaitsEndAndLoadsDeliver : Prop :=
  (
  ∀ (s : State) (gid : Nat) (g : Group), s.memOk → s.group? gid = some g → g.gid = gid →
    let goes := fun (i : Instr) (h : Group) => Runs i s fun t => t.group? gid = some h ∧ t = { s with run := t.run, groups := t.groups }
    let goesOn := fun (h : Group) => { h with wait := .none, word := g.word + 1 }
    let alone := fun (P : Group → Prop) => ∀ x, x ∈ s.allGroups → P x → x = g
    (∀ x, g.wait = .nap x → x ≤ s.time → goes (.napDeadline gid) (goesOn g)) ∧
    (∀ eq wide spad prm va b d last dl once pa, g.wait = .evwt eq wide spad prm va b d last dl once → g.core ≠ 2 ^ 16 →
      let n := if wide then 8 else 4
      let ran := { s with active := true, run := g }
      let touches := fun (i : Instr) (h : Group) => Runs i s fun t =>
        t.group? gid = some h ∧ cachesOnly { s with groups := t.groups } t ∧ sameBytes s t
      let outcome := fun (x : Nat) =>
        let meets := if eq then x = b.toNat % 2 ^ (8 * n) else x ≠ b.toNat % 2 ^ (8 * n)
        let got := goesOn { g with s := g.s.set d.toNat (BitVec.ofNat 64 x) }
        let h := if once = true ∨ (meets ∧ BitVec.ofNat 64 x ≠ last) then got
          else { g with wait := .evwt eq wide spad prm va b d (BitVec.ofNat 64 x) dl false }
        (touches (.evwtWake gid) h ∧ touches (.evwtPoll gid) h ∧
          ∀ z, dl = some z → once = false →
            (z ≤ s.time → touches (.evwtTimeout gid) got) ∧ (s.time < z → goes (.evwtTimeout gid) g))
      (va.toNat % n = 0 → spad = false → s.evwtHold g = .go → inPage ran .rd va n pa →
        outcome (leNat ((List.range n).map fun j => byteOf ran (pa + j)))) ∧
      (va.toNat % n = 0 → spad = true → ∀ k key, s.spadByte g va.toNat = some (pa, key) → s.spadByte g (va.toNat + n - 1) = some k →
        outcome (leNat (Memory.read s.spad pa n)))) ∧
    (∀ r, g.wait = .stackAccess r → goes (.stackSpillComplete gid) { g with wait := .none }) ∧
    (∀ d v, g.wait = .answer d v → goes (.ecanAnswer gid) (goesOn { g with s := g.s.set d.toNat v })) ∧
    (let keep := fun (r : Option BalReq) => r.filter fun q => q.left != 0
     goes (.balRequestLapse gid) { g with burn := keep g.burn, shunt := keep g.shunt, match_ := keep g.match_ }) ∧
    (∀ form lo len asid, g.wait = .tlbi form lo len asid → (∀ c, c ∈ s.cores → c.2.buf = []) →
      (∀ e c ws w, e ∈ s.engines → c ∈ e.2.cmds → c.st = .running ws → w ∈ ws → (2 ≤ form ∨ s.asid c.part c.ctx = asid) →
        w.space ≠ 0 ∧ w.space ≠ 3 ∧ w.space ≠ 6) →
      let covered := fun e : TlbEntry => form = 0 ∧ e.asid = asid ∧ e.va < lo + len ∧ lo < e.va + e.size ∨ form = 1 ∧ e.asid = asid ∨ 2 ≤ form
      Runs (.tlbiComplete gid) s fun t => t.group? gid = some (goesOn g) ∧
        (∀ n e, e ∈ (t.core n).tlb ↔ e ∈ (s.core n).tlb ∧ ¬ covered e) ∧
        (∀ k e, e ∈ (t.cluster k).tlb ↔ e ∈ (s.cluster k).tlb ∧ ¬ covered e) ∧ t.mem = s.mem) ∧
    (g.wait = .flushx → (∀ q, q ∈ s.slices → ∀ c, c ∈ q.2.cells → c.grid ≠ g.grid) →
      Runs (.flushxComplete gid) s fun t => t.group? gid = some (goesOn g) ∧ t.mem = s.mem) ∧
    (∀ k q c x, g.wait = .flushx → s.slices = [(k, q)] → q.cells = [c] → c.grid = g.grid → s.grid? g.grid = some x →
      unlogged s x.part x.ctx → nothingWaits s → offHeaders s c.loc 4 → (c.fmt = .f32 ∨ c.fmt = .f16x2 ∨ c.fmt = .bf16x2) →
      let f := fmtOf c.fmt
      let base := if f.f = 23 then c.base.toNat else c.base.toNat % 2 ^ 16
      let v := (roundW f .rne false 0 (added c.acc [f.read base])).1
      Runs (.flushxComplete gid) s fun t => t.group? gid = some (goesOn g) ∧
        (∀ b, Memory.get t.mem b = Memory.get (Memory.write s.mem c.loc (leBytes v (if f.f = 23 then 4 else 2))) b) ∧
        (t.slice k).cells = [{ c with acc := ⟨0, 0⟩, base := BitVec.ofNat 32 v }]) ∧
    (∀ k b x, g.wait = .fqput k b x → (s.bank k b).entries.length < 128 → b < 48 → alone (fun y => ∃ z, y.wait = .fqput k b z) →
      Runs (.fqputRoom k b) s fun t => t.group? gid = some (goesOn g) ∧
        t.bank k b = { s.bank k b with entries := (s.bank k b).entries ++ [x] }) ∧
    (∀ d r rest, g.wait = .eqrd d → (s.cluster (homeCluster g)).queue = r :: rest →
      alone (fun y => homeCluster y = homeCluster g ∧ ∃ z, y.wait = .eqrd z) →
      Runs (.eventQueuePost (homeCluster g)) s fun t => (t.cluster (homeCluster g)).queue = rest ∧
        t.group? gid = some (goesOn { g with s := (g.s.set d.toNat (r.extractLsb' 0 64)).set (d + 1).toNat (r.extractLsb' 64 64) })) ∧
    (∀ k d r, g.wait = .evps k d r → (s.cluster k).queueRoom = true → alone (fun y => ∃ z q, y.wait = .evps k z q) →
      (∀ y, y ∈ s.allGroups → ∀ z, y.wait ≠ .eqrd z) → (∀ e c z, e ∈ s.engines → c ∈ e.2.cmds → c.st ≠ .finished z) →
      Runs (.eventQueuePost k) s fun t =>
        (t.cluster k).queue = (s.cluster k).queue ++ [r ||| (BitVec.ofNat 32 (s.cluster k).cseq).setWidth 128] ∧
        t.group? gid = some (goesOn { g with s := g.s.set d.toNat (BitVec.ofNat 64 (s.cluster k).cseq) }))) ∧
  (
  ∀ (s : State) (g : Group) (o : LoadOp) (rest : List LoadOp), s.group? g.gid = some g → g.loads = o :: rest →
    (∀ x, x ∈ s.allGroups → (∃ y, y ∈ x.loads ∧ (y.id = o.id ∨ o.fifo ≠ none ∧ y.fifo = o.fifo)) → x = g) →
    (∀ y, y ∈ rest → y.id ≠ o.id ∧ (o.fifo ≠ none → y.fifo ≠ o.fifo)) →
    let completes := fun (P : Group → Prop) => Runs (.loadComplete o.id) s fun t => ∃ h, t.group? g.gid = some h ∧ P h ∧
      h.loads = rest ∧ (∀ (n : Nat) (k : n < 12), h.cf[n] = if o.seta.toNat = n ∨ o.setb.toNat = n
        then ⟨g.cf[n].count - 1 != 0 || g.openSets.contains n, g.cf[n].count - 1⟩ else g.cf[n]) ∧
      h = { g with s := h.s, v := h.v, cf := h.cf, loads := h.loads }
    (o.fifo = none → g.run ≠ .ended →
      (∀ d x, o.dst = .sca d x → completes fun h => h.s = g.s.set d.toNat x ∧ h.v = g.v) ∧
      (o.dst = .none → completes fun h => h.s = g.s ∧ h.v = g.v) ∧
      (∀ d em vals, o.dst = .vec d em vals → g.core ≠ 2 ^ 16 → d.toNat + vals.length ≤ 256 → completes fun h => h.s = g.s ∧
        ∀ r l, r < 256 → l < 32 → lane (h.reg r) l =
          if d.toNat ≤ r ∧ r < d.toNat + vals.length ∧ em.getLsbD l = true then lane (vals.getD (r - d.toNat) 0) l else lane (g.reg r) l)) ∧
    (∀ k b d em vals e es, o.fifo = some (k, b) → b < 48 → (∀ y, y ∈ rest → y.fifo ≠ none → o.id < y.id) →
      o.dst = .vec d em vals → (s.bank k b).entries = e :: es →
      Runs (.fqgetMatch k b) s fun t =>
        t.bank k b = { s.bank k b with entries := es, head := ((s.bank k b).head + 1) % 128 } ∧ ∃ regs,
        t.group? g.gid = some { g with loads := { o with dst := .vec d em regs, fifo := none } :: rest } ∧ regs.length = 8 ∧
        ∀ (j : Nat) (h : j < regs.length) l, l < 32 → lane regs[j] l = e.extractLsb' (256 * l + 32 * j) 32))

/-- A buffer entry performs its bytes; a core leaves a line's sharer set once its buffer is empty; a walk installs its translation; banks are
tested, convert and change mode; the issue limit follows the lost-locality events, and doubles in an interval without a miss (log entry 82);
a matrix engine's pass performs its chosen request whole (log entry 47) and counts for its cluster; a scale that arrives lets its request go on; the oldest grant request gets the lowest free tiles, zeroed, once
there are enough (R201, R206, R211, R220, R310, R312, R317, R330). -/
def Obligations.UnitsWork : Prop :=
  ∀ (s s1 s2 : State) (n i k b e : Nat), s.memOk →
    (∀ x, (s.core n).buf[i]? = some x → (∀ y, y ∈ (s.core n).buf.take i → y.sector ≠ x.sector) → nothingWaits s →
      unlogged s x.part x.ctx → x.sector % 32 = 0 → offHeaders s x.sector 32 → Runs (.bufferEntryPerform n i) s fun t =>
      (t.core n).buf = (s.core n).buf.eraseIdx i ∧ ∀ a, Memory.get t.mem a =
        if x.sector ≤ a ∧ a < x.sector + 32 ∧ x.mask.getLsbD (a - x.sector) = true then x.data.extractLsb' (8 * (a - x.sector)) 8
        else Memory.get s.mem a) ∧
    ((s.core n).buf = [] → ∀ line, Runs (.promote n k line) s fun t =>
      Tbl.get [] (t.slice k).sharers line = (Tbl.get [] (s.slice k).sharers line).filter (· != n) ∧
      ∀ l, l ≠ line → Tbl.get [] (t.slice k).sharers l = Tbl.get [] (s.slice k).sharers l) ∧
    (∀ part ctx c asid va write pa, ctx < 64 → s.ctxs = [(64 * part + ctx, c)] → c.desc[0].extractLsb' 52 12 = BitVec.ofNat 12 asid →
      asid < 4096 →
      s.walkInstall n part ctx va (if write then .wr else .rd) (!(c.desc[10].getLsbD 51)) = (s1, .ok pa) →
      Runs (.translationWalk n asid va write) s fun t => t = s1 ∧
        ∃ x rest, (t.core n).tlb = x :: rest ∧ x.asid = asid ∧ x.va ≤ va ∧ (0 < x.size → va < x.va + x.size)) ∧
    (b < 48 → ∀ m, (s.bank k b).st = .pending m false → Runs (.bankRelease k b) s fun t =>
      t.bank k b = { s.bank k b with st := .pending m true }) ∧
    (b < 48 → ∀ m, (s.bank k b).st = .pending m true → s.bankFree k b = true → Runs (.bankRelease k b) s fun t =>
      t.bank k b = { s.bank k b with st := .convert m none } ∧
        ((s.bank k b).mode = .cache → ∀ l, l ∈ (t.cluster k).lines → l.way / 4 ≠ b)) ∧
    (b < 48 → ∀ m, (s.bank k b).st = .convert m none → Runs (.bankConvertEnd k b) s fun t =>
      t.bank k b = { owner := (s.bank k b).owner, mode := m }) ∧
    (let c := s.core n
     Runs (.issueLimitAdjust n) s fun t => t.core n = { c with
       misses := 0, lost := 0
       limit := if c.misses ≠ 0 ∧ c.misses ≤ 4 * c.lost then max 4 (c.limit / 2)
         else if 16 * c.lost < c.misses ∨ c.misses = 0 then min 64 (2 * c.limit) else c.limit }) ∧
    (∀ x, (s.mxRefresh e).mxChoose e = some x → (x.core = 2 ^ 16 ∨ (s.core x.core).buf = []) → nothingWaits s (some x.ord) →
      Runs (.matrixPass e) s fun t =>
      let u := ((s.mxRefresh e).runPass e x).1
      (∀ j, (t.mx j).tiles = (u.mx j).tiles ∧ (t.mx j).grants = (u.mx j).grants) ∧ t.mem = u.mem ∧ t.spad = u.spad ∧
        (t.cluster (e / 6)).passes = (u.cluster (e / 6)).passes + 1 ∧ (t.mx e).last = x.gid) ∧
    (∀ x fa keep tile w m c sid j num base v, nothingWaits s → (s.mx e).table.find? (·.scaleWait) = some x → x.op = .mma fa keep tile w m c sid j →
      s.scaleNum x fa sid ((sid.extractLsb' 32 16).toNat + j * (c.extractLsb' 40 8).toNat) = (s1, .ok (num, base)) →
      s1.loadScale e x (sid.extractLsb' 0 16).toNat num base [] = (s2, .ok v) → ((s1.mx e).scales.countP fun y => y.num % 512 == num % 512) < 8 →
      Runs (.scaleFillReturn e) s fun t =>
        (∀ y, y ∈ (t.mx e).table → y.ord = x.ord → y.scaleWait = false) ∧
        ∃ y, (t.mx e).scales.head? = some y ∧ y.num = num ∧ y.val = v ∧ y.tid = (sid.extractLsb' 0 16).toNat ∧ y.part = x.part ∧ y.ctx = x.ctx) ∧
    (∀ gid m g rest, (s.mx e).grantQ = (gid, m) :: rest → m ≤ (s.mx e).free.length → s.group? gid = some g → g.gid = gid →
      Runs (.grantServed e) s fun t => (t.mx e).grantQ = rest ∧
        (t.mx e).grants = (s.mx e).grants ++ [{ gid := gid, tiles := (s.mx e).free.take m }] ∧
        (∀ (j : Nat) (h : j < 16), (t.mx e).tiles[j] = if j ∈ (s.mx e).free.take m then 0 else (s.mx e).tiles[j]) ∧
        t.group? gid = some { g with latchIssue := none, wait := .none, word := g.word + 1 })

/-! ## Streams, grids and teams (R18-R30, R49-R55, R78, R82, R266, R280-R288, R370, R384-R391) -/

/-- A stream takes its next packet when its slot is written and nothing that it has taken holds it: NEXTSEQ and LASTTAKEN move on. NOP is
done at once, a reserved kind or a bad WAIT with BADPKT; a WAIT is done once LASTDONE of its stream has reached its target, a MARK once every
earlier packet has completed; a launch is rejected with its status, or its grid runs, once no engine owns a line of its placement map (R224,
R281, R282, R285-R287).
The packet whose work was done first posts its record to the slot of its CSEQ in the stream's completion log, where there is room, as
there always is while STATBASE.EN is 0 (log entry 55), and LASTCPL and LASTDONE move on. A supervisor's write replaces the fields of a stream entry; NEXTSEQ only while the stream is off or stopped
(R280, R283, R284, R288, R289, R415). -/
def Obligations.StreamsTakePacketsAndRecord : Prop :=
  (
  ∀ (s s1 : State) (n : Nat) (t : Taken),
    let x := s.stream n
    let kind := ((s.packet x).getD 0 0).extractLsb' 24 8
    let taken := fun (u : State) (done : Option (Nat × Nat)) =>
      (u.stream n).taken = x.taken ++ [{ seq := x.nextSeq, words := s.packet x, done := done, ord := s.nextId }] ∧
      (u.stream n).nextSeq = (x.nextSeq + 1) % 2 ^ 32 ∧ (u.stream n).lastTaken = x.nextSeq
    let takes := fun (i : Instr) (done : Option (Nat × Nat)) => Runs i s fun u => taken u done
    let marked := fun (u : State) (f : Taken → Taken) =>
      (u.stream n).taken = x.taken.map fun y => if y.seq = t.seq then f y else y
    let finished := fun (u : State) (st k : Nat) => marked u fun y => { y with done := some (st, k) }
    let wakes := fun (i : Instr) => Runs i s fun u => (u.stream n).awake = true ∧ ∀ k, k ≠ n → u.stream k = s.stream k
    (x.state = 1 → (Memory.word s.mem x.slot).extractLsb' 32 32 = BitVec.ofNat 32 x.nextSeq → wakes (.streamWake n) ∧ wakes (.streamSlotPoll n)) ∧
    (s.canTake x = true → (∀ y, y ∈ x.taken → y.seq ≠ x.nextSeq) →
      (kind = 0 → takes (.packetNop n) (some (0, s.nextId + 1))) ∧
      (4 ≤ kind.toNat → takes (.packetBadpkt n) (some (1, s.nextId + 1))) ∧
      (kind = 2 → takes (.packetWait n) (if s.badWait x (s.packet x) then some (1, s.nextId + 1) else none)) ∧
      (kind = 3 → x.readyMark = none → takes (.packetMark n) none) ∧
      (kind = 1 → x.heldLaunch = none → s.autoDue x.part x.ctx = false → Runs (.packetLaunch n) s fun u =>
        (u.stream n).lastTaken = x.nextSeq ∧ (u.stream n).nextSeq = (x.nextSeq + 1) % 2 ^ 32)) ∧
    (x.readyMark = some t → Runs (.packetMark n) s fun u => finished u 0 s.nextId) ∧
    (x.heldWait = some t → (((s.stream ((t.words.getD 0 0).extractLsb' 0 12).toNat).lastDone : Int) - ((t.words.getD 1 0).extractLsb' 0 32).toNat) % 2 ^ 32
        < 2 ^ 31 → Runs (.waitSatisfied n) s fun u => finished u 0 s.nextId) ∧
    (x.heldLaunch = some t → s.schedules = true → (∃ c, s.ctx? x.part x.ctx = some c ∧ c.st = .live ∧ c.rewound = none) →
      ((t.words.getD 0 0).getLsbD 18 = true → x.taken.head?.any (·.seq == t.seq) = true) →
      (∀ u, s.mapWaits t.words x.part x.ctx = some u → exec (.packetLaunch n) s = .next u) ∧
      (s.mapWaits t.words x.part x.ctx = none →
      (∀ st, s.launch t.words x.part x.ctx n t.seq x.prioMax none t.ord = (s1, .error st) →
        Runs (.packetLaunch n) s fun u => finished u st s1.nextId) ∧
      (∀ id, s.launch t.words x.part x.ctx n t.seq x.prioMax none t.ord = (s1, .ok id) → Runs (.packetLaunch n) s fun u =>
        (marked u fun y => { y with grid := some id }) ∧ u.grids = s1.grids)))) ∧
  (
  ∀ (s : State) (n st : Nat) (t : Taken) (v : Word), s.memOk →
    let x := s.stream n
    let c := if x.lastCpl + 1 < 2 ^ 32 then x.lastCpl + 1 else 1
    let a := (x.w1.extractLsb' 0 52).toNat + 16 * (c % 2 ^ (x.w1.extractLsb' 58 6).toNat)
    let logAt := fun (w : Word) (unit : Nat) => 4 ≤ (w.extractLsb' 58 6).toNat ∧ (w.extractLsb' 58 6).toNat ≤ 20 ∧
      (w.extractLsb' 0 52).toNat % (unit * 2 ^ (w.extractLsb' 58 6).toNat) = 0 ∧
      (region (w.extractLsb' 0 52).toNat = .dev ∨ region (w.extractLsb' 0 52).toNat = .host)
    let starts := v.extractLsb' 30 2 = 1 ∧ logAt x.w0 64 ∧ logAt x.w1 16
    (x.nextDone = some (t, st) → s.dev.upd = false → s.dev.statbase.getLsbD 0 = false → unlogged s x.part x.ctx → nothingWaits s →
      t.seq < 2 ^ 32 → n < 2 ^ 12 →
      Runs (.completionRecordPost n) s fun u =>
        let r := BitVec.ofNat 128 (leNat (Memory.read u.mem a 16))
        r.extractLsb' 0 32 = BitVec.ofNat 32 c ∧ r.extractLsb' 32 8 = BitVec.ofNat 8 st ∧ r.extractLsb' 40 4 = 0 ∧
        r.extractLsb' 44 8 = BitVec.ofNat 8 (0x58 + n % 4) ∧ r.extractLsb' 52 12 = BitVec.ofNat 12 n ∧
        r.extractLsb' 64 32 = BitVec.ofNat 32 t.seq ∧
        (((t.words.getD 0 0).extractLsb' 24 8 = 1) → r.extractLsb' 96 32 = (t.words.getD 7 0).extractLsb' 0 32) ∧
        (u.stream n).lastCpl = c ∧ (u.stream n).taken = x.taken.filter fun y => y.seq != t.seq) ∧
    (s.dev.ready = false → ∀ i, Runs (.streamEntryWrite n i v) s fun u => u = s) ∧
    (s.dev.ready = true →
      Runs (.streamEntryWrite n 0 v) s (fun u => (u.stream n).w0 = v &&& 0xFC0FFFFFFFFFFFFF ∧ (u.stream n).w1 = x.w1 ∧ (u.stream n).w2 = x.w2) ∧
      Runs (.streamEntryWrite n 1 v) s (fun u => (u.stream n).w1 = v &&& 0xFC0FFFFFFFFFFFFF ∧ (u.stream n).w0 = x.w0 ∧ (u.stream n).w2 = x.w2) ∧
      Runs (.streamEntryWrite n 2 v) s fun u => (u.stream n).w0 = x.w0 ∧ (u.stream n).w1 = x.w1 ∧
        (let y := (u.stream n).w2
         y.extractLsb' 0 6 = v.extractLsb' 0 6 ∧ y.extractLsb' 16 6 = v.extractLsb' 16 6 ∧ y.extractLsb' 24 3 = v.extractLsb' 24 3 ∧
         y.extractLsb' 32 32 = (if x.state = 0 ∨ x.state = 2 then v else x.w2).extractLsb' 32 32 ∧
         (v.extractLsb' 30 2 = 0 ∨ v.extractLsb' 30 2 = 2 ∨ starts → y.extractLsb' 30 2 = v.extractLsb' 30 2) ∧
         (v.extractLsb' 30 2 = 1 → ¬ starts → y.extractLsb' 30 2 = x.w2.extractLsb' 30 2))))

/-- A team is placed with its groups in the state of R19 and its window on its core, and they wait from then on (log entry 78); a compaction moves a group to another pipe; a team retires,
which changes no byte of its window, and its grid completes; a slice that ends pre-empts, a team whose groups have acknowledged or sleep is saved, and a budget that expires saves by
force with a BUDGET record (R19, R21, R28, R82, R198, R385-R387). -/
def Obligations.TeamsComeAndGo : Prop :=
  ∀ (s : State) (grid team n gid pipe : Nat) (g : Grid),
    let key := teamKey grid team
    let mine := fun y : Team => s.team? key = some y ∧ y.at' = .resident
    let saved := fun (u : State) (coop : Bool) => ∃ y, u.team? key = some y ∧ y.at' = .saved coop ∧ y.pre = false
    let members := (s.allGroups.filter fun x => x.kind == .compute && x.teamKey == key).mergeSort fun x y => x.num ≤ y.num
    let owes := fun x : Group => x.preempt = true ∧ (x.run = .ready ∨ x.run = .stopping) ∧ (x.inHandler = true ∨ x.wait = .none ∨ x.wait = .stall)
    let empty := fun y : Team => (s.core y.core).buf = []
    (∀ p, s.grid? grid = some g → g.id = grid → s.team? key = none → s.roomFor g team = some p → s.firstAt g p.core = true →
      (g.coop = false ∨ g.marking = true) → Runs (.teamPlacement grid team) s fun u =>
        (∃ y, u.team? key = some y ∧ y.core = p.core ∧ y.at' = .resident ∧ y.winRows = g.rows ∧ y.winBase = p.base) ∧
        (∃ y, u.grid? grid = some y ∧ y.placed = g.placed ++ [team]) ∧
        ∀ (num : Nat) (h : num < g.groupsOf.length), ∃ x, Tbl.find u.groups (groupId key num) = some x ∧
          x = { gid := groupId key num, part := g.part, ctx := g.ctx, grid := grid, team := team, num := num
                role := (g.groupsOf[num]).1, budget := (g.groupsOf[num]).2, core := p.core, slot := x.slot, block := x.block
                s := ((Vector.replicate 64 0).set 0 (g.param.setWidth 64)).set 1 (BitVec.ofNat 64 team)
                pc := g.entry, tvt := ((s.desc g.part g.ctx)[8] &&& 0x00FFFFFFFFFFFFF8).setWidth 56, lastIssue := s.turn }) ∧
    (∀ x sl bl r m, s.group? gid = some x → x.gid = gid → x.kind = .compute → x.core = n → x.clause = none → (∀ c, x.run ≠ .stopped c) → x.inHandler = false →
      (s.rivals n).find? (fun r => r.1.part == x.part && s.fragmentedFor n r.1 r.2) = some r → s.nextMove n r.1 r.2 = some m →
      m.1.slot = x.slot → m.2 = pipe →
      (∀ y, s.grid? x.grid = some y → y.marking = false) →
      (s.quota n x.part).row0 ≤ pipe → pipe < (s.quota n x.part).row0 + (s.quota n x.part).rowN → pipe ≠ x.slot / 2 →
      freeSlot (s.quota n x.part) ((s.heldOn n).filter (·.slot != x.slot)) pipe = some sl →
      freeBlock ((s.heldOn n).filter (·.slot != x.slot)) pipe x.budget = some bl → Runs (.compaction n gid pipe) s fun u =>
        u.group? gid = some { x with slot := sl, block := bl, memClause := false, memFrom := s.nextId } ∧ (u.core n).cyc = (s.core n).cyc + 64) ∧
    (s.grid? grid = some g → s.canRetire key = true → Runs (.teamRetire grid team) s fun u =>
      u.team? key = none ∧ (∃ y, u.grid? grid = some y ∧ y = { g with retired := g.retired ++ [team] }) ∧ u.patch = s.patch ∧ u.spad = s.spad) ∧
    (s.grid? grid = some g → s.gridDone g = true → (∀ q, q ∈ s.slices → ∀ c, c ∈ q.2.cells → c.grid ≠ grid) → g.lnch = none →
      Runs (.gridComplete grid) s fun u => u.grid? grid = none ∧ (u.stream g.stream).taken =
        (s.stream g.stream).taken.map fun y => if y.seq = g.seq then { y with done := some (0, s.nextId) } else y) ∧
    (∀ y, mine y → s.grid? grid = some g → y.grid = grid → g.marking = false →
      (((s.desc g.part g.ctx)[9]).extractLsb' 3 53 = 0 ∨ (s.core y.core).holdFlue = true ∨ (s.core y.core).holdClus = true →
        empty y → Runs (.timeSliceEnd grid team) s fun u => saved u false) ∧
      (((s.desc g.part g.ctx)[9]).extractLsb' 3 53 ≠ 0 → (s.core y.core).holdFlue = false → (s.core y.core).holdClus = false →
        Runs (.timeSliceEnd grid team) s fun u => u.team? key = some { y with pre := true } ∧
          ∀ k x, Tbl.find s.groups k = some x → Tbl.find u.groups k = some (if x.kind = .compute ∧ x.teamKey = key ∧ x.run = .ready ∧
            (x.wait = .none ∨ x.wait = .stall) ∧ x.inHandler = false then { x with preempt := true } else x))) ∧
    (∀ y coop, mine y → y.saveDue = some coop → empty y → Runs (.teamSave grid team) s fun u => saved u coop) ∧
    (∀ y, mine y → y.pre = true → y.saveDue = none → empty y → (∀ x, x ∈ members → ¬ owes x) →
      Runs (.teamSave grid team) s fun u => saved u true) ∧
    (∀ y k, mine y → y.pre = true → y.saveDue = none → empty y → y.budgetAt = some k → k ≤ s.time → (∃ x, x ∈ members ∧ owes x) →
      Runs (.budgetExpiry grid team) s fun u => saved u false ∧ ∃ x r, x ∈ members ∧ owes x ∧
        (u.cluster (s.supCl x.part x.ctx)).queue.getLast? = some r ∧ r.extractLsb' 40 4 = 3 ∧ r.extractLsb' 32 8 = 0x32)

/-- CLAUSE_SELECT lets the one ready group of a pipe go on inside its clause, one that stalled there having held its pipe and kept its count
of passes (log entry 78), or enter the clause that it fetched when that became its next one (log entry 108), or fetches now, with the SET flags pending and, in explicit-mask mode, with `em` = 0,
skipped. A flue with one empty core and no team for it engages that core's loop (R26, R32, R49, R52, R72, R354).
A clause that the fetch admits starts at the group's PC, has the words its header counts, and every word of it is an instruction that its
class and its core admit, none is privileged without supervisor level, and control transfers and system words stand last; a fetch fault names the
header (R50, R69, R72, R73). -/
def Obligations.ClausesEnterChecked : Prop :=
  (
  ∀ (s s1 : State) (core pipe cluster flue : Nat) (g : Group) (c : Clause),
    let now := fun (u : State) => u.active = true
    (s.active = false → s.readyOn core pipe = [(g, .inside)] → Tbl.find s.groups g.gid = some g → Runs (.clauseSelect core pipe) s fun u => now u ∧
      u.run = { g with passed := if g.wait = .stall ∧ g.clause ≠ none then g.passed else 0, wait := .none, lastIssue := s.turn }) ∧
    (s.active = false → s.readyOn core pipe = [(g, .enter)] → Tbl.find s.groups g.gid = some g →
      ((s.chosen g []).load { g with passed := 0 }).nextClause = (s1, .ok c) → g.resume = none →
      Runs (.clauseSelect core pipe) s fun u => now u ∧ u.run.clause = some c ∧ u.run.pc = c.hdr + 8 * (BitVec.ofNat 56 (c.h.cnt.toNat + 2)) ∧
        u.run.word = (if g.mmode = true ∧ g.em = 0 then c.h.cnt.toNat + 1 else 0) ∧ u.run.lastIssue = s.turn ∧ u.run.s = g.s ∧ u.run.v = g.v ∧
        ∀ (n : Nat) (h : n < 12), (c.h.seta.toNat = n ∨ c.h.setb.toNat = n) → (u.run.cf[n]).pending = true) ∧
    (let n := 24 * cluster + 2 * flue
     ∀ t x, s.teamsOn n = [] → (s.teamsOn (n + 1)).head? = some t → s.grid? t.grid = some x → s.rivals n = [] →
      (t.burnAuto = true ∨ x.alone = true) → Runs (.halfActiveFlue cluster flue) s fun u => u.core n = { s.core n with loop := true } ∧
        ∀ k, k ≠ n → u.core k = s.core k)) ∧
  (
  (∀ (s s1 : State) (c : Clause), s.fetch = (s1, .ok c) →
    c.hdr = s.run.pc ∧ c.code.length = c.h.cnt.toNat + 1 ∧ s1.run = s.run ∧
    (c.h.eng = .system → s1.isSup s.run = true) ∧
    ∀ (i : Nat) (w : Word), c.code[i]? = some w →
      (∃ x, decode w = .ok x) ∧ c.h.eng.admits (opcode w) = true ∧
      (s.run.kind ≠ .compute → controlAdmits (opcode w) = true) ∧
      (privileged w = true → s1.isSup s.run = true) ∧
      (mustBeLast (opcode w) = true → i + 1 = c.code.length)) ∧
  ∀ (s s1 : State) (t : Trap), s.fetch = (s1, .error t) → t.fpc = s.run.pc ∧ t.clause = s.run.pc)

/-! ## Logs, windows and rewinds (R259-R279, R370, R393) -/

/-- Gathered records are written to the ring of their segment, 64 at a time, and after 10 µs however few; an automatic window opens when
it is due, and WMARK completes when every group has arrived, each with the number of the new window, or with 0 where the context has no
log. The oldest windows go where there are 16, and where a segment has passed the high watermark (R263-R268, R271). -/
def Obligations.WindowsOpen : Prop :=
  ∀ (s : State) (part ctx seg since grid : Nat) (rs : List (BitVec 512)) (c : Ctx) (x : Grid), s.memOk → ctx < 64 → seg < 8 →
    let wins := fun (ws : List Window) => ws.map fun w => (w.num, w.auto, w.anch)
    let burst := fun (i : Instr) => Runs i s fun t => ∃ y, t.ctx? part ctx = some y ∧
      y.bursts = (if rs.length ≤ 64 then [] else [(seg, rs.drop 64, s.time)]) ∧
      y.pos.toList.getD seg 0 = c.pos.toList.getD seg 0 + min 64 rs.length ∧
      ∀ (j : Nat) (h : j < rs.length), j < 64 →
        let off := 64 * (c.pos.toList.getD seg 0 + j) % c.segSize
        leNat (Memory.read t.mem (c.logBase + 4096 + seg * c.segSize + off) 64) = (rs[j]).toNat
    let opened := fun (t : State) (auto anch exact : Bool) => ∃ y n, t.ctx? part ctx = some y ∧ wins y.windows =
      (wins (if 16 ≤ c.windows.length then c.windows.tail else c.windows)).drop n ++ [(c.curWin + 1, auto, anch)] ∧ (exact = true → n = 0)
    let low := ∀ z, z ∈ c.fill.toList → 256 * z ≤ s.logHwm c * c.segSize
    let left := fun (t : State) (n : Word) => (∃ y, t.grid? grid = some y ∧ y = { x with marked := [] }) ∧
      ∀ k g d, Tbl.find s.groups k = some g → g.kind = .compute → g.grid = grid → g.wait = .wmark d →
        Tbl.find t.groups k = some { g with s := g.s.set d.toNat n, wait := .none, word := g.word + 1 }
    (s.ctxs = [(64 * part + ctx, c)] → c.bursts = [(seg, rs, since)] → rs ≠ [] →
      (64 ≤ rs.length → burst (.logBurstWrite seg)) ∧ (since + 10000 ≤ s.time → burst (.logBurstTimeout seg))) ∧
    (s.ctx? part ctx = some c → s.autoDue part ctx = true → Runs (.automaticWindowOpen part ctx) s fun t =>
      opened t true true false ∧ (low → opened t true true true)) ∧
    (s.grid? grid = some x → x.id = grid → x.part = part → x.ctx = ctx → s.markReady x = true →
      ((s.ctx? part ctx = none ∨ (s.ctx? part ctx = some c ∧ c.rwact = false ∧ c.logs = false)) →
        Runs (.wmarkComplete grid) s fun t => left t 0) ∧
      (s.ctx? part ctx = some c → c.rwact = false → c.logs = true → Runs (.wmarkComplete grid) s fun t =>
        left t ((c.curWin + 1).setWidth 64) ∧ opened t false (s.alone x) false))

/-- A rewind to a window, once the context's groups stand at clause boundaries and its stores have performed, leaves the window the current one,
no newer window, none of the context's grids and no rewind in progress, and its issuer goes on with status 0 and the number of windows
undone; the high watermark may commit older windows then. Undoing a set of windows gives every sector the bytes that the oldest record of it
saved (R269, R271, R274, R275).
A slice that waits 1 ms for its next recorded atomic, since its last one (log entry 96), gives up the order and reports ENGFAULT; a context whose packets are done stops, and the
agent that asked goes on with 0; an uncorrectable error drops a clean copy, which its block counts (log entry 94); it rolls back a context to a window that
holds it and is reversible, kills the context where none is, and is a device error in what contexts share (R277, R279, R370, R393, R397). -/
def Obligations.RewindsAndRecoveriesRestore : Prop :=
  (
  ∀ (s : State) (part ctx issuer target : Nat) (c : Ctx) (w : Window) (ws : List Window) (g : Group) (d : SReg) (nums : List (BitVec 16)), s.memOk →
    (s.ctx? part ctx = some c → c.rewound = some (target, issuer) → issuer ≠ 20 → s.runsIn part ctx = false → c.rwact = true →
      (∀ x b, x ∈ s.cores → b ∈ x.2.buf → ¬ (b.part = part ∧ b.ctx = ctx)) →
      c.windows.dropWhile (fun y => y.num != BitVec.ofNat 16 target) = w :: ws → w.snap = none →
      s.group? issuer = some g → g.gid = issuer → g.kind ≠ .compute → g.wait = .rewind d part ctx target →
      Runs (.rewindFinish part ctx) s fun t =>
        (∃ y, t.ctx? part ctx = some y ∧ y.rwact = false ∧ y.rewound = none ∧ y.st = c.st ∧
          ∃ n, y.windows.map (·.num) = ((c.windows.takeWhile (fun z => z.num != BitVec.ofNat 16 target)).map (·.num)).drop n ++ [w.num]) ∧
        (∀ k x, t.grid? k = some x → k = x.id → ¬ (x.part = part ∧ x.ctx = ctx)) ∧
        ∃ h, t.group? issuer = some h ∧ h.wait = .none ∧ h.word = g.word + 1 ∧
          h.s[d.toNat] = BitVec.ofNat 64 ((ws.length + 1) * 2 ^ 16)) ∧
    ((∀ r, r ∈ c.records → recPa r.2 % 32 = 0) → ∀ a j, j < 32 → a % 32 = 0 →
      let hits := fun (r : Nat × BitVec 512) => recKindLog r.2 == 0 && nums.contains (recWin r.2) && recPa r.2 == a
      Memory.get (s.undo c nums).mem (a + j) = match c.records.find? hits with
        | some r => (recOld r.2).extractLsb' (8 * j) 8
        | none => Memory.get s.mem (a + j))) ∧
  (
  ∀ (s : State) (part ctx slice pa : Nat) (c : Ctx), ctx < 64 → s.ctxs = [(64 * part + ctx, c)] →
    let error := fun (site : ErrSite) (P : State → Prop) => Runs (.uncorrectableError site) s fun t => t.dev.errCount = s.dev.errCount + 1 ∧ P t
    let rolledTo := fun (t : State) (w : BitVec 16) => ∃ y, t.ctx? part ctx = some y ∧ y.rwact = true ∧ y.st = .stopped ∧
      y.rewound = some (w.toNat, 20)
    let reversible := fun (w : BitVec 16) => c.logs = true ∧ c.rwact = false ∧
      ∃ x xs, c.windows.dropWhile (fun y => y.num != w) = x :: xs ∧ x.anch = true ∧ ∀ y, y ∈ x :: xs → y.mark = false
    let killed := fun t : State => t.ctx? part ctx = none
    (∀ o rest z, c.st = .live → c.orders = (slice, o :: rest) :: [] → Tbl.find c.orderAt slice = some z → z + 1000000 ≤ s.time →
      Runs (.ordrTimeout slice) s fun t => (∃ y, t.ctx? part ctx = some y ∧ y.orders = []) ∧
      ∃ r, (t.cluster (s.supCl part ctx)).queue.getLast? = some r ∧ r.extractLsb' 40 4 = 3 ∧ r.extractLsb' 32 8 = 0x44) ∧
    (∀ k g d, c.st = .live → c.stopReq = true → s.packetsDone part ctx = true → s.runsIn part ctx = false →
      s.residentTeams part ctx = [] → Tbl.find s.groups k = some g → g.wait = .stop d part ctx →
      Runs (.contextStopComplete part ctx) s fun t => (∃ y, t.ctx? part ctx = some y ∧ y = { c with st := .stopped, stopReq := false }) ∧
        Tbl.find t.groups k = some { g with s := g.s.set d.toNat 0, wait := .none, word := g.word + 1 }) ∧
    (∀ x, error (.cleanCopy x) fun t => t.mem = s.mem ∧ t.spad = s.spad ∧ t.run = s.run ∧ t.groups = s.groups ∧ t.dev.devErr = s.dev.devErr ∧
      Tbl.get 0 t.dev.blockErrs (copyBlock x) = Tbl.get 0 s.dev.blockErrs (copyBlock x) + 1) ∧
    (∀ k line, error (.cleanCopy (.clusterLine k line)) fun t => ∀ l, l ∈ (t.cluster k).lines → l.line ≠ line) ∧
    (∀ line, error (.cleanCopy (.sliceLine line)) fun t => ∀ l, l ∈ (t.slice (homeSlice line)).lines → l.line ≠ line) ∧
    (∀ n i, error (.cleanCopy (.tlb n i)) fun t => (t.core n).tlb = (s.core n).tlb.eraseIdx i) ∧
    (∀ n i, error (.cleanCopy (.reuse n i)) fun t => (t.core n).reuse = (s.core n).reuse.eraseIdx i) ∧
    (∀ k i, error (.cleanCopy (.clusterTlb k i)) fun t => (t.cluster k).tlb = (s.cluster k).tlb.eraseIdx i) ∧
    (∀ d i, error (.cleanCopy (.pointer d i)) fun t => Tbl.get [] t.dev.pointers d = (Tbl.get [] s.dev.pointers d).eraseIdx i) ∧
    (∀ e i, error (.cleanCopy (.scale e i)) fun t => (t.mx e).scales = (s.mx e).scales.eraseIdx i) ∧
    Runs (.uncorrectableError (.latent pa)) s (fun t => t = { s with dev := { s.dev with bad := pa / 32 :: s.dev.bad } }) ∧
    error .shared (fun t => t.dev.devErr = true ∧ t.dev.errc = 0x40) ∧
    error (.logOrSave part ctx) killed ∧
    (reversible c.curWin → error (.contextState part ctx) fun t => rolledTo t c.curWin) ∧
    (¬ reversible c.curWin → error (.contextState part ctx) killed) ∧
    (let found := c.records.reverse.find? fun r => recKindLog r.2 == 0 && recPa r.2 == pa / 32 * 32
     (∀ r, found = some r → reversible (recWin r.2) → error (.sector part ctx pa) fun t => rolledTo t (recWin r.2)) ∧
     (found = none → error (.sector part ctx pa) killed)))

/-! ## Balance, clocks and temperature (R337, R342-R356, R361, R364, R365) -/

/-- A sample, every 50 ns, reads each flue as its raw difference with burn and shunt currents, in units of 4 mA truncated toward zero and
saturated to 12 bits, and the cluster as their sum saturated to 16; it counts consecutive samples beyond the trap thresholds and settles
burn and shunt within their limits, and the next one begins with the registers as they then stand. The pipes that have not issued burn up to
the setting; how much the others burn beside them is free (log entry 90). Currents are in microamperes. A sample or a tick that is not due
changes nothing (log entry 81). A damper's tick, every 1 µs after its crossing, halves the fraction, down to the minimum, while the
reading exceeds the throttle threshold on the core's side, and doubles it otherwise, up to 1, where it ends (R343-R349). -/
def Obligations.BalanceSamplesAndDampers : Prop :=
  ∀ (s : State) (k : Nat) (raw : List Int),
    let c := s.cluster k
    let clip := fun (n : Nat) (x : Int) => max (-(2 ^ (n - 1) : Int)) (min (2 ^ (n - 1) - 1) x)
    let burn := fun n : Nat =>
      let idle := (List.range 32).countP fun i => !(s.core n).issued.getLsbD i
      max (25000 * min (s.core n).burn idle) (min (25000 * (s.core n).burn) (Config.burnCurrent s.time n))
    let own := fun n => (burn n : Int) + (s.core n).shunt
    let flue := fun f => clip 12 ((raw.getD f 0 + own (24 * k + 2 * f) - own (24 * k + 2 * f + 1)).tdiv 4000)
    let trapFlue := (c.inForce.baltt.extractLsb' 0 11).toNat
    let throttle := min (c.inForce.balth.extractLsb' 0 11).toNat trapFlue
    let least := 2 ^ (c.inForce.dampmin.extractLsb' 0 2).toNat
    let side := fun (i : Nat) (r : Int) => if i % 2 = 0 then 0 < r else r < 0
    (s.time % 50 ≠ 0 ∨ c.sampledAt = some s.time → exec (.balanceSample k raw) s = .next s) ∧
    (s.time % 50 = 0 → c.sampledAt ≠ some s.time → Runs (.balanceSample k raw) s fun t =>
      (t.cluster k).inForce = { balth := c.balth, baltt := c.baltt, baldly := c.baldly, dampmin := c.dampmin } ∧
      (∀ (f : Nat) (h : f < 12), (t.cluster k).flue[f] = flue f ∧
        (t.cluster k).flOver[f] = if (trapFlue : Int) < 4 * (flue f).natAbs then c.flOver[f] + 1 else 0) ∧
      (t.cluster k).reading = clip 16 (((List.range 12).map flue).sum) ∧ t.mem = s.mem ∧ t.run = s.run ∧
      ∀ i, i < 24 → (t.core (24 * k + i)).burn ≤ 32 ∧ (t.core (24 * k + i)).shunt ≤ 400000 ∧ (t.core (24 * k + i)).issued = 0) ∧
    Runs (.damperTick k) s fun t => t = { s with cores := t.cores } ∧ ∀ i, i < 24 →
      let x := s.core (24 * k + i)
      let r := c.flue.toList.getD (i / 2) 0
      let next := (t.core (24 * k + i)).flueD
      (x.flueD.tick.any (fun z => decide (z ≤ s.time)) = false → next = x.flueD) ∧
      ∀ z, x.flueD.tick = some z → z ≤ s.time →
        next = if x.holdFlue = true then { x.flueD with tick := some (z + 1000) }
          else if (throttle : Int) < 4 * r.natAbs ∧ side i r then ⟨min least (2 * x.flueD.den), some (z + 1000)⟩
          else if 1 < x.flueD.den then ⟨x.flueD.den / 2, some (z + 1000)⟩ else ⟨1, none⟩

/-- Body bias moves one step toward its target; the ceiling follows the share of matrix passes among 64 µs of work, the frequency comes down to a
lower ceiling at once and up by 50 MHz where there is headroom, and the cluster issues at the lower frequency until a transition ends; a stack
whose temperature, a free value (log entry 103), passes 85 or 95 °C or falls 3 °C below counts the time in the old thermal state and tells every
control core; the timer steps only forward. A step that is not due answers the same state (log entry 81) (R337, R355, R356, R361, R365).
A stall sample of a core takes the next group of each context whose period ends, and goes to the sample ring of the context, with the time, the
launch, the slot and the core of the group (R364). -/
def Obligations.ClocksTemperatureAndSamples : Prop :=
  (
  ∀ (s : State) (k n ns : Nat) (headroom : Bool) (next : Thermal),
    let c := s.cluster k
    let only := fun (i : Instr) (d : Cluster) => Runs i s fun t => t.cluster k = d ∧ t = { s with clusters := t.clusters } ∧
      ∀ j, j ≠ k → t.cluster j = s.cluster j
    let toward := fun (x y : Int) => if x < y then x + 1 else if y < x then x - 1 else x
    let up := (c.bias.extractLsb' 0 5).toInt
    let lo := (c.bias.extractLsb' 8 5).toInt
    let stk := s.stk n
    let at_ := fun (f : Nat) (d : Cluster) => { d with clk := c.clk + (s.time - c.clkAt) * c.freq, clkAt := s.time, freq := f }
    only (.bodyBiasStep k) { c with biasUp := toward c.biasUp up, biasLo := toward c.biasLo lo } ∧
    let temp := Config.temperature n s.time
    let state := if 95 ≤ temp ∨ stk.thermal = .cap ∧ 92 ≤ temp then Thermal.cap
      else if 85 ≤ temp ∨ stk.thermal ≠ .normal ∧ 82 ≤ temp then .hot else .normal
    only (.frequencyInterval k) (
      let ceil := if c.passes = 0 ∧ c.instrs = 0 then c.ceil else if c.passes + c.instrs ≤ 4 * c.passes then 1650 else 2100
      at_ (min c.freq ceil) { c with
        passes := 0, instrs := 0, ceil := ceil
        transition := if ceil < c.freq then some ceil else c.transition.map (min ceil) }) ∧
    (c.ceil < c.freq → only (.frequencyStep k headroom) (at_ c.ceil { c with transition := some c.ceil })) ∧
    (c.freq + 50 ≤ c.ceil → c.transition = none → only (.frequencyStep k true) { c with transition := some (c.freq + 50) }) ∧
    (c.freq ≤ c.ceil → (headroom = false ∨ c.ceil < c.freq + 50 ∨ c.transition ≠ none) → exec (.frequencyStep k headroom) s = .next s) ∧
    only (.frequencyTransitionEnd k) (at_ (c.transition.getD c.freq) { c with transition := none }) ∧
    (stk.thermal = next ∨ state ≠ next → exec (.thermalStateChange n next) s = .next s) ∧
    (stk.thermal ≠ next → state = next → Runs (.thermalStateChange n next) s fun t => t.stk n = {
        thermal := next, since := s.time
        hotNs := if stk.thermal = .hot then stk.hotNs + (s.time - stk.since) else stk.hotNs
        capNs := if stk.thermal = .cap then stk.capNs + (s.time - stk.since) else stk.capNs } ∧
      ∀ j, j < 16 → ∃ r, (t.cluster j).queue.getLast? = some r ∧ r.extractLsb' 40 4 = 3 ∧ r.extractLsb' 64 32 = BitVec.ofNat 32 n ∧
        r.extractLsb' 32 8 = (match next with
          | .normal => 0
          | .hot => 1
          | .cap => 2)) ∧
    Runs (.timerForwardStep ns) s fun t => t = { s with time := s.time + ns }) ∧
  (
  ∀ (s : State) (n part ctx : Nat) (g : Group) (rest : List Group) (c : Ctx), s.memOk → s.sampled n s.time = [(part, ctx)] →
    s.samplable n part ctx = g :: rest → s.ctx? part ctx = some c → g.core < 512 → g.slot < 64 →
    let size := 2 ^ (c.desc[11].extractLsb' 0 5).toNat / 32
    let a := (c.desc[11].extractLsb' 12 40).toNat * 2 ^ 12 + 32 * (c.samples % size)
    c.samples < size → Runs (.stallSample n) s fun t =>
      Tbl.get 0 (t.core n).sampler (ctxKey part ctx) = (g.slot + 1) % 64 ∧
      (∃ y, t.ctx? part ctx = some y ∧ y = { c with samples := c.samples + 1 }) ∧
      (let r := BitVec.ofNat 256 (leNat (Memory.read t.mem a 32))
       r.extractLsb' 192 64 = BitVec.ofNat 64 s.time ∧ r.extractLsb' 52 12 = BitVec.ofNat 12 (s.launchOf g).1 ∧
       r.extractLsb' 20 32 = BitVec.ofNat 32 (s.launchOf g).2 ∧ r.extractLsb' 14 6 = BitVec.ofNat 6 g.slot ∧
       r.extractLsb' 5 9 = BitVec.ofNat 9 g.core ∧ r.extractLsb' 0 5 = 0) ∧
      ∀ b, b < a ∨ a + 32 ≤ b → Memory.get t.mem b = Memory.get s.mem b)

/-! ## The host, peers and trust (R224, R231, R272, R360-R366, R393, R403-R416) -/

/-- The host reads and writes memory, not the buffers of cores, and is told of a write that has performed; in region 0x1 it reads a register (log
entry 110); a snoop drops cached copies of its line; a peer with a valid table entry reads, writes and performs atomics in device memory, brings
blocks and release notices, and any other is refused; a peer may refuse in turn, which gives ACCESS (log entry 32); an acknowledgement ends the
oldest store to its window, and 16 failures in a row take a port down. An access to a line that an engine owns waits, but not after a device
error (R220, R224, R230, R231, R404, R406-R409). -/
def Obligations.HostAndPeersAccess : Prop :=
  ∀ (s : State) (pa line n dev : Nat) (data : List Byte) (operand keep : Word) (wide ok : Bool) (fn : AtomFn) (fl : AtmfFn) (sz : Sz),
    let sent := fun (t : State) (m : OutMsg) => t.dev = { s.dev with out := s.dev.out ++ [m] }
    let may := (∃ e, e ∈ s.dev.peers ∧ e.2.getLsbD 63 = true ∧ (e.2.extractLsb' 42 14).toNat = dev)
    let peer := fun (r : PeerReq) (m : Memory) (yes : Bool) (bytes : List Byte) => Runs (.peerRequest dev r) s fun t =>
      sent t (.peerAnswer dev yes bytes) ∧ t = { s with mem := m, dev := t.dev }
    let w := if wide then 8 else 4
    let old := Memory.read s.mem pa w
    let free := s.dev.devErr = true ∨ (∀ e c l, e ∈ s.engines → c ∈ e.2.cmds → c.owns l = false) ∧
      ∀ m x, m ∈ s.matrix → x ∈ m.2.table → x.hold = false → x.lines = []
    let waits := fun i : Instr => exec i s = .next { s with pending := s.pending ++ [i] }
    let atomicNew := (atomic fn (BitVec.ofNat (8 * w) (leNat old)) (BitVec.ofNat (8 * w) operand.toNat) (BitVec.ofNat (8 * w) keep.toNat)).toNat
    let q := if wide then fmtF64 else fmtF32
    let opnd := operand.toNat % 2 ^ (8 * w)
    let floatNew := match fl with
      | .add => (sumOf q .rne false 0 (q.read (leNat old)) (q.read opnd)).1
      | .min => (q.minmax .min (leNat old) opnd).1
      | _ => (q.minmax .max (leNat old) opnd).1
    (s.dev.devErr = false → (∃ e c, e ∈ s.engines ∧ c ∈ e.2.cmds ∧ c.owns (pa / 128 * 128) = true) ∨
        (∃ m x, m ∈ s.matrix ∧ x ∈ m.2.table ∧ x.hold = false ∧ pa / 128 * 128 ∈ x.lines) → 0 < n → data ≠ [] →
      waits (.hostCxlMemWrite pa data) ∧ (region pa ≠ .mmio → waits (.hostCxlMemRead pa n)) ∧ waits (.hostSnoop pa data) ∧
      (may → pa + n ≤ 2 ^ 39 → waits (.peerRequest dev (.load pa n))) ∧
      (may → pa + data.length ≤ 2 ^ 39 → waits (.peerRequest dev (.store pa data)))) ∧
    (free → Runs (.hostCxlMemWrite pa data) s fun t => sent t (.writeDone pa data.length) ∧
      t = { s with mem := Memory.write s.mem pa data, dev := t.dev }) ∧
    (free → region pa ≠ .mmio → Runs (.hostCxlMemRead pa n) s fun t =>
      sent t (.readData (Memory.read s.mem pa n)) ∧ t = { s with dev := t.dev }) ∧
    (region pa = .mmio → s.dev.ready = false → Runs (.hostCxlMemRead pa n) s fun t => sent t (.regData 0) ∧ t = { s with dev := t.dev }) ∧
    (region pa = .mmio → s.dev.ready = true → Runs (.hostCxlMemRead pa n) s fun t => ∃ u v, s.mmioRead (pa % 2 ^ 48) n = (u, v) ∧
      t = { u with dev := { u.dev with out := u.dev.out ++ [.regData v] } }) ∧
    (free → Runs (.hostSnoop line data) s fun t => t = { s with mem := Memory.write s.mem line data, clusters := t.clusters, slices := t.slices } ∧
      (∀ k x, x ∈ (t.cluster k).lines → x.line ≠ line) ∧ ∀ k x, x ∈ (t.slice k).lines → x.line ≠ line) ∧
    (free → may → pa + n ≤ 2 ^ 39 → peer (.load pa n) s.mem true (Memory.read s.mem pa n)) ∧
    (¬ (may ∧ pa + n ≤ 2 ^ 39) → peer (.load pa n) s.mem false []) ∧
    (free → may → pa + data.length ≤ 2 ^ 39 → peer (.store pa data) (Memory.write s.mem pa data) true []) ∧
    (¬ (may ∧ pa + data.length ≤ 2 ^ 39) → peer (.store pa data) s.mem false []) ∧
    (free → may → pa + data.length ≤ 2 ^ 39 → peer (.block pa data) (Memory.write s.mem pa data) true []) ∧
    (free → may → pa + w ≤ 2 ^ 39 → pa % w = 0 →
      peer (.atom fn pa wide operand keep) (Memory.write s.mem pa (leBytes atomicNew w)) true old ∧
      (fl ≠ .exact → fl ≠ .exactb →
        peer (.atmf fl (if wide then .b8 else .b4) pa operand) (Memory.write s.mem pa (leBytes floatNew w)) true old)) ∧
    (¬ (may ∧ pa + w ≤ 2 ^ 39 ∧ pa % w = 0) → peer (.atom fn pa wide operand keep) s.mem false [] ∧
      peer (.atmf fl (if wide then .b8 else .b4) pa operand) s.mem false []) ∧
    peer (.atmf .exact sz pa operand) s.mem false [] ∧ peer (.atmf .exactb sz pa operand) s.mem false [] ∧
    (free → may → line / 128 * 128 + 128 ≤ 2 ^ 39 → Runs (.peerRequest dev (.notice line)) s fun t =>
      384 + dev ∈ Tbl.get [] (t.slice (homeSlice (line / 128 * 128))).sharers (line / 128 * 128) ∧ t.mem = s.mem ∧
      t = { s with slices := t.slices, dev := t.dev } ∧ sent t (.peerAnswer dev true [])) ∧
    Runs (.peerRequest dev (.refuses ok)) s (fun t => t = { s with dev := { s.dev with refusing := t.dev.refusing } } ∧
      (dev ∈ t.dev.refusing ↔ ok = true) ∧ ∀ x, x ≠ dev → (x ∈ t.dev.refusing ↔ x ∈ s.dev.refusing)) ∧
    (region pa = .peer → ((Tbl.get 0 s.dev.peers (windowOf pa)).extractLsb' 42 14).toNat ∈ s.dev.refusing →
      ∀ acc, s.placeOf pa n acc = .error 0x11) ∧
    (∀ p a b, s.dev.peerOut = a ++ p :: b → (∀ q, q ∈ a → q.window ≠ p.window) → Runs (.peerAck p.window) s fun t =>
      t = { s with dev := { s.dev with peerOut := a ++ b } }) ∧
    (∀ (port : Nat) (h : port < 12), Runs (.flitReplay port ok) s fun t =>
      let p := s.dev.ports[port]
      let fails := if ok then 0 else p.fails + 1
      let live := fun w : Word => ∃ (k : Nat) (h : k < 12), k ≠ port ∧ w.getLsbD k = true ∧ (s.dev.ports[k]).up = true
      t.dev.ports = s.dev.ports.set port ⟨p.up && decide (fails < 16), fails, p.replays + 1⟩ ∧
      ((p.up = false ∨ fails < 16) → t = { s with dev := { s.dev with ports := t.dev.ports } }) ∧
      ((∀ q, q ∈ s.dev.peerOut → q.port = port → live q.entry) →
        t = { s with dev := { s.dev with ports := t.dev.ports, peerOut := t.dev.peerOut } } ∧
        (t.dev.peerOut.map fun q => (q.gid, q.pa)) = s.dev.peerOut.map fun q => (q.gid, q.pa)))

/-- The SPDM requests are answered: negotiation, digests, the certificate, a signature over the nonce, measurements, a key exchange that `FINISH`
turns into a session, and IDE keys inside one; what follows without a session is refused (R412-R414; the codes are the model's, log 86).
Counters are read in halves, the high half from the shadow that the low read latched; a snapshot trigger latches where ARM = 1, joins
one of its own tick, and counts as lost otherwise; a frame of a core agent keeps what a supervisor may not write; device registers before
READY read 0 and ignore writes, and STATBASE while a stream is not off; an update whose image is signed and new enough writes it into the
inactive slot and starts, one starts not or is refused, and it switches the image at its heartbeat or resumes the old one after 100 ms, in the
steps of log entry 69; device reset keeps memory, timer and images and brings up the first slot that verifies, and CXL reset clears an error,
as log entry 68 says (R360-R366, R393, R405, R406, R415, R416). -/
def Obligations.DeviceRegistersUpdatesAndSpdm : Prop :=
  (
  ∀ (s : State) (nonce key : BitVec 256) (pub : Word),
    let x := s.dev.spdm
    let sent := fun (i : Instr) (y : Spdm) (code : Nat) (body : List Nat) => Runs i s fun t =>
      t = { s with dev := { s.dev with spdm := y, out := s.dev.out ++ [.spdm code body] } }
    let ms := [1, 2, 3, 4, 5].map s.measurement
    sent .getVersion { x with version := true, caps := false, algs := false } 0x04 [0x1300] ∧
    sent .getCapabilities { x with caps := true } 0x61 [] ∧ sent .negotiateAlgorithms { x with algs := true } 0x63 [1, 2, 3, 4] ∧
    sent .getDigests x 0x01 [digest Config.certChain] ∧ sent .getCertificate x 0x02 Config.certChain ∧
    sent (.challenge nonce) x 0x03 [Config.falconSign [nonce.toNat, digest Config.certChain]] ∧
    sent (.getMeasurements nonce) x 0x60 (ms ++ [Config.falconSign (nonce.toNat :: ms)]) ∧
    Runs (.keyExchange pub) s (fun t => ∃ cipher secret, t = { s with
      freeCtr := s.freeCtr + 1
      dev := { s.dev with spdm := { x with key := some secret, session := false }, out := s.dev.out ++ [.spdm 0x64 [cipher]] } }) ∧
    (x.key.isSome = true → sent .finish { x with session := true } 0x65 []) ∧ (x.key = none → sent .finish x 0x7F []) ∧
    sent .endSession { x with session := false, key := none } 0x6C [] ∧
    (x.session = true → sent (.ideKm key) { x with ide := some key } 0x00 []) ∧ (x.session = false → sent (.ideKm key) x 0x7F [])) ∧
  (
  ∀ (s : State) (b : CtrBlock) (i off : Nat) (v : Word) (verified : Bool) (c : Ctx),
    let d := s.dev
    let n := d.snap
    let same := fun (t : State) (x : Dev) => t = { s with dev := x }
    let sent := fun (m : OutMsg) => { d with out := d.out ++ [m] }
    let val := (s.ctrOf b i).1
    let sel := (s.ctrOf b i).2
    let part := (sel.extractLsb' 14 6).toNat
    let ctx := (sel.extractLsb' 8 6).toNat
    let good := fun x : Bool => Config.imageSigned (s.fwImage x) Config.fusedKey = true ∧
      Config.fusedMinimum.toNat ≤ (Config.imageSecurity (s.fwImage x)).toNat
    let fits := verified = true ∧ Config.fusedMinimum.toNat ≤ (Config.imageSecurity s.newImage).toNat
    (d.ready = true → s.ctx? part ctx = some c → ∃ t u, exec (.counterLowRead b i) s = .next t ∧ exec (.counterHighRead b i) t = .next u ∧
      u.dev.out = d.out ++ [.regData ((val.extractLsb' 0 32).setWidth 64), .regData ((val.extractLsb' 32 32).setWidth 64)] ∧ (c.st ≠ .stopped → u.mem = s.mem)) ∧
    (d.ready = true → s.ctx? part ctx = none → Runs (.counterLowRead b i) s (fun t => same t (sent (.regData ((val.extractLsb' 0 32).setWidth 64)))) ∧
      Runs (.counterHighRead b i) s fun t => same t (sent (.regData 0))) ∧
    (d.ready = false → (∀ x, x = .counterLowRead b i ∨ x = .counterHighRead b i ∨ x = .snapshotStatusRead →
        Runs x s fun t => same t (sent (.regData 0))) ∧
      Runs .hostSnapshotTrigger s (fun t => t = s) ∧ Runs .snapshotArm s fun t => t = s) ∧
    (d.ready = true → n.arm = true → Runs .hostSnapshotTrigger s fun t => t.dev.snap = { n with gen := n.gen + 1, cause := 8, arm := false } ∧
      same t { d with snap := t.dev.snap, snapRegs := t.dev.snapRegs, snapAt := some s.time } ∧ (let r := t.dev.snapRegs
      r.errors = d.errCount ∧ r.coreCtrs = s.cores.map (fun x => (x.1, x.2.ctrs)) ∧ r.sliceCtrs = s.slices.map (fun x => (x.1, x.2.ctrs)) ∧
      r.engineCtrs = s.engines.map (fun x => (x.1, x.2.ctrs)) ∧ r.mxCtrs = s.matrix.map (fun x => (x.1, x.2.ctrs)) ∧
      r.commands = s.engines.map (fun x => (x.1, x.2.cmds.length)) ∧ r.grants = s.matrix.map (fun x => (x.1, x.2.grantQ.length)) ∧
      r.thermal = s.stks.map fun x => (x.1, x.2.hotNs + (if x.2.thermal = .hot then s.time - x.2.since else 0),
        x.2.capNs + if x.2.thermal = .cap then s.time - x.2.since else 0))) ∧
    (d.ready = true → n.arm = false → d.snapAt = some s.time → Runs .hostSnapshotTrigger s fun t =>
      same t { d with snap := { n with cause := n.cause ||| 8 } }) ∧
    (d.ready = true → n.arm = false → d.snapAt ≠ some s.time → Runs .hostSnapshotTrigger s fun t =>
      same t { d with snap := { n with lost := min 255 (n.lost + 1) } }) ∧
    (d.ready = true → Runs .snapshotStatusRead s fun t => ∃ w : Word, same t { d with snap := { n with lost := 0 }, out := d.out ++ [.regData w] } ∧
      w.extractLsb' 32 32 = n.gen ∧ w.extractLsb' 24 8 = BitVec.ofNat 8 n.lost ∧ w.extractLsb' 8 4 = n.cause ∧ w.getLsbD 0 = n.arm) ∧
    (d.ready = true → Runs .snapshotArm s fun t => same t { d with snap := { n with arm := true } }) ∧
    (d.ready = false → Runs (.mmioRegisterWrite off v) s (fun t => t = s) ∧ Runs (.statbaseWrite v) s (fun t => t = s) ∧
      Runs (.fwctlGo verified) s fun t => t = s) ∧
    (d.ready = true →
      ((∀ x, x ∈ s.streams → x.2.state = 0) → Runs (.statbaseWrite v) s fun t => same t { d with statbase := v &&& 0x000FFFFFFFFF0001 }) ∧
      ((∃ x, x ∈ s.streams ∧ x.2.state ≠ 0) → Runs (.statbaseWrite v) s fun t => t = s) ∧
      (∀ w, w < 4096 → Runs (.mmioRegisterWrite (0x80000 + 8 * w) v) s fun t =>
        Tbl.get 0 t.dev.peers w = v &&& 0xC0FFFC0000000FFF ∧ same t { d with peers := t.dev.peers }) ∧
      (∀ k j, k < 384 → j < 16 → Runs (.mmioRegisterWrite (0x400000 + 256 * k + 8 * j) v) s fun t =>
        t.core k = { s.core k with ctrs := (s.core k).ctrs.setIfInBounds j v } ∧ t = { s with cores := t.cores }) ∧
      (∀ k j, k < 384 → j < 16 → Runs (.mmioRegisterWrite (0x400000 + 256 * k + 128 + 8 * j) v) s fun t =>
        t.core k = { s.core k with sels := (s.core k).sels.setIfInBounds j (v &&& 0xFFFFF) } ∧ t = { s with cores := t.cores }) ∧
      (∀ o, o < 320 → Runs (.mmioRegisterWrite (0x300000 + 8 * o) v) s fun t =>
        (let m : Word := match o % 16 with
          | 1 => 0x1FFFFFFFFFFFFFFF
          | 2 => 0xFFFFFFFF00000000
          | 5 => 0xFFFFFFFFFFFFFFFF
          | 6 => 1
          | _ => 0
         ∀ j, j < 64 → (Tbl.get 0 t.dev.frames (0x300000 + 8 * o)).getLsbD j =
           if m.getLsbD j = true then v.getLsbD j else (Tbl.get 0 d.frames (0x300000 + 8 * o)).getLsbD j) ∧
        same t { d with frames := t.dev.frames }) ∧
      (d.upd = false → d.devErr = false → Runs (.fwctlGo verified) s fun t =>
        (¬ fits → same t { d with fwStat := 3 }) ∧
        (fits → t.dev.upd = true ∧ t.dev.fwStat = 1 ∧ t.dev.update = .started s.time d.heartbeat ∧
          t.fwImage (!d.slot) = s.newImage ∧ t.fwImage d.slot = s.fwImage d.slot ∧
          same t { d with upd := true, fwStat := 1, update := t.dev.update, handOver := t.dev.handOver, images := t.dev.images })) ∧
      (d.upd = true ∨ d.devErr = true → Runs (.fwctlGo verified) s fun t => same t { d with fwStat := 5 })) ∧
    (∀ at_ hb, d.update = .started at_ hb →
      (s.time ≤ at_ + 100000000 → Runs .liveUpdateHeartbeat s fun t =>
        same t { d with heartbeat := hb + 1, slot := !d.slot, fwStat := 2, upd := false, update := .idle }) ∧
      (at_ + 100000000 ≤ s.time → Runs .liveUpdateTimeout s fun t => same t { d with fwStat := 4, upd := false, update := .idle })) ∧
    (d.ready = true → d.update = .idle → Runs .heartbeat s fun t => same t { d with heartbeat := d.heartbeat + 1 }) ∧
    Runs .deviceReset s (fun t => t.mem = s.mem ∧ t.time = s.time ∧ t.active = false ∧ t.groups = State.reset.groups ∧ t.teams = [] ∧ t.grids = [] ∧
      t.ctxs = [] ∧ t.streams = [] ∧ t.cores = [] ∧ t.clusters = [] ∧ t.engines = [] ∧ t.matrix = [] ∧ t.spad = [] ∧ t.dev.peers = [] ∧
      (∀ x, t.fwImage x = s.fwImage x) ∧ (good d.slot → t.dev.ready = true ∧ t.dev.slot = d.slot) ∧
      (¬ good d.slot → t.dev.slot = !d.slot ∧ (good (!d.slot) → t.dev.ready = true) ∧
        (¬ good (!d.slot) → t.dev.ready = false ∧ t.dev.devErr = true ∧ t.dev.errc = 0x60))) ∧
    Runs .cxlReset s fun t => same t { d with devErr := false, errc := 0 })

/-! ## Encodings and the machine's step (R49-R73, R200, R334, R344, R405, R415) -/

/-- Every well-formed instruction that has a word is read back from it, with every operand, and a clause header from its fields (R50,
R57-R65).
What a word decodes to is well formed and encodes to that word, so that no two words are one instruction (R57). -/
def Obligations.EncodingsAgree : Prop :=
  (
  (∀ (i : Instr) (w : Word), i.wf = true → encode i = some w → decode w = .ok i) ∧
  ∀ h : Header, h.ok = true → decodeHeader (encodeHeader h) = some h) ∧
  (
  ∀ (w : Word) (i : Instr), decode w = .ok i → i.wf = true ∧ encode i = some w)

/-- Words that the spec writes out decode to what it writes them for, one or more of each form (R58-R65). -/
def Obligations.WorkedWordsDecode : Prop :=
  decode 0x2D0200803FC00000 = .ok (.vmovi .f32 2 0x3FC00000) ∧
  decode 0x1102020000000001 = .ok (.ssub .b32 (.s 2) (.s 2) (.imm 1)) ∧
  decode 0x0C03070000000000 = .ok (.vote .ballot (.s 3) 7 false) ∧
  decode 0x30040406009C8000 = .ok (.fadd .f16x2 .rna true 4 4 (.s (.s 6)) {}) ∧
  decode 0x3542010200800002 = .ok (.fcmp .f32 .lt (.mask 2 false) 1 (.v 2) {}) ∧
  decode 0x25030304000000C0 = .ok (.vlog false 3 3 (.v 4) (.v 0) 0xC0 {}) ∧
  decode 0x5303060000100080 = .ok (.gred .s32 .add false (.s 3) 6 false) ∧
  decode 0x6402060320080000 = .ok (.atom .add false false .dflt .rlx .dev false 2 (.vec 6) 3 0) ∧
  decode 0x610A040030440008 = .ok (.st .b8 .dflt .rel .clus 10 (.vec 4) 8) ∧
  decode 0x6600000000680001 = .ok .fenceFlushx ∧
  decode 0x7000000400008013 = .ok (.bar 3 (some (.s 4)) false) ∧
  decode 0x812009FF0B0C8000 = .ok (.mma .e4m3 true 2 9 11 12) ∧
  decode 0x82101AFF231C4000 = .ok (.mmal .e4m3 false true 0 1 26 (.imm 0) 35 28) ∧
  decode 0x930B060708080005 = .ok (.bin false true 11 (.s 6) (.s 7) (.s 8) 5) ∧
  decode 0xA503080900008001 = .ok (.rwnd true 3 8 9)

/-- A running agent whose next word decodes to an instruction that nothing holds back executes it, after the counts that issue makes; an event
that the world brings is executed as it comes, before every agent and as a step of its own (log entry 4), once no line that it reaches is an
engine's (R25, R49, R224). -/
def Obligations.StepRunsTheDecodedInstruction : Prop :=
  (∀ (s : State) (c : Clause) (w : Word) (i : Instr),
    s.pending = [] → s.dev.ready = true → s.dev.devErr = false → (∀ x, x ∈ s.ctxs → x.2.due = false) → s.active = true → s.run.clause = some c → s.run.wait = .none →
    s.run.isOver c = false →
    c.code[s.run.word]? = some w → decode w = .ok i → s.hold i = .go →
    step s = exec i (s.begin i) ∧
      s.begin i = { s with run := (s.begin i).run, cores := (s.begin i).cores, clusters := (s.begin i).clusters } ∧
      (s.begin i).run = { s.run with doneMask := (s.begin i).run.doneMask } ∧
      (∀ n, (s.begin i).core n = { s.core n with issued := ((s.begin i).core n).issued }) ∧
      ∀ k, (s.begin i).cluster k = { s.cluster k with instrs := ((s.begin i).cluster k).instrs }) ∧
  ∀ (s : State) (e : Instr) (rest : List Instr), s.pending = e :: rest → e.wf = true → encode e = none →
    s.outsideHold e = .go → step s = exec e { s with pending := rest }

/-- Every instruction and every event has a next state in every state, and so has every step, but for one whose next event is none that the
device has: ordinary data ends no run. -/
def Obligations.EveryInstructionAnswers : Prop :=
  (∀ (i : Instr) (s : State), ∃ t, exec i s = .next t) ∧
  ∀ s : State, (∃ t, step s = .next t) ∨ ∃ e, e ∈ s.pending ∧ (e.wf = false ∨ (encode e).isSome = true)

/-- Reset leaves what the tables of the spec say: READY, the errors and the update registers 0, HEARTBEAT and STATBASE 0, the balance registers,
every bank a cache bank of partition 0, and partition 0 with everything (R200, R334, R344, R405). Memory that is in canonical form, the stopped
cores and the first slot are the model's choice (log 1, log 2). -/
def Obligations.ResetHolds : Prop :=
  let r := State.reset
  r.memOk ∧ r.active = false ∧ r.groups = coreAgents ∧ r.teams = [] ∧ r.grids = [] ∧ r.ctxs = [] ∧ r.streams = [] ∧
  r.dev.ready = false ∧ r.dev.devErr = false ∧ r.dev.errc = 0 ∧ r.dev.upd = false ∧ r.dev.statbase = 0 ∧ r.dev.heartbeat = 0 ∧
  r.dev.fwImg = 0 ∧ r.dev.fwStat = 0 ∧
  (∀ k b, (r.bank k b).mode = .cache ∧ (r.bank k b).owner = 0) ∧
  (∀ k, let c := r.cluster k
    c.balth.extractLsb' 16 12 = 2400 ∧ c.balth.extractLsb' 0 11 = 500 ∧ c.baltt.extractLsb' 16 12 = 3000 ∧ c.baltt.extractLsb' 0 11 = 750 ∧
    c.baldly = 20 ∧ c.dampmin = 3 ∧ c.bias = 0) ∧
  r.partDesc 0 = 0x1FFFFFFFF ∧ (∀ p, p ≠ 0 → r.partDesc p = 0) ∧
  (∀ n p, n < 384 → p < 48 → r.quota n p = if p = 0 then ⟨0, 64, 0, 32, 0, 512⟩ else ⟨0, 0, 0, 0, 0, 0⟩)

/-- Every step keeps memory and scratchpad in the canonical form of log entry 2, whatever the instruction, the event or the state: equal contents stay equal
data. -/
def Obligations.StepKeepsMemoryCanonical : Prop :=
  ∀ s t : State, s.memOk → step s = .next t → t.memOk

end
end

