-- ==== Sys2Proof/Laws/Encoding.lean ====
section
/-! SUPPORT. What the fields of a word are, format by format, and that codes read back: the lemmas behind the round trip of the
decoder and the encoder. -/
namespace Sys2Proof
theorem ex_hi {v w lo len : Nat} (x : BitVec v) (y : BitVec w) (h : w ≤ lo) :
    BitVec.extractLsb' lo len (x ++ y) = BitVec.extractLsb' (lo - w) len x := by
  simp [BitVec.extractLsb'_append_eq_of_le, h]
theorem ex_lo {v w lo len : Nat} (x : BitVec v) (y : BitVec w) (h : lo + len ≤ w) :
    BitVec.extractLsb' lo len (x ++ y) = BitVec.extractLsb' lo len y := by
  simp [BitVec.extractLsb'_append_eq_of_add_le, h]
theorem ex_all {w : Nat} (x : BitVec w) : BitVec.extractLsb' 0 w x = x := by simp
theorem gl_hi {v w i : Nat} (x : BitVec v) (y : BitVec w) (h : w ≤ i) : (x ++ y).getLsbD i = x.getLsbD (i - w) := by
  simp [BitVec.getLsbD_append, Nat.not_lt.mpr h]
theorem gl_lo {v w i : Nat} (x : BitVec v) (y : BitVec w) (h : i < w) : (x ++ y).getLsbD i = y.getLsbD i := by
  simp [BitVec.getLsbD_append, h]

/-! ## The formats -/

section Packv
variable (op d a b c : BitVec 8) (ty : BitVec 4) (sat : BitVec 1) (rm : BitVec 3) (bs ck nr ia id : BitVec 1) (ixn : BitVec 2) (sub : BitVec 8)

@[simp] theorem packV_0_2 :
    fld (packV op d a b c ty sat rm bs ck nr ia id ixn sub) 0 2 = BitVec.extractLsb' 0 2 sub := by
  unfold packV fld
  repeat first | exact ex_all _ | exact rfl | refine (ex_hi _ _ (by decide)).trans ?_ | refine (ex_lo _ _ (by decide)).trans ?_
@[simp] theorem packV_0_3 :
    fld (packV op d a b c ty sat rm bs ck nr ia id ixn sub) 0 3 = BitVec.extractLsb' 0 3 sub := by
  unfold packV fld
  repeat first | exact ex_all _ | exact rfl | refine (ex_hi _ _ (by decide)).trans ?_ | refine (ex_lo _ _ (by decide)).trans ?_
@[simp] theorem packV_0_4 :
    fld (packV op d a b c ty sat rm bs ck nr ia id ixn sub) 0 4 = BitVec.extractLsb' 0 4 sub := by
  unfold packV fld
  repeat first | exact ex_all _ | exact rfl | refine (ex_hi _ _ (by decide)).trans ?_ | refine (ex_lo _ _ (by decide)).trans ?_
@[simp] theorem packV_0_5 :
    fld (packV op d a b c ty sat rm bs ck nr ia id ixn sub) 0 5 = BitVec.extractLsb' 0 5 sub := by
  unfold packV fld
  repeat first | exact ex_all _ | exact rfl | refine (ex_hi _ _ (by decide)).trans ?_ | refine (ex_lo _ _ (by decide)).trans ?_
@[simp] theorem packV_0_8 :
    fld (packV op d a b c ty sat rm bs ck nr ia id ixn sub) 0 8 = sub := by
  unfold packV fld
  repeat first | exact ex_all _ | exact rfl | refine (ex_hi _ _ (by decide)).trans ?_ | refine (ex_lo _ _ (by decide)).trans ?_
@[simp] theorem packV_2_2 :
    fld (packV op d a b c ty sat rm bs ck nr ia id ixn sub) 2 2 = BitVec.extractLsb' 2 2 sub := by
  unfold packV fld
  repeat first | exact ex_all _ | exact rfl | refine (ex_hi _ _ (by decide)).trans ?_ | refine (ex_lo _ _ (by decide)).trans ?_
@[simp] theorem packV_3_2 :
    fld (packV op d a b c ty sat rm bs ck nr ia id ixn sub) 3 2 = BitVec.extractLsb' 3 2 sub := by
  unfold packV fld
  repeat first | exact ex_all _ | exact rfl | refine (ex_hi _ _ (by decide)).trans ?_ | refine (ex_lo _ _ (by decide)).trans ?_
@[simp] theorem packV_4_2 :
    fld (packV op d a b c ty sat rm bs ck nr ia id ixn sub) 4 2 = BitVec.extractLsb' 4 2 sub := by
  unfold packV fld
  repeat first | exact ex_all _ | exact rfl | refine (ex_hi _ _ (by decide)).trans ?_ | refine (ex_lo _ _ (by decide)).trans ?_
@[simp] theorem packV_4_3 :
    fld (packV op d a b c ty sat rm bs ck nr ia id ixn sub) 4 3 = BitVec.extractLsb' 4 3 sub := by
  unfold packV fld
  repeat first | exact ex_all _ | exact rfl | refine (ex_hi _ _ (by decide)).trans ?_ | refine (ex_lo _ _ (by decide)).trans ?_
@[simp] theorem packV_6_2 :
    fld (packV op d a b c ty sat rm bs ck nr ia id ixn sub) 6 2 = BitVec.extractLsb' 6 2 sub := by
  unfold packV fld
  repeat first | exact ex_all _ | exact rfl | refine (ex_hi _ _ (by decide)).trans ?_ | refine (ex_lo _ _ (by decide)).trans ?_
@[simp] theorem packV_7_1 :
    fld (packV op d a b c ty sat rm bs ck nr ia id ixn sub) 7 1 = BitVec.extractLsb' 7 1 sub := by
  unfold packV fld
  repeat first | exact ex_all _ | exact rfl | refine (ex_hi _ _ (by decide)).trans ?_ | refine (ex_lo _ _ (by decide)).trans ?_
@[simp] theorem packV_9_2 :
    fld (packV op d a b c ty sat rm bs ck nr ia id ixn sub) 9 2 = ixn := by
  unfold packV fld
  repeat first | exact ex_all _ | exact rfl | refine (ex_hi _ _ (by decide)).trans ?_ | refine (ex_lo _ _ (by decide)).trans ?_
@[simp] theorem packV_14_1 :
    fld (packV op d a b c ty sat rm bs ck nr ia id ixn sub) 14 1 = ck := by
  unfold packV fld
  repeat first | exact ex_all _ | exact rfl | refine (ex_hi _ _ (by decide)).trans ?_ | refine (ex_lo _ _ (by decide)).trans ?_
@[simp] theorem packV_15_1 :
    fld (packV op d a b c ty sat rm bs ck nr ia id ixn sub) 15 1 = bs := by
  unfold packV fld
  repeat first | exact ex_all _ | exact rfl | refine (ex_hi _ _ (by decide)).trans ?_ | refine (ex_lo _ _ (by decide)).trans ?_
@[simp] theorem packV_16_3 :
    fld (packV op d a b c ty sat rm bs ck nr ia id ixn sub) 16 3 = rm := by
  unfold packV fld
  repeat first | exact ex_all _ | exact rfl | refine (ex_hi _ _ (by decide)).trans ?_ | refine (ex_lo _ _ (by decide)).trans ?_
@[simp] theorem packV_20_4 :
    fld (packV op d a b c ty sat rm bs ck nr ia id ixn sub) 20 4 = ty := by
  unfold packV fld
  repeat first | exact ex_all _ | exact rfl | refine (ex_hi _ _ (by decide)).trans ?_ | refine (ex_lo _ _ (by decide)).trans ?_
@[simp] theorem packV_24_8 :
    fld (packV op d a b c ty sat rm bs ck nr ia id ixn sub) 24 8 = c := by
  unfold packV fld
  repeat first | exact ex_all _ | exact rfl | refine (ex_hi _ _ (by decide)).trans ?_ | refine (ex_lo _ _ (by decide)).trans ?_
@[simp] theorem packV_32_6 :
    fld (packV op d a b c ty sat rm bs ck nr ia id ixn sub) 32 6 = BitVec.extractLsb' 0 6 b := by
  unfold packV fld
  repeat first | exact ex_all _ | exact rfl | refine (ex_hi _ _ (by decide)).trans ?_ | refine (ex_lo _ _ (by decide)).trans ?_
@[simp] theorem packV_32_8 :
    fld (packV op d a b c ty sat rm bs ck nr ia id ixn sub) 32 8 = b := by
  unfold packV fld
  repeat first | exact ex_all _ | exact rfl | refine (ex_hi _ _ (by decide)).trans ?_ | refine (ex_lo _ _ (by decide)).trans ?_
@[simp] theorem packV_40_6 :
    fld (packV op d a b c ty sat rm bs ck nr ia id ixn sub) 40 6 = BitVec.extractLsb' 0 6 a := by
  unfold packV fld
  repeat first | exact ex_all _ | exact rfl | refine (ex_hi _ _ (by decide)).trans ?_ | refine (ex_lo _ _ (by decide)).trans ?_
@[simp] theorem packV_40_8 :
    fld (packV op d a b c ty sat rm bs ck nr ia id ixn sub) 40 8 = a := by
  unfold packV fld
  repeat first | exact ex_all _ | exact rfl | refine (ex_hi _ _ (by decide)).trans ?_ | refine (ex_lo _ _ (by decide)).trans ?_
@[simp] theorem packV_48_6 :
    fld (packV op d a b c ty sat rm bs ck nr ia id ixn sub) 48 6 = BitVec.extractLsb' 0 6 d := by
  unfold packV fld
  repeat first | exact ex_all _ | exact rfl | refine (ex_hi _ _ (by decide)).trans ?_ | refine (ex_lo _ _ (by decide)).trans ?_
@[simp] theorem packV_48_8 :
    fld (packV op d a b c ty sat rm bs ck nr ia id ixn sub) 48 8 = d := by
  unfold packV fld
  repeat first | exact ex_all _ | exact rfl | refine (ex_hi _ _ (by decide)).trans ?_ | refine (ex_lo _ _ (by decide)).trans ?_
@[simp] theorem packV_56_8 :
    fld (packV op d a b c ty sat rm bs ck nr ia id ixn sub) 56 8 = op := by
  unfold packV fld
  repeat first | exact ex_all _ | exact rfl | refine (ex_hi _ _ (by decide)).trans ?_ | refine (ex_lo _ _ (by decide)).trans ?_
@[simp] theorem packV_60_4 :
    fld (packV op d a b c ty sat rm bs ck nr ia id ixn sub) 60 4 = BitVec.extractLsb' 4 4 op := by
  unfold packV fld
  repeat first | exact ex_all _ | exact rfl | refine (ex_hi _ _ (by decide)).trans ?_ | refine (ex_lo _ _ (by decide)).trans ?_
@[simp] theorem packV_bit_0 :
    bitAt (packV op d a b c ty sat rm bs ck nr ia id ixn sub) 0 = sub.getLsbD 0 := by
  unfold packV bitAt
  repeat first | exact rfl | refine (gl_hi _ _ (by decide)).trans ?_ | refine (gl_lo _ _ (by decide)).trans ?_
@[simp] theorem packV_bit_1 :
    bitAt (packV op d a b c ty sat rm bs ck nr ia id ixn sub) 1 = sub.getLsbD 1 := by
  unfold packV bitAt
  repeat first | exact rfl | refine (gl_hi _ _ (by decide)).trans ?_ | refine (gl_lo _ _ (by decide)).trans ?_
@[simp] theorem packV_bit_2 :
    bitAt (packV op d a b c ty sat rm bs ck nr ia id ixn sub) 2 = sub.getLsbD 2 := by
  unfold packV bitAt
  repeat first | exact rfl | refine (gl_hi _ _ (by decide)).trans ?_ | refine (gl_lo _ _ (by decide)).trans ?_
@[simp] theorem packV_bit_3 :
    bitAt (packV op d a b c ty sat rm bs ck nr ia id ixn sub) 3 = sub.getLsbD 3 := by
  unfold packV bitAt
  repeat first | exact rfl | refine (gl_hi _ _ (by decide)).trans ?_ | refine (gl_lo _ _ (by decide)).trans ?_
@[simp] theorem packV_bit_4 :
    bitAt (packV op d a b c ty sat rm bs ck nr ia id ixn sub) 4 = sub.getLsbD 4 := by
  unfold packV bitAt
  repeat first | exact rfl | refine (gl_hi _ _ (by decide)).trans ?_ | refine (gl_lo _ _ (by decide)).trans ?_
@[simp] theorem packV_bit_5 :
    bitAt (packV op d a b c ty sat rm bs ck nr ia id ixn sub) 5 = sub.getLsbD 5 := by
  unfold packV bitAt
  repeat first | exact rfl | refine (gl_hi _ _ (by decide)).trans ?_ | refine (gl_lo _ _ (by decide)).trans ?_
@[simp] theorem packV_bit_7 :
    bitAt (packV op d a b c ty sat rm bs ck nr ia id ixn sub) 7 = sub.getLsbD 7 := by
  unfold packV bitAt
  repeat first | exact rfl | refine (gl_hi _ _ (by decide)).trans ?_ | refine (gl_lo _ _ (by decide)).trans ?_
@[simp] theorem packV_bit_11 :
    bitAt (packV op d a b c ty sat rm bs ck nr ia id ixn sub) 11 = id.getLsbD 0 := by
  unfold packV bitAt
  repeat first | exact rfl | refine (gl_hi _ _ (by decide)).trans ?_ | refine (gl_lo _ _ (by decide)).trans ?_
@[simp] theorem packV_bit_12 :
    bitAt (packV op d a b c ty sat rm bs ck nr ia id ixn sub) 12 = ia.getLsbD 0 := by
  unfold packV bitAt
  repeat first | exact rfl | refine (gl_hi _ _ (by decide)).trans ?_ | refine (gl_lo _ _ (by decide)).trans ?_
@[simp] theorem packV_bit_13 :
    bitAt (packV op d a b c ty sat rm bs ck nr ia id ixn sub) 13 = nr.getLsbD 0 := by
  unfold packV bitAt
  repeat first | exact rfl | refine (gl_hi _ _ (by decide)).trans ?_ | refine (gl_lo _ _ (by decide)).trans ?_
@[simp] theorem packV_bit_15 :
    bitAt (packV op d a b c ty sat rm bs ck nr ia id ixn sub) 15 = bs.getLsbD 0 := by
  unfold packV bitAt
  repeat first | exact rfl | refine (gl_hi _ _ (by decide)).trans ?_ | refine (gl_lo _ _ (by decide)).trans ?_
@[simp] theorem packV_bit_19 :
    bitAt (packV op d a b c ty sat rm bs ck nr ia id ixn sub) 19 = sat.getLsbD 0 := by
  unfold packV bitAt
  repeat first | exact rfl | refine (gl_hi _ _ (by decide)).trans ?_ | refine (gl_lo _ _ (by decide)).trans ?_
end Packv

section Packi
variable (op d a : BitVec 8) (ty : BitVec 4) (sat : BitVec 1) (sub3 : BitVec 3) (imm : BitVec 32)

@[simp] theorem packI_0_8 :
    fld (packI op d a ty sat sub3 imm) 0 8 = BitVec.extractLsb' 0 8 imm := by
  unfold packI fld
  repeat first | exact ex_all _ | exact rfl | refine (ex_hi _ _ (by decide)).trans ?_ | refine (ex_lo _ _ (by decide)).trans ?_
@[simp] theorem packI_0_32 :
    fld (packI op d a ty sat sub3 imm) 0 32 = imm := by
  unfold packI fld
  repeat first | exact ex_all _ | exact rfl | refine (ex_hi _ _ (by decide)).trans ?_ | refine (ex_lo _ _ (by decide)).trans ?_
@[simp] theorem packI_32_2 :
    fld (packI op d a ty sat sub3 imm) 32 2 = BitVec.extractLsb' 0 2 sub3 := by
  unfold packI fld
  repeat first | exact ex_all _ | exact rfl | refine (ex_hi _ _ (by decide)).trans ?_ | refine (ex_lo _ _ (by decide)).trans ?_
@[simp] theorem packI_32_3 :
    fld (packI op d a ty sat sub3 imm) 32 3 = sub3 := by
  unfold packI fld
  repeat first | exact ex_all _ | exact rfl | refine (ex_hi _ _ (by decide)).trans ?_ | refine (ex_lo _ _ (by decide)).trans ?_
@[simp] theorem packI_36_4 :
    fld (packI op d a ty sat sub3 imm) 36 4 = ty := by
  unfold packI fld
  repeat first | exact ex_all _ | exact rfl | refine (ex_hi _ _ (by decide)).trans ?_ | refine (ex_lo _ _ (by decide)).trans ?_
@[simp] theorem packI_40_8 :
    fld (packI op d a ty sat sub3 imm) 40 8 = a := by
  unfold packI fld
  repeat first | exact ex_all _ | exact rfl | refine (ex_hi _ _ (by decide)).trans ?_ | refine (ex_lo _ _ (by decide)).trans ?_
@[simp] theorem packI_48_8 :
    fld (packI op d a ty sat sub3 imm) 48 8 = d := by
  unfold packI fld
  repeat first | exact ex_all _ | exact rfl | refine (ex_hi _ _ (by decide)).trans ?_ | refine (ex_lo _ _ (by decide)).trans ?_
@[simp] theorem packI_56_8 :
    fld (packI op d a ty sat sub3 imm) 56 8 = op := by
  unfold packI fld
  repeat first | exact ex_all _ | exact rfl | refine (ex_hi _ _ (by decide)).trans ?_ | refine (ex_lo _ _ (by decide)).trans ?_
@[simp] theorem packI_60_4 :
    fld (packI op d a ty sat sub3 imm) 60 4 = BitVec.extractLsb' 4 4 op := by
  unfold packI fld
  repeat first | exact ex_all _ | exact rfl | refine (ex_hi _ _ (by decide)).trans ?_ | refine (ex_lo _ _ (by decide)).trans ?_
@[simp] theorem packI_bit_32 :
    bitAt (packI op d a ty sat sub3 imm) 32 = sub3.getLsbD 0 := by
  unfold packI bitAt
  repeat first | exact rfl | refine (gl_hi _ _ (by decide)).trans ?_ | refine (gl_lo _ _ (by decide)).trans ?_
@[simp] theorem packI_bit_34 :
    bitAt (packI op d a ty sat sub3 imm) 34 = sub3.getLsbD 2 := by
  unfold packI bitAt
  repeat first | exact rfl | refine (gl_hi _ _ (by decide)).trans ?_ | refine (gl_lo _ _ (by decide)).trans ?_
end Packi

section Packb
variable (op a : BitVec 8) (cnd sub : BitVec 4) (off1 off2 : BitVec 16)

@[simp] theorem packB_0_16 :
    fld (packB op a cnd sub off1 off2) 0 16 = off2 := by
  unfold packB fld
  repeat first | exact ex_all _ | exact rfl | refine (ex_hi _ _ (by decide)).trans ?_ | refine (ex_lo _ _ (by decide)).trans ?_
@[simp] theorem packB_16_16 :
    fld (packB op a cnd sub off1 off2) 16 16 = off1 := by
  unfold packB fld
  repeat first | exact ex_all _ | exact rfl | refine (ex_hi _ _ (by decide)).trans ?_ | refine (ex_lo _ _ (by decide)).trans ?_
@[simp] theorem packB_44_4 :
    fld (packB op a cnd sub off1 off2) 44 4 = cnd := by
  unfold packB fld
  repeat first | exact ex_all _ | exact rfl | refine (ex_hi _ _ (by decide)).trans ?_ | refine (ex_lo _ _ (by decide)).trans ?_
@[simp] theorem packB_48_6 :
    fld (packB op a cnd sub off1 off2) 48 6 = BitVec.extractLsb' 0 6 a := by
  unfold packB fld
  repeat first | exact ex_all _ | exact rfl | refine (ex_hi _ _ (by decide)).trans ?_ | refine (ex_lo _ _ (by decide)).trans ?_
@[simp] theorem packB_48_8 :
    fld (packB op a cnd sub off1 off2) 48 8 = a := by
  unfold packB fld
  repeat first | exact ex_all _ | exact rfl | refine (ex_hi _ _ (by decide)).trans ?_ | refine (ex_lo _ _ (by decide)).trans ?_
@[simp] theorem packB_56_8 :
    fld (packB op a cnd sub off1 off2) 56 8 = op := by
  unfold packB fld
  repeat first | exact ex_all _ | exact rfl | refine (ex_hi _ _ (by decide)).trans ?_ | refine (ex_lo _ _ (by decide)).trans ?_
@[simp] theorem packB_60_4 :
    fld (packB op a cnd sub off1 off2) 60 4 = BitVec.extractLsb' 4 4 op := by
  unfold packB fld
  repeat first | exact ex_all _ | exact rfl | refine (ex_hi _ _ (by decide)).trans ?_ | refine (ex_lo _ _ (by decide)).trans ?_
@[simp] theorem packB_bit_40 :
    bitAt (packB op a cnd sub off1 off2) 40 = sub.getLsbD 0 := by
  unfold packB bitAt
  repeat first | exact rfl | refine (gl_hi _ _ (by decide)).trans ?_ | refine (gl_lo _ _ (by decide)).trans ?_
end Packb

section Packl
variable (op d a b : BitVec 8) (sz : BitVec 4) (hnt : BitVec 2) (inv as_ : BitVec 1) (ord sco : BitVec 3) (prm sx : BitVec 1) (off : BitVec 16)

@[simp] theorem packL_0_12 :
    fld (packL op d a b sz hnt inv as_ ord sco prm sx off) 0 12 = BitVec.extractLsb' 0 12 off := by
  unfold packL fld
  repeat first | exact ex_all _ | exact rfl | refine (ex_hi _ _ (by decide)).trans ?_ | refine (ex_lo _ _ (by decide)).trans ?_
@[simp] theorem packL_0_16 :
    fld (packL op d a b sz hnt inv as_ ord sco prm sx off) 0 16 = off := by
  unfold packL fld
  repeat first | exact ex_all _ | exact rfl | refine (ex_hi _ _ (by decide)).trans ?_ | refine (ex_lo _ _ (by decide)).trans ?_
@[simp] theorem packL_12_4 :
    fld (packL op d a b sz hnt inv as_ ord sco prm sx off) 12 4 = BitVec.extractLsb' 12 4 off := by
  unfold packL fld
  repeat first | exact ex_all _ | exact rfl | refine (ex_hi _ _ (by decide)).trans ?_ | refine (ex_lo _ _ (by decide)).trans ?_
@[simp] theorem packL_18_3 :
    fld (packL op d a b sz hnt inv as_ ord sco prm sx off) 18 3 = sco := by
  unfold packL fld
  repeat first | exact ex_all _ | exact rfl | refine (ex_hi _ _ (by decide)).trans ?_ | refine (ex_lo _ _ (by decide)).trans ?_
@[simp] theorem packL_21_3 :
    fld (packL op d a b sz hnt inv as_ ord sco prm sx off) 21 3 = ord := by
  unfold packL fld
  repeat first | exact ex_all _ | exact rfl | refine (ex_hi _ _ (by decide)).trans ?_ | refine (ex_lo _ _ (by decide)).trans ?_
@[simp] theorem packL_26_2 :
    fld (packL op d a b sz hnt inv as_ ord sco prm sx off) 26 2 = hnt := by
  unfold packL fld
  repeat first | exact ex_all _ | exact rfl | refine (ex_hi _ _ (by decide)).trans ?_ | refine (ex_lo _ _ (by decide)).trans ?_
@[simp] theorem packL_28_4 :
    fld (packL op d a b sz hnt inv as_ ord sco prm sx off) 28 4 = sz := by
  unfold packL fld
  repeat first | exact ex_all _ | exact rfl | refine (ex_hi _ _ (by decide)).trans ?_ | refine (ex_lo _ _ (by decide)).trans ?_
@[simp] theorem packL_32_8 :
    fld (packL op d a b sz hnt inv as_ ord sco prm sx off) 32 8 = b := by
  unfold packL fld
  repeat first | exact ex_all _ | exact rfl | refine (ex_hi _ _ (by decide)).trans ?_ | refine (ex_lo _ _ (by decide)).trans ?_
@[simp] theorem packL_40_8 :
    fld (packL op d a b sz hnt inv as_ ord sco prm sx off) 40 8 = a := by
  unfold packL fld
  repeat first | exact ex_all _ | exact rfl | refine (ex_hi _ _ (by decide)).trans ?_ | refine (ex_lo _ _ (by decide)).trans ?_
@[simp] theorem packL_48_6 :
    fld (packL op d a b sz hnt inv as_ ord sco prm sx off) 48 6 = BitVec.extractLsb' 0 6 d := by
  unfold packL fld
  repeat first | exact ex_all _ | exact rfl | refine (ex_hi _ _ (by decide)).trans ?_ | refine (ex_lo _ _ (by decide)).trans ?_
@[simp] theorem packL_48_8 :
    fld (packL op d a b sz hnt inv as_ ord sco prm sx off) 48 8 = d := by
  unfold packL fld
  repeat first | exact ex_all _ | exact rfl | refine (ex_hi _ _ (by decide)).trans ?_ | refine (ex_lo _ _ (by decide)).trans ?_
@[simp] theorem packL_56_8 :
    fld (packL op d a b sz hnt inv as_ ord sco prm sx off) 56 8 = op := by
  unfold packL fld
  repeat first | exact ex_all _ | exact rfl | refine (ex_hi _ _ (by decide)).trans ?_ | refine (ex_lo _ _ (by decide)).trans ?_
@[simp] theorem packL_60_4 :
    fld (packL op d a b sz hnt inv as_ ord sco prm sx off) 60 4 = BitVec.extractLsb' 4 4 op := by
  unfold packL fld
  repeat first | exact ex_all _ | exact rfl | refine (ex_hi _ _ (by decide)).trans ?_ | refine (ex_lo _ _ (by decide)).trans ?_
@[simp] theorem packL_bit_0 :
    bitAt (packL op d a b sz hnt inv as_ ord sco prm sx off) 0 = off.getLsbD 0 := by
  unfold packL bitAt
  repeat first | exact rfl | refine (gl_hi _ _ (by decide)).trans ?_ | refine (gl_lo _ _ (by decide)).trans ?_
@[simp] theorem packL_bit_16 :
    bitAt (packL op d a b sz hnt inv as_ ord sco prm sx off) 16 = sx.getLsbD 0 := by
  unfold packL bitAt
  repeat first | exact rfl | refine (gl_hi _ _ (by decide)).trans ?_ | refine (gl_lo _ _ (by decide)).trans ?_
@[simp] theorem packL_bit_17 :
    bitAt (packL op d a b sz hnt inv as_ ord sco prm sx off) 17 = prm.getLsbD 0 := by
  unfold packL bitAt
  repeat first | exact rfl | refine (gl_hi _ _ (by decide)).trans ?_ | refine (gl_lo _ _ (by decide)).trans ?_
@[simp] theorem packL_bit_24 :
    bitAt (packL op d a b sz hnt inv as_ ord sco prm sx off) 24 = as_.getLsbD 0 := by
  unfold packL bitAt
  repeat first | exact rfl | refine (gl_hi _ _ (by decide)).trans ?_ | refine (gl_lo _ _ (by decide)).trans ?_
@[simp] theorem packL_bit_25 :
    bitAt (packL op d a b sz hnt inv as_ ord sco prm sx off) 25 = inv.getLsbD 0 := by
  unfold packL bitAt
  repeat first | exact rfl | refine (gl_hi _ _ (by decide)).trans ?_ | refine (gl_lo _ _ (by decide)).trans ?_
end Packl

section Packm
variable (op : BitVec 8) (tile fa : BitVec 4) (a b c sid : BitVec 8) (keep hold : BitVec 1) (slot : BitVec 2) (imm : BitVec 12)

@[simp] theorem packM_0_5 :
    fld (packM op tile fa a b c sid keep hold slot imm) 0 5 = BitVec.extractLsb' 0 5 imm := by
  unfold packM fld
  repeat first | exact ex_all _ | exact rfl | refine (ex_hi _ _ (by decide)).trans ?_ | refine (ex_lo _ _ (by decide)).trans ?_
@[simp] theorem packM_0_12 :
    fld (packM op tile fa a b c sid keep hold slot imm) 0 12 = imm := by
  unfold packM fld
  repeat first | exact ex_all _ | exact rfl | refine (ex_hi _ _ (by decide)).trans ?_ | refine (ex_lo _ _ (by decide)).trans ?_
@[simp] theorem packM_12_2 :
    fld (packM op tile fa a b c sid keep hold slot imm) 12 2 = slot := by
  unfold packM fld
  repeat first | exact ex_all _ | exact rfl | refine (ex_hi _ _ (by decide)).trans ?_ | refine (ex_lo _ _ (by decide)).trans ?_
@[simp] theorem packM_16_6 :
    fld (packM op tile fa a b c sid keep hold slot imm) 16 6 = BitVec.extractLsb' 0 6 sid := by
  unfold packM fld
  repeat first | exact ex_all _ | exact rfl | refine (ex_hi _ _ (by decide)).trans ?_ | refine (ex_lo _ _ (by decide)).trans ?_
@[simp] theorem packM_24_6 :
    fld (packM op tile fa a b c sid keep hold slot imm) 24 6 = BitVec.extractLsb' 0 6 c := by
  unfold packM fld
  repeat first | exact ex_all _ | exact rfl | refine (ex_hi _ _ (by decide)).trans ?_ | refine (ex_lo _ _ (by decide)).trans ?_
@[simp] theorem packM_32_8 :
    fld (packM op tile fa a b c sid keep hold slot imm) 32 8 = b := by
  unfold packM fld
  repeat first | exact ex_all _ | exact rfl | refine (ex_hi _ _ (by decide)).trans ?_ | refine (ex_lo _ _ (by decide)).trans ?_
@[simp] theorem packM_40_6 :
    fld (packM op tile fa a b c sid keep hold slot imm) 40 6 = BitVec.extractLsb' 0 6 a := by
  unfold packM fld
  repeat first | exact ex_all _ | exact rfl | refine (ex_hi _ _ (by decide)).trans ?_ | refine (ex_lo _ _ (by decide)).trans ?_
@[simp] theorem packM_40_8 :
    fld (packM op tile fa a b c sid keep hold slot imm) 40 8 = a := by
  unfold packM fld
  repeat first | exact ex_all _ | exact rfl | refine (ex_hi _ _ (by decide)).trans ?_ | refine (ex_lo _ _ (by decide)).trans ?_
@[simp] theorem packM_48_4 :
    fld (packM op tile fa a b c sid keep hold slot imm) 48 4 = fa := by
  unfold packM fld
  repeat first | exact ex_all _ | exact rfl | refine (ex_hi _ _ (by decide)).trans ?_ | refine (ex_lo _ _ (by decide)).trans ?_
@[simp] theorem packM_52_4 :
    fld (packM op tile fa a b c sid keep hold slot imm) 52 4 = tile := by
  unfold packM fld
  repeat first | exact ex_all _ | exact rfl | refine (ex_hi _ _ (by decide)).trans ?_ | refine (ex_lo _ _ (by decide)).trans ?_
@[simp] theorem packM_56_8 :
    fld (packM op tile fa a b c sid keep hold slot imm) 56 8 = op := by
  unfold packM fld
  repeat first | exact ex_all _ | exact rfl | refine (ex_hi _ _ (by decide)).trans ?_ | refine (ex_lo _ _ (by decide)).trans ?_
@[simp] theorem packM_60_4 :
    fld (packM op tile fa a b c sid keep hold slot imm) 60 4 = BitVec.extractLsb' 4 4 op := by
  unfold packM fld
  repeat first | exact ex_all _ | exact rfl | refine (ex_hi _ _ (by decide)).trans ?_ | refine (ex_lo _ _ (by decide)).trans ?_
@[simp] theorem packM_bit_0 :
    bitAt (packM op tile fa a b c sid keep hold slot imm) 0 = imm.getLsbD 0 := by
  unfold packM bitAt
  repeat first | exact rfl | refine (gl_hi _ _ (by decide)).trans ?_ | refine (gl_lo _ _ (by decide)).trans ?_
@[simp] theorem packM_bit_1 :
    bitAt (packM op tile fa a b c sid keep hold slot imm) 1 = imm.getLsbD 1 := by
  unfold packM bitAt
  repeat first | exact rfl | refine (gl_hi _ _ (by decide)).trans ?_ | refine (gl_lo _ _ (by decide)).trans ?_
@[simp] theorem packM_bit_2 :
    bitAt (packM op tile fa a b c sid keep hold slot imm) 2 = imm.getLsbD 2 := by
  unfold packM bitAt
  repeat first | exact rfl | refine (gl_hi _ _ (by decide)).trans ?_ | refine (gl_lo _ _ (by decide)).trans ?_
@[simp] theorem packM_bit_14 :
    bitAt (packM op tile fa a b c sid keep hold slot imm) 14 = hold.getLsbD 0 := by
  unfold packM bitAt
  repeat first | exact rfl | refine (gl_hi _ _ (by decide)).trans ?_ | refine (gl_lo _ _ (by decide)).trans ?_
@[simp] theorem packM_bit_15 :
    bitAt (packM op tile fa a b c sid keep hold slot imm) 15 = keep.getLsbD 0 := by
  unfold packM bitAt
  repeat first | exact rfl | refine (gl_hi _ _ (by decide)).trans ?_ | refine (gl_lo _ _ (by decide)).trans ?_
end Packm

section Packe
variable (op d a b c : BitVec 8) (knd : BitVec 4) (ev hold : BitVec 1) (slot : BitVec 2) (tag : BitVec 16)

@[simp] theorem packE_0_16 :
    fld (packE op d a b c knd ev hold slot tag) 0 16 = tag := by
  unfold packE fld
  repeat first | exact ex_all _ | exact rfl | refine (ex_hi _ _ (by decide)).trans ?_ | refine (ex_lo _ _ (by decide)).trans ?_
@[simp] theorem packE_16_2 :
    fld (packE op d a b c knd ev hold slot tag) 16 2 = slot := by
  unfold packE fld
  repeat first | exact ex_all _ | exact rfl | refine (ex_hi _ _ (by decide)).trans ?_ | refine (ex_lo _ _ (by decide)).trans ?_
@[simp] theorem packE_20_4 :
    fld (packE op d a b c knd ev hold slot tag) 20 4 = knd := by
  unfold packE fld
  repeat first | exact ex_all _ | exact rfl | refine (ex_hi _ _ (by decide)).trans ?_ | refine (ex_lo _ _ (by decide)).trans ?_
@[simp] theorem packE_24_8 :
    fld (packE op d a b c knd ev hold slot tag) 24 8 = c := by
  unfold packE fld
  repeat first | exact ex_all _ | exact rfl | refine (ex_hi _ _ (by decide)).trans ?_ | refine (ex_lo _ _ (by decide)).trans ?_
@[simp] theorem packE_32_8 :
    fld (packE op d a b c knd ev hold slot tag) 32 8 = b := by
  unfold packE fld
  repeat first | exact ex_all _ | exact rfl | refine (ex_hi _ _ (by decide)).trans ?_ | refine (ex_lo _ _ (by decide)).trans ?_
@[simp] theorem packE_40_8 :
    fld (packE op d a b c knd ev hold slot tag) 40 8 = a := by
  unfold packE fld
  repeat first | exact ex_all _ | exact rfl | refine (ex_hi _ _ (by decide)).trans ?_ | refine (ex_lo _ _ (by decide)).trans ?_
@[simp] theorem packE_48_6 :
    fld (packE op d a b c knd ev hold slot tag) 48 6 = BitVec.extractLsb' 0 6 d := by
  unfold packE fld
  repeat first | exact ex_all _ | exact rfl | refine (ex_hi _ _ (by decide)).trans ?_ | refine (ex_lo _ _ (by decide)).trans ?_
@[simp] theorem packE_56_8 :
    fld (packE op d a b c knd ev hold slot tag) 56 8 = op := by
  unfold packE fld
  repeat first | exact ex_all _ | exact rfl | refine (ex_hi _ _ (by decide)).trans ?_ | refine (ex_lo _ _ (by decide)).trans ?_
@[simp] theorem packE_60_4 :
    fld (packE op d a b c knd ev hold slot tag) 60 4 = BitVec.extractLsb' 4 4 op := by
  unfold packE fld
  repeat first | exact ex_all _ | exact rfl | refine (ex_hi _ _ (by decide)).trans ?_ | refine (ex_lo _ _ (by decide)).trans ?_
@[simp] theorem packE_bit_18 :
    bitAt (packE op d a b c knd ev hold slot tag) 18 = hold.getLsbD 0 := by
  unfold packE bitAt
  repeat first | exact rfl | refine (gl_hi _ _ (by decide)).trans ?_ | refine (gl_lo _ _ (by decide)).trans ?_
@[simp] theorem packE_bit_19 :
    bitAt (packE op d a b c knd ev hold slot tag) 19 = ev.getLsbD 0 := by
  unfold packE bitAt
  repeat first | exact rfl | refine (gl_hi _ _ (by decide)).trans ?_ | refine (gl_lo _ _ (by decide)).trans ?_
@[simp] theorem packE_bit_20 :
    bitAt (packE op d a b c knd ev hold slot tag) 20 = knd.getLsbD 0 := by
  unfold packE bitAt
  repeat first | exact rfl | refine (gl_hi _ _ (by decide)).trans ?_ | refine (gl_lo _ _ (by decide)).trans ?_
end Packe

/-! ## Parts of a field -/

@[simp] theorem cat_6_2_at_0_2 (x : BitVec 6) (y : BitVec 2) : BitVec.extractLsb' 0 2 (x ++ y : BitVec 8) = y := by
  repeat first | exact ex_all _ | exact rfl | refine (ex_hi _ _ (by decide)).trans ?_ | refine (ex_lo _ _ (by decide)).trans ?_
@[simp] theorem cat_6_2_at_2_2 (x : BitVec 6) (y : BitVec 2) : BitVec.extractLsb' 2 2 (x ++ y : BitVec 8) = BitVec.extractLsb' 0 2 x := by
  repeat first | exact ex_all _ | exact rfl | refine (ex_hi _ _ (by decide)).trans ?_ | refine (ex_lo _ _ (by decide)).trans ?_
@[simp] theorem cat_6_2_at_7_1 (x : BitVec 6) (y : BitVec 2) : BitVec.extractLsb' 7 1 (x ++ y : BitVec 8) = BitVec.extractLsb' 5 1 x := by
  repeat first | exact ex_all _ | exact rfl | refine (ex_hi _ _ (by decide)).trans ?_ | refine (ex_lo _ _ (by decide)).trans ?_
@[simp] theorem cat_6_2_bit_2 (x : BitVec 6) (y : BitVec 2) : BitVec.getLsbD (x ++ y : BitVec 8) 2 = x.getLsbD 0 := by
  repeat first | exact rfl | refine (gl_hi _ _ (by decide)).trans ?_ | refine (gl_lo _ _ (by decide)).trans ?_
@[simp] theorem cat_6_2_bit_3 (x : BitVec 6) (y : BitVec 2) : BitVec.getLsbD (x ++ y : BitVec 8) 3 = x.getLsbD 1 := by
  repeat first | exact rfl | refine (gl_hi _ _ (by decide)).trans ?_ | refine (gl_lo _ _ (by decide)).trans ?_
@[simp] theorem cat_3_2_3_at_0_3 (x : BitVec 3) (y : BitVec 2) (z : BitVec 3) : BitVec.extractLsb' 0 3 (x ++ y ++ z : BitVec 8) = z := by
  repeat first | exact ex_all _ | exact rfl | refine (ex_hi _ _ (by decide)).trans ?_ | refine (ex_lo _ _ (by decide)).trans ?_
@[simp] theorem cat_3_2_3_at_3_2 (x : BitVec 3) (y : BitVec 2) (z : BitVec 3) : BitVec.extractLsb' 3 2 (x ++ y ++ z : BitVec 8) = y := by
  repeat first | exact ex_all _ | exact rfl | refine (ex_hi _ _ (by decide)).trans ?_ | refine (ex_lo _ _ (by decide)).trans ?_
@[simp] theorem cat_1_3_4_at_0_4 (x : BitVec 1) (y : BitVec 3) (z : BitVec 4) : BitVec.extractLsb' 0 4 (x ++ y ++ z : BitVec 8) = z := by
  repeat first | exact ex_all _ | exact rfl | refine (ex_hi _ _ (by decide)).trans ?_ | refine (ex_lo _ _ (by decide)).trans ?_
@[simp] theorem cat_1_3_4_at_4_3 (x : BitVec 1) (y : BitVec 3) (z : BitVec 4) : BitVec.extractLsb' 4 3 (x ++ y ++ z : BitVec 8) = y := by
  repeat first | exact ex_all _ | exact rfl | refine (ex_hi _ _ (by decide)).trans ?_ | refine (ex_lo _ _ (by decide)).trans ?_
@[simp] theorem cat_1_3_4_bit_7 (x : BitVec 1) (y : BitVec 3) (z : BitVec 4) : BitVec.getLsbD (x ++ y ++ z : BitVec 8) 7 = x.getLsbD 0 := by
  repeat first | exact rfl | refine (gl_hi _ _ (by decide)).trans ?_ | refine (gl_lo _ _ (by decide)).trans ?_
@[simp] theorem cat_2_2_2_2_at_0_2 (x : BitVec 2) (y : BitVec 2) (z : BitVec 2) (u : BitVec 2) : BitVec.extractLsb' 0 2 (x ++ y ++ z ++ u : BitVec 8) = u := by
  repeat first | exact ex_all _ | exact rfl | refine (ex_hi _ _ (by decide)).trans ?_ | refine (ex_lo _ _ (by decide)).trans ?_
@[simp] theorem cat_2_2_2_2_at_2_2 (x : BitVec 2) (y : BitVec 2) (z : BitVec 2) (u : BitVec 2) : BitVec.extractLsb' 2 2 (x ++ y ++ z ++ u : BitVec 8) = z := by
  repeat first | exact ex_all _ | exact rfl | refine (ex_hi _ _ (by decide)).trans ?_ | refine (ex_lo _ _ (by decide)).trans ?_
@[simp] theorem cat_2_2_2_2_at_4_2 (x : BitVec 2) (y : BitVec 2) (z : BitVec 2) (u : BitVec 2) : BitVec.extractLsb' 4 2 (x ++ y ++ z ++ u : BitVec 8) = y := by
  repeat first | exact ex_all _ | exact rfl | refine (ex_hi _ _ (by decide)).trans ?_ | refine (ex_lo _ _ (by decide)).trans ?_
@[simp] theorem cat_4_4_at_0_4 (x : BitVec 4) (y : BitVec 4) : BitVec.extractLsb' 0 4 (x ++ y : BitVec 8) = y := by
  repeat first | exact ex_all _ | exact rfl | refine (ex_hi _ _ (by decide)).trans ?_ | refine (ex_lo _ _ (by decide)).trans ?_
@[simp] theorem cat_4_4_bit_4 (x : BitVec 4) (y : BitVec 4) : BitVec.getLsbD (x ++ y : BitVec 8) 4 = x.getLsbD 0 := by
  repeat first | exact rfl | refine (gl_hi _ _ (by decide)).trans ?_ | refine (gl_lo _ _ (by decide)).trans ?_
@[simp] theorem cat_2_1_5_at_0_5 (x : BitVec 2) (y : BitVec 1) (z : BitVec 5) : BitVec.extractLsb' 0 5 (x ++ y ++ z : BitVec 8) = z := by
  repeat first | exact ex_all _ | exact rfl | refine (ex_hi _ _ (by decide)).trans ?_ | refine (ex_lo _ _ (by decide)).trans ?_
@[simp] theorem cat_2_1_5_at_6_2 (x : BitVec 2) (y : BitVec 1) (z : BitVec 5) : BitVec.extractLsb' 6 2 (x ++ y ++ z : BitVec 8) = x := by
  repeat first | exact ex_all _ | exact rfl | refine (ex_hi _ _ (by decide)).trans ?_ | refine (ex_lo _ _ (by decide)).trans ?_
@[simp] theorem cat_2_1_5_bit_5 (x : BitVec 2) (y : BitVec 1) (z : BitVec 5) : BitVec.getLsbD (x ++ y ++ z : BitVec 8) 5 = y.getLsbD 0 := by
  repeat first | exact rfl | refine (gl_hi _ _ (by decide)).trans ?_ | refine (gl_lo _ _ (by decide)).trans ?_
@[simp] theorem cat_3_5_at_0_5 (x : BitVec 3) (y : BitVec 5) : BitVec.extractLsb' 0 5 (x ++ y : BitVec 8) = y := by
  repeat first | exact ex_all _ | exact rfl | refine (ex_hi _ _ (by decide)).trans ?_ | refine (ex_lo _ _ (by decide)).trans ?_
@[simp] theorem cat_3_5_bit_7 (x : BitVec 3) (y : BitVec 5) : BitVec.getLsbD (x ++ y : BitVec 8) 7 = x.getLsbD 2 := by
  repeat first | exact rfl | refine (gl_hi _ _ (by decide)).trans ?_ | refine (gl_lo _ _ (by decide)).trans ?_
@[simp] theorem cat_5_3_at_0_3 (x : BitVec 5) (y : BitVec 3) : BitVec.extractLsb' 0 3 (x ++ y : BitVec 8) = y := by
  repeat first | exact ex_all _ | exact rfl | refine (ex_hi _ _ (by decide)).trans ?_ | refine (ex_lo _ _ (by decide)).trans ?_
@[simp] theorem cat_5_3_at_3_2 (x : BitVec 5) (y : BitVec 3) : BitVec.extractLsb' 3 2 (x ++ y : BitVec 8) = BitVec.extractLsb' 0 2 x := by
  repeat first | exact ex_all _ | exact rfl | refine (ex_hi _ _ (by decide)).trans ?_ | refine (ex_lo _ _ (by decide)).trans ?_
@[simp] theorem cat_5_3_at_7_1 (x : BitVec 5) (y : BitVec 3) : BitVec.extractLsb' 7 1 (x ++ y : BitVec 8) = BitVec.extractLsb' 4 1 x := by
  repeat first | exact ex_all _ | exact rfl | refine (ex_hi _ _ (by decide)).trans ?_ | refine (ex_lo _ _ (by decide)).trans ?_
@[simp] theorem cat_5_3_bit_3 (x : BitVec 5) (y : BitVec 3) : BitVec.getLsbD (x ++ y : BitVec 8) 3 = x.getLsbD 0 := by
  repeat first | exact rfl | refine (gl_hi _ _ (by decide)).trans ?_ | refine (gl_lo _ _ (by decide)).trans ?_
@[simp] theorem cat_4_12_at_0_12 (x : BitVec 4) (y : BitVec 12) : BitVec.extractLsb' 0 12 (x ++ y : BitVec 16) = y := by
  repeat first | exact ex_all _ | exact rfl | refine (ex_hi _ _ (by decide)).trans ?_ | refine (ex_lo _ _ (by decide)).trans ?_
@[simp] theorem cat_4_12_at_12_4 (x : BitVec 4) (y : BitVec 12) : BitVec.extractLsb' 12 4 (x ++ y : BitVec 16) = x := by
  repeat first | exact ex_all _ | exact rfl | refine (ex_hi _ _ (by decide)).trans ?_ | refine (ex_lo _ _ (by decide)).trans ?_
@[simp] theorem cat_7_5_at_0_5 (x : BitVec 7) (y : BitVec 5) : BitVec.extractLsb' 0 5 (x ++ y : BitVec 12) = y := by
  repeat first | exact ex_all _ | exact rfl | refine (ex_hi _ _ (by decide)).trans ?_ | refine (ex_lo _ _ (by decide)).trans ?_
@[simp] theorem cat_1_2_at_0_2 (x : BitVec 1) (y : BitVec 2) : BitVec.extractLsb' 0 2 (x ++ y : BitVec 3) = y := by
  repeat first | exact ex_all _ | exact rfl | refine (ex_hi _ _ (by decide)).trans ?_ | refine (ex_lo _ _ (by decide)).trans ?_
@[simp] theorem cat_1_2_bit_2 (x : BitVec 1) (y : BitVec 2) : BitVec.getLsbD (x ++ y : BitVec 3) 2 = x.getLsbD 0 := by
  repeat first | exact rfl | refine (gl_hi _ _ (by decide)).trans ?_ | refine (gl_lo _ _ (by decide)).trans ?_
@[simp] theorem cat_24_8_at_0_8 (x : BitVec 24) (y : BitVec 8) : BitVec.extractLsb' 0 8 (x ++ y : BitVec 32) = y := by
  repeat first | exact ex_all _ | exact rfl | refine (ex_hi _ _ (by decide)).trans ?_ | refine (ex_lo _ _ (by decide)).trans ?_
@[simp] theorem cat_2_6_at_0_6 (x : BitVec 2) (y : BitVec 6) : BitVec.extractLsb' 0 6 (x ++ y : BitVec 8) = y := by
  repeat first | exact ex_all _ | exact rfl | refine (ex_hi _ _ (by decide)).trans ?_ | refine (ex_lo _ _ (by decide)).trans ?_
@[simp] theorem cat_1_1_at_0_1 (x : BitVec 1) (y : BitVec 1) : BitVec.extractLsb' 0 1 (x ++ y : BitVec 2) = y := by
  repeat first | exact ex_all _ | exact rfl | refine (ex_hi _ _ (by decide)).trans ?_ | refine (ex_lo _ _ (by decide)).trans ?_
/-! ## Codes -/

@[simp] theorem Ty.ofCode_code (x : Ty) : Ty.ofCode x.code = x := by cases x <;> rfl
@[simp] theorem Rm.ofCode_code (x : Rm) : Rm.ofCode x.code = x := by cases x <;> rfl
@[simp] theorem Cnd.ofCode_code (x : Cnd) : Cnd.ofCode x.code = x := by cases x <;> rfl
@[simp] theorem ShiftOp.ofCode_code (x : ShiftOp) : ShiftOp.ofCode x.code = x := by cases x <;> rfl
@[simp] theorem ICond.ofCode_code (x : ICond) : ICond.ofCode x.code = x := by cases x <;> rfl
@[simp] theorem MinOp.ofCode_code (x : MinOp) : MinOp.ofCode x.code = x := by cases x <;> rfl
@[simp] theorem UniOp.ofCode_code (x : UniOp) : UniOp.ofCode x.code = x := by cases x <;> rfl
@[simp] theorem RedOp.ofCode_code (x : RedOp) : RedOp.ofCode x.code = x := by cases x <;> rfl
@[simp] theorem ShflMode.ofCode_code (x : ShflMode) : ShflMode.ofCode x.code = x := by cases x <;> rfl
@[simp] theorem Gran.ofCode_code (x : Gran) : Gran.ofCode x.code = x := by cases x <;> rfl
@[simp] theorem IdxMode.ofCode_code (x : IdxMode) : IdxMode.ofCode x.code = x := by cases x <;> rfl
@[simp] theorem FMinOp.ofCode_code (x : FMinOp) : FMinOp.ofCode x.code = x := by cases x <;> rfl
@[simp] theorem FCond.ofCode_code (x : FCond) : FCond.ofCode x.code = x := by cases x <;> rfl
@[simp] theorem SLogOp.ofCode_code (x : SLogOp) : SLogOp.ofCode x.code = x := by cases x <;> rfl
@[simp] theorem SBitOp.ofCode_code (x : SBitOp) : SBitOp.ofCode x.code = x := by cases x <;> rfl
@[simp] theorem MoviForm.ofCode_code (x : MoviForm) : MoviForm.ofCode x.code = x := by cases x <;> rfl
@[simp] theorem SwrOp.ofCode_code (x : SwrOp) : SwrOp.ofCode x.code = x := by cases x <;> rfl
@[simp] theorem EmOp.ofCode_code (x : EmOp) : EmOp.ofCode x.code = x := by cases x <;> rfl
@[simp] theorem VoteOp.ofCode_code (x : VoteOp) : VoteOp.ofCode x.code = x := by cases x <;> rfl
@[simp] theorem Sz.ofCode_code (x : Sz) : Sz.ofCode x.code = x := by cases x <;> rfl
@[simp] theorem Hint.ofCode_code (x : Hint) : Hint.ofCode x.code = x := by cases x <;> rfl
@[simp] theorem MOrd.ofCode_code (x : MOrd) : MOrd.ofCode x.code = x := by cases x <;> rfl
@[simp] theorem Scope.ofCode_code (x : Scope) : Scope.ofCode x.code = x := by cases x <;> rfl
@[simp] theorem AtomFn.ofCode_code (x : AtomFn) : AtomFn.ofCode x.code = x := by cases x <;> rfl
@[simp] theorem AtmfFn.ofCode_code (x : AtmfFn) : AtmfFn.ofCode x.code = x := by cases x <;> rfl
@[simp] theorem CmntFn.ofCode_code (x : CmntFn) : CmntFn.ofCode x.code = x := by cases x <;> rfl
@[simp] theorem BankMode.ofCode_code (x : BankMode) : BankMode.ofCode x.code = x := by cases x <;> rfl
@[simp] theorem FA.ofCode_code (x : FA) : FA.ofCode x.code = x := by cases x <;> rfl
@[simp] theorem CollKind.ofCode_code (x : CollKind) : CollKind.ofCode x.code = x := by cases x <;> rfl
@[simp] theorem SPos.ofCode_code (p : SPos) : SPos.ofCode p.code = p := by
  cases p with
  | s n => revert n; decide
  | m n => revert n; decide
  | em => rfl

@[simp] theorem Opnd.ofCode_code (o : Opnd) : Opnd.ofCode o.flag o.code = o := by
  cases o <;> simp [Opnd.ofCode, Opnd.flag, Opnd.code]

end Sys2Proof
end

