-- ==== Sys2Proof/Laws/Memory.lean ====
section
/-! SUPPORT. Memory: every operation keeps the canonical form, a read after a write gives what was written, and a write leaves
every other byte alone. -/

namespace Sys2Proof.Machine

/-! ## Reading one byte after a write -/

theorem Memory.get_above {m : Memory} {lo a : Nat} (h : Memory.above lo m = true) (ha : a < lo) :
    Memory.get m a = emptyByte := by
  induction m generalizing lo with
  | nil => rfl
  | cons c m ih =>
    obtain ⟨k, b⟩ := c
    simp only [Memory.above, Bool.and_eq_true, decide_eq_true_eq] at h
    simp only [Memory.get]
    rw [if_neg (by omega)]
    exact ih h.2 (by omega)

theorem Memory.above_mono {m : Memory} {lo hi : Nat} (h : Memory.above hi m = true) (hl : lo ≤ hi) :
    Memory.above lo m = true := by
  cases m with
  | nil => rfl
  | cons c m =>
    obtain ⟨k, b⟩ := c
    simp only [Memory.above, Bool.and_eq_true, decide_eq_true_eq] at h ⊢
    exact ⟨⟨by omega, h.1.2⟩, h.2⟩

/-- A write leaves every other byte alone, in every memory. -/
theorem Memory.get_set_ne (m : Memory) {a b : Nat} (x : Byte) (h : b ≠ a) : Memory.get (Memory.set m a x) b = Memory.get m b := by
  induction m with
  | nil => by_cases hx : x = emptyByte <;> simp [Memory.set, Memory.get, hx, Ne.symm h]
  | cons c m ih =>
    obtain ⟨k, y⟩ := c
    simp only [Memory.set]
    split
    · split <;> simp [Memory.get, Ne.symm h]
    · split
      · rename_i hk
        split
        · simp only [Memory.get, if_neg (hk ▸ Ne.symm h : k ≠ b)]
        · simp only [Memory.get, if_neg (hk ▸ Ne.symm h : k ≠ b), if_neg (Ne.symm h)]
      · simp [Memory.get, ih]

/-- A read after a write of the same byte. -/
theorem Memory.get_set_same {m : Memory} {lo : Nat} (h : Memory.above lo m = true) (a : Nat) (x : Byte) :
    Memory.get (Memory.set m a x) a = x := by
  induction m generalizing lo with
  | nil => by_cases hx : x = emptyByte <;> simp [Memory.set, Memory.get, hx]
  | cons c m ih =>
    obtain ⟨k, y⟩ := c
    simp only [Memory.above, Bool.and_eq_true, decide_eq_true_eq] at h
    simp only [Memory.set]
    split
    · rename_i hk
      split
      · rename_i hx
        rw [hx]
        simp only [Memory.get, if_neg (show k ≠ a by omega)]
        exact Memory.get_above h.2 (by omega)
      · simp [Memory.get]
    · split
      · rename_i hk
        split
        · rename_i hx
          rw [hx]
          exact Memory.get_above h.2 (by omega)
        · simp [Memory.get]
      · rename_i hk
        simp only [Memory.get, if_neg (Ne.symm hk)]
        exact ih h.2

theorem Memory.set_above {m : Memory} {lo : Nat} (h : Memory.above lo m = true) {a : Nat} (ha : lo ≤ a) (x : Byte) :
    Memory.above lo (Memory.set m a x) = true := by
  induction m generalizing lo with
  | nil => by_cases hx : x = emptyByte <;> simp [Memory.set, Memory.above, hx, ha]
  | cons c m ih =>
    obtain ⟨k, y⟩ := c
    simp only [Memory.above, Bool.and_eq_true, decide_eq_true_eq] at h
    simp only [Memory.set]
    split
    · split
      · simp [Memory.above, h.1.1, h.1.2, h.2]
      · rename_i hx
        simp only [Memory.above, Bool.and_eq_true, decide_eq_true_eq]
        exact ⟨⟨ha, by simpa using hx⟩, ⟨by omega, h.1.2⟩, h.2⟩
    · split
      · rename_i hk
        split
        · exact Memory.above_mono h.2 (by omega)
        · rename_i hx
          simp only [Memory.above, Bool.and_eq_true, decide_eq_true_eq]
          exact ⟨⟨ha, by simpa using hx⟩, hk ▸ h.2⟩
      · simp only [Memory.above, Bool.and_eq_true, decide_eq_true_eq]
        exact ⟨h.1, ih h.2 (by omega)⟩

/-! ## The canonical form is kept -/

theorem Memory.wf_nil : Memory.wf [] = true := rfl

theorem Memory.set_wf {m : Memory} (h : Memory.wf m = true) (a : Nat) (x : Byte) : Memory.wf (Memory.set m a x) = true :=
  Memory.set_above h (Nat.zero_le a) x

theorem Memory.write_wf {m : Memory} (h : Memory.wf m = true) (a : Nat) (bs : List Byte) :
    Memory.wf (Memory.write m a bs) = true := by
  induction bs generalizing m a with
  | nil => exact h
  | cons b bs ih => exact ih (Memory.set_wf h a b) (a + 1)

theorem Memory.writeMask_wf {m : Memory} (h : Memory.wf m = true) (a : Nat) (bs : List (Option Byte)) :
    Memory.wf (Memory.writeMask m a bs) = true := by
  induction bs generalizing m a with
  | nil => exact h
  | cons b bs ih =>
    cases b with
    | none => exact ih h (a + 1)
    | some b => exact ih (Memory.set_wf h a b) (a + 1)

theorem Memory.filter_above {m : Memory} {lo : Nat} (h : Memory.above lo m = true) (p : Host.Cell → Bool) :
    Memory.above lo (m.filter p) = true := by
  induction m generalizing lo with
  | nil => rfl
  | cons c m ih =>
    obtain ⟨k, y⟩ := c
    simp only [Memory.above, Bool.and_eq_true, decide_eq_true_eq] at h
    simp only [List.filter_cons]
    split
    · simp only [Memory.above, Bool.and_eq_true, decide_eq_true_eq]
      exact ⟨h.1, ih h.2⟩
    · exact Memory.above_mono (ih h.2) (by omega)

theorem Memory.clear_wf {m : Memory} (h : Memory.wf m = true) (a n : Nat) : Memory.wf (Memory.clear m a n) = true :=
  Memory.filter_above h _

theorem Memory.words_wf {m : Memory} (h : Memory.wf m = true) (a : Nat) (ws : List Word) :
    Memory.wf (Memory.words m a ws) = true := Memory.write_wf h a _

theorem Memory.setVreg_wf {m : Memory} (h : Memory.wf m = true) (a : Nat) (x : VReg) :
    Memory.wf (Memory.setVreg m a x) = true := Memory.write_wf h a _

theorem setAD_wf {m : Memory} (h : Memory.wf m = true) (l : Leaf) (d : Bool) : Memory.wf (setAD m l d) = true := by
  unfold setAD
  generalize l.word ||| 0x20 ||| (if d then 0x40 else 0) = w
  dsimp only
  by_cases hw : w = l.word
  · rw [if_pos hw]; exact h
  · rw [if_neg hw]; exact Memory.words_wf h _ _

/-! ## Reading after writes of several bytes -/

/-- A write leaves every byte outside its range alone. -/
theorem Memory.get_write_out (m : Memory) {a b : Nat} (bs : List Byte) (h : b < a ∨ a + bs.length ≤ b) :
    Memory.get (Memory.write m a bs) b = Memory.get m b := by
  induction bs generalizing m a with
  | nil => rfl
  | cons x bs ih =>
    simp only [List.length_cons] at h
    show Memory.get (Memory.write (Memory.set m a x) (a + 1) bs) b = _
    rw [ih (Memory.set m a x) (by omega), Memory.get_set_ne m x (by omega)]

/-- A write puts each byte in its place. -/
theorem Memory.get_write_in {m : Memory} (h : Memory.wf m = true) (a : Nat) (bs : List Byte) (i : Nat) (hi : i < bs.length) :
    Memory.get (Memory.write m a bs) (a + i) = bs[i] := by
  induction bs generalizing m a i with
  | nil => exact absurd hi (by simp)
  | cons x bs ih =>
    show Memory.get (Memory.write (Memory.set m a x) (a + 1) bs) (a + i) = _
    cases i with
    | zero =>
      rw [Memory.get_write_out _ bs (by omega)]
      exact Memory.get_set_same h a x
    | succ i =>
      rw [show a + (i + 1) = a + 1 + i by omega]
      exact ih (Memory.set_wf h a x) (a + 1) i (by simpa using hi)

theorem Memory.get_writeMask_out (m : Memory) {a b : Nat} (bs : List (Option Byte)) (h : b < a ∨ a + bs.length ≤ b) :
    Memory.get (Memory.writeMask m a bs) b = Memory.get m b := by
  induction bs generalizing m a with
  | nil => rfl
  | cons x bs ih =>
    simp only [List.length_cons] at h
    cases x with
    | none => exact ih m (by omega)
    | some x =>
      show Memory.get (Memory.writeMask (Memory.set m a x) (a + 1) bs) b = _
      rw [ih (Memory.set m a x) (by omega), Memory.get_set_ne m x (by omega)]

/-- A masked write puts each byte that is given in its place, and leaves the others. -/
theorem Memory.get_writeMask_in {m : Memory} (h : Memory.wf m = true) (a : Nat) (bs : List (Option Byte)) (i : Nat)
    (hi : i < bs.length) : Memory.get (Memory.writeMask m a bs) (a + i) = (bs[i]).getD (Memory.get m (a + i)) := by
  induction bs generalizing m a i with
  | nil => exact absurd hi (by simp)
  | cons x bs ih =>
    cases x with
    | none =>
      show Memory.get (Memory.writeMask m (a + 1) bs) (a + i) = _
      cases i with
      | zero => rw [Memory.get_writeMask_out _ bs (by omega)]; rfl
      | succ i =>
        rw [show a + (i + 1) = a + 1 + i by omega]
        exact ih h (a + 1) i (by simpa using hi)
    | some x =>
      show Memory.get (Memory.writeMask (Memory.set m a x) (a + 1) bs) (a + i) = _
      cases i with
      | zero =>
        rw [Memory.get_writeMask_out _ bs (by omega)]
        exact Memory.get_set_same h a x
      | succ i =>
        rw [show a + (i + 1) = a + 1 + i by omega, ih (Memory.set_wf h a x) (a + 1) i (by simpa using hi),
          Memory.get_set_ne m x (by omega)]
        rfl

@[simp] theorem Memory.read_length (m : Memory) (a n : Nat) : (Memory.read m a n).length = n := by
  induction n generalizing a with
  | zero => rfl
  | succ n ih => simp [Memory.read, ih]

/-- Byte `i` of a read. -/
theorem Memory.read_get (m : Memory) (a n i : Nat) (h : i < n) :
    (Memory.read m a n)[i]'(by simpa using h) = Memory.get m (a + i) := by
  induction n generalizing a i with
  | zero => omega
  | succ n ih =>
    cases i with
    | zero => rfl
    | succ i =>
      simp only [Memory.read, List.getElem_cons_succ]
      rw [ih (a + 1) i (by omega)]
      congr 1
      omega

/-- A read of a written range gives the bytes written. -/
theorem Memory.read_write {m : Memory} (h : Memory.wf m = true) (a : Nat) (bs : List Byte) :
    Memory.read (Memory.write m a bs) a bs.length = bs := by
  apply List.ext_getElem (by simp)
  intro i h1 h2
  rw [Memory.read_get _ _ _ _ h2, Memory.get_write_in h a bs i h2]

@[simp] theorem leBytes_length (x n : Nat) : (leBytes x n).length = n := by
  induction n generalizing x with
  | zero => rfl
  | succ n ih => simp [leBytes, ih]

/-- The number that the bytes of a number hold. -/
theorem leNat_leBytes (x n : Nat) : leNat (leBytes x n) = x % 256 ^ n := by
  induction n generalizing x with
  | zero => simp [leBytes, leNat, Nat.mod_one]
  | succ n ih =>
    simp only [leBytes, leNat, ih, BitVec.toNat_ofNat]
    have h : (256 : Nat) ^ (n + 1) = 256 * 256 ^ n := by rw [Nat.pow_succ, Nat.mul_comm]
    rw [h, Nat.mod_mul]

/-- A 64-bit word read where it was written. -/
theorem Memory.word_words_one {m : Memory} (h : Memory.wf m = true) (a : Nat) (w : Word) :
    Memory.word (Memory.words m a [w]) a = w := by
  have hr := Memory.read_write h a (leBytes w.toNat 8)
  rw [leBytes_length] at hr
  simp only [Memory.word, Memory.words, List.flatMap_cons, List.flatMap_nil, List.append_nil, hr, leNat_leBytes]
  apply BitVec.eq_of_toNat_eq
  simp only [BitVec.toNat_ofNat]
  have := w.isLt
  omega

end Sys2Proof.Machine
end

