-- ==== Sys2Proof/Laws/State.lean ====
section
/-! SUPPORT. What each update of the state leaves and what it sets, one lemma for each field; and the tables of the state. -/

namespace Sys2Proof.Machine

/-! ## Tables -/

@[simp] theorem Tbl.get_put_same {α : Type} (d : α) (t : Tbl α) (n : Nat) (x : α) : Tbl.get d (Tbl.put t n x) n = x := by
  induction t with
  | nil => simp [Tbl.put, Tbl.get]
  | cons c t ih =>
    obtain ⟨k, v⟩ := c
    simp only [Tbl.put]
    split
    · simp [Tbl.get]
    · split
      · simp [Tbl.get]
      · rename_i h
        simp [Tbl.get, Ne.symm h, ih]

theorem Tbl.get_put_ne {α : Type} (d : α) (t : Tbl α) {n m : Nat} (x : α) (h : m ≠ n) :
    Tbl.get d (Tbl.put t n x) m = Tbl.get d t m := by
  induction t with
  | nil => simp [Tbl.put, Tbl.get, Ne.symm h]
  | cons c t ih =>
    obtain ⟨k, v⟩ := c
    simp only [Tbl.put]
    split
    · simp [Tbl.get, Ne.symm h]
    · split
      · rename_i hk
        subst hk
        simp [Tbl.get, Ne.symm h]
      · simp [Tbl.get, ih]

theorem Tbl.find_map {α : Type} (f : α → α) (t : Tbl α) (n : Nat) :
    Tbl.find (t.map fun kv => (kv.1, f kv.2)) n = (Tbl.find t n).map f := by
  induction t with
  | nil => rfl
  | cons c t ih =>
    obtain ⟨k, v⟩ := c
    simp only [List.map_cons, Tbl.find]
    split
    · rfl
    · exact ih

@[simp] theorem Tbl.find_put_same {α : Type} (t : Tbl α) (n : Nat) (x : α) : Tbl.find (Tbl.put t n x) n = some x := by
  induction t with
  | nil => simp [Tbl.put, Tbl.find]
  | cons c t ih =>
    obtain ⟨k, v⟩ := c
    simp only [Tbl.put]
    split
    · simp [Tbl.find]
    · split
      · simp [Tbl.find]
      · rename_i h
        simp [Tbl.find, Ne.symm h, ih]

theorem Tbl.find_put_ne {α : Type} (t : Tbl α) {n m : Nat} (x : α) (h : m ≠ n) :
    Tbl.find (Tbl.put t n x) m = Tbl.find t m := by
  induction t with
  | nil => simp [Tbl.put, Tbl.find, Ne.symm h]
  | cons c t ih =>
    obtain ⟨k, v⟩ := c
    simp only [Tbl.put]
    split
    · simp [Tbl.find, Ne.symm h]
    · split
      · rename_i hk
        subst hk
        simp [Tbl.find, Ne.symm h]
      · simp [Tbl.find, ih]

/-! ## Updates, field by field -/

@[simp] theorem State.setRun_active (s : State) (g : Group) : (s.setRun g).active = s.active := rfl
@[simp] theorem State.setRun_run (s : State) (g : Group) : (s.setRun g).run = g := rfl
@[simp] theorem State.setRun_groups (s : State) (g : Group) : (s.setRun g).groups = s.groups := rfl
@[simp] theorem State.setRun_teams (s : State) (g : Group) : (s.setRun g).teams = s.teams := rfl
@[simp] theorem State.setRun_grids (s : State) (g : Group) : (s.setRun g).grids = s.grids := rfl
@[simp] theorem State.setRun_cores (s : State) (g : Group) : (s.setRun g).cores = s.cores := rfl
@[simp] theorem State.setRun_clusters (s : State) (g : Group) : (s.setRun g).clusters = s.clusters := rfl
@[simp] theorem State.setRun_slices (s : State) (g : Group) : (s.setRun g).slices = s.slices := rfl
@[simp] theorem State.setRun_stks (s : State) (g : Group) : (s.setRun g).stks = s.stks := rfl
@[simp] theorem State.setRun_ctxs (s : State) (g : Group) : (s.setRun g).ctxs = s.ctxs := rfl
@[simp] theorem State.setRun_streams (s : State) (g : Group) : (s.setRun g).streams = s.streams := rfl
@[simp] theorem State.setRun_engines (s : State) (g : Group) : (s.setRun g).engines = s.engines := rfl
@[simp] theorem State.setRun_matrix (s : State) (g : Group) : (s.setRun g).matrix = s.matrix := rfl
@[simp] theorem State.setRun_savedMx (s : State) (g : Group) : (s.setRun g).savedMx = s.savedMx := rfl
@[simp] theorem State.setRun_patch (s : State) (g : Group) : (s.setRun g).patch = s.patch := rfl
@[simp] theorem State.setRun_dev (s : State) (g : Group) : (s.setRun g).dev = s.dev := rfl
@[simp] theorem State.setRun_time (s : State) (g : Group) : (s.setRun g).time = s.time := rfl
@[simp] theorem State.setRun_mem (s : State) (g : Group) : (s.setRun g).mem = s.mem := rfl
@[simp] theorem State.setRun_spad (s : State) (g : Group) : (s.setRun g).spad = s.spad := rfl
@[simp] theorem State.setRun_agentCyc (s : State) (g : Group) : (s.setRun g).agentCyc = s.agentCyc := rfl
@[simp] theorem State.setRun_nextId (s : State) (g : Group) : (s.setRun g).nextId = s.nextId := rfl
@[simp] theorem State.setRun_freeCtr (s : State) (g : Group) : (s.setRun g).freeCtr = s.freeCtr := rfl
@[simp] theorem State.setRun_rotor (s : State) (g : Group) : (s.setRun g).rotor = s.rotor := rfl
@[simp] theorem State.setRun_turn (s : State) (g : Group) : (s.setRun g).turn = s.turn := rfl
@[simp] theorem State.setRun_pending (s : State) (g : Group) : (s.setRun g).pending = s.pending := rfl

@[simp] theorem State.setCore_active (s : State) (n : Nat) (c : Core) : (s.setCore n c).active = s.active := rfl
@[simp] theorem State.setCore_run (s : State) (n : Nat) (c : Core) : (s.setCore n c).run = s.run := rfl
@[simp] theorem State.setCore_groups (s : State) (n : Nat) (c : Core) : (s.setCore n c).groups = s.groups := rfl
@[simp] theorem State.setCore_teams (s : State) (n : Nat) (c : Core) : (s.setCore n c).teams = s.teams := rfl
@[simp] theorem State.setCore_grids (s : State) (n : Nat) (c : Core) : (s.setCore n c).grids = s.grids := rfl
@[simp] theorem State.setCore_cores (s : State) (n : Nat) (c : Core) : (s.setCore n c).cores = Tbl.put s.cores n c := rfl
@[simp] theorem State.setCore_clusters (s : State) (n : Nat) (c : Core) : (s.setCore n c).clusters = s.clusters := rfl
@[simp] theorem State.setCore_slices (s : State) (n : Nat) (c : Core) : (s.setCore n c).slices = s.slices := rfl
@[simp] theorem State.setCore_stks (s : State) (n : Nat) (c : Core) : (s.setCore n c).stks = s.stks := rfl
@[simp] theorem State.setCore_ctxs (s : State) (n : Nat) (c : Core) : (s.setCore n c).ctxs = s.ctxs := rfl
@[simp] theorem State.setCore_streams (s : State) (n : Nat) (c : Core) : (s.setCore n c).streams = s.streams := rfl
@[simp] theorem State.setCore_engines (s : State) (n : Nat) (c : Core) : (s.setCore n c).engines = s.engines := rfl
@[simp] theorem State.setCore_matrix (s : State) (n : Nat) (c : Core) : (s.setCore n c).matrix = s.matrix := rfl
@[simp] theorem State.setCore_savedMx (s : State) (n : Nat) (c : Core) : (s.setCore n c).savedMx = s.savedMx := rfl
@[simp] theorem State.setCore_patch (s : State) (n : Nat) (c : Core) : (s.setCore n c).patch = s.patch := rfl
@[simp] theorem State.setCore_dev (s : State) (n : Nat) (c : Core) : (s.setCore n c).dev = s.dev := rfl
@[simp] theorem State.setCore_time (s : State) (n : Nat) (c : Core) : (s.setCore n c).time = s.time := rfl
@[simp] theorem State.setCore_mem (s : State) (n : Nat) (c : Core) : (s.setCore n c).mem = s.mem := rfl
@[simp] theorem State.setCore_spad (s : State) (n : Nat) (c : Core) : (s.setCore n c).spad = s.spad := rfl
@[simp] theorem State.setCore_agentCyc (s : State) (n : Nat) (c : Core) : (s.setCore n c).agentCyc = s.agentCyc := rfl
@[simp] theorem State.setCore_nextId (s : State) (n : Nat) (c : Core) : (s.setCore n c).nextId = s.nextId := rfl
@[simp] theorem State.setCore_freeCtr (s : State) (n : Nat) (c : Core) : (s.setCore n c).freeCtr = s.freeCtr := rfl
@[simp] theorem State.setCore_rotor (s : State) (n : Nat) (c : Core) : (s.setCore n c).rotor = s.rotor := rfl
@[simp] theorem State.setCore_turn (s : State) (n : Nat) (c : Core) : (s.setCore n c).turn = s.turn := rfl
@[simp] theorem State.setCore_pending (s : State) (n : Nat) (c : Core) : (s.setCore n c).pending = s.pending := rfl

@[simp] theorem State.setCluster_active (s : State) (k : Nat) (c : Cluster) : (s.setCluster k c).active = s.active := rfl
@[simp] theorem State.setCluster_run (s : State) (k : Nat) (c : Cluster) : (s.setCluster k c).run = s.run := rfl
@[simp] theorem State.setCluster_groups (s : State) (k : Nat) (c : Cluster) : (s.setCluster k c).groups = s.groups := rfl
@[simp] theorem State.setCluster_teams (s : State) (k : Nat) (c : Cluster) : (s.setCluster k c).teams = s.teams := rfl
@[simp] theorem State.setCluster_grids (s : State) (k : Nat) (c : Cluster) : (s.setCluster k c).grids = s.grids := rfl
@[simp] theorem State.setCluster_cores (s : State) (k : Nat) (c : Cluster) : (s.setCluster k c).cores = s.cores := rfl
@[simp] theorem State.setCluster_clusters (s : State) (k : Nat) (c : Cluster) : (s.setCluster k c).clusters = Tbl.put s.clusters k c := rfl
@[simp] theorem State.setCluster_slices (s : State) (k : Nat) (c : Cluster) : (s.setCluster k c).slices = s.slices := rfl
@[simp] theorem State.setCluster_stks (s : State) (k : Nat) (c : Cluster) : (s.setCluster k c).stks = s.stks := rfl
@[simp] theorem State.setCluster_ctxs (s : State) (k : Nat) (c : Cluster) : (s.setCluster k c).ctxs = s.ctxs := rfl
@[simp] theorem State.setCluster_streams (s : State) (k : Nat) (c : Cluster) : (s.setCluster k c).streams = s.streams := rfl
@[simp] theorem State.setCluster_engines (s : State) (k : Nat) (c : Cluster) : (s.setCluster k c).engines = s.engines := rfl
@[simp] theorem State.setCluster_matrix (s : State) (k : Nat) (c : Cluster) : (s.setCluster k c).matrix = s.matrix := rfl
@[simp] theorem State.setCluster_savedMx (s : State) (k : Nat) (c : Cluster) : (s.setCluster k c).savedMx = s.savedMx := rfl
@[simp] theorem State.setCluster_patch (s : State) (k : Nat) (c : Cluster) : (s.setCluster k c).patch = s.patch := rfl
@[simp] theorem State.setCluster_dev (s : State) (k : Nat) (c : Cluster) : (s.setCluster k c).dev = s.dev := rfl
@[simp] theorem State.setCluster_time (s : State) (k : Nat) (c : Cluster) : (s.setCluster k c).time = s.time := rfl
@[simp] theorem State.setCluster_mem (s : State) (k : Nat) (c : Cluster) : (s.setCluster k c).mem = s.mem := rfl
@[simp] theorem State.setCluster_spad (s : State) (k : Nat) (c : Cluster) : (s.setCluster k c).spad = s.spad := rfl
@[simp] theorem State.setCluster_agentCyc (s : State) (k : Nat) (c : Cluster) : (s.setCluster k c).agentCyc = s.agentCyc := rfl
@[simp] theorem State.setCluster_nextId (s : State) (k : Nat) (c : Cluster) : (s.setCluster k c).nextId = s.nextId := rfl
@[simp] theorem State.setCluster_freeCtr (s : State) (k : Nat) (c : Cluster) : (s.setCluster k c).freeCtr = s.freeCtr := rfl
@[simp] theorem State.setCluster_rotor (s : State) (k : Nat) (c : Cluster) : (s.setCluster k c).rotor = s.rotor := rfl
@[simp] theorem State.setCluster_turn (s : State) (k : Nat) (c : Cluster) : (s.setCluster k c).turn = s.turn := rfl
@[simp] theorem State.setCluster_pending (s : State) (k : Nat) (c : Cluster) : (s.setCluster k c).pending = s.pending := rfl

@[simp] theorem State.setSlice_active (s : State) (k : Nat) (c : Slice) : (s.setSlice k c).active = s.active := rfl
@[simp] theorem State.setSlice_run (s : State) (k : Nat) (c : Slice) : (s.setSlice k c).run = s.run := rfl
@[simp] theorem State.setSlice_groups (s : State) (k : Nat) (c : Slice) : (s.setSlice k c).groups = s.groups := rfl
@[simp] theorem State.setSlice_teams (s : State) (k : Nat) (c : Slice) : (s.setSlice k c).teams = s.teams := rfl
@[simp] theorem State.setSlice_grids (s : State) (k : Nat) (c : Slice) : (s.setSlice k c).grids = s.grids := rfl
@[simp] theorem State.setSlice_cores (s : State) (k : Nat) (c : Slice) : (s.setSlice k c).cores = s.cores := rfl
@[simp] theorem State.setSlice_clusters (s : State) (k : Nat) (c : Slice) : (s.setSlice k c).clusters = s.clusters := rfl
@[simp] theorem State.setSlice_slices (s : State) (k : Nat) (c : Slice) : (s.setSlice k c).slices = Tbl.put s.slices k c := rfl
@[simp] theorem State.setSlice_stks (s : State) (k : Nat) (c : Slice) : (s.setSlice k c).stks = s.stks := rfl
@[simp] theorem State.setSlice_ctxs (s : State) (k : Nat) (c : Slice) : (s.setSlice k c).ctxs = s.ctxs := rfl
@[simp] theorem State.setSlice_streams (s : State) (k : Nat) (c : Slice) : (s.setSlice k c).streams = s.streams := rfl
@[simp] theorem State.setSlice_engines (s : State) (k : Nat) (c : Slice) : (s.setSlice k c).engines = s.engines := rfl
@[simp] theorem State.setSlice_matrix (s : State) (k : Nat) (c : Slice) : (s.setSlice k c).matrix = s.matrix := rfl
@[simp] theorem State.setSlice_savedMx (s : State) (k : Nat) (c : Slice) : (s.setSlice k c).savedMx = s.savedMx := rfl
@[simp] theorem State.setSlice_patch (s : State) (k : Nat) (c : Slice) : (s.setSlice k c).patch = s.patch := rfl
@[simp] theorem State.setSlice_dev (s : State) (k : Nat) (c : Slice) : (s.setSlice k c).dev = s.dev := rfl
@[simp] theorem State.setSlice_time (s : State) (k : Nat) (c : Slice) : (s.setSlice k c).time = s.time := rfl
@[simp] theorem State.setSlice_mem (s : State) (k : Nat) (c : Slice) : (s.setSlice k c).mem = s.mem := rfl
@[simp] theorem State.setSlice_spad (s : State) (k : Nat) (c : Slice) : (s.setSlice k c).spad = s.spad := rfl
@[simp] theorem State.setSlice_agentCyc (s : State) (k : Nat) (c : Slice) : (s.setSlice k c).agentCyc = s.agentCyc := rfl
@[simp] theorem State.setSlice_nextId (s : State) (k : Nat) (c : Slice) : (s.setSlice k c).nextId = s.nextId := rfl
@[simp] theorem State.setSlice_freeCtr (s : State) (k : Nat) (c : Slice) : (s.setSlice k c).freeCtr = s.freeCtr := rfl
@[simp] theorem State.setSlice_rotor (s : State) (k : Nat) (c : Slice) : (s.setSlice k c).rotor = s.rotor := rfl
@[simp] theorem State.setSlice_turn (s : State) (k : Nat) (c : Slice) : (s.setSlice k c).turn = s.turn := rfl
@[simp] theorem State.setSlice_pending (s : State) (k : Nat) (c : Slice) : (s.setSlice k c).pending = s.pending := rfl

@[simp] theorem State.setStk_active (s : State) (k : Nat) (c : Stack) : (s.setStk k c).active = s.active := rfl
@[simp] theorem State.setStk_run (s : State) (k : Nat) (c : Stack) : (s.setStk k c).run = s.run := rfl
@[simp] theorem State.setStk_groups (s : State) (k : Nat) (c : Stack) : (s.setStk k c).groups = s.groups := rfl
@[simp] theorem State.setStk_teams (s : State) (k : Nat) (c : Stack) : (s.setStk k c).teams = s.teams := rfl
@[simp] theorem State.setStk_grids (s : State) (k : Nat) (c : Stack) : (s.setStk k c).grids = s.grids := rfl
@[simp] theorem State.setStk_cores (s : State) (k : Nat) (c : Stack) : (s.setStk k c).cores = s.cores := rfl
@[simp] theorem State.setStk_clusters (s : State) (k : Nat) (c : Stack) : (s.setStk k c).clusters = s.clusters := rfl
@[simp] theorem State.setStk_slices (s : State) (k : Nat) (c : Stack) : (s.setStk k c).slices = s.slices := rfl
@[simp] theorem State.setStk_stks (s : State) (k : Nat) (c : Stack) : (s.setStk k c).stks = Tbl.put s.stks k c := rfl
@[simp] theorem State.setStk_ctxs (s : State) (k : Nat) (c : Stack) : (s.setStk k c).ctxs = s.ctxs := rfl
@[simp] theorem State.setStk_streams (s : State) (k : Nat) (c : Stack) : (s.setStk k c).streams = s.streams := rfl
@[simp] theorem State.setStk_engines (s : State) (k : Nat) (c : Stack) : (s.setStk k c).engines = s.engines := rfl
@[simp] theorem State.setStk_matrix (s : State) (k : Nat) (c : Stack) : (s.setStk k c).matrix = s.matrix := rfl
@[simp] theorem State.setStk_savedMx (s : State) (k : Nat) (c : Stack) : (s.setStk k c).savedMx = s.savedMx := rfl
@[simp] theorem State.setStk_patch (s : State) (k : Nat) (c : Stack) : (s.setStk k c).patch = s.patch := rfl
@[simp] theorem State.setStk_dev (s : State) (k : Nat) (c : Stack) : (s.setStk k c).dev = s.dev := rfl
@[simp] theorem State.setStk_time (s : State) (k : Nat) (c : Stack) : (s.setStk k c).time = s.time := rfl
@[simp] theorem State.setStk_mem (s : State) (k : Nat) (c : Stack) : (s.setStk k c).mem = s.mem := rfl
@[simp] theorem State.setStk_spad (s : State) (k : Nat) (c : Stack) : (s.setStk k c).spad = s.spad := rfl
@[simp] theorem State.setStk_agentCyc (s : State) (k : Nat) (c : Stack) : (s.setStk k c).agentCyc = s.agentCyc := rfl
@[simp] theorem State.setStk_nextId (s : State) (k : Nat) (c : Stack) : (s.setStk k c).nextId = s.nextId := rfl
@[simp] theorem State.setStk_freeCtr (s : State) (k : Nat) (c : Stack) : (s.setStk k c).freeCtr = s.freeCtr := rfl
@[simp] theorem State.setStk_rotor (s : State) (k : Nat) (c : Stack) : (s.setStk k c).rotor = s.rotor := rfl
@[simp] theorem State.setStk_turn (s : State) (k : Nat) (c : Stack) : (s.setStk k c).turn = s.turn := rfl
@[simp] theorem State.setStk_pending (s : State) (k : Nat) (c : Stack) : (s.setStk k c).pending = s.pending := rfl

@[simp] theorem State.setStream_active (s : State) (k : Nat) (c : Stream) : (s.setStream k c).active = s.active := rfl
@[simp] theorem State.setStream_run (s : State) (k : Nat) (c : Stream) : (s.setStream k c).run = s.run := rfl
@[simp] theorem State.setStream_groups (s : State) (k : Nat) (c : Stream) : (s.setStream k c).groups = s.groups := rfl
@[simp] theorem State.setStream_teams (s : State) (k : Nat) (c : Stream) : (s.setStream k c).teams = s.teams := rfl
@[simp] theorem State.setStream_grids (s : State) (k : Nat) (c : Stream) : (s.setStream k c).grids = s.grids := rfl
@[simp] theorem State.setStream_cores (s : State) (k : Nat) (c : Stream) : (s.setStream k c).cores = s.cores := rfl
@[simp] theorem State.setStream_clusters (s : State) (k : Nat) (c : Stream) : (s.setStream k c).clusters = s.clusters := rfl
@[simp] theorem State.setStream_slices (s : State) (k : Nat) (c : Stream) : (s.setStream k c).slices = s.slices := rfl
@[simp] theorem State.setStream_stks (s : State) (k : Nat) (c : Stream) : (s.setStream k c).stks = s.stks := rfl
@[simp] theorem State.setStream_ctxs (s : State) (k : Nat) (c : Stream) : (s.setStream k c).ctxs = s.ctxs := rfl
@[simp] theorem State.setStream_streams (s : State) (k : Nat) (c : Stream) : (s.setStream k c).streams = Tbl.put s.streams k c := rfl
@[simp] theorem State.setStream_engines (s : State) (k : Nat) (c : Stream) : (s.setStream k c).engines = s.engines := rfl
@[simp] theorem State.setStream_matrix (s : State) (k : Nat) (c : Stream) : (s.setStream k c).matrix = s.matrix := rfl
@[simp] theorem State.setStream_savedMx (s : State) (k : Nat) (c : Stream) : (s.setStream k c).savedMx = s.savedMx := rfl
@[simp] theorem State.setStream_patch (s : State) (k : Nat) (c : Stream) : (s.setStream k c).patch = s.patch := rfl
@[simp] theorem State.setStream_dev (s : State) (k : Nat) (c : Stream) : (s.setStream k c).dev = s.dev := rfl
@[simp] theorem State.setStream_time (s : State) (k : Nat) (c : Stream) : (s.setStream k c).time = s.time := rfl
@[simp] theorem State.setStream_mem (s : State) (k : Nat) (c : Stream) : (s.setStream k c).mem = s.mem := rfl
@[simp] theorem State.setStream_spad (s : State) (k : Nat) (c : Stream) : (s.setStream k c).spad = s.spad := rfl
@[simp] theorem State.setStream_agentCyc (s : State) (k : Nat) (c : Stream) : (s.setStream k c).agentCyc = s.agentCyc := rfl
@[simp] theorem State.setStream_nextId (s : State) (k : Nat) (c : Stream) : (s.setStream k c).nextId = s.nextId := rfl
@[simp] theorem State.setStream_freeCtr (s : State) (k : Nat) (c : Stream) : (s.setStream k c).freeCtr = s.freeCtr := rfl
@[simp] theorem State.setStream_rotor (s : State) (k : Nat) (c : Stream) : (s.setStream k c).rotor = s.rotor := rfl
@[simp] theorem State.setStream_turn (s : State) (k : Nat) (c : Stream) : (s.setStream k c).turn = s.turn := rfl
@[simp] theorem State.setStream_pending (s : State) (k : Nat) (c : Stream) : (s.setStream k c).pending = s.pending := rfl

@[simp] theorem State.setEngine_active (s : State) (k : Nat) (c : Engine) : (s.setEngine k c).active = s.active := rfl
@[simp] theorem State.setEngine_run (s : State) (k : Nat) (c : Engine) : (s.setEngine k c).run = s.run := rfl
@[simp] theorem State.setEngine_groups (s : State) (k : Nat) (c : Engine) : (s.setEngine k c).groups = s.groups := rfl
@[simp] theorem State.setEngine_teams (s : State) (k : Nat) (c : Engine) : (s.setEngine k c).teams = s.teams := rfl
@[simp] theorem State.setEngine_grids (s : State) (k : Nat) (c : Engine) : (s.setEngine k c).grids = s.grids := rfl
@[simp] theorem State.setEngine_cores (s : State) (k : Nat) (c : Engine) : (s.setEngine k c).cores = s.cores := rfl
@[simp] theorem State.setEngine_clusters (s : State) (k : Nat) (c : Engine) : (s.setEngine k c).clusters = s.clusters := rfl
@[simp] theorem State.setEngine_slices (s : State) (k : Nat) (c : Engine) : (s.setEngine k c).slices = s.slices := rfl
@[simp] theorem State.setEngine_stks (s : State) (k : Nat) (c : Engine) : (s.setEngine k c).stks = s.stks := rfl
@[simp] theorem State.setEngine_ctxs (s : State) (k : Nat) (c : Engine) : (s.setEngine k c).ctxs = s.ctxs := rfl
@[simp] theorem State.setEngine_streams (s : State) (k : Nat) (c : Engine) : (s.setEngine k c).streams = s.streams := rfl
@[simp] theorem State.setEngine_engines (s : State) (k : Nat) (c : Engine) : (s.setEngine k c).engines = Tbl.put s.engines k c := rfl
@[simp] theorem State.setEngine_matrix (s : State) (k : Nat) (c : Engine) : (s.setEngine k c).matrix = s.matrix := rfl
@[simp] theorem State.setEngine_savedMx (s : State) (k : Nat) (c : Engine) : (s.setEngine k c).savedMx = s.savedMx := rfl
@[simp] theorem State.setEngine_patch (s : State) (k : Nat) (c : Engine) : (s.setEngine k c).patch = s.patch := rfl
@[simp] theorem State.setEngine_dev (s : State) (k : Nat) (c : Engine) : (s.setEngine k c).dev = s.dev := rfl
@[simp] theorem State.setEngine_time (s : State) (k : Nat) (c : Engine) : (s.setEngine k c).time = s.time := rfl
@[simp] theorem State.setEngine_mem (s : State) (k : Nat) (c : Engine) : (s.setEngine k c).mem = s.mem := rfl
@[simp] theorem State.setEngine_spad (s : State) (k : Nat) (c : Engine) : (s.setEngine k c).spad = s.spad := rfl
@[simp] theorem State.setEngine_agentCyc (s : State) (k : Nat) (c : Engine) : (s.setEngine k c).agentCyc = s.agentCyc := rfl
@[simp] theorem State.setEngine_nextId (s : State) (k : Nat) (c : Engine) : (s.setEngine k c).nextId = s.nextId := rfl
@[simp] theorem State.setEngine_freeCtr (s : State) (k : Nat) (c : Engine) : (s.setEngine k c).freeCtr = s.freeCtr := rfl
@[simp] theorem State.setEngine_rotor (s : State) (k : Nat) (c : Engine) : (s.setEngine k c).rotor = s.rotor := rfl
@[simp] theorem State.setEngine_turn (s : State) (k : Nat) (c : Engine) : (s.setEngine k c).turn = s.turn := rfl
@[simp] theorem State.setEngine_pending (s : State) (k : Nat) (c : Engine) : (s.setEngine k c).pending = s.pending := rfl

@[simp] theorem State.setMx_active (s : State) (k : Nat) (c : Matrix) : (s.setMx k c).active = s.active := rfl
@[simp] theorem State.setMx_run (s : State) (k : Nat) (c : Matrix) : (s.setMx k c).run = s.run := rfl
@[simp] theorem State.setMx_groups (s : State) (k : Nat) (c : Matrix) : (s.setMx k c).groups = s.groups := rfl
@[simp] theorem State.setMx_teams (s : State) (k : Nat) (c : Matrix) : (s.setMx k c).teams = s.teams := rfl
@[simp] theorem State.setMx_grids (s : State) (k : Nat) (c : Matrix) : (s.setMx k c).grids = s.grids := rfl
@[simp] theorem State.setMx_cores (s : State) (k : Nat) (c : Matrix) : (s.setMx k c).cores = s.cores := rfl
@[simp] theorem State.setMx_clusters (s : State) (k : Nat) (c : Matrix) : (s.setMx k c).clusters = s.clusters := rfl
@[simp] theorem State.setMx_slices (s : State) (k : Nat) (c : Matrix) : (s.setMx k c).slices = s.slices := rfl
@[simp] theorem State.setMx_stks (s : State) (k : Nat) (c : Matrix) : (s.setMx k c).stks = s.stks := rfl
@[simp] theorem State.setMx_ctxs (s : State) (k : Nat) (c : Matrix) : (s.setMx k c).ctxs = s.ctxs := rfl
@[simp] theorem State.setMx_streams (s : State) (k : Nat) (c : Matrix) : (s.setMx k c).streams = s.streams := rfl
@[simp] theorem State.setMx_engines (s : State) (k : Nat) (c : Matrix) : (s.setMx k c).engines = s.engines := rfl
@[simp] theorem State.setMx_matrix (s : State) (k : Nat) (c : Matrix) : (s.setMx k c).matrix = Tbl.put s.matrix k c := rfl
@[simp] theorem State.setMx_savedMx (s : State) (k : Nat) (c : Matrix) : (s.setMx k c).savedMx = s.savedMx := rfl
@[simp] theorem State.setMx_patch (s : State) (k : Nat) (c : Matrix) : (s.setMx k c).patch = s.patch := rfl
@[simp] theorem State.setMx_dev (s : State) (k : Nat) (c : Matrix) : (s.setMx k c).dev = s.dev := rfl
@[simp] theorem State.setMx_time (s : State) (k : Nat) (c : Matrix) : (s.setMx k c).time = s.time := rfl
@[simp] theorem State.setMx_mem (s : State) (k : Nat) (c : Matrix) : (s.setMx k c).mem = s.mem := rfl
@[simp] theorem State.setMx_spad (s : State) (k : Nat) (c : Matrix) : (s.setMx k c).spad = s.spad := rfl
@[simp] theorem State.setMx_agentCyc (s : State) (k : Nat) (c : Matrix) : (s.setMx k c).agentCyc = s.agentCyc := rfl
@[simp] theorem State.setMx_nextId (s : State) (k : Nat) (c : Matrix) : (s.setMx k c).nextId = s.nextId := rfl
@[simp] theorem State.setMx_freeCtr (s : State) (k : Nat) (c : Matrix) : (s.setMx k c).freeCtr = s.freeCtr := rfl
@[simp] theorem State.setMx_rotor (s : State) (k : Nat) (c : Matrix) : (s.setMx k c).rotor = s.rotor := rfl
@[simp] theorem State.setMx_turn (s : State) (k : Nat) (c : Matrix) : (s.setMx k c).turn = s.turn := rfl
@[simp] theorem State.setMx_pending (s : State) (k : Nat) (c : Matrix) : (s.setMx k c).pending = s.pending := rfl

@[simp] theorem State.setCtx_active (s : State) (p x : Nat) (c : Ctx) : (s.setCtx p x c).active = s.active := rfl
@[simp] theorem State.setCtx_run (s : State) (p x : Nat) (c : Ctx) : (s.setCtx p x c).run = s.run := rfl
@[simp] theorem State.setCtx_groups (s : State) (p x : Nat) (c : Ctx) : (s.setCtx p x c).groups = s.groups := rfl
@[simp] theorem State.setCtx_teams (s : State) (p x : Nat) (c : Ctx) : (s.setCtx p x c).teams = s.teams := rfl
@[simp] theorem State.setCtx_grids (s : State) (p x : Nat) (c : Ctx) : (s.setCtx p x c).grids = s.grids := rfl
@[simp] theorem State.setCtx_cores (s : State) (p x : Nat) (c : Ctx) : (s.setCtx p x c).cores = s.cores := rfl
@[simp] theorem State.setCtx_clusters (s : State) (p x : Nat) (c : Ctx) : (s.setCtx p x c).clusters = s.clusters := rfl
@[simp] theorem State.setCtx_slices (s : State) (p x : Nat) (c : Ctx) : (s.setCtx p x c).slices = s.slices := rfl
@[simp] theorem State.setCtx_stks (s : State) (p x : Nat) (c : Ctx) : (s.setCtx p x c).stks = s.stks := rfl
@[simp] theorem State.setCtx_ctxs (s : State) (p x : Nat) (c : Ctx) : (s.setCtx p x c).ctxs = Tbl.put s.ctxs (ctxKey p x) c := rfl
@[simp] theorem State.setCtx_streams (s : State) (p x : Nat) (c : Ctx) : (s.setCtx p x c).streams = s.streams := rfl
@[simp] theorem State.setCtx_engines (s : State) (p x : Nat) (c : Ctx) : (s.setCtx p x c).engines = s.engines := rfl
@[simp] theorem State.setCtx_matrix (s : State) (p x : Nat) (c : Ctx) : (s.setCtx p x c).matrix = s.matrix := rfl
@[simp] theorem State.setCtx_savedMx (s : State) (p x : Nat) (c : Ctx) : (s.setCtx p x c).savedMx = s.savedMx := rfl
@[simp] theorem State.setCtx_patch (s : State) (p x : Nat) (c : Ctx) : (s.setCtx p x c).patch = s.patch := rfl
@[simp] theorem State.setCtx_dev (s : State) (p x : Nat) (c : Ctx) : (s.setCtx p x c).dev = s.dev := rfl
@[simp] theorem State.setCtx_time (s : State) (p x : Nat) (c : Ctx) : (s.setCtx p x c).time = s.time := rfl
@[simp] theorem State.setCtx_mem (s : State) (p x : Nat) (c : Ctx) : (s.setCtx p x c).mem = s.mem := rfl
@[simp] theorem State.setCtx_spad (s : State) (p x : Nat) (c : Ctx) : (s.setCtx p x c).spad = s.spad := rfl
@[simp] theorem State.setCtx_agentCyc (s : State) (p x : Nat) (c : Ctx) : (s.setCtx p x c).agentCyc = s.agentCyc := rfl
@[simp] theorem State.setCtx_nextId (s : State) (p x : Nat) (c : Ctx) : (s.setCtx p x c).nextId = s.nextId := rfl
@[simp] theorem State.setCtx_freeCtr (s : State) (p x : Nat) (c : Ctx) : (s.setCtx p x c).freeCtr = s.freeCtr := rfl
@[simp] theorem State.setCtx_rotor (s : State) (p x : Nat) (c : Ctx) : (s.setCtx p x c).rotor = s.rotor := rfl
@[simp] theorem State.setCtx_turn (s : State) (p x : Nat) (c : Ctx) : (s.setCtx p x c).turn = s.turn := rfl
@[simp] theorem State.setCtx_pending (s : State) (p x : Nat) (c : Ctx) : (s.setCtx p x c).pending = s.pending := rfl

@[simp] theorem State.setTeam_active (s : State) (k : Nat) (t : Team) : (s.setTeam k t).active = s.active := rfl
@[simp] theorem State.setTeam_run (s : State) (k : Nat) (t : Team) : (s.setTeam k t).run = s.run := rfl
@[simp] theorem State.setTeam_groups (s : State) (k : Nat) (t : Team) : (s.setTeam k t).groups = s.groups := rfl
@[simp] theorem State.setTeam_teams (s : State) (k : Nat) (t : Team) : (s.setTeam k t).teams = Tbl.put s.teams k t := rfl
@[simp] theorem State.setTeam_grids (s : State) (k : Nat) (t : Team) : (s.setTeam k t).grids = s.grids := rfl
@[simp] theorem State.setTeam_cores (s : State) (k : Nat) (t : Team) : (s.setTeam k t).cores = s.cores := rfl
@[simp] theorem State.setTeam_clusters (s : State) (k : Nat) (t : Team) : (s.setTeam k t).clusters = s.clusters := rfl
@[simp] theorem State.setTeam_slices (s : State) (k : Nat) (t : Team) : (s.setTeam k t).slices = s.slices := rfl
@[simp] theorem State.setTeam_stks (s : State) (k : Nat) (t : Team) : (s.setTeam k t).stks = s.stks := rfl
@[simp] theorem State.setTeam_ctxs (s : State) (k : Nat) (t : Team) : (s.setTeam k t).ctxs = s.ctxs := rfl
@[simp] theorem State.setTeam_streams (s : State) (k : Nat) (t : Team) : (s.setTeam k t).streams = s.streams := rfl
@[simp] theorem State.setTeam_engines (s : State) (k : Nat) (t : Team) : (s.setTeam k t).engines = s.engines := rfl
@[simp] theorem State.setTeam_matrix (s : State) (k : Nat) (t : Team) : (s.setTeam k t).matrix = s.matrix := rfl
@[simp] theorem State.setTeam_savedMx (s : State) (k : Nat) (t : Team) : (s.setTeam k t).savedMx = s.savedMx := rfl
@[simp] theorem State.setTeam_patch (s : State) (k : Nat) (t : Team) : (s.setTeam k t).patch = s.patch := rfl
@[simp] theorem State.setTeam_dev (s : State) (k : Nat) (t : Team) : (s.setTeam k t).dev = s.dev := rfl
@[simp] theorem State.setTeam_time (s : State) (k : Nat) (t : Team) : (s.setTeam k t).time = s.time := rfl
@[simp] theorem State.setTeam_mem (s : State) (k : Nat) (t : Team) : (s.setTeam k t).mem = s.mem := rfl
@[simp] theorem State.setTeam_spad (s : State) (k : Nat) (t : Team) : (s.setTeam k t).spad = s.spad := rfl
@[simp] theorem State.setTeam_agentCyc (s : State) (k : Nat) (t : Team) : (s.setTeam k t).agentCyc = s.agentCyc := rfl
@[simp] theorem State.setTeam_nextId (s : State) (k : Nat) (t : Team) : (s.setTeam k t).nextId = s.nextId := rfl
@[simp] theorem State.setTeam_freeCtr (s : State) (k : Nat) (t : Team) : (s.setTeam k t).freeCtr = s.freeCtr := rfl
@[simp] theorem State.setTeam_rotor (s : State) (k : Nat) (t : Team) : (s.setTeam k t).rotor = s.rotor := rfl
@[simp] theorem State.setTeam_turn (s : State) (k : Nat) (t : Team) : (s.setTeam k t).turn = s.turn := rfl
@[simp] theorem State.setTeam_pending (s : State) (k : Nat) (t : Team) : (s.setTeam k t).pending = s.pending := rfl

@[simp] theorem State.setGrid_active (s : State) (k : Nat) (x : Grid) : (s.setGrid k x).active = s.active := rfl
@[simp] theorem State.setGrid_run (s : State) (k : Nat) (x : Grid) : (s.setGrid k x).run = s.run := rfl
@[simp] theorem State.setGrid_groups (s : State) (k : Nat) (x : Grid) : (s.setGrid k x).groups = s.groups := rfl
@[simp] theorem State.setGrid_teams (s : State) (k : Nat) (x : Grid) : (s.setGrid k x).teams = s.teams := rfl
@[simp] theorem State.setGrid_grids (s : State) (k : Nat) (x : Grid) : (s.setGrid k x).grids = Tbl.put s.grids k x := rfl
@[simp] theorem State.setGrid_cores (s : State) (k : Nat) (x : Grid) : (s.setGrid k x).cores = s.cores := rfl
@[simp] theorem State.setGrid_clusters (s : State) (k : Nat) (x : Grid) : (s.setGrid k x).clusters = s.clusters := rfl
@[simp] theorem State.setGrid_slices (s : State) (k : Nat) (x : Grid) : (s.setGrid k x).slices = s.slices := rfl
@[simp] theorem State.setGrid_stks (s : State) (k : Nat) (x : Grid) : (s.setGrid k x).stks = s.stks := rfl
@[simp] theorem State.setGrid_ctxs (s : State) (k : Nat) (x : Grid) : (s.setGrid k x).ctxs = s.ctxs := rfl
@[simp] theorem State.setGrid_streams (s : State) (k : Nat) (x : Grid) : (s.setGrid k x).streams = s.streams := rfl
@[simp] theorem State.setGrid_engines (s : State) (k : Nat) (x : Grid) : (s.setGrid k x).engines = s.engines := rfl
@[simp] theorem State.setGrid_matrix (s : State) (k : Nat) (x : Grid) : (s.setGrid k x).matrix = s.matrix := rfl
@[simp] theorem State.setGrid_savedMx (s : State) (k : Nat) (x : Grid) : (s.setGrid k x).savedMx = s.savedMx := rfl
@[simp] theorem State.setGrid_patch (s : State) (k : Nat) (x : Grid) : (s.setGrid k x).patch = s.patch := rfl
@[simp] theorem State.setGrid_dev (s : State) (k : Nat) (x : Grid) : (s.setGrid k x).dev = s.dev := rfl
@[simp] theorem State.setGrid_time (s : State) (k : Nat) (x : Grid) : (s.setGrid k x).time = s.time := rfl
@[simp] theorem State.setGrid_mem (s : State) (k : Nat) (x : Grid) : (s.setGrid k x).mem = s.mem := rfl
@[simp] theorem State.setGrid_spad (s : State) (k : Nat) (x : Grid) : (s.setGrid k x).spad = s.spad := rfl
@[simp] theorem State.setGrid_agentCyc (s : State) (k : Nat) (x : Grid) : (s.setGrid k x).agentCyc = s.agentCyc := rfl
@[simp] theorem State.setGrid_nextId (s : State) (k : Nat) (x : Grid) : (s.setGrid k x).nextId = s.nextId := rfl
@[simp] theorem State.setGrid_freeCtr (s : State) (k : Nat) (x : Grid) : (s.setGrid k x).freeCtr = s.freeCtr := rfl
@[simp] theorem State.setGrid_rotor (s : State) (k : Nat) (x : Grid) : (s.setGrid k x).rotor = s.rotor := rfl
@[simp] theorem State.setGrid_turn (s : State) (k : Nat) (x : Grid) : (s.setGrid k x).turn = s.turn := rfl
@[simp] theorem State.setGrid_pending (s : State) (k : Nat) (x : Grid) : (s.setGrid k x).pending = s.pending := rfl

/-! ## Reading an entry after an update -/

@[simp] theorem State.core_setCore (s : State) (n : Nat) (c : Core) : (s.setCore n c).core n = c := Tbl.get_put_same _ _ _ _
theorem State.core_setCore_ne (s : State) {n m : Nat} (c : Core) (h : m ≠ n) : (s.setCore n c).core m = s.core m :=
  Tbl.get_put_ne _ _ _ h
@[simp] theorem State.core_setRun (s : State) (g : Group) (j : Nat) : (s.setRun g).core j = s.core j := rfl
@[simp] theorem State.core_setCluster (s : State) (k : Nat) (c : Cluster) (j : Nat) : (s.setCluster k c).core j = s.core j := rfl
@[simp] theorem State.core_setSlice (s : State) (k : Nat) (c : Slice) (j : Nat) : (s.setSlice k c).core j = s.core j := rfl
@[simp] theorem State.core_setStk (s : State) (k : Nat) (c : Stack) (j : Nat) : (s.setStk k c).core j = s.core j := rfl
@[simp] theorem State.core_setStream (s : State) (k : Nat) (c : Stream) (j : Nat) : (s.setStream k c).core j = s.core j := rfl
@[simp] theorem State.core_setEngine (s : State) (k : Nat) (c : Engine) (j : Nat) : (s.setEngine k c).core j = s.core j := rfl
@[simp] theorem State.core_setMx (s : State) (k : Nat) (c : Matrix) (j : Nat) : (s.setMx k c).core j = s.core j := rfl
@[simp] theorem State.core_setCtx (s : State) (p x : Nat) (c : Ctx) (j : Nat) : (s.setCtx p x c).core j = s.core j := rfl
@[simp] theorem State.core_setTeam (s : State) (k : Nat) (t : Team) (j : Nat) : (s.setTeam k t).core j = s.core j := rfl
@[simp] theorem State.core_setGrid (s : State) (k : Nat) (x : Grid) (j : Nat) : (s.setGrid k x).core j = s.core j := rfl

@[simp] theorem State.cluster_setCluster (s : State) (n : Nat) (c : Cluster) : (s.setCluster n c).cluster n = c := Tbl.get_put_same _ _ _ _
theorem State.cluster_setCluster_ne (s : State) {n m : Nat} (c : Cluster) (h : m ≠ n) : (s.setCluster n c).cluster m = s.cluster m :=
  Tbl.get_put_ne _ _ _ h
@[simp] theorem State.cluster_setRun (s : State) (g : Group) (j : Nat) : (s.setRun g).cluster j = s.cluster j := rfl
@[simp] theorem State.cluster_setCore (s : State) (n : Nat) (c : Core) (j : Nat) : (s.setCore n c).cluster j = s.cluster j := rfl
@[simp] theorem State.cluster_setSlice (s : State) (k : Nat) (c : Slice) (j : Nat) : (s.setSlice k c).cluster j = s.cluster j := rfl
@[simp] theorem State.cluster_setStk (s : State) (k : Nat) (c : Stack) (j : Nat) : (s.setStk k c).cluster j = s.cluster j := rfl
@[simp] theorem State.cluster_setStream (s : State) (k : Nat) (c : Stream) (j : Nat) : (s.setStream k c).cluster j = s.cluster j := rfl
@[simp] theorem State.cluster_setEngine (s : State) (k : Nat) (c : Engine) (j : Nat) : (s.setEngine k c).cluster j = s.cluster j := rfl
@[simp] theorem State.cluster_setMx (s : State) (k : Nat) (c : Matrix) (j : Nat) : (s.setMx k c).cluster j = s.cluster j := rfl
@[simp] theorem State.cluster_setCtx (s : State) (p x : Nat) (c : Ctx) (j : Nat) : (s.setCtx p x c).cluster j = s.cluster j := rfl
@[simp] theorem State.cluster_setTeam (s : State) (k : Nat) (t : Team) (j : Nat) : (s.setTeam k t).cluster j = s.cluster j := rfl
@[simp] theorem State.cluster_setGrid (s : State) (k : Nat) (x : Grid) (j : Nat) : (s.setGrid k x).cluster j = s.cluster j := rfl

@[simp] theorem State.slice_setSlice (s : State) (n : Nat) (c : Slice) : (s.setSlice n c).slice n = c := Tbl.get_put_same _ _ _ _
theorem State.slice_setSlice_ne (s : State) {n m : Nat} (c : Slice) (h : m ≠ n) : (s.setSlice n c).slice m = s.slice m :=
  Tbl.get_put_ne _ _ _ h
@[simp] theorem State.slice_setRun (s : State) (g : Group) (j : Nat) : (s.setRun g).slice j = s.slice j := rfl
@[simp] theorem State.slice_setCore (s : State) (n : Nat) (c : Core) (j : Nat) : (s.setCore n c).slice j = s.slice j := rfl
@[simp] theorem State.slice_setCluster (s : State) (k : Nat) (c : Cluster) (j : Nat) : (s.setCluster k c).slice j = s.slice j := rfl
@[simp] theorem State.slice_setStk (s : State) (k : Nat) (c : Stack) (j : Nat) : (s.setStk k c).slice j = s.slice j := rfl
@[simp] theorem State.slice_setStream (s : State) (k : Nat) (c : Stream) (j : Nat) : (s.setStream k c).slice j = s.slice j := rfl
@[simp] theorem State.slice_setEngine (s : State) (k : Nat) (c : Engine) (j : Nat) : (s.setEngine k c).slice j = s.slice j := rfl
@[simp] theorem State.slice_setMx (s : State) (k : Nat) (c : Matrix) (j : Nat) : (s.setMx k c).slice j = s.slice j := rfl
@[simp] theorem State.slice_setCtx (s : State) (p x : Nat) (c : Ctx) (j : Nat) : (s.setCtx p x c).slice j = s.slice j := rfl
@[simp] theorem State.slice_setTeam (s : State) (k : Nat) (t : Team) (j : Nat) : (s.setTeam k t).slice j = s.slice j := rfl
@[simp] theorem State.slice_setGrid (s : State) (k : Nat) (x : Grid) (j : Nat) : (s.setGrid k x).slice j = s.slice j := rfl

@[simp] theorem State.stk_setStk (s : State) (n : Nat) (c : Stack) : (s.setStk n c).stk n = c := Tbl.get_put_same _ _ _ _
theorem State.stk_setStk_ne (s : State) {n m : Nat} (c : Stack) (h : m ≠ n) : (s.setStk n c).stk m = s.stk m :=
  Tbl.get_put_ne _ _ _ h
@[simp] theorem State.stk_setRun (s : State) (g : Group) (j : Nat) : (s.setRun g).stk j = s.stk j := rfl
@[simp] theorem State.stk_setCore (s : State) (n : Nat) (c : Core) (j : Nat) : (s.setCore n c).stk j = s.stk j := rfl
@[simp] theorem State.stk_setCluster (s : State) (k : Nat) (c : Cluster) (j : Nat) : (s.setCluster k c).stk j = s.stk j := rfl
@[simp] theorem State.stk_setSlice (s : State) (k : Nat) (c : Slice) (j : Nat) : (s.setSlice k c).stk j = s.stk j := rfl
@[simp] theorem State.stk_setStream (s : State) (k : Nat) (c : Stream) (j : Nat) : (s.setStream k c).stk j = s.stk j := rfl
@[simp] theorem State.stk_setEngine (s : State) (k : Nat) (c : Engine) (j : Nat) : (s.setEngine k c).stk j = s.stk j := rfl
@[simp] theorem State.stk_setMx (s : State) (k : Nat) (c : Matrix) (j : Nat) : (s.setMx k c).stk j = s.stk j := rfl
@[simp] theorem State.stk_setCtx (s : State) (p x : Nat) (c : Ctx) (j : Nat) : (s.setCtx p x c).stk j = s.stk j := rfl
@[simp] theorem State.stk_setTeam (s : State) (k : Nat) (t : Team) (j : Nat) : (s.setTeam k t).stk j = s.stk j := rfl
@[simp] theorem State.stk_setGrid (s : State) (k : Nat) (x : Grid) (j : Nat) : (s.setGrid k x).stk j = s.stk j := rfl

@[simp] theorem State.stream_setStream (s : State) (n : Nat) (c : Stream) : (s.setStream n c).stream n = c := Tbl.get_put_same _ _ _ _
theorem State.stream_setStream_ne (s : State) {n m : Nat} (c : Stream) (h : m ≠ n) : (s.setStream n c).stream m = s.stream m :=
  Tbl.get_put_ne _ _ _ h
@[simp] theorem State.stream_setRun (s : State) (g : Group) (j : Nat) : (s.setRun g).stream j = s.stream j := rfl
@[simp] theorem State.stream_setCore (s : State) (n : Nat) (c : Core) (j : Nat) : (s.setCore n c).stream j = s.stream j := rfl
@[simp] theorem State.stream_setCluster (s : State) (k : Nat) (c : Cluster) (j : Nat) : (s.setCluster k c).stream j = s.stream j := rfl
@[simp] theorem State.stream_setSlice (s : State) (k : Nat) (c : Slice) (j : Nat) : (s.setSlice k c).stream j = s.stream j := rfl
@[simp] theorem State.stream_setStk (s : State) (k : Nat) (c : Stack) (j : Nat) : (s.setStk k c).stream j = s.stream j := rfl
@[simp] theorem State.stream_setEngine (s : State) (k : Nat) (c : Engine) (j : Nat) : (s.setEngine k c).stream j = s.stream j := rfl
@[simp] theorem State.stream_setMx (s : State) (k : Nat) (c : Matrix) (j : Nat) : (s.setMx k c).stream j = s.stream j := rfl
@[simp] theorem State.stream_setCtx (s : State) (p x : Nat) (c : Ctx) (j : Nat) : (s.setCtx p x c).stream j = s.stream j := rfl
@[simp] theorem State.stream_setTeam (s : State) (k : Nat) (t : Team) (j : Nat) : (s.setTeam k t).stream j = s.stream j := rfl
@[simp] theorem State.stream_setGrid (s : State) (k : Nat) (x : Grid) (j : Nat) : (s.setGrid k x).stream j = s.stream j := rfl

@[simp] theorem State.engine_setEngine (s : State) (n : Nat) (c : Engine) : (s.setEngine n c).engine n = c := Tbl.get_put_same _ _ _ _
theorem State.engine_setEngine_ne (s : State) {n m : Nat} (c : Engine) (h : m ≠ n) : (s.setEngine n c).engine m = s.engine m :=
  Tbl.get_put_ne _ _ _ h
@[simp] theorem State.engine_setRun (s : State) (g : Group) (j : Nat) : (s.setRun g).engine j = s.engine j := rfl
@[simp] theorem State.engine_setCore (s : State) (n : Nat) (c : Core) (j : Nat) : (s.setCore n c).engine j = s.engine j := rfl
@[simp] theorem State.engine_setCluster (s : State) (k : Nat) (c : Cluster) (j : Nat) : (s.setCluster k c).engine j = s.engine j := rfl
@[simp] theorem State.engine_setSlice (s : State) (k : Nat) (c : Slice) (j : Nat) : (s.setSlice k c).engine j = s.engine j := rfl
@[simp] theorem State.engine_setStk (s : State) (k : Nat) (c : Stack) (j : Nat) : (s.setStk k c).engine j = s.engine j := rfl
@[simp] theorem State.engine_setStream (s : State) (k : Nat) (c : Stream) (j : Nat) : (s.setStream k c).engine j = s.engine j := rfl
@[simp] theorem State.engine_setMx (s : State) (k : Nat) (c : Matrix) (j : Nat) : (s.setMx k c).engine j = s.engine j := rfl
@[simp] theorem State.engine_setCtx (s : State) (p x : Nat) (c : Ctx) (j : Nat) : (s.setCtx p x c).engine j = s.engine j := rfl
@[simp] theorem State.engine_setTeam (s : State) (k : Nat) (t : Team) (j : Nat) : (s.setTeam k t).engine j = s.engine j := rfl
@[simp] theorem State.engine_setGrid (s : State) (k : Nat) (x : Grid) (j : Nat) : (s.setGrid k x).engine j = s.engine j := rfl

@[simp] theorem State.mx_setMx (s : State) (n : Nat) (c : Matrix) : (s.setMx n c).mx n = c := Tbl.get_put_same _ _ _ _
theorem State.mx_setMx_ne (s : State) {n m : Nat} (c : Matrix) (h : m ≠ n) : (s.setMx n c).mx m = s.mx m :=
  Tbl.get_put_ne _ _ _ h
@[simp] theorem State.mx_setRun (s : State) (g : Group) (j : Nat) : (s.setRun g).mx j = s.mx j := rfl
@[simp] theorem State.mx_setCore (s : State) (n : Nat) (c : Core) (j : Nat) : (s.setCore n c).mx j = s.mx j := rfl
@[simp] theorem State.mx_setCluster (s : State) (k : Nat) (c : Cluster) (j : Nat) : (s.setCluster k c).mx j = s.mx j := rfl
@[simp] theorem State.mx_setSlice (s : State) (k : Nat) (c : Slice) (j : Nat) : (s.setSlice k c).mx j = s.mx j := rfl
@[simp] theorem State.mx_setStk (s : State) (k : Nat) (c : Stack) (j : Nat) : (s.setStk k c).mx j = s.mx j := rfl
@[simp] theorem State.mx_setStream (s : State) (k : Nat) (c : Stream) (j : Nat) : (s.setStream k c).mx j = s.mx j := rfl
@[simp] theorem State.mx_setEngine (s : State) (k : Nat) (c : Engine) (j : Nat) : (s.setEngine k c).mx j = s.mx j := rfl
@[simp] theorem State.mx_setCtx (s : State) (p x : Nat) (c : Ctx) (j : Nat) : (s.setCtx p x c).mx j = s.mx j := rfl
@[simp] theorem State.mx_setTeam (s : State) (k : Nat) (t : Team) (j : Nat) : (s.setTeam k t).mx j = s.mx j := rfl
@[simp] theorem State.mx_setGrid (s : State) (k : Nat) (x : Grid) (j : Nat) : (s.setGrid k x).mx j = s.mx j := rfl

@[simp] theorem State.team_find_setTeam (s : State) (n : Nat) (c : Team) : (s.setTeam n c).team? n = some c := Tbl.find_put_same _ _ _
@[simp] theorem State.team_find_setRun (s : State) (g : Group) (j : Nat) : (s.setRun g).team? j = s.team? j := rfl
@[simp] theorem State.team_find_setCore (s : State) (n : Nat) (c : Core) (j : Nat) : (s.setCore n c).team? j = s.team? j := rfl
@[simp] theorem State.team_find_setCluster (s : State) (k : Nat) (c : Cluster) (j : Nat) : (s.setCluster k c).team? j = s.team? j := rfl
@[simp] theorem State.team_find_setSlice (s : State) (k : Nat) (c : Slice) (j : Nat) : (s.setSlice k c).team? j = s.team? j := rfl
@[simp] theorem State.team_find_setStk (s : State) (k : Nat) (c : Stack) (j : Nat) : (s.setStk k c).team? j = s.team? j := rfl
@[simp] theorem State.team_find_setStream (s : State) (k : Nat) (c : Stream) (j : Nat) : (s.setStream k c).team? j = s.team? j := rfl
@[simp] theorem State.team_find_setEngine (s : State) (k : Nat) (c : Engine) (j : Nat) : (s.setEngine k c).team? j = s.team? j := rfl
@[simp] theorem State.team_find_setMx (s : State) (k : Nat) (c : Matrix) (j : Nat) : (s.setMx k c).team? j = s.team? j := rfl
@[simp] theorem State.team_find_setCtx (s : State) (p x : Nat) (c : Ctx) (j : Nat) : (s.setCtx p x c).team? j = s.team? j := rfl
@[simp] theorem State.team_find_setGrid (s : State) (k : Nat) (x : Grid) (j : Nat) : (s.setGrid k x).team? j = s.team? j := rfl

@[simp] theorem State.grid_find_setGrid (s : State) (n : Nat) (c : Grid) : (s.setGrid n c).grid? n = some c := Tbl.find_put_same _ _ _
@[simp] theorem State.grid_find_setRun (s : State) (g : Group) (j : Nat) : (s.setRun g).grid? j = s.grid? j := rfl
@[simp] theorem State.grid_find_setCore (s : State) (n : Nat) (c : Core) (j : Nat) : (s.setCore n c).grid? j = s.grid? j := rfl
@[simp] theorem State.grid_find_setCluster (s : State) (k : Nat) (c : Cluster) (j : Nat) : (s.setCluster k c).grid? j = s.grid? j := rfl
@[simp] theorem State.grid_find_setSlice (s : State) (k : Nat) (c : Slice) (j : Nat) : (s.setSlice k c).grid? j = s.grid? j := rfl
@[simp] theorem State.grid_find_setStk (s : State) (k : Nat) (c : Stack) (j : Nat) : (s.setStk k c).grid? j = s.grid? j := rfl
@[simp] theorem State.grid_find_setStream (s : State) (k : Nat) (c : Stream) (j : Nat) : (s.setStream k c).grid? j = s.grid? j := rfl
@[simp] theorem State.grid_find_setEngine (s : State) (k : Nat) (c : Engine) (j : Nat) : (s.setEngine k c).grid? j = s.grid? j := rfl
@[simp] theorem State.grid_find_setMx (s : State) (k : Nat) (c : Matrix) (j : Nat) : (s.setMx k c).grid? j = s.grid? j := rfl
@[simp] theorem State.grid_find_setCtx (s : State) (p x : Nat) (c : Ctx) (j : Nat) : (s.setCtx p x c).grid? j = s.grid? j := rfl
@[simp] theorem State.grid_find_setTeam (s : State) (k : Nat) (t : Team) (j : Nat) : (s.setTeam k t).grid? j = s.grid? j := rfl

@[simp] theorem State.ctx_find_setCtx (s : State) (p x : Nat) (c : Ctx) : (s.setCtx p x c).ctx? p x = some c := Tbl.find_put_same _ _ _
@[simp] theorem State.ctx_find_setRun (s : State) (g : Group) (i j : Nat) : (s.setRun g).ctx? i j = s.ctx? i j := rfl
@[simp] theorem State.desc_setRun (s : State) (g : Group) (i j : Nat) : (s.setRun g).desc i j = s.desc i j := rfl
@[simp] theorem State.ctx_find_setCore (s : State) (n : Nat) (c : Core) (i j : Nat) : (s.setCore n c).ctx? i j = s.ctx? i j := rfl
@[simp] theorem State.desc_setCore (s : State) (n : Nat) (c : Core) (i j : Nat) : (s.setCore n c).desc i j = s.desc i j := rfl
@[simp] theorem State.ctx_find_setCluster (s : State) (k : Nat) (c : Cluster) (i j : Nat) : (s.setCluster k c).ctx? i j = s.ctx? i j := rfl
@[simp] theorem State.desc_setCluster (s : State) (k : Nat) (c : Cluster) (i j : Nat) : (s.setCluster k c).desc i j = s.desc i j := rfl
@[simp] theorem State.ctx_find_setSlice (s : State) (k : Nat) (c : Slice) (i j : Nat) : (s.setSlice k c).ctx? i j = s.ctx? i j := rfl
@[simp] theorem State.desc_setSlice (s : State) (k : Nat) (c : Slice) (i j : Nat) : (s.setSlice k c).desc i j = s.desc i j := rfl
@[simp] theorem State.ctx_find_setStk (s : State) (k : Nat) (c : Stack) (i j : Nat) : (s.setStk k c).ctx? i j = s.ctx? i j := rfl
@[simp] theorem State.desc_setStk (s : State) (k : Nat) (c : Stack) (i j : Nat) : (s.setStk k c).desc i j = s.desc i j := rfl
@[simp] theorem State.ctx_find_setStream (s : State) (k : Nat) (c : Stream) (i j : Nat) : (s.setStream k c).ctx? i j = s.ctx? i j := rfl
@[simp] theorem State.desc_setStream (s : State) (k : Nat) (c : Stream) (i j : Nat) : (s.setStream k c).desc i j = s.desc i j := rfl
@[simp] theorem State.ctx_find_setEngine (s : State) (k : Nat) (c : Engine) (i j : Nat) : (s.setEngine k c).ctx? i j = s.ctx? i j := rfl
@[simp] theorem State.desc_setEngine (s : State) (k : Nat) (c : Engine) (i j : Nat) : (s.setEngine k c).desc i j = s.desc i j := rfl
@[simp] theorem State.ctx_find_setMx (s : State) (k : Nat) (c : Matrix) (i j : Nat) : (s.setMx k c).ctx? i j = s.ctx? i j := rfl
@[simp] theorem State.desc_setMx (s : State) (k : Nat) (c : Matrix) (i j : Nat) : (s.setMx k c).desc i j = s.desc i j := rfl
@[simp] theorem State.ctx_find_setTeam (s : State) (k : Nat) (t : Team) (i j : Nat) : (s.setTeam k t).ctx? i j = s.ctx? i j := rfl
@[simp] theorem State.desc_setTeam (s : State) (k : Nat) (t : Team) (i j : Nat) : (s.setTeam k t).desc i j = s.desc i j := rfl
@[simp] theorem State.ctx_find_setGrid (s : State) (k : Nat) (x : Grid) (i j : Nat) : (s.setGrid k x).ctx? i j = s.ctx? i j := rfl
@[simp] theorem State.desc_setGrid (s : State) (k : Nat) (x : Grid) (i j : Nat) : (s.setGrid k x).desc i j = s.desc i j := rfl

end Sys2Proof.Machine
end

