-- ==== Sys2Proof/Laws/Exceptions.lean ====
section
/-! SUPPORT. What a write that performs, a translation and the delivery of a trap can do: the groups, teams and descriptors they
leave, and the frame words they write. -/

namespace Sys2Proof.Machine

open Sys2Proof.Claims

/-! ## Words of memory -/

theorem Memory.get_words_out (m : Memory) {a b : Nat} (ws : List Word) (h : b < a ∨ a + 8 * ws.length ≤ b) :
    Memory.get (Memory.words m a ws) b = Memory.get m b := by
  apply Memory.get_write_out
  have hl : ∀ xs : List Word, (xs.flatMap fun w => leBytes w.toNat 8).length = 8 * xs.length := by
    intro xs
    induction xs with
    | nil => rfl
    | cons w xs ih => simp only [List.flatMap_cons, List.length_append, leBytes_length, List.length_cons, ih]; omega
  rw [hl]
  exact h

theorem Memory.word_congr {m n : Memory} {a : Nat} (h : ∀ b, a ≤ b → b < a + 8 → Memory.get m b = Memory.get n b) :
    Memory.word m a = Memory.word n a := by
  unfold Memory.word
  congr 2
  apply List.ext_getElem (by simp)
  intro i h1 h2
  have hi : i < 8 := by simpa using h1
  rw [Memory.read_get _ _ _ _ hi, Memory.read_get _ _ _ _ hi]
  exact h _ (by omega) (by omega)

theorem Memory.words_cons (m : Memory) (a : Nat) (w : Word) (ws : List Word) :
    Memory.words m a (w :: ws) = Memory.words (Memory.words m a [w]) (a + 8) ws := by
  have hw : ∀ (bs cs : List Byte) (m : Memory) (a : Nat),
      Memory.write m a (bs ++ cs) = Memory.write (Memory.write m a bs) (a + bs.length) cs := by
    intro bs
    induction bs with
    | nil => intros; rfl
    | cons b bs ih =>
      intro cs m a
      simp only [List.cons_append, Memory.write, ih, List.length_cons]
      congr 1
      omega
  simp only [Memory.words, List.flatMap_cons, List.flatMap_nil, List.append_nil, hw, leBytes_length]

/-- Each word is read where it was written. -/
theorem Memory.word_words {m : Memory} (h : Memory.wf m = true) (a : Nat) (ws : List Word) (i : Nat) (hi : i < ws.length) :
    Memory.word (Memory.words m a ws) (a + 8 * i) = ws[i] := by
  induction ws generalizing m a i with
  | nil => exact absurd hi (by simp)
  | cons w ws ih =>
    rw [Memory.words_cons]
    cases i with
    | zero =>
      rw [Memory.word_congr (n := Memory.words m a [w]) fun b h1 h2 => Memory.get_words_out _ ws (by omega)]
      exact Memory.word_words_one h a w
    | succ i =>
      rw [show a + 8 * (i + 1) = a + 8 + 8 * i by omega]
      exact ih (Memory.words_wf h a [w]) (a + 8) i (by simpa using hi)

/-! ## What is left alone -/

/-- `t` has the groups, teams, grids and descriptors of `s`, and canonical memory where `s` has it: what a write that performs and a
translation leave. -/
structure State.Served (s t : State) : Prop where
  active : t.active = s.active
  run : t.run = s.run
  groups : t.groups = s.groups
  teams : t.teams = s.teams
  grids : t.grids = s.grids
  recs : t.dev.schedRecs = s.dev.schedRecs
  frames : t.dev.frames = s.dev.frames
  desc : ∀ p x, t.desc p x = s.desc p x
  memOk : s.memOk → t.memOk

theorem State.served_refl (s : State) : s.Served s := ⟨rfl, rfl, rfl, rfl, rfl, rfl, rfl, fun _ _ => rfl, id⟩

theorem State.Served.trans {s t u : State} (h : s.Served t) (k : t.Served u) : s.Served u :=
  ⟨k.active.trans h.active, k.run.trans h.run, k.groups.trans h.groups, k.teams.trans h.teams, k.grids.trans h.grids,
   k.recs.trans h.recs, k.frames.trans h.frames, fun p x => (k.desc p x).trans (h.desc p x), fun m => k.memOk (h.memOk m)⟩

theorem State.served_setCore (s : State) (n : Nat) (c : Core) : s.Served (s.setCore n c) :=
  ⟨rfl, rfl, rfl, rfl, rfl, rfl, rfl, fun _ _ => rfl, id⟩
theorem State.served_setCluster (s : State) (n : Nat) (c : Cluster) : s.Served (s.setCluster n c) :=
  ⟨rfl, rfl, rfl, rfl, rfl, rfl, rfl, fun _ _ => rfl, id⟩
theorem State.served_setSlice (s : State) (n : Nat) (c : Slice) : s.Served (s.setSlice n c) :=
  ⟨rfl, rfl, rfl, rfl, rfl, rfl, rfl, fun _ _ => rfl, id⟩
theorem State.served_countSlice (s : State) (n ev p x k : Nat) : s.Served (s.countSlice n ev p x k) :=
  ⟨rfl, rfl, rfl, rfl, rfl, rfl, rfl, fun _ _ => rfl, id⟩
theorem State.served_postSystem (s : State) (k : Nat) (r : BitVec 128) : s.Served (s.postSystem k r) :=
  ⟨rfl, rfl, rfl, rfl, rfl, rfl, rfl, fun _ _ => rfl, id⟩

theorem State.desc_setCtx (s : State) (part ctx : Nat) (c d : Ctx) (h : s.ctx? part ctx = some c) (hd : d.desc = c.desc) (p x : Nat) :
    (s.setCtx part ctx d).desc p x = s.desc p x := by
  by_cases hk : ctxKey p x = ctxKey part ctx
  · simp only [State.desc, State.ctx?, State.setCtx, hk, Tbl.find_put_same]
    unfold State.ctx? at h
    rw [h, hd]
  · simp only [State.desc, State.ctx?, State.setCtx, Tbl.find_put_ne _ _ hk]

theorem State.served_setCtx (s : State) {part ctx : Nat} {c : Ctx} (d : Ctx) (h : s.ctx? part ctx = some c) (hd : d.desc = c.desc) :
    s.Served (s.setCtx part ctx d) :=
  ⟨rfl, rfl, rfl, rfl, rfl, rfl, rfl, fun p x => State.desc_setCtx s part ctx c d h hd p x, id⟩

/-- Writing the memory of a state. -/
theorem State.served_mem (s : State) (m : Memory) (h : Memory.wf s.mem = true → Memory.wf m = true) : s.Served { s with mem := m } :=
  ⟨rfl, rfl, rfl, rfl, rfl, rfl, rfl, fun _ _ => rfl, fun k => ⟨h k.1, k.2⟩⟩

theorem State.served_freeRegs (s : State) (n : Nat) : s.Served (s.freeRegs n) := State.served_setCore _ _ _

theorem State.served_freeAll (s : State) : s.Served s.freeAll := by
  unfold State.freeAll
  generalize s.cores = xs
  induction xs generalizing s with
  | nil => exact s.served_refl
  | cons x xs ih => exact (s.served_freeRegs x.1).trans (ih _)

@[simp] theorem Ctx.discard_desc (c : Ctx) (w : BitVec 16) : (c.discard w).desc = c.desc := rfl
theorem Ctx.commitOldest_desc (c : Ctx) : c.commitOldest.desc = c.desc := by unfold Ctx.commitOldest; split <;> rfl
theorem Ctx.watermark_desc (hwm n : Nat) (c : Ctx) : (Ctx.watermark hwm n c).desc = c.desc := by
  induction n generalizing c with
  | zero => rfl
  | succ n ih =>
    unfold Ctx.watermark
    split
    · rw [ih, c.commitOldest_desc]
    · rfl

theorem State.served_keepHeaders (s : State) (a : Nat) : s.Served (s.keepHeaders a) := by
  unfold State.keepHeaders
  split
  · exact State.served_mem s _ fun w => Memory.words_wf w _ _
  · exact s.served_refl

theorem State.served_forgetLine (s : State) (line : Nat) : s.Served (s.forgetLine line) := by
  refine ⟨rfl, rfl, rfl, rfl, rfl, rfl, rfl, fun p x => ?_, id⟩
  simp only [State.desc, State.ctx?, State.forgetLine]
  rw [Tbl.find_map fun c : Ctx => { c with captured := c.captured.filter fun a => a / 128 * 128 != line }]
  cases Tbl.find s.ctxs (ctxKey p x) <;> rfl

theorem State.served_touchSlice (s : State) (line : Nat) (need : BitVec 4) (part ctx : Nat) (h : Hint) :
    s.Served (s.touchSlice line need part ctx h) := by
  unfold State.touchSlice
  dsimp only
  split
  · exact State.served_setSlice ..
  · split
    · exact (State.served_setSlice ..).trans (State.served_setSlice ..)
    · split
      · exact ((State.served_setSlice ..).trans (State.served_setSlice ..)).trans (State.served_forgetLine ..)
      · exact (State.served_setSlice ..).trans (State.served_setSlice ..)

theorem State.served_setCtxLog (s : State) {part ctx : Nat} {c : Ctx} (d : Ctx) (h : s.ctx? part ctx = some c) (hd : d.desc = c.desc) :
    s.Served (s.setCtxLog part ctx d) := by
  unfold State.setCtxLog
  dsimp only
  split
  · have hw : s.Served { s.setCtx part ctx { Ctx.watermark (s.logHwm d) 16 d with due := false } with
        mem := Memory.words s.mem (Ctx.watermark (s.logHwm d) 16 d).logBase
          ((Ctx.watermark (s.logHwm d) 16 d).header (Memory.word s.mem ((Ctx.watermark (s.logHwm d) 16 d).logBase + 8))) } :=
      (State.served_setCtx s { Ctx.watermark (s.logHwm d) 16 d with due := false } h
        ((Ctx.watermark_desc _ _ d).trans hd)).trans (State.served_mem _ _ fun w => Memory.words_wf w _ _)
    split
    · exact hw.trans (State.served_freeAll _)
    · exact hw
  · exact State.served_setCtx s d h hd

@[simp] theorem Ctx.gather_desc (c : Ctx) (seg : Nat) (r : BitVec 512) (now : Nat) : (c.gather seg r now).desc = c.desc := rfl

theorem State.served_logFull (s : State) {part ctx : Nat} {c : Ctx} (h : s.ctx? part ctx = some c) : s.Served (s.logFull part ctx c) := by
  unfold State.logFull
  split
  · exact State.served_setCtxLog s _ h c.commitOldest_desc
  · split
    · exact State.served_setCtx s c h rfl
    · exact (State.served_setCtxLog s { c with full := true } h rfl).trans (State.served_postSystem _ _ _)

theorem State.served_mark (s : State) (part ctx cause a : Nat) : s.Served (s.mark part ctx cause a) := by
  unfold State.mark
  split
  · exact s.served_refl
  · rename_i c h
    dsimp only
    split
    · exact (s.served_setSlice _ _).trans (State.served_setCtxLog (s.setSlice _ _) (c := c) _ h rfl)
    · exact s.served_refl

theorem State.served_performSector (s : State) (pa : Nat) (data : List (Option Byte)) (cap : Bool) (part ctx grid : Nat) :
    s.Served (s.performSector pa data cap part ctx grid) := by
  have write (t : State) : t.Served ({ t with mem := Memory.writeMask t.mem pa data }.keepHeaders (pa / 32 * 32)) :=
    (State.served_mem t _ fun w => Memory.writeMask_wf w _ _).trans (State.served_keepHeaders _ _)
  unfold State.performSector
  dsimp only
  split
  · split
    · exact write s
    · rename_i c h
      split
      · exact State.served_logFull s h
      · refine State.Served.trans ?_ (write _)
        refine State.Served.trans ?_ (State.served_setCtxLog _ _ (c := c) h rfl)
        exact (State.served_setSlice _ _ _).trans (State.served_countSlice _ _ _ _ _ _)
  · exact write s

theorem State.served_perform (s : State) (pa : Nat) (data : List (Option Byte)) (cap : Bool) (part ctx grid : Nat) :
    s.Served (s.perform pa data cap part ctx grid) := by
  unfold State.perform
  generalize splitSectors (data.length + 1) pa data = xs
  induction xs generalizing s with
  | nil => exact s.served_refl
  | cons x xs ih => exact (State.served_performSector s _ _ _ _ _ _).trans (ih _)

theorem State.served_writeWords (s : State) (pa : Nat) (ws : List Word) : s.Served (s.writeWords pa ws) :=
  State.served_mem s _ fun w => Memory.words_wf w _ _

theorem State.served_bufPerform (s : State) (core i : Nat) : s.Served (s.bufPerform core i) := by
  unfold State.bufPerform
  dsimp only
  split
  · exact s.served_refl
  · split
    · exact s.served_refl
    split
    · exact State.served_setCore ..
    split
    · have hp := fun (c : Core) pa data cap p x g l n p' x' h => (s.served_setCore core c).trans
        ((State.served_perform _ pa data cap p x g).trans (State.served_touchSlice _ l n p' x' h))
      split
      · exact (hp ..).trans (State.served_mark ..)
      · exact hp ..
    · split
      · rename_i h
        exact (State.served_setCore s core _).trans (State.served_logFull _ h)
      · exact s.served_refl

theorem State.served_drainFrom (s : State) (core n : Nat) : s.Served (s.drainFrom core n) := by
  induction n generalizing s with
  | zero => exact s.served_refl
  | succ n ih =>
    unfold State.drainFrom
    dsimp only
    split
    · exact ih s
    · exact (State.served_bufPerform s core _).trans (ih _)

theorem State.served_drainBuf (s : State) (core : Nat) : s.Served (s.drainBuf core) := State.served_drainFrom s core _

theorem State.served_install (s : State) (core : Nat) (e : TlbEntry) : s.Served (s.install core e) :=
  ⟨rfl, rfl, rfl, rfl, rfl, rfl, rfl, fun _ _ => rfl, id⟩

theorem State.served_walkInstall (s : State) (core part ctx va : Nat) (acc : Access) (user : Bool) :
    s.Served (s.walkInstall core part ctx va acc user).1 := by
  unfold State.walkInstall
  dsimp only
  split
  · exact s.served_refl
  · split
    · exact ⟨rfl, rfl, rfl, rfl, rfl, rfl, rfl, fun _ _ => rfl, fun k => ⟨setAD_wf k.1 _ _, k.2⟩⟩
    · exact s.served_refl

theorem State.served_cached (s : State) (core asid va : Nat) {t : State} {e : TlbEntry} (h : s.cached core asid va = some (t, e)) :
    s.Served t := by
  unfold State.cached at h
  dsimp only at h
  split at h
  · cases h; exact s.served_setCore _ _
  · cases hf : tlbFind (s.cluster (core / 24)).tlb asid va with
    | none => rw [hf] at h; cases h
    | some x => rw [hf] at h; cases h; exact s.served_install _ _

/-- A translation leaves the groups, teams and descriptors, and keeps memory canonical. -/
theorem State.served_translate (s : State) (core part ctx va : Nat) (acc : Access) (user : Bool) :
    s.Served (s.translate core part ctx va acc user).1 := by
  unfold State.translate
  dsimp only
  split
  · exact State.served_walkInstall ..
  · rename_i t e h
    have ht := State.served_cached s core _ va h
    split
    · exact ht
    · split
      · split
        · exact ht.trans (State.served_walkInstall ..)
        · split
          · exact ht.trans ⟨rfl, rfl, rfl, rfl, rfl, rfl, rfl, fun _ _ => rfl, fun k => ⟨setAD_wf k.1 _ _, k.2⟩⟩
          · exact ht.trans (State.served_walkInstall ..)
      · exact ht

theorem State.served_codeWord (s : State) (va : Addr) : s.Served (s.codeWord va).1 := by
  have h := State.served_translate s s.run.core s.run.part s.run.ctx va.toNat .ex (!s.isSup s.run)
  unfold State.codeWord
  dsimp only
  split
  · rename_i s1 pa e
    rw [e] at h
    split
    · split <;> exact h
    · exact h
  · rename_i s1 er e
    rw [e] at h
    exact h

/-! ## Frames -/

/-- The words of a frame hold what R376 says. -/
theorem frameWords_holds (g : Group) (x : Trap) (busy nest : Bool) : frameHolds (fun i => (frameWords g x busy nest).getD i 0) g x busy nest := by
  have lo : ∀ {m w : Nat} (a : BitVec m) (b : BitVec w), (a ++ b).extractLsb' 0 w = b := fun a b => by
    ext i h; simp [BitVec.getLsbD_append, h]
  have mid : ∀ {m w : Nat} (a : BitVec m) (b : BitVec w) (i n : Nat), (a ++ b).extractLsb' (w + i) n = a.extractLsb' i n := fun a b i n => by
    ext j h; simp [BitVec.getLsbD_append, Nat.add_assoc]
  have hi : ∀ {m w : Nat} (a : BitVec m) (b : BitVec w), (a ++ b).extractLsb' w m = a := fun {m w} a b => by
    refine (mid a b 0 m).trans ?_; ext i h; simp
  have r8 : ∀ n, n < 32 → (BitVec.ofNat 8 n).extractLsb' 5 3 = 0 ∧ (BitVec.ofNat 8 n).extractLsb' 0 5 = BitVec.ofNat 5 n := by decide
  have r32 : ∀ n, n < 32 → (BitVec.ofNat 32 n).extractLsb' 5 27 = 0 ∧ (BitVec.ofNat 32 n).extractLsb' 0 5 = BitVec.ofNat 5 n := by decide
  have m5 : ∀ n, BitVec.ofNat 5 (n % 32) = BitVec.ofNat 5 n := fun n => BitVec.eq_of_toNat_eq (by simp)
  have hm : ∀ n, n % 32 < 32 := fun n => Nat.mod_lt _ (by decide)
  refine ⟨hi _ _, lo _ _, (mid _ _ 5 3).trans (r8 _ (hm _)).1, (mid _ _ 0 5).trans ((r8 _ (hm _)).2.trans (m5 _)), lo _ _, hi _ _, lo _ _, rfl,
    (mid _ _ 5 27).trans (r32 _ (hm _)).1, (mid _ _ 0 5).trans ((r32 _ (hm _)).2.trans (m5 _)), lo _ _, rfl, ?_, ?_, ?_, ?_, fun i h1 h2 => ?_⟩
  · show (BitVec.ofNat 64 _).extractLsb' 3 61 = 0
    cases busy <;> cases nest <;> cases g.mmode <;> decide
  · show (BitVec.ofNat 64 _).getLsbD 2 = nest
    cases busy <;> cases nest <;> cases g.mmode <;> decide
  · show (BitVec.ofNat 64 _).getLsbD 1 = busy
    cases busy <;> cases nest <;> cases g.mmode <;> decide
  · show (BitVec.ofNat 64 _).getLsbD 0 = g.mmode
    cases busy <;> cases nest <;> cases g.mmode <;> decide
  · interval_cases i <;> rfl

theorem frameHolds_congr {u v : Nat → Word} {g : Group} {x : Trap} {busy nest : Bool} (h : frameHolds u g x busy nest)
    (e : ∀ i, i < 16 → v i = u i) : frameHolds v g x busy nest := by
  have low (k : Fin 16) : v k = u k := e k k.isLt
  have high : (∀ i, 7 ≤ i → i < 16 → v i = 0) ↔ ∀ i, 7 ≤ i → i < 16 → u i = 0 :=
    forall_congr' fun i => imp_congr_right fun _ => forall_congr' fun b => by rw [e i b]
  unfold frameHolds at h ⊢
  rw [show v 0 = u 0 from low 0, show v 1 = u 1 from low 1, show v 2 = u 2 from low 2, show v 3 = u 3 from low 3,
    show v 4 = u 4 from low 4, show v 5 = u 5 from low 5, show v 6 = u 6 from low 6, high]
  exact h

/-- A frame written to memory reads back as R376 says. -/
theorem frame_in_memory {m : Memory} (h : Memory.wf m = true) (a : Nat) (g : Group) (x : Trap) (busy nest : Bool) :
    frameHolds (fun i => Memory.word (Memory.words m a (frameWords g x busy nest)) (a + 8 * i)) g x busy nest := by
  refine frameHolds_congr (frameWords_holds g x busy nest) fun i hi => ?_
  have hl : i < (frameWords g x busy nest).length := hi
  rw [Memory.word_words h a _ i hl]
  simp [List.getD, hl]

theorem putFrame_ne (t : Tbl Word) (off k : Nat) (ws : List Word) (h : k < off) : Tbl.get 0 (putFrame t off ws) k = Tbl.get 0 t k := by
  induction ws generalizing t off with
  | nil => rfl
  | cons w ws ih => rw [putFrame, ih _ _ (by omega), Tbl.get_put_ne _ _ _ (by omega)]

theorem putFrame_get (t : Tbl Word) (off : Nat) (ws : List Word) (i : Nat) (h : i < ws.length) :
    Tbl.get 0 (putFrame t off ws) (off + 8 * i) = ws[i] := by
  induction ws generalizing t off i with
  | nil => exact absurd h (by simp)
  | cons w ws ih =>
    cases i with
    | zero => rw [putFrame, putFrame_ne _ _ _ _ (by omega)]; exact Tbl.get_put_same ..
    | succ i =>
      rw [putFrame, show off + 8 * (i + 1) = off + 8 + 8 * i by omega]
      exact ih _ _ i (by simpa using h)

/-- A frame written to the registers of a core agent reads back as R376 says. -/
theorem frame_in_registers (t : Tbl Word) (a : Nat) (g : Group) (x : Trap) (busy nest : Bool) :
    frameHolds (fun i => Tbl.get 0 (putFrame t a (frameWords g x busy nest)) (a + 8 * i)) g x busy nest := by
  refine frameHolds_congr (frameWords_holds g x busy nest) fun i hi => ?_
  have hl : i < (frameWords g x busy nest).length := hi
  rw [putFrame_get t a _ i hl]
  simp [List.getD, hl]

theorem Group.enter_eq (g : Group) (f : Nat) (a : Addr) : g.enter f a = inHandlerAt g f a := rfl

/-- Seven fields laid out one above the other, the lowest merged with another value. -/
theorem fields_of_append (a b : BitVec 32) (c : BitVec 12) (d : BitVec 8) (e : BitVec 4) (f : BitVec 8) (n : BitVec 32) :
    let r : BitVec (32 + 32 + 12 + 8 + 4 + 8 + 32) := (a ++ b ++ c ++ d ++ e ++ f ++ 0#32) ||| n.setWidth _
    r.extractLsb' 0 32 = n ∧ r.extractLsb' 32 8 = f ∧ r.extractLsb' 40 4 = e ∧ r.extractLsb' 44 8 = d ∧ r.extractLsb' 52 12 = c ∧
    r.extractLsb' 64 32 = b ∧ r.extractLsb' 96 32 = a := by
  refine ⟨?_, ?_, ?_, ?_, ?_, ?_, ?_⟩
  all_goals
    ext i h
    simp only [BitVec.getElem_extractLsb', BitVec.getLsbD_or, BitVec.getLsbD_append, BitVec.getLsbD_setWidth]
    repeat (first | rw [if_pos (by omega)] | rw [if_neg (by omega)])
    try rw [BitVec.getLsbD_of_ge n _ (by omega)]
    simp [h]
    try first | omega | (rw [BitVec.getLsbD_eq_getElem (by omega)]; congr 1; omega)

/-- A record's fields, whatever its sequence number (R288). -/
theorem mkRecord_fields (tag seq stream src kind status : Nat) (n : BitVec 32) :
    let r := mkRecord tag seq stream src kind status ||| n.setWidth 128
    r.extractLsb' 0 32 = n ∧ r.extractLsb' 32 8 = BitVec.ofNat 8 status ∧ r.extractLsb' 40 4 = BitVec.ofNat 4 kind ∧
    r.extractLsb' 44 8 = BitVec.ofNat 8 src ∧ r.extractLsb' 52 12 = BitVec.ofNat 12 stream ∧
    r.extractLsb' 64 32 = BitVec.ofNat 32 seq ∧ r.extractLsb' 96 32 = BitVec.ofNat 32 tag :=
  fields_of_append _ _ _ _ _ _ n

theorem tag_fields {core slot ctx part : Nat} (h1 : core < 512) (h2 : slot < 64) (h3 : ctx < 64) (h4 : part < 64) :
    let t := BitVec.ofNat 32 (core + slot * 2 ^ 9 + ctx * 2 ^ 15 + part * 2 ^ 21)
    t.extractLsb' 0 9 = BitVec.ofNat 9 core ∧ t.extractLsb' 9 6 = BitVec.ofNat 6 slot ∧ t.extractLsb' 15 6 = BitVec.ofNat 6 ctx ∧
    t.extractLsb' 21 6 = BitVec.ofNat 6 part ∧ t.extractLsb' 27 5 = 0 := by
  refine ⟨?_, ?_, ?_, ?_, ?_⟩
  all_goals
    apply BitVec.eq_of_toNat_eq
    rw [BitVec.extractLsb'_toNat, BitVec.toNat_ofNat, Nat.shiftRight_eq_div_pow]
    try rw [BitVec.toNat_ofNat]
    simp only [Nat.reducePow]
    first | omega | (show _ = 0; omega)

/-- The record of a trap has the fields of R288 and R377, whatever its sequence number. -/
theorem trapRecord_recordOf (s : State) (g : Group) (cause : Nat) (n : BitVec 32) :
    recordOf s g cause (s.trapRecord g cause ||| n.setWidth 128) := by
  obtain ⟨-, h2, h3, h4, h5, h6, h7⟩ := mkRecord_fields g.tag (s.launchOf g).2 (s.launchOf g).1 0xFF 3 cause n
  have e : s.trapRecord g cause = mkRecord g.tag (s.launchOf g).2 (s.launchOf g).1 0xFF 3 cause := rfl
  rw [← e] at h2 h3 h4 h5 h6 h7
  have up : ∀ (r : BitVec 128) (i k : Nat), i + k ≤ 32 → (r.extractLsb' 96 32).extractLsb' i k = r.extractLsb' (96 + i) k := by
    intro r i k hk
    ext j h
    simp [show i + j < 32 by omega, Nat.add_assoc]
  refine ⟨h3, h4, h2, h5, h6, fun k1 k2 k3 k4 => ?_⟩
  obtain ⟨t1, t2, t3, t4, t5⟩ := tag_fields k1 k2 k3 k4
  have et : BitVec.ofNat 32 g.tag = BitVec.ofNat 32 (g.core + g.slot * 2 ^ 9 + g.ctx * 2 ^ 15 + g.part * 2 ^ 21) := rfl
  rw [et] at h7
  rw [← h7] at t1 t2 t3 t4 t5
  rw [up _ _ _ (by decide)] at t1 t2 t3 t4 t5
  exact ⟨t1, t2, t3, t4, t5⟩

@[simp] theorem State.writeWords_mem (s : State) (pa : Nat) (ws : List Word) : (s.writeWords pa ws).mem = Memory.words s.mem pa ws := rfl
/-- The engines look at their tables: nothing else changes. -/
theorem State.mxRefreshAll_matrix (s : State) : s.mxRefreshAll = { s with matrix := s.mxRefreshAll.matrix } := by
  unfold State.mxRefreshAll
  generalize s.matrix = xs
  induction xs generalizing s with
  | nil => rfl
  | cons x xs ih => rw [List.foldl_cons, ih]; rfl

/-- A team freezes: its mark is set where it is there, and the engines look at their tables; nothing else changes. -/
theorem State.freeze_only (s : State) (k : Nat) : s.freeze k = { s with teams := (s.freeze k).teams, matrix := (s.freeze k).matrix } := by
  unfold State.freeze
  split
  · rw [State.mxRefreshAll_matrix]; rfl
  · rfl

@[simp] theorem State.freeze_run (s : State) (k : Nat) : (s.freeze k).run = s.run := by rw [State.freeze_only]
@[simp] theorem State.freeze_mem (s : State) (k : Nat) : (s.freeze k).mem = s.mem := by rw [State.freeze_only]
@[simp] theorem State.freeze_groups (s : State) (k : Nat) : (s.freeze k).groups = s.groups := by rw [State.freeze_only]
@[simp] theorem State.freeze_clusters (s : State) (k : Nat) : (s.freeze k).clusters = s.clusters := by rw [State.freeze_only]
@[simp] theorem State.freeze_dev (s : State) (k : Nat) : (s.freeze k).dev = s.dev := by rw [State.freeze_only]
@[simp] theorem State.freeze_ctxs (s : State) (k : Nat) : (s.freeze k).ctxs = s.ctxs := by rw [State.freeze_only]

theorem freeze_team (s : State) (key : Nat) (t : Team) (h : s.team? key = some t) :
    (s.freeze key).team? key = some { t with frozen := true } := by
  unfold State.freeze
  rw [h]
  dsimp only
  rw [State.mxRefreshAll_matrix]
  exact Tbl.find_put_same ..

/-- Entry to a handler through a user frame that can be written and is not busy (R379). -/
theorem State.frameEntry_free (s s1 : State) (pa : Nat) (x : Trap) (a : Addr) (hm : s.memOk) (h : frameFree s s1 pa) :
    ∃ t, s.frameEntry x a = (t, .made) ∧ t.run = inHandlerAt s.run (s.userFrame s.run) a ∧
      frameHolds (fun i => Memory.word t.mem (pa + 8 * i)) s.run x true false ∧
      (∀ team, s.team? s.run.teamKey = some team → t.team? s.run.teamKey = some { team with frozen := true }) := by
  obtain ⟨h1, h2, h3⟩ := h
  have hs : s.Served s1 := by
    have := State.served_translate s s.run.core s.run.part s.run.ctx (s.userFrame s.run) .wr (!s.isSup s.run)
    rwa [h1] at this
  have hd := hs.trans (State.served_drainBuf s1 s.run.core)
  have hr : (region pa == Region.dev || region pa == Region.host) = true := by
    rcases h2 with h2 | h2 <;> rw [h2] <;> decide
  unfold State.frameEntry
  dsimp only
  rw [h1]
  dsimp only
  rw [if_pos hr, if_neg (by rw [h3]; decide)]
  refine ⟨_, rfl, ?_, ?_, ?_⟩
  · exact State.freeze_run _ _
  · rw [State.freeze_mem, State.setRun_mem, State.writeWords_mem]
    exact frame_in_memory (hd.memOk hm).1 pa s.run x true false
  · intro team ht
    apply freeze_team
    simp only [State.team?, State.setRun_teams, State.writeWords, hd.teams]
    exact ht

/-! ## Which way a trap goes (R378-R381) -/

/-- A user-level group: its handler for a user kind, with the supervisor path where its frame cannot be used; else that path. BRK and WATCH halt
the rest of its team. -/
theorem State.takeTrap_user (s : State) (x : Trap) (hk : s.run.kind = .compute) (hu : s.isSup s.run = false) :
    s.takeTrap x =
      let stop := x.cause == cBRK || x.cause == cWATCH
      if userKind x.cause && s.run.tvt != 0 && !(stop && (s.desc s.run.part s.run.ctx)[10].getLsbD 49) then
        let r := s.frameEntry x s.run.tvt
        if r.2 = .made then (if stop then r.1.haltTeam s.run.teamKey s.run.gid true else r.1) else r.1.supTrap x true
      else s.supTrap x s.run.inHandler := by
  unfold State.takeTrap
  dsimp only
  rw [hk]
  dsimp only
  rw [if_neg (by rw [hu]; simp)]
  congr 1
  rcases s.frameEntry x s.run.tvt with ⟨t, b⟩
  cases b
  · rfl
  · simp [hu]
  · rfl

/-- A control or scheduler core enters the handler of its frame at its MMIO offset, or stops where that is busy. -/
theorem State.takeTrap_core (s : State) (x : Trap) (hk : s.run.kind ≠ .compute) : s.takeTrap x = s.ctlTrap x := by
  unfold State.takeTrap
  dsimp only
  split
  · rename_i h; exact absurd h hk
  · rfl

end Sys2Proof.Machine
end

