-- ==== Sys2Proof/Laws/Lanes.lean ====
section
/-! SUPPORT. Lanes, masks, elements and register writes: what each builder holds at each place. -/

namespace Sys2Proof.Machine

/-! ## Lanes of a register -/

theorem mkLanesTo_lane (f : Nat → Lane) (n t : Nat) (hn : n ≤ 32) :
    (mkLanesTo f n).extractLsb' (32 * t) 32 = if t < n then f t else 0 := by
  induction n with
  | zero => simp [mkLanesTo]
  | succ n ih =>
    have ih := ih (by omega)
    apply BitVec.eq_of_getLsbD_eq
    intro j hj
    have hb := congrArg (fun x => x.getLsbD j) ih
    simp only [BitVec.getLsbD_extractLsb', hj, decide_true, Bool.true_and] at hb
    simp only [mkLanesTo, BitVec.getLsbD_extractLsb', hj, decide_true, Bool.true_and, BitVec.getLsbD_or, hb,
      BitVec.getLsbD_shiftLeft, BitVec.getLsbD_setWidth]
    by_cases h1 : t < n
    · have : 32 * t + j < 32 * n := by omega
      simp [h1, this, show t < n + 1 by omega]
    · by_cases h2 : t = n
      · subst h2
        have h3 : 32 * t + j < 1024 := by omega
        have h4 : ¬ 32 * t + j < 32 * t := by omega
        have h5 : 32 * t + j - 32 * t = j := by omega
        have h6 : j < 1024 := by omega
        simp [h3, h5, h6]
      · have h3 : ¬ t < n + 1 := by omega
        have h4 : 32 ≤ 32 * t + j - 32 * n := by omega
        simp [h1, h3, BitVec.getLsbD_of_ge _ _ h4]

/-- Lane `t` of a register built from its lanes. -/
@[simp] theorem lane_mkLanes (f : Nat → Lane) {t : Nat} (h : t < 32) : lane (mkLanes f) t = f t := by
  simp [lane, mkLanes, mkLanesTo_lane f 32 t (Nat.le_refl _), h]

/-- A masked write: the new lane where the mask has it, the old one elsewhere (R91). -/
@[simp] theorem lane_mergeLanes (em : Lane) (x y : VReg) {t : Nat} (h : t < 32) :
    lane (mergeLanes em x y) t = if em.getLsbD t then lane x t else lane y t := by
  simp [mergeLanes, h]

/-- Registers with the same lanes are equal. -/
theorem vreg_ext {x y : VReg} (h : ∀ t, t < 32 → lane x t = lane y t) : x = y := by
  apply BitVec.eq_of_getLsbD_eq
  intro i hi
  have h1 := congrArg (fun z => z.getLsbD (i % 32)) (h (i / 32) (by omega))
  have h2 : i % 32 < 32 := by omega
  have h3 : 32 * (i / 32) + i % 32 = i := by omega
  simpa [lane, BitVec.getLsbD_extractLsb', h2, h3] using h1

/-! ## Masks -/

theorem mkMaskTo_bit (p : Nat → Bool) (n t : Nat) (hn : n ≤ 32) :
    (mkMaskTo p n).getLsbD t = (decide (t < n) && p t) := by
  induction n with
  | zero => simp [mkMaskTo]
  | succ n ih =>
    have ih := ih (by omega)
    simp only [mkMaskTo, BitVec.getLsbD_or, ih]
    by_cases hp : p n
    · have h3 : (1#32 <<< n).getLsbD t = decide (t = n) := by
        simp only [BitVec.getLsbD_shiftLeft]
        by_cases ht : t = n
        · subst ht
          simp [show t < 32 by omega]
        · by_cases h1 : t < n
          · simp [h1, ht]
          · have : t - n ≠ 0 := by omega
            have h4 : (1#32).getLsbD (t - n) = false := by
              simp [BitVec.getLsbD_one, this]
            simp [ht, h4]
      rw [if_pos hp, h3]
      by_cases ht : t = n
      · subst ht; simp [hp]
      · have : decide (t < n + 1) = decide (t < n) := by simp; omega
        rw [this]; simp [ht]
    · rw [if_neg hp]
      by_cases ht : t = n
      · subst ht
        simp [hp]
      · have : decide (t < n + 1) = decide (t < n) := by simp; omega
        rw [this]; simp

/-- Bit `t` of a mask built from its bits. -/
@[simp] theorem mkMask_bit (p : Nat → Bool) (t : Nat) : (mkMask p).getLsbD t = (decide (t < 32) && p t) :=
  mkMaskTo_bit p 32 t (Nat.le_refl _)

/-- The active lanes. -/
@[simp] theorem mem_activeLanes (em : Lane) (t : Nat) : t ∈ activeLanes em ↔ t < 32 ∧ em.getLsbD t = true := by
  simp [activeLanes]

/-- A mask that is not 0 has a lane. -/
theorem lane_of_ne_zero {em : Lane} (h : em ≠ 0) : ∃ t, t < 32 ∧ em.getLsbD t = true := by
  false_or_by_contra
  rename_i hc
  apply h
  apply BitVec.eq_of_getLsbD_eq
  intro i hi
  cases hb : em.getLsbD i with
  | false => simp
  | true => exact absurd ⟨i, hi, hb⟩ hc

/-! ## Register numbers -/

theorem Group.reg_lt (g : Group) {r : Nat} (h : r < 256) : g.reg r = g.v[r] := by simp [Group.reg, h]

/-- The register that a list of writes leaves: the last write of it, or the old one. -/
theorem setRegs_get (v : Vector VReg 256) (ws : List (Nat × VReg)) (r : Nat) (h : r < 256) :
    (setRegs v ws)[r] = ws.foldl (fun y w => if w.1 = r then w.2 else y) v[r] := by
  induction ws generalizing v with
  | nil => rfl
  | cons w ws ih =>
    obtain ⟨k, x⟩ := w
    simp only [setRegs, List.foldl_cons]
    rw [ih]
    congr 1
    simp only [Vector.getElem_setIfInBounds]

/-- Writes of distinct registers, one for each number that has one. -/
theorem foldl_filterMap_range (n r : Nat) (f : Nat → Option VReg) (y : VReg) (h : r < n) :
    (((List.range n).filterMap fun k => (f k).map fun x => (k, x)).foldl (fun y w => if w.1 = r then w.2 else y) y)
      = (f r).getD y := by
  suffices H : ∀ n y, (((List.range n).filterMap fun k => (f k).map fun x => (k, x)).foldl
      (fun y (w : Nat × VReg) => if w.1 = r then w.2 else y) y) = if r < n then (f r).getD y else y by
    rw [H n y, if_pos h]
  intro n
  induction n with
  | zero => intro y; simp
  | succ n ih =>
    intro y
    rw [List.range_succ, List.filterMap_append, List.foldl_append, ih y]
    by_cases h1 : r < n
    · rw [if_pos h1, if_pos (by omega)]
      cases hf : f n with
      | none => simp [hf]
      | some x => simp [hf, show n ≠ r by omega]
    · rw [if_neg h1]
      by_cases h2 : r = n
      · subst h2
        cases hf : f r with
        | none => simp [hf]
        | some x => simp [hf]
      · rw [if_neg (by omega)]
        cases hf : f n with
        | none => simp [hf]
        | some x => simp [hf, Ne.symm h2]

/-- What the writes of a 32-bit result leave in each lane of each register (R76, R89, R91). -/
theorem Group.put32_lane (g : Group) (d : RegNo) (m : VMode) (f : Nat → Lane) (r t : Nat) (hr : r < 256) (ht : t < 32) :
    lane ((setRegs g.v (g.put32 d m f))[r]) t =
      if g.em.getLsbD t && g.opReg m.ixn m.id d t == r then f t else lane (g.reg r) t := by
  rw [setRegs_get _ _ _ hr, ← g.reg_lt hr]
  unfold Group.put32
  by_cases he : g.em = 0
  · simp [he]
  · rw [if_neg he]
    cases hm : m.id with
    | true =>
      simp only [if_true]
      have := foldl_filterMap_range 256 r (fun k =>
        if (mkMask fun t => g.em.getLsbD t && g.opReg m.ixn true d t == k) = 0 then none
        else some (mergeLanes (mkMask fun t => g.em.getLsbD t && g.opReg m.ixn true d t == k) (mkLanes f) (g.reg k)))
        (g.reg r) hr
      have h2 : ∀ k, ((if (mkMask fun t => g.em.getLsbD t && g.opReg m.ixn true d t == k) = 0 then none
          else some (mergeLanes (mkMask fun t => g.em.getLsbD t && g.opReg m.ixn true d t == k) (mkLanes f) (g.reg k))).map
          fun x => (k, x)) = (if (mkMask fun t => g.em.getLsbD t && g.opReg m.ixn true d t == k) = 0 then none
          else some (k, mergeLanes (mkMask fun t => g.em.getLsbD t && g.opReg m.ixn true d t == k) (mkLanes f) (g.reg k))) := by
        intro k
        split <;> rfl
      simp only [h2] at this
      rw [this]
      by_cases hz : (mkMask fun t => g.em.getLsbD t && g.opReg m.ixn true d t == r) = 0
      · have hb := congrArg (fun x => x.getLsbD t) hz
        simp only [mkMask_bit, ht, decide_true, Bool.true_and, show (0 : Lane).getLsbD t = false by simp] at hb
        rw [if_pos hz, hb]
        rfl
      · rw [if_neg hz]
        simp only [Option.getD_some, lane_mergeLanes _ _ _ ht, mkMask_bit, ht, decide_true, Bool.true_and, lane_mkLanes _ ht]
    | false =>
      simp only [Bool.false_eq_true, if_false, List.foldl_cons, List.foldl_nil, Group.opReg]
      by_cases hd : d.toNat = r
      · subst hd
        rw [if_pos rfl]
        simp only [lane_mergeLanes _ _ _ ht, lane_mkLanes _ ht, beq_self_eq_true, Bool.and_true]
      · rw [if_neg hd]
        simp [hd]

/-- What the writes of a 64-bit result leave in each lane of each register (R76, R89, R91, R94). -/
theorem Group.put64_lane (g : Group) (d : RegNo) (m : VMode) (f : Nat → Word) (r t : Nat) (hr : r < 256) (ht : t < 32) :
    lane ((setRegs g.v (g.put64 d m f))[r]) t =
      if g.em.getLsbD t && g.opReg m.ixn m.id d t == r then (f t).setWidth 32
      else if g.em.getLsbD t && g.opReg m.ixn m.id d t + 1 == r then (f t).extractLsb' 32 32
      else lane (g.reg r) t := by
  rw [setRegs_get _ _ _ hr, ← g.reg_lt hr]
  unfold Group.put64
  by_cases he : g.em = 0
  · simp [he]
  · rw [if_neg he]
    cases hm : m.id with
    | true =>
      simp only [if_true]
      have := foldl_filterMap_range 256 r (fun k =>
        if (mkMask fun t => g.em.getLsbD t && g.opReg m.ixn true d t == k) |||
          (mkMask fun t => g.em.getLsbD t && g.opReg m.ixn true d t + 1 == k) = 0 then none
        else some (mergeLanes ((mkMask fun t => g.em.getLsbD t && g.opReg m.ixn true d t == k) |||
          (mkMask fun t => g.em.getLsbD t && g.opReg m.ixn true d t + 1 == k))
          (mkLanes fun t => if (mkMask fun t => g.em.getLsbD t && g.opReg m.ixn true d t == k).getLsbD t then (f t).setWidth 32
            else (f t).extractLsb' 32 32) (g.reg k)))
        (g.reg r) hr
      have h2 : ∀ (k : Nat) (c : Prop) [Decidable c] (x : VReg), ((if c then none else some x).map fun x => (k, x)) =
          (if c then none else some (k, x)) := by
        intro k c _ x
        split <;> rfl
      simp only [h2] at this
      rw [this]
      split
      · rename_i hz
        have hb := congrArg (fun x => x.getLsbD t) hz
        simp only [BitVec.getLsbD_or, mkMask_bit, ht, decide_true, Bool.true_and, show (0 : Lane).getLsbD t = false by simp,
          Bool.or_eq_false_iff] at hb
        rw [hb.1, hb.2]
        rfl
      · simp only [Option.getD_some, lane_mergeLanes _ _ _ ht, BitVec.getLsbD_or, mkMask_bit, ht, decide_true, Bool.true_and,
          lane_mkLanes _ ht]
        cases g.em.getLsbD t <;> cases (g.opReg m.ixn true d t == r) <;> simp
    | false =>
      simp only [Bool.false_eq_true, if_false, List.foldl_cons, List.foldl_nil, Group.opReg]
      by_cases hd : d.toNat = r
      · subst hd
        have h3 : ¬ d.toNat + 1 = d.toNat := by omega
        simp only [if_true, if_neg h3, lane_mergeLanes _ _ _ ht, lane_mkLanes _ ht, beq_self_eq_true, Bool.and_true]
        cases g.em.getLsbD t <;> simp
      · rw [if_neg hd]
        by_cases hd1 : d.toNat + 1 = r
        · subst hd1
          simp only [if_true, lane_mergeLanes _ _ _ ht, lane_mkLanes _ ht, beq_self_eq_true, Bool.and_true]
          have h4 : (d.toNat == d.toNat + 1) = false := by simp
          simp [h4]
        · rw [if_neg hd1]
          simp [hd, hd1]

/-! ## Elements of a lane -/

theorem mapEls_lt (w : Nat) (f : Nat → Nat × Bool) (n : Nat) (h : ∀ e, e < n → (f e).1 < 2 ^ w) :
    (mapEls w f n).1 < 2 ^ (w * n) := by
  induction n with
  | zero => simp [mapEls]
  | succ n ih =>
    have h1 := ih fun e he => h e (by omega)
    have h2 := h n (by omega)
    simp only [mapEls]
    calc (mapEls w f n).1 + (f n).1 * 2 ^ (w * n) < 2 ^ (w * n) + (f n).1 * 2 ^ (w * n) := by omega
      _ = ((f n).1 + 1) * 2 ^ (w * n) := by rw [Nat.add_mul]; omega
      _ ≤ 2 ^ w * 2 ^ (w * n) := Nat.mul_le_mul_right _ h2
      _ = 2 ^ (w * (n + 1)) := by rw [← Nat.pow_add]; congr 1; rw [Nat.mul_succ]; omega

/-- Element `e` of a lane built from its elements. -/
theorem mapEls_el (w : Nat) (f : Nat → Nat × Bool) (n e : Nat) (he : e < n) (h : ∀ e, e < n → (f e).1 < 2 ^ w) :
    (mapEls w f n).1 / 2 ^ (w * e) % 2 ^ w = (f e).1 := by
  induction n with
  | zero => omega
  | succ n ih =>
    have hlt := mapEls_lt w f n fun e he => h e (by omega)
    have hp : 0 < 2 ^ (w * e) := Nat.two_pow_pos _
    simp only [mapEls]
    by_cases h1 : e = n
    · subst h1
      rw [Nat.add_mul_div_right _ _ hp, Nat.div_eq_of_lt hlt, Nat.zero_add, Nat.mod_eq_of_lt (h e he)]
    · have ih := ih (by omega) fun e he => h e (by omega)
      obtain ⟨k, hk⟩ : ∃ k, n = e + 1 + k := ⟨n - (e + 1), by omega⟩
      have h2 : (f n).1 * 2 ^ (w * n) = ((f n).1 * 2 ^ (w * k) * 2 ^ w) * 2 ^ (w * e) := by
        rw [hk, Nat.mul_assoc, Nat.mul_assoc, ← Nat.pow_add, ← Nat.pow_add]
        congr 2
        simp only [Nat.mul_add, Nat.mul_one]
        omega
      rw [h2, Nat.add_mul_div_right _ _ hp, Nat.add_mul_mod_self_right, ih]

/-- The flag of a lane: some element of it raised it. -/
theorem mapEls_flag (w : Nat) (f : Nat → Nat × Bool) (n : Nat) : (mapEls w f n).2 = true ↔ ∃ e, e < n ∧ (f e).2 = true := by
  induction n with
  | zero => simp [mapEls]
  | succ n ih =>
    simp only [mapEls, Bool.or_eq_true, ih]
    constructor
    · rintro (⟨e, h1, h2⟩ | h)
      · exact ⟨e, by omega, h2⟩
      · exact ⟨n, by omega, h⟩
    · rintro ⟨e, h1, h2⟩
      by_cases he : e = n
      · exact .inr (he ▸ h2)
      · exact .inl ⟨e, by omega, h2⟩

theorem elW_elems (t : Ty) : elW t * t.elems = if t.isPair then 64 else 32 := by cases t <;> rfl

theorem fit_lt (t : Ty) (sat : Bool) (x : Int) : (fit t sat x).1 < 2 ^ elW t := by
  have h : ∀ y : Int, wrapInt (elW t) y < 2 ^ elW t := by
    intro y
    have hp : (0 : Int) < 2 ^ elW t := by exact Int.pow_pos (by decide)
    have h1 := Int.emod_lt_of_pos y hp
    have h0 := Int.emod_nonneg y (Int.ne_of_gt hp)
    unfold wrapInt
    have h2 : ((2 ^ elW t : Nat) : Int) = (2 : Int) ^ elW t := by simp
    omega
  unfold fit
  split <;> exact h _

end Sys2Proof.Machine
end

