-- ==== Sys2Proof/Laws/PerInstr.lean ====
section
/-! SUPPORT. The round trip, constructor by constructor: decoding the word of a well-formed instruction gives it back (R57-R65). -/

set_option Elab.async false

namespace Sys2Proof

@[simp] theorem Opnd.code_v (r : RegNo) : (Opnd.v r).code = r := rfl
@[simp] theorem Opnd.code_s (p : SPos) : (Opnd.s p).code = p.code := rfl
@[simp] theorem Opnd.flag_v (r : RegNo) : (Opnd.v r).flag = 0 := rfl
@[simp] theorem Opnd.flag_s (p : SPos) : (Opnd.s p).flag = 1 := rfl
@[simp] theorem Opnd.ofCode_zero (x : BitVec 8) : Opnd.ofCode 0#1 x = .v x := rfl
@[simp] theorem Opnd.ofCode_one (x : BitVec 8) : Opnd.ofCode 1#1 x = .s (SPos.ofCode x) := rfl
@[simp] theorem Ty.b32_code : Ty.b32.code = 0#4 := rfl
@[simp] theorem Ty.n32_code : Ty.n32.code = 2#4 := rfl
@[simp] theorem Ty.f32_code : Ty.f32.code = 8#4 := rfl
@[simp] theorem Ty.f64_code : Ty.f64.code = 11#4 := rfl
@[simp] theorem Ty.e4m3_code : Ty.e4m3x4.code = 12#4 := rfl
@[simp] theorem Ty.e5m2_code : Ty.e5m2x4.code = 13#4 := rfl
@[simp] theorem Ty.s64_code : Ty.s64.code = 14#4 := rfl
@[simp] theorem Ty.n64_code : Ty.n64.code = 15#4 := rfl
@[simp] theorem Sz.b4_code : Sz.b4.code = 2#4 := rfl
@[simp] theorem Sz.b8_code : Sz.b8.code = 3#4 := rfl
@[simp] theorem Ctl.ofCode_code (c : Ctl) : Ctl.ofCode c.code = c := by cases c <;> rfl
@[simp] theorem Sel.ofCode_code (c : Sel) : Sel.ofCode c.code = c := by
  cases c with
  | perf i => revert i; decide
  | ctl c => cases c <;> rfl
  | _ => rfl
@[simp] theorem SPos.ofCode_z : SPos.ofCode 0#8 = .s 0 := rfl
theorem bit_op (op : BitVec 2) : (0#6 ++ op : BitVec 8)[2] = false := by revert op; decide
theorem bit_op3 (op : BitVec 2) : (0#6 ++ op : BitVec 8)[3] = false := by revert op; decide
theorem bit_kr (op : BitVec 2) : (32#6 ++ op : BitVec 8)[2] = false := by revert op; decide
theorem bit_k5 (k : BitVec 5) : (0#3 ++ k : BitVec 8)[7] = false := by revert k; decide
theorem bit_n4 (k : BitVec 4) : (0#4 ++ k : BitVec 8)[4] = false := by revert k; decide
theorem bit_k12 (k : BitVec 5) : ((0#7 ++ k : BitVec 12) = 0#12) ↔ k = 0 := by revert k; decide
theorem bit_gr (g : BitVec 2) (k : BitVec 5) : (g ++ 0#1 ++ k : BitVec 8)[5] = false := by revert g k; decide
theorem bit_el (e : BitVec 3) (c : BitVec 4) : (0#1 ++ e ++ c : BitVec 8)[7] = false := by revert e c; decide
theorem pos_ne (p : SPos) : p.code ≠ 255#8 := by
  cases p with
  | s n => revert n; decide
  | m n => revert n; decide
  | em => decide
theorem bit_any (x : Bool) : (b1 x ++ 0#1 : BitVec 2)[1] = x := by cases x <;> rfl
theorem mode_bit (m : BankMode) : m.code[2] = false := by cases m <;> rfl
theorem red_bit (x : RedOp) : (0#5 ++ x.code : BitVec 8)[3] = false := by cases x <;> rfl
theorem bit_k2 (x : Bool) (k : BitVec 2) : (0#5 ++ b1 x ++ k : BitVec 8)[2] = x := by cases x <;> (revert k; decide)
@[simp] theorem SLogOp.code_bit (x : SLogOp) : (0#1 ++ x.code)[2] = false := by cases x <;> rfl
@[simp] theorem ShiftOp.code_bit (x : ShiftOp) : (0#1 ++ x.code)[2] = false := by cases x <;> rfl
@[simp] theorem SBitOp.code_bit (x : SBitOp) : (0#1 ++ x.code)[2] = false := by cases x <;> rfl

end Sys2Proof

namespace Sys2Proof.Laws.RoundTrip

/-- Decoding the word of a well-formed instruction gives it back. An event of the device has no word. -/
def Statement (i : Instr) : Prop := ∀ w, i.wf = true → encode i = some w → decode w = .ok i

theorem of_parse {i : Instr} (h : ∀ w, i.wf = true → encode i = some w → parse w = some i) : Statement i := by
  intro w hw he
  simp [decode, h w hw he, hw, he]

theorem of_event {i : Instr} (h : encode i = none) : Statement i := by
  intro w _ he
  simp [h] at he


theorem nop (nr : Bool) : Statement (.nop nr) := by
  apply of_parse
  intro w hw he
  simp only [encode, Option.some.injEq] at he
  subst he
  simp [parse, parseLow, encV, pNr]
theorem bra (off : BitVec 16) : Statement (.bra off) := by
  apply of_parse
  intro w hw he
  simp only [encode, Option.some.injEq] at he
  subst he
  simp [parse, parseLow]
theorem brx (a : SReg) : Statement (.brx a) := by
  apply of_parse
  intro w hw he
  simp only [encode, Option.some.injEq] at he
  subst he
  simp [parse, parseLow, pDs]
theorem brc (cnd : Cnd) (a : SPos) (off : BitVec 16) : Statement (.brc cnd a off) := by
  apply of_parse
  intro w hw he
  simp only [encode, Option.some.injEq] at he
  subst he
  simp [parse, parseLow, pDp]
theorem bdv (cnd : Cnd) (a : RegNo) (off1 : BitVec 16) (off2 : BitVec 16) : Statement (.bdv cnd a off1 off2) := by
  apply of_parse
  intro w hw he
  simp only [encode, Option.some.injEq] at he
  subst he
  simp [parse, parseLow]
theorem join  : Statement (.join) := by
  apply of_parse
  intro w hw he
  simp only [encode, Option.some.injEq] at he
  subst he
  simp [parse, parseLow]
theorem call (d : SReg) (off : BitVec 16) : Statement (.call d off) := by
  apply of_parse
  intro w hw he
  simp only [encode, Option.some.injEq] at he
  subst he
  simp [parse, parseLow, pDs]
theorem ret (a : SReg) : Statement (.ret a) := by
  apply of_parse
  intro w hw he
  simp only [encode, Option.some.injEq] at he
  subst he
  simp [parse, parseLow, pDs]
theorem exit  : Statement (.exit) := by
  apply of_parse
  intro w hw he
  simp only [encode, Option.some.injEq] at he
  subst he
  simp [parse, parseLow]
theorem exitLanes  : Statement (.exitLanes) := by
  apply of_parse
  intro w hw he
  simp only [encode, Option.some.injEq] at he
  subst he
  simp [parse, parseLow]
theorem emsav (d : SPos) (nr : Bool) : Statement (.emsav d nr) := by
  apply of_parse
  intro w hw he
  simp only [encode, Option.some.injEq] at he
  subst he
  simp [parse, parseLow, encV, pDp, pNr]
theorem emset (op : EmOp) (b : Opnd) (nr : Bool) : Statement (.emset op b nr) := by
  apply of_parse
  intro w hw he
  simp only [encode, Option.some.injEq] at he
  subst he
  simp [parse, parseLow, encV, pOB, pNr]
theorem mlog (d : SPos) (a : SPos) (b : SPos) (c : SPos) (lut : BitVec 8) (nr : Bool) : Statement (.mlog d a b c lut nr) := by
  apply of_parse
  intro w hw he
  simp only [encode, Option.some.injEq] at he
  subst he
  simp [parse, parseLow, encV, pDp, pAp, pBp, pCp, pNr]
theorem vote (op : VoteOp) (d : SPos) (a : RegNo) (nr : Bool) : Statement (.vote op d a nr) := by
  apply of_parse
  intro w hw he
  simp only [encode, Option.some.injEq] at he
  subst he
  simp [parse, parseLow, encV, pDp, pNr]
theorem tfence (nr : Bool) : Statement (.tfence nr) := by
  apply of_parse
  intro w hw he
  simp only [encode, Option.some.injEq] at he
  subst he
  simp [parse, parseLow, encV, pNr]
theorem trap (e : BitVec 32) : Statement (.trap e) := by
  apply of_parse
  intro w hw he
  simp only [encode, Option.some.injEq] at he
  subst he
  simp [parse, parseLow, pImm]
theorem yield (n : BitVec 4) (nr : Bool) : Statement (.yield n nr) := by
  apply of_parse
  intro w hw he
  simp only [encode, Option.some.injEq] at he
  subst he
  simp [parse, parseLow, encV, pNr]
theorem sadd (ty : Ty) (d : SPos) (a : SPos) (b : SOp) : Statement (.sadd ty d a b) := by
  apply of_parse
  intro w hw he
  simp only [encode, Option.some.injEq] at he
  subst he
  all_goals cases b
  all_goals simp [SOp.ofWord, parse, parseLow, encS, pDp, pAp, pITy]
theorem ssub (ty : Ty) (d : SPos) (a : SPos) (b : SOp) : Statement (.ssub ty d a b) := by
  apply of_parse
  intro w hw he
  simp only [encode, Option.some.injEq] at he
  subst he
  all_goals cases b
  all_goals simp [SOp.ofWord, parse, parseLow, encS, pDp, pAp, pITy]
theorem smul (ty : Ty) (hi : Bool) (d : SPos) (a : SPos) (b : SOp) : Statement (.smul ty hi d a b) := by
  apply of_parse
  intro w hw he
  simp only [encode, Option.some.injEq] at he
  subst he
  all_goals cases hi
  all_goals cases b
  all_goals simp [SOp.ofWord, parse, parseLow, encS, pDp, pAp, pITy]
theorem slog (op : SLogOp) (d : SPos) (a : SPos) (b : SOp) : Statement (.slog op d a b) := by
  apply of_parse
  intro w hw he
  simp only [encode, Option.some.injEq] at he
  subst he
  all_goals cases b
  all_goals simp [SOp.ofWord, parse, parseLow, encS, pDp, pAp]
theorem sshf (ty : Ty) (op : ShiftOp) (d : SPos) (a : SPos) (b : SOp) : Statement (.sshf ty op d a b) := by
  apply of_parse
  intro w hw he
  simp only [encode, Option.some.injEq] at he
  subst he
  all_goals cases b
  all_goals simp [SOp.ofWord, parse, parseLow, encS, pDp, pAp, pITy]
theorem scmp (ty : Ty) (d : SPos) (a : SPos) (b : SOp) : Statement (.scmp ty d a b) := by
  apply of_parse
  intro w hw he
  simp only [encode, Option.some.injEq] at he
  subst he
  all_goals cases b
  all_goals simp [SOp.ofWord, parse, parseLow, encS, pDp, pAp, pITy]
theorem smin (ty : Ty) (max : Bool) (d : SPos) (a : SPos) (b : SOp) : Statement (.smin ty max d a b) := by
  apply of_parse
  intro w hw he
  simp only [encode, Option.some.injEq] at he
  subst he
  all_goals cases max
  all_goals cases b
  all_goals simp [SOp.ofWord, parse, parseLow, encS, pDp, pAp, pITy]
theorem sbit (ty : Ty) (op : SBitOp) (d : SPos) (a : SPos) (b : SOp) : Statement (.sbit ty op d a b) := by
  apply of_parse
  intro w hw he
  simp only [encode, Option.some.injEq] at he
  subst he
  all_goals cases b
  all_goals simp [SOp.ofWord, parse, parseLow, encS, pDp, pAp, pITy]
theorem sdiv (ty : Ty) (rem : Bool) (d : SPos) (a : SPos) (b : SOp) : Statement (.sdiv ty rem d a b) := by
  apply of_parse
  intro w hw he
  simp only [encode, Option.some.injEq] at he
  subst he
  all_goals cases rem
  all_goals cases b
  all_goals simp [SOp.ofWord, parse, parseLow, encS, pDp, pAp, pITy]
theorem smov (d : SPos) (b : SPos) (nr : Bool) : Statement (.smov d b nr) := by
  apply of_parse
  intro w hw he
  simp only [encode, Option.some.injEq] at he
  subst he
  simp [parse, parseLow, encV, pDp, pBp, pNr]
theorem smovLane (wide : Bool) (d : SReg) (a : RegNo) (k : BitVec 5) (nr : Bool) : Statement (.smovLane wide d a k nr) := by
  apply of_parse
  intro w hw he
  simp only [encode, Option.some.injEq] at he
  subst he
  all_goals cases wide
  all_goals simp [parse, parseLow, encV, pNr, pWide, pDs]
theorem smovi (form : MoviForm) (zext : Bool) (d : SPos) (imm : BitVec 32) : Statement (.smovi form zext d imm) := by
  apply of_parse
  intro w hw he
  simp only [encode, Option.some.injEq] at he
  subst he
  all_goals cases zext
  all_goals simp [parse, parseLow, pDp, pImm]
theorem ssel (d : SPos) (a : SPos) (b : SPos) (c : SPos) (nr : Bool) : Statement (.ssel d a b c nr) := by
  apply of_parse
  intro w hw he
  simp only [encode, Option.some.injEq] at he
  subst he
  simp [parse, parseLow, encV, pDp, pAp, pBp, pCp, pNr]
theorem srd (sel : Sel) (d : SrdDst) (nr : Bool) : Statement (.srd sel d nr) := by
  apply of_parse
  intro w hw he
  simp only [encode, Option.some.injEq] at he
  subst he
  all_goals cases d
  case vec wide d => cases wide <;> simp [parse, parseLow, encV, pNr, pWide]
  all_goals simp [parse, parseLow, encV, pNr, pDs]
theorem swr (op : SwrOp) (c : Ctl) (b : SPos) (nr : Bool) : Statement (.swr op c b nr) := by
  apply of_parse
  intro w hw he
  simp only [encode, Option.some.injEq] at he
  subst he
  simp [parse, parseLow, encV, pBp, pNr]
theorem sld (sz : Sz) (sx : Bool) (hint : Hint) (ord : MOrd) (sco : Scope) (prm : Bool) (d : SReg) (a : SPos) (off : BitVec 16) : Statement (.sld sz sx hint ord sco prm d a off) := by
  apply of_parse
  intro w hw he
  simp only [encode, Option.some.injEq] at he
  subst he
  simp [parse, parseLow, pAp, pSz, pHint, pOrd, pSco, pOff, pDs]
theorem sst (sz : Sz) (hint : Hint) (ord : MOrd) (sco : Scope) (d : SReg) (a : SPos) (off : BitVec 16) : Statement (.sst sz hint ord sco d a off) := by
  apply of_parse
  intro w hw he
  simp only [encode, Option.some.injEq] at he
  subst he
  simp [parse, parseLow, pAp, pSz, pHint, pOrd, pSco, pOff, pDs]
theorem vadd (ty : Ty) (sat : Bool) (d : RegNo) (a : RegNo) (b : Opnd) (m : VMode) : Statement (.vadd ty sat d a b m) := by
  apply of_parse
  intro w hw he
  simp only [encode, Option.some.injEq] at he
  subst he
  simp [parse, parseInt, encV, pTy, pOB, pMode, pSat]
theorem vsub (ty : Ty) (sat : Bool) (d : RegNo) (a : RegNo) (b : Opnd) (m : VMode) : Statement (.vsub ty sat d a b m) := by
  apply of_parse
  intro w hw he
  simp only [encode, Option.some.injEq] at he
  subst he
  simp [parse, parseInt, encV, pTy, pOB, pMode, pSat]
theorem vmul (ty : Ty) (hi : Bool) (sat : Bool) (d : RegNo) (a : RegNo) (b : Opnd) (m : VMode) : Statement (.vmul ty hi sat d a b m) := by
  apply of_parse
  intro w hw he
  simp only [encode, Option.some.injEq] at he
  subst he
  all_goals cases hi
  all_goals simp [parse, parseInt, encV, pTy, pOB, pMode, pSat]
theorem vmad (ty : Ty) (sat : Bool) (d : RegNo) (a : RegNo) (b : Opnd) (c : Opnd) (m : VMode) : Statement (.vmad ty sat d a b c m) := by
  apply of_parse
  intro w hw he
  simp only [encode, Option.some.injEq] at he
  subst he
  simp [parse, parseInt, encV, pTy, pOB, pOC, pMode, pSat]
theorem vdot (ty : Ty) (sat : Bool) (d : RegNo) (a : RegNo) (b : Opnd) (c : Opnd) (m : VMode) : Statement (.vdot ty sat d a b c m) := by
  apply of_parse
  intro w hw he
  simp only [encode, Option.some.injEq] at he
  subst he
  simp [parse, parseInt, encV, pTy, pOB, pOC, pMode, pSat]
theorem vlog (wide : Bool) (d : RegNo) (a : RegNo) (b : Opnd) (c : Opnd) (lut : BitVec 8) (m : VMode) : Statement (.vlog wide d a b c lut m) := by
  apply of_parse
  intro w hw he
  simp only [encode, Option.some.injEq] at he
  subst he
  all_goals cases wide
  all_goals simp [parse, parseInt, encV, pOB, pOC, pMode, pWide]
theorem vshf (ty : Ty) (op : ShiftOp) (uni : Bool) (sat : Bool) (d : RegNo) (a : RegNo) (b : Opnd) (m : VMode) : Statement (.vshf ty op uni sat d a b m) := by
  apply of_parse
  intro w hw he
  simp only [encode, Option.some.injEq] at he
  subst he
  all_goals cases uni
  all_goals simp [bit_op, parse, parseInt, encV, pTy, pOB, pMode, pSat]
theorem vcmp (ty : Ty) (cond : ICond) (d : CmpDst) (a : RegNo) (b : Opnd) (m : VMode) : Statement (.vcmp ty cond d a b m) := by
  apply of_parse
  intro w hw he
  simp only [encode, Option.some.injEq] at he
  subst he
  all_goals cases d
  all_goals simp [bit_any, CmpDst.code, CmpDst.bits, CmpDst.ofCode, parse, parseInt, encV, pTy, pOB, pMode, pCmp]
theorem vsel (ty : Ty) (d : RegNo) (a : RegNo) (b : Opnd) (c : Opnd) (m : VMode) : Statement (.vsel ty d a b c m) := by
  apply of_parse
  intro w hw he
  simp only [encode, Option.some.injEq] at he
  subst he
  simp [parse, parseInt, encV, pTy, pOB, pOC, pMode]
theorem vmin (ty : Ty) (op : MinOp) (d : RegNo) (a : RegNo) (b : Opnd) (c : Opnd) (m : VMode) : Statement (.vmin ty op d a b c m) := by
  apply of_parse
  intro w hw he
  simp only [encode, Option.some.injEq] at he
  subst he
  simp [parse, parseInt, encV, pTy, pOB, pOC, pMode]
theorem vuni (ty : Ty) (op : UniOp) (sat : Bool) (d : RegNo) (a : RegNo) (m : VMode) : Statement (.vuni ty op sat d a m) := by
  apply of_parse
  intro w hw he
  simp only [encode, Option.some.injEq] at he
  subst he
  all_goals cases op
  all_goals simp [parse, parseInt, encV, pTy, pMode, pSat]
theorem vbit (ty : Ty) (ins : Bool) (d : RegNo) (a : RegNo) (b : Opnd) (c : Opnd) (m : VMode) : Statement (.vbit ty ins d a b c m) := by
  apply of_parse
  intro w hw he
  simp only [encode, Option.some.injEq] at he
  subst he
  all_goals cases ins
  all_goals simp [parse, parseInt, encV, pTy, pOB, pOC, pMode]
theorem vmov (wide : Bool) (d : RegNo) (src : Opnd) (m : VMode) : Statement (.vmov wide d src m) := by
  apply of_parse
  intro w hw he
  simp only [encode, Option.some.injEq] at he
  subst he
  all_goals cases wide
  all_goals cases src
  all_goals simp [parse, parseInt, encV, pBp, pMode, pWide]
theorem vmovi (ty : Ty) (d : RegNo) (imm : BitVec 32) : Statement (.vmovi ty d imm) := by
  apply of_parse
  intro w hw he
  simp only [encode, Option.some.injEq] at he
  subst he
  simp [parse, parseInt, pITy, pImm]
theorem vnrw (ty : Ty) (rm : Rm) (sat : Bool) (d : RegNo) (a : RegNo) (b : Opnd) (el : BitVec 3) (m : VMode) : Statement (.vnrw ty rm sat d a b el m) := by
  apply of_parse
  intro w hw he
  simp only [encode, Option.some.injEq] at he
  subst he
  simp [parse, parseInt, encV, pTy, pRm, pOB, pMode, pSat]
theorem vidx (wide : Bool) (mode : IdxMode) (d : RegNo) (nr : Bool) : Statement (.vidx wide mode d nr) := by
  apply of_parse
  intro w hw he
  simp only [encode, Option.some.injEq] at he
  subst he
  all_goals cases wide
  all_goals simp [parse, parseInt, encV, pNr]
theorem fadd (ty : Ty) (rm : Rm) (sat : Bool) (d : RegNo) (a : RegNo) (b : Opnd) (m : VMode) : Statement (.fadd ty rm sat d a b m) := by
  apply of_parse
  intro w hw he
  simp only [encode, Option.some.injEq] at he
  subst he
  simp [parse, parseFlt, encV, pTy, pRm, pOB, pMode, pSat]
theorem fsub (ty : Ty) (rm : Rm) (sat : Bool) (d : RegNo) (a : RegNo) (b : Opnd) (m : VMode) : Statement (.fsub ty rm sat d a b m) := by
  apply of_parse
  intro w hw he
  simp only [encode, Option.some.injEq] at he
  subst he
  simp [parse, parseFlt, encV, pTy, pRm, pOB, pMode, pSat]
theorem fmul (ty : Ty) (rm : Rm) (sat : Bool) (d : RegNo) (a : RegNo) (b : Opnd) (m : VMode) : Statement (.fmul ty rm sat d a b m) := by
  apply of_parse
  intro w hw he
  simp only [encode, Option.some.injEq] at he
  subst he
  simp [parse, parseFlt, encV, pTy, pRm, pOB, pMode, pSat]
theorem ffma (ty : Ty) (rm : Rm) (sat : Bool) (negp : Bool) (negc : Bool) (d : RegNo) (a : RegNo) (b : Opnd) (c : Opnd) (m : VMode) : Statement (.ffma ty rm sat negp negc d a b c m) := by
  apply of_parse
  intro w hw he
  simp only [encode, Option.some.injEq] at he
  subst he
  all_goals cases negp
  all_goals cases negc
  all_goals simp [parse, parseFlt, encV, pTy, pRm, pOB, pOC, pMode, pSat]
theorem fmin (ty : Ty) (op : FMinOp) (d : RegNo) (a : RegNo) (b : Opnd) (m : VMode) : Statement (.fmin ty op d a b m) := by
  apply of_parse
  intro w hw he
  simp only [encode, Option.some.injEq] at he
  subst he
  simp [parse, parseFlt, encV, pTy, pOB, pMode]
theorem fcmp (ty : Ty) (cond : FCond) (d : CmpDst) (a : RegNo) (b : Opnd) (m : VMode) : Statement (.fcmp ty cond d a b m) := by
  apply of_parse
  intro w hw he
  simp only [encode, Option.some.injEq] at he
  subst he
  all_goals cases d
  all_goals simp [bit_any, CmpDst.code, CmpDst.bits, CmpDst.ofCode, parse, parseFlt, encV, pTy, pOB, pMode, pCmp]
theorem fcls (ty : Ty) (d : CmpDst) (a : RegNo) (set : SPos) (m : VMode) : Statement (.fcls ty d a set m) := by
  apply of_parse
  intro w hw he
  simp only [encode, Option.some.injEq] at he
  subst he
  all_goals cases d
  case vec => obtain rfl : set = .s 0 := by simp [Instr.wf, CmpDst.isVec] at hw; exact hw.1.2
              simp [parse, parseFlt, encV, pTy, pBp, pCmp, CmpDst.code, CmpDst.bits, CmpDst.ofCode, pMode]
  all_goals simp [Instr.wf, CmpDst.isVec] at hw
  all_goals simp [bit_any, CmpDst.code, CmpDst.bits, CmpDst.ofCode, parse, parseFlt, encV, pBp, pTy, pMode, pCmp]
theorem frcp (ty : Ty) (rm : Rm) (sat : Bool) (d : RegNo) (a : RegNo) (m : VMode) : Statement (.frcp ty rm sat d a m) := by
  apply of_parse
  intro w hw he
  simp only [encode, Option.some.injEq] at he
  subst he
  simp [parse, parseFlt, encV, pTy, pRm, pMode, pSat]
theorem frsq (ty : Ty) (rm : Rm) (sat : Bool) (d : RegNo) (a : RegNo) (m : VMode) : Statement (.frsq ty rm sat d a m) := by
  apply of_parse
  intro w hw he
  simp only [encode, Option.some.injEq] at he
  subst he
  simp [parse, parseFlt, encV, pTy, pRm, pMode, pSat]
theorem fsqt (ty : Ty) (rm : Rm) (sat : Bool) (d : RegNo) (a : RegNo) (m : VMode) : Statement (.fsqt ty rm sat d a m) := by
  apply of_parse
  intro w hw he
  simp only [encode, Option.some.injEq] at he
  subst he
  simp [parse, parseFlt, encV, pTy, pRm, pMode, pSat]
theorem fex2 (ty : Ty) (rm : Rm) (sat : Bool) (d : RegNo) (a : RegNo) (m : VMode) : Statement (.fex2 ty rm sat d a m) := by
  apply of_parse
  intro w hw he
  simp only [encode, Option.some.injEq] at he
  subst he
  simp [parse, parseFlt, encV, pTy, pRm, pMode, pSat]
theorem flg2 (ty : Ty) (rm : Rm) (sat : Bool) (d : RegNo) (a : RegNo) (m : VMode) : Statement (.flg2 ty rm sat d a m) := by
  apply of_parse
  intro w hw he
  simp only [encode, Option.some.injEq] at he
  subst he
  simp [parse, parseFlt, encV, pTy, pRm, pMode, pSat]
theorem ftrg (ty : Ty) (rm : Rm) (sat : Bool) (cos : Bool) (d : RegNo) (a : RegNo) (m : VMode) : Statement (.ftrg ty rm sat cos d a m) := by
  apply of_parse
  intro w hw he
  simp only [encode, Option.some.injEq] at he
  subst he
  all_goals cases cos
  all_goals simp [parse, parseFlt, encV, pTy, pRm, pMode, pSat]
theorem fdiv (ty : Ty) (rm : Rm) (sat : Bool) (d : RegNo) (a : RegNo) (b : Opnd) (m : VMode) : Statement (.fdiv ty rm sat d a b m) := by
  apply of_parse
  intro w hw he
  simp only [encode, Option.some.injEq] at he
  subst he
  simp [parse, parseFlt, encV, pTy, pRm, pOB, pMode, pSat]
theorem fcvt (dst : Ty) (src : Ty) (rm : Rm) (sat : Bool) (d : RegNo) (a : RegNo) (el : BitVec 3) (nr : Bool) : Statement (.fcvt dst src rm sat d a el nr) := by
  apply of_parse
  intro w hw he
  simp only [encode, Option.some.injEq] at he
  subst he
  simp [parse, parseFlt, encV, pTy, pRm, pNr, pSat]
theorem icvt (dst : Ty) (src : Ty) (n4 : Bool) (rm : Rm) (sat : Bool) (d : RegNo) (a : RegNo) (el : BitVec 3) (nr : Bool) : Statement (.icvt dst src n4 rm sat d a el nr) := by
  apply of_parse
  intro w hw he
  simp only [encode, Option.some.injEq] at he
  subst he
  all_goals cases n4
  all_goals simp [bit_el, parse, parseFlt, encV, pTy, pRm, pNr, pSat]
theorem dadd (sub : Bool) (rm : Rm) (sat : Bool) (d : RegNo) (a : RegNo) (b : Opnd) (nr : Bool) : Statement (.dadd sub rm sat d a b nr) := by
  apply of_parse
  intro w hw he
  simp only [encode, Option.some.injEq] at he
  subst he
  all_goals cases sub
  all_goals simp [parse, parseFlt, encV, pRm, pOB, pNr, pSat]
theorem dmul (rm : Rm) (sat : Bool) (d : RegNo) (a : RegNo) (b : Opnd) (nr : Bool) : Statement (.dmul rm sat d a b nr) := by
  apply of_parse
  intro w hw he
  simp only [encode, Option.some.injEq] at he
  subst he
  simp [parse, parseFlt, encV, pRm, pOB, pNr, pSat]
theorem dfma (rm : Rm) (sat : Bool) (negp : Bool) (negc : Bool) (d : RegNo) (a : RegNo) (b : Opnd) (c : Opnd) (nr : Bool) : Statement (.dfma rm sat negp negc d a b c nr) := by
  apply of_parse
  intro w hw he
  simp only [encode, Option.some.injEq] at he
  subst he
  all_goals cases negp
  all_goals cases negc
  all_goals simp [parse, parseFlt, encV, pRm, pOB, pOC, pNr, pSat]
theorem scvn (e5m2 : Bool) (rm : Rm) (sat : Bool) (d : RegNo) (a : RegNo) (b : Opnd) (el : BitVec 3) (nr : Bool) : Statement (.scvn e5m2 rm sat d a b el nr) := by
  apply of_parse
  intro w hw he
  simp only [encode, Option.some.injEq] at he
  subst he
  all_goals cases e5m2
  all_goals simp [parse, parseFlt, encV, pRm, pOB, pNr, pSat]
theorem scvw (e5m2 : Bool) (rm : Rm) (sat : Bool) (d : RegNo) (a : RegNo) (b : Opnd) (el : BitVec 3) (nr : Bool) : Statement (.scvw e5m2 rm sat d a b el nr) := by
  apply of_parse
  intro w hw he
  simp only [encode, Option.some.injEq] at he
  subst he
  all_goals cases e5m2
  all_goals simp [parse, parseFlt, encV, pRm, pOB, pNr, pSat]
theorem kclr (k : BitVec 2) (nr : Bool) : Statement (.kclr k nr) := by
  apply of_parse
  intro w hw he
  simp only [encode, Option.some.injEq] at he
  subst he
  simp [parse, parseFlt, encV, pNr]
theorem kadd (ty : Ty) (k : BitVec 2) (a : RegNo) (nr : Bool) : Statement (.kadd ty k a nr) := by
  apply of_parse
  intro w hw he
  simp only [encode, Option.some.injEq] at he
  subst he
  simp [parse, parseFlt, encV, pTy, pNr]
theorem krnd (ty : Ty) (rm : Rm) (sat : Bool) (clr : Bool) (k : BitVec 2) (d : RedDst) (nr : Bool) : Statement (.krnd ty rm sat clr k d nr) := by
  apply of_parse
  intro w hw he
  simp only [encode, Option.some.injEq] at he
  subst he
  all_goals cases clr
  all_goals cases d
  all_goals simp [bit_op, bit_kr, RedDst.code, RedDst.flag, RedDst.ofCode, parse, parseFlt, encV, pTy, pRm, pRed, pNr, pSat]
theorem kscn (ty : Ty) (rm : Rm) (sat : Bool) (excl : Bool) (k : BitVec 2) (d : RegNo) (a : RegNo) (nr : Bool) : Statement (.kscn ty rm sat excl k d a nr) := by
  apply of_parse
  intro w hw he
  simp only [encode, Option.some.injEq] at he
  subst he
  all_goals cases excl
  all_goals simp [bit_op, parse, parseFlt, encV, pTy, pRm, pNr, pSat]
theorem kmovGet (k : BitVec 2) (d : RegNo) (nr : Bool) : Statement (.kmovGet k d nr) := by
  apply of_parse
  intro w hw he
  simp only [encode, Option.some.injEq] at he
  subst he
  simp [parse, parseFlt, encV, pNr]
theorem kmovSet (k : BitVec 2) (a : RegNo) (nr : Bool) : Statement (.kmovSet k a nr) := by
  apply of_parse
  intro w hw he
  simp only [encode, Option.some.injEq] at he
  subst he
  simp [parse, parseFlt, encV, pNr]
theorem kmovCpy (k : BitVec 2) (j : BitVec 2) (nr : Bool) : Statement (.kmovCpy k j nr) := by
  apply of_parse
  intro w hw he
  simp only [encode, Option.some.injEq] at he
  subst he
  simp [parse, parseFlt, encV, pNr]
theorem kmovAdd (k : BitVec 2) (j : BitVec 2) (nr : Bool) : Statement (.kmovAdd k j nr) := by
  apply of_parse
  intro w hw he
  simp only [encode, Option.some.injEq] at he
  subst he
  simp [parse, parseFlt, encV, pNr]
theorem fsrGet (d : SReg) (nr : Bool) : Statement (.fsrGet d nr) := by
  apply of_parse
  intro w hw he
  simp only [encode, Option.some.injEq] at he
  subst he
  simp [parse, parseFlt, encV, pNr, pDs]
theorem fsrSet (b : SPos) (nr : Bool) : Statement (.fsrSet b nr) := by
  apply of_parse
  intro w hw he
  simp only [encode, Option.some.injEq] at he
  subst he
  simp [parse, parseFlt, encV, pBp, pNr]
theorem fsrClr (b : SPos) (nr : Bool) : Statement (.fsrClr b nr) := by
  apply of_parse
  intro w hw he
  simp only [encode, Option.some.injEq] at he
  subst he
  simp [parse, parseFlt, encV, pBp, pNr]
theorem fsrOr (b : SPos) (nr : Bool) : Statement (.fsrOr b nr) := by
  apply of_parse
  intro w hw he
  simp only [encode, Option.some.injEq] at he
  subst he
  simp [parse, parseFlt, encV, pBp, pNr]
theorem ixset (k : BitVec 2) (a : RegNo) (b : Opnd) (nr : Bool) : Statement (.ixset k a b nr) := by
  apply of_parse
  intro w hw he
  simp only [encode, Option.some.injEq] at he
  subst he
  simp [parse, parseFlt, encV, pOB, pNr]
theorem ixadd (k : BitVec 2) (b : Opnd) (wrap : Bool) (nr : Bool) : Statement (.ixadd k b wrap nr) := by
  apply of_parse
  intro w hw he
  simp only [encode, Option.some.injEq] at he
  subst he
  all_goals cases wrap
  all_goals simp [bit_op, parse, parseFlt, encV, pOB, pNr]
theorem shfl (wide : Bool) (mode : ShflMode) (d : RegNo) (a : RegNo) (b : Opnd) (fill : Option Opnd) (nr : Bool) : Statement (.shfl wide mode d a b fill nr) := by
  apply of_parse
  intro w hw he
  simp only [encode, Option.some.injEq] at he
  subst he
  all_goals cases wide
  all_goals cases fill
  all_goals simp [bit_op3, parse, parseMem, encV, pOB, pOC, pNr, pWide]
theorem slide (wide : Bool) (up : Bool) (gran : Gran) (d : RegNo) (a : RegNo) (b : Opnd) (k : BitVec 5) (nr : Bool) : Statement (.slide wide up gran d a b k nr) := by
  apply of_parse
  intro w hw he
  simp only [encode, Option.some.injEq] at he
  subst he
  all_goals cases wide
  all_goals cases up
  all_goals simp [bit_gr, parse, parseMem, encV, pOB, pNr, pWide]
theorem bcst (wide : Bool) (d : RegNo) (a : RegNo) (sel : BcstSel) (nr : Bool) : Statement (.bcst wide d a sel nr) := by
  apply of_parse
  intro w hw he
  simp only [encode, Option.some.injEq] at he
  subst he
  all_goals cases wide
  all_goals cases sel
  all_goals simp [bit_k5, BcstSel.opnd, BcstSel.sub, BcstSel.ofWord, parse, parseMem, encV, pNr, pWide]
theorem gred (ty : Ty) (op : RedOp) (sat : Bool) (d : RedDst) (a : RegNo) (nr : Bool) : Statement (.gred ty op sat d a nr) := by
  apply of_parse
  intro w hw he
  simp only [encode, Option.some.injEq] at he
  subst he
  all_goals cases op
  all_goals cases d
  all_goals simp [RedDst.code, RedDst.flag, RedDst.ofCode, parse, parseMem, encV, pTy, pRed, pNr, pSat]
theorem gscn (ty : Ty) (op : RedOp) (sat : Bool) (excl : Bool) (d : RegNo) (a : RegNo) (nr : Bool) : Statement (.gscn ty op sat excl d a nr) := by
  apply of_parse
  intro w hw he
  simp only [encode, Option.some.injEq] at he
  subst he
  all_goals cases op
  all_goals cases excl
  all_goals simp [red_bit, parse, parseMem, encV, pTy, pNr, pSat]
theorem perm (byte : Bool) (zero : Bool) (d : RegNo) (a : RegNo) (b : RegNo) (c : RegNo) (nr : Bool) : Statement (.perm byte zero d a b c nr) := by
  apply of_parse
  intro w hw he
  simp only [encode, Option.some.injEq] at he
  subst he
  all_goals cases byte
  all_goals cases zero
  all_goals simp [parse, parseMem, encV, pNr]
theorem ld (sz : Sz) (hint : Hint) (inv : Bool) (sx : Bool) (prm : Bool) (ord : MOrd) (sco : Scope) (d : RegNo) (base : Base) (off : BitVec 16) : Statement (.ld sz hint inv sx prm ord sco d base off) := by
  apply of_parse
  intro w hw he
  simp only [encode, Option.some.injEq] at he
  subst he
  all_goals cases base
  all_goals simp [Base.aCode, Base.bCode, Base.flag, Base.ofWord, parse, parseMem, pSz, pHint, pOrd, pSco, pOff]
theorem st (sz : Sz) (hint : Hint) (ord : MOrd) (sco : Scope) (d : RegNo) (base : Base) (off : BitVec 16) : Statement (.st sz hint ord sco d base off) := by
  apply of_parse
  intro w hw he
  simp only [encode, Option.some.injEq] at he
  subst he
  all_goals cases base
  all_goals simp [Base.aCode, Base.bCode, Base.flag, Base.ofWord, parse, parseMem, pSz, pHint, pOrd, pSco, pOff]
theorem lds (sz : Sz) (sx : Bool) (ord : MOrd) (sco : Scope) (d : RegNo) (base : Base) (off : BitVec 16) : Statement (.lds sz sx ord sco d base off) := by
  apply of_parse
  intro w hw he
  simp only [encode, Option.some.injEq] at he
  subst he
  all_goals cases base
  all_goals simp [Base.aCode, Base.bCode, Base.flag, Base.ofWord, parse, parseMem, pSz, pOrd, pSco, pOff]
theorem sts (sz : Sz) (ord : MOrd) (sco : Scope) (d : RegNo) (base : Base) (off : BitVec 16) : Statement (.sts sz ord sco d base off) := by
  apply of_parse
  intro w hw he
  simp only [encode, Option.some.injEq] at he
  subst he
  all_goals cases base
  all_goals simp [Base.aCode, Base.bCode, Base.flag, Base.ofWord, parse, parseMem, pSz, pOrd, pSco, pOff]
theorem atom (fn : AtomFn) (wide : Bool) (spad : Bool) (hint : Hint) (ord : MOrd) (sco : Scope) (prm : Bool) (d : RegNo) (base : ABase) (b : RegNo) (off : BitVec 12) : Statement (.atom fn wide spad hint ord sco prm d base b off) := by
  apply of_parse
  intro w hw he
  simp only [encode, Option.some.injEq] at he
  subst he
  all_goals cases wide
  all_goals cases base
  all_goals simp [ABase.aCode, ABase.flag, ABase.ofWord, parse, parseMem, pHint, pOrd, pSco, pOff12]
theorem atmf (fn : AtmfFn) (sz : Sz) (hint : Hint) (ord : MOrd) (sco : Scope) (prm : Bool) (d : RegNo) (base : ABase) (b : RegNo) (off : BitVec 12) : Statement (.atmf fn sz hint ord sco prm d base b off) := by
  apply of_parse
  intro w hw he
  simp only [encode, Option.some.injEq] at he
  subst he
  all_goals cases base
  all_goals simp [ABase.aCode, ABase.flag, ABase.ofWord, parse, parseMem, pSz, pHint, pOrd, pSco, pOff12]
theorem fence (ord : MOrd) (sco : Scope) : Statement (.fence ord sco) := by
  apply of_parse
  intro w hw he
  simp only [encode, Option.some.injEq] at he
  subst he
  simp [parse, parseMem, pOrd, pSco]
theorem fenceFlushx  : Statement (.fenceFlushx) := by
  apply of_parse
  intro w hw he
  simp only [encode, Option.some.injEq] at he
  subst he
  simp [parse, parseMem]
theorem prf (hint : Hint) (base : Base) (off : BitVec 16) : Statement (.prf hint base off) := by
  apply of_parse
  intro w hw he
  simp only [encode, Option.some.injEq] at he
  subst he
  all_goals cases base
  all_goals simp [Base.aCode, Base.bCode, Base.flag, Base.ofWord, parse, parseMem, pHint, pOff]
theorem cmnt (fn : CmntFn) (base : Base) (off : BitVec 12) : Statement (.cmnt fn base off) := by
  apply of_parse
  intro w hw he
  simp only [encode, Option.some.injEq] at he
  subst he
  all_goals cases base
  all_goals simp [Base.aCode, Base.bCode, Base.flag, Base.ofWord, parse, parseMem, pOff12]
theorem fqput (d : RegNo) (a : SPos) : Statement (.fqput d a) := by
  apply of_parse
  intro w hw he
  simp only [encode, Option.some.injEq] at he
  subst he
  simp [parse, parseMem, pAp]
theorem fqget (d : RegNo) (a : SPos) : Statement (.fqget d a) := by
  apply of_parse
  intro w hw he
  simp only [encode, Option.some.injEq] at he
  subst he
  simp [parse, parseMem, pAp]
theorem bankRequest (mode : BankMode) (d : SReg) (b : SPos) (nr : Bool) : Statement (.bankRequest mode d b nr) := by
  apply of_parse
  intro w hw he
  simp only [encode, Option.some.injEq] at he
  subst he
  simp [mode_bit, parse, parseMem, encV, pBp, pNr, pDs]
theorem bankQuery (d : SReg) (b : SPos) (nr : Bool) : Statement (.bankQuery d b nr) := by
  apply of_parse
  intro w hw he
  simp only [encode, Option.some.injEq] at he
  subst he
  simp [parse, parseMem, encV, pBp, pNr, pDs]
theorem bar (n : BitVec 4) (cnt : Option SPos) (nr : Bool) : Statement (.bar n cnt nr) := by
  apply of_parse
  intro w hw he
  simp only [encode, Option.some.injEq] at he
  subst he
  all_goals cases cnt
  all_goals simp [bit_n4, parse, parseMem, encV, encBar, pNr, pCnt]
theorem barv (n : BitVec 4) (cnt : Option SPos) (nr : Bool) : Statement (.barv n cnt nr) := by
  apply of_parse
  intro w hw he
  simp only [encode, Option.some.injEq] at he
  subst he
  all_goals cases cnt
  all_goals simp [bit_n4, parse, parseMem, encV, encBar, pNr, pCnt]
theorem barw (n : BitVec 4) (nr : Bool) : Statement (.barw n nr) := by
  apply of_parse
  intro w hw he
  simp only [encode, Option.some.injEq] at he
  subst he
  simp [parse, parseMem, encV, encBar, pNr]
theorem evwt (eq : Bool) (wide : Bool) (spad : Bool) (ord : MOrd) (sco : Scope) (prm : Bool) (d : SReg) (a : SPos) (b : SPos) (timeout : BitVec 16) : Statement (.evwt eq wide spad ord sco prm d a b timeout) := by
  apply of_parse
  intro w hw he
  simp only [encode, Option.some.injEq] at he
  subst he
  all_goals cases eq
  all_goals cases wide
  all_goals simp [parse, parseMem, pAp, pBp, pOrd, pSco, pOff, pDs]
theorem evps (d : SReg) (a : SPos) (b : SPos) (c : SPos) (tag : BitVec 16) : Statement (.evps d a b c tag) := by
  apply of_parse
  intro w hw he
  simp only [encode, Option.some.injEq] at he
  subst he
  simp [parse, parseMem, pAp, pBp, pCp, pTag, pDs]
theorem nap (n : TOp) : Statement (.nap n) := by
  apply of_parse
  intro w hw he
  simp only [encode, Option.some.injEq] at he
  subst he
  all_goals cases n
  all_goals simp [TOp.ofWord, parse, parseMem, encT]
theorem balBurn (x : TOp) : Statement (.balBurn x) := by
  apply of_parse
  intro w hw he
  simp only [encode, Option.some.injEq] at he
  subst he
  all_goals cases x
  all_goals simp [TOp.ofWord, parse, parseMem, encT]
theorem balShunt (x : TOp) : Statement (.balShunt x) := by
  apply of_parse
  intro w hw he
  simp only [encode, Option.some.injEq] at he
  subst he
  all_goals cases x
  all_goals simp [TOp.ofWord, parse, parseMem, encT]
theorem balMatch (x : TOp) : Statement (.balMatch x) := by
  apply of_parse
  intro w hw he
  simp only [encode, Option.some.injEq] at he
  subst he
  all_goals cases x
  all_goals simp [TOp.ofWord, parse, parseMem, encT]
theorem balCeil (x : TOp) : Statement (.balCeil x) := by
  apply of_parse
  intro w hw he
  simp only [encode, Option.some.injEq] at he
  subst he
  all_goals cases x
  all_goals simp [TOp.ofWord, parse, parseMem, encT]
theorem wmark (d : SReg) (nr : Bool) : Statement (.wmark d nr) := by
  apply of_parse
  intro w hw he
  simp only [encode, Option.some.injEq] at he
  subst he
  simp [parse, parseMem, encV, pNr, pDs]
theorem dbrk (code : BitVec 8) (nr : Bool) : Statement (.dbrk code nr) := by
  apply of_parse
  intro w hw he
  simp only [encode, Option.some.injEq] at he
  subst he
  simp [parse, parseMem, encV, pNr]
theorem snap (d : SReg) (nr : Bool) : Statement (.snap d nr) := by
  apply of_parse
  intro w hw he
  simp only [encode, Option.some.injEq] at he
  subst he
  simp [parse, parseMem, encV, pNr, pDs]
theorem mlda (fa : FA) (a : RegNo) : Statement (.mlda fa a) := by
  apply of_parse
  intro w hw he
  simp only [encode, Option.some.injEq] at he
  subst he
  simp [parse, parseEng, pFA]
theorem mma (fa : FA) (keep : Bool) (tile : BitVec 4) (a : SReg) (c : SReg) (sid : SReg) : Statement (.mma fa keep tile a c sid) := by
  apply of_parse
  intro w hw he
  simp only [encode, Option.some.injEq] at he
  subst he
  simp [parse, parseEng, pFA, pTile, pCs, pSid, pAs]
theorem mmal (fa : FA) (keep : Bool) (hold : Bool) (slot : BitVec 2) (tile : BitVec 4) (a : SReg) (n : MCnt) (c : SReg) (sid : SReg) : Statement (.mmal fa keep hold slot tile a n c sid) := by
  apply of_parse
  intro w hw he
  simp only [encode, Option.some.injEq] at he
  subst he
  all_goals cases n
  all_goals simp [pos_ne, MCnt.code, MCnt.imm12, MCnt.ofWord, parse, parseEng, pFA, pTile, pCs, pSid, pSlotM, pAs]
theorem mdrn (spad : Bool) (latch : Bool) (tile : BitVec 4) (a : SReg) : Statement (.mdrn spad latch tile a) := by
  apply of_parse
  intro w hw he
  simp only [encode, Option.some.injEq] at he
  subst he
  all_goals cases spad
  all_goals cases latch
  all_goals simp [parse, parseEng, pTile, pAs]
theorem mfil (spad : Bool) (latch : Bool) (tile : BitVec 4) (a : SReg) : Statement (.mfil spad latch tile a) := by
  apply of_parse
  intro w hw he
  simp only [encode, Option.some.injEq] at he
  subst he
  all_goals cases spad
  all_goals cases latch
  all_goals simp [parse, parseEng, pTile, pAs]
theorem mzroGrant (a : GrantArg) : Statement (.mzroGrant a) := by
  obtain ⟨tile, k⟩ := a
  apply of_parse
  intro w hw he
  simp only [encode, Option.some.injEq] at he
  subst he
  all_goals simp [Instr.wf] at hw
  have hk : k ≠ 0 := by rintro rfl; simp at hw
  all_goals simp [bit_k12, parse, parseEng, pTile]
  exact hk
theorem mzro (tile : BitVec 4) : Statement (.mzro tile) := by
  apply of_parse
  intro w hw he
  simp only [encode, Option.some.injEq] at he
  subst he
  simp [parse, parseEng, pTile]
theorem msts (fa : FA) (sat : Bool) (spad : Bool) (tile : BitVec 4) (a : SReg) (c : SReg) : Statement (.msts fa sat spad tile a c) := by
  apply of_parse
  intro w hw he
  simp only [encode, Option.some.injEq] at he
  subst he
  all_goals cases sat
  all_goals cases spad
  all_goals simp [parse, parseEng, pFA, pTile, pCs, pAs]
theorem mscl (pin : Bool) (a : SReg) (n : MCnt) (sid : SReg) : Statement (.mscl pin a n sid) := by
  apply of_parse
  intro w hw he
  simp only [encode, Option.some.injEq] at he
  subst he
  all_goals cases pin
  all_goals cases n
  all_goals simp [pos_ne, MCnt.code, MCnt.imm12, MCnt.ofWord, parse, parseEng, pSid, pAs]
theorem mrel  : Statement (.mrel) := by
  apply of_parse
  intro w hw he
  simp only [encode, Option.some.injEq] at he
  subst he
  simp [parse, parseEng]
theorem msta (clr : Bool) (status : Bool) (d : SReg) : Statement (.msta clr status d) := by
  apply of_parse
  intro w hw he
  simp only [encode, Option.some.injEq] at he
  subst he
  all_goals cases clr
  all_goals cases status
  all_goals simp [parse, parseEng, pAs]
theorem cpy (rows : Bool) (ev : Bool) (hold : Bool) (slot : BitVec 2) (d : SReg) (a : SPos) (b : SPos) (tag : BitVec 16) : Statement (.cpy rows ev hold slot d a b tag) := by
  apply of_parse
  intro w hw he
  simp only [encode, Option.some.injEq] at he
  subst he
  all_goals cases rows
  all_goals simp [parse, parseEng, pAp, pBp, pEv, pHold, pSlotE, pTag, pK0, pDs]
theorem gath (ev : Bool) (hold : Bool) (slot : BitVec 2) (d : SReg) (a : SPos) (b : SPos) (c : SPos) (tag : BitVec 16) : Statement (.gath ev hold slot d a b c tag) := by
  apply of_parse
  intro w hw he
  simp only [encode, Option.some.injEq] at he
  subst he
  simp [parse, parseEng, pAp, pBp, pCp, pEv, pHold, pSlotE, pTag, pDs]
theorem scat (ev : Bool) (hold : Bool) (slot : BitVec 2) (d : SReg) (a : SPos) (b : SPos) (c : SPos) (tag : BitVec 16) : Statement (.scat ev hold slot d a b c tag) := by
  apply of_parse
  intro w hw he
  simp only [encode, Option.some.injEq] at he
  subst he
  simp [parse, parseEng, pAp, pBp, pCp, pEv, pHold, pSlotE, pTag, pDs]
theorem bin (n16 : Bool) (ev : Bool) (d : SReg) (a : SPos) (b : SPos) (c : SPos) (tag : BitVec 16) : Statement (.bin n16 ev d a b c tag) := by
  apply of_parse
  intro w hw he
  simp only [encode, Option.some.injEq] at he
  subst he
  all_goals cases n16
  all_goals simp [parse, parseEng, pAp, pBp, pCp, pEv, pTag, pK0, pDs]
theorem ptch (floor : Bool) (ev : Bool) (slot : BitVec 2) (d : SReg) (a : SPos) (b : SPos) (c : SPos) (tag : BitVec 16) : Statement (.ptch floor ev slot d a b c tag) := by
  apply of_parse
  intro w hw he
  simp only [encode, Option.some.injEq] at he
  subst he
  all_goals cases floor
  all_goals simp [parse, parseEng, pAp, pBp, pCp, pEv, pSlotE, pTag, pK0, pDs]
theorem rlse (ev : Bool) (slot : BitVec 2) (d : SReg) (tag : BitVec 16) : Statement (.rlse ev slot d tag) := by
  apply of_parse
  intro w hw he
  simp only [encode, Option.some.injEq] at he
  subst he
  simp [parse, parseEng, pEv, pSlotE, pTag, pDs]
theorem coll (kind : CollKind) (ev : Bool) (d : SReg) (a : SPos) (b : SPos) (c : SPos) (tag : BitVec 16) : Statement (.coll kind ev d a b c tag) := by
  apply of_parse
  intro w hw he
  simp only [encode, Option.some.injEq] at he
  subst he
  simp [parse, parseEng, pAp, pBp, pCp, pEv, pTag, pDs]
theorem lnch (ev : Bool) (d : SReg) (a : SPos) (tag : BitVec 16) : Statement (.lnch ev d a tag) := by
  apply of_parse
  intro w hw he
  simp only [encode, Option.some.injEq] at he
  subst he
  simp [parse, parseEng, pAp, pEv, pTag, pDs]
theorem ecan (d : SReg) (a : SPos) (tag : BitVec 16) : Statement (.ecan d a tag) := by
  apply of_parse
  intro w hw he
  simp only [encode, Option.some.injEq] at he
  subst he
  simp [parse, parseEng, pAp, pTag, pK0, pDs]
theorem ecanSlot (slot : BitVec 2) (d : SReg) (tag : BitVec 16) : Statement (.ecanSlot slot d tag) := by
  apply of_parse
  intro w hw he
  simp only [encode, Option.some.injEq] at he
  subst he
  simp [parse, parseEng, pSlotE, pTag, pK0, pDs]
theorem eqrd (d : SReg) (tag : BitVec 16) : Statement (.eqrd d tag) := by
  apply of_parse
  intro w hw he
  simp only [encode, Option.some.injEq] at he
  subst he
  simp [parse, parseEng, pTag, pK0, pDs]
theorem eqrdWait (d : SReg) (tag : BitVec 16) : Statement (.eqrdWait d tag) := by
  apply of_parse
  intro w hw he
  simp only [encode, Option.some.injEq] at he
  subst he
  simp [parse, parseEng, pTag, pK0, pDs]
theorem tlbiRng (a : SReg) (b : SReg) : Statement (.tlbiRng a b) := by
  apply of_parse
  intro w hw he
  simp only [encode, Option.some.injEq] at he
  subst he
  simp [parse, parseSys, encY, pAs, pBs]
theorem tlbiAsid (b : SReg) : Statement (.tlbiAsid b) := by
  apply of_parse
  intro w hw he
  simp only [encode, Option.some.injEq] at he
  subst he
  simp [parse, parseSys, encY, pBs]
theorem tlbiAll  : Statement (.tlbiAll) := by
  apply of_parse
  intro w hw he
  simp only [encode, Option.some.injEq] at he
  subst he
  simp [parse, parseSys, encY]
theorem ctxsStop (d : SReg) (a : SReg) : Statement (.ctxsStop d a) := by
  apply of_parse
  intro w hw he
  simp only [encode, Option.some.injEq] at he
  subst he
  simp [parse, parseSys, encY, pDs, pAs]
theorem ctxsSave (d : SReg) (a : SReg) : Statement (.ctxsSave d a) := by
  apply of_parse
  intro w hw he
  simp only [encode, Option.some.injEq] at he
  subst he
  simp [parse, parseSys, encY, pDs, pAs]
theorem ctxsEvict (d : SReg) (a : SReg) : Statement (.ctxsEvict d a) := by
  apply of_parse
  intro w hw he
  simp only [encode, Option.some.injEq] at he
  subst he
  simp [parse, parseSys, encY, pDs, pAs]
theorem ctxsTeam (d : SReg) (a : SReg) (b : SReg) : Statement (.ctxsTeam d a b) := by
  apply of_parse
  intro w hw he
  simp only [encode, Option.some.injEq] at he
  subst he
  simp [parse, parseSys, encY, pDs, pAs, pBs]
theorem ctxlCreate (d : SReg) (a : SReg) (b : SReg) : Statement (.ctxlCreate d a b) := by
  apply of_parse
  intro w hw he
  simp only [encode, Option.some.injEq] at he
  subst he
  simp [parse, parseSys, encY, pDs, pAs, pBs]
theorem ctxlResume (d : SReg) (a : SReg) : Statement (.ctxlResume d a) := by
  apply of_parse
  intro w hw he
  simp only [encode, Option.some.injEq] at he
  subst he
  simp [parse, parseSys, encY, pDs, pAs]
theorem ctxlKill (d : SReg) (a : SReg) : Statement (.ctxlKill d a) := by
  apply of_parse
  intro w hw he
  simp only [encode, Option.some.injEq] at he
  subst he
  simp [parse, parseSys, encY, pDs, pAs]
theorem ctxlUpd (d : SReg) (a : SReg) (b : SReg) : Statement (.ctxlUpd d a b) := by
  apply of_parse
  intro w hw he
  simp only [encode, Option.some.injEq] at he
  subst he
  simp [parse, parseSys, encY, pDs, pAs, pBs]
theorem ctxlEres (d : SReg) (a : SReg) : Statement (.ctxlEres d a) := by
  apply of_parse
  intro w hw he
  simp only [encode, Option.some.injEq] at he
  subst he
  simp [parse, parseSys, encY, pDs, pAs]
theorem ctxlEfail (d : SReg) (a : SReg) : Statement (.ctxlEfail d a) := by
  apply of_parse
  intro w hw he
  simp only [encode, Option.some.injEq] at he
  subst he
  simp [parse, parseSys, encY, pDs, pAs]
theorem tret  : Statement (.tret) := by
  apply of_parse
  intro w hw he
  simp only [encode, Option.some.injEq] at he
  subst he
  simp [parse, parseSys, encY]
theorem prack (mat : Bool) (b : SReg) : Statement (.prack mat b) := by
  apply of_parse
  intro w hw he
  simp only [encode, Option.some.injEq] at he
  subst he
  all_goals cases mat
  all_goals simp [parse, parseSys, encY, pBs]
theorem prackRet  : Statement (.prackRet) := by
  apply of_parse
  intro w hw he
  simp only [encode, Option.some.injEq] at he
  subst he
  simp [parse, parseSys, encY]
theorem rwnd (force : Bool) (d : SReg) (a : SReg) (b : SReg) : Statement (.rwnd force d a b) := by
  apply of_parse
  intro w hw he
  simp only [encode, Option.some.injEq] at he
  subst he
  all_goals cases force
  all_goals simp [parse, parseSys, encY, pDs, pAs, pBs]
theorem rwndChk (d : SReg) (a : SReg) (b : SReg) : Statement (.rwndChk d a b) := by
  apply of_parse
  intro w hw he
  simp only [encode, Option.some.injEq] at he
  subst he
  simp [parse, parseSys, encY, pDs, pAs, pBs]
theorem rwndCmt (d : SReg) (a : SReg) : Statement (.rwndCmt d a) := by
  apply of_parse
  intro w hw he
  simp only [encode, Option.some.injEq] at he
  subst he
  simp [parse, parseSys, encY, pDs, pAs]
theorem pcfg (d : SReg) (a : SReg) (b : SReg) : Statement (.pcfg d a b) := by
  apply of_parse
  intro w hw he
  simp only [encode, Option.some.injEq] at he
  subst he
  simp [parse, parseSys, encY, pDs, pAs, pBs]
theorem halt  : Statement (.halt) := by
  apply of_parse
  intro w hw he
  simp only [encode, Option.some.injEq] at he
  subst he
  simp [parse, parseSys, encY]
theorem haltOff (d : SReg) (a : SReg) : Statement (.haltOff d a) := by
  apply of_parse
  intro w hw he
  simp only [encode, Option.some.injEq] at he
  subst he
  simp [parse, parseSys, encY, pDs, pAs]
theorem haltOn (d : SReg) (a : SReg) : Statement (.haltOn d a) := by
  apply of_parse
  intro w hw he
  simp only [encode, Option.some.injEq] at he
  subst he
  simp [parse, parseSys, encY, pDs, pAs]
theorem clauseSelect (core : Nat) (pipe : Nat) : Statement (.clauseSelect core pipe) := of_event rfl
theorem loadComplete (op : Nat) : Statement (.loadComplete op) := of_event rfl
theorem asyncCommandComplete (id : Nat) : Statement (.asyncCommandComplete id) := of_event rfl
theorem compaction (core : Nat) (group : Nat) (toPipe : Nat) : Statement (.compaction core group toPipe) := of_event rfl
theorem stackSpillComplete (group : Nat) : Statement (.stackSpillComplete group) := of_event rfl
theorem bufferEntryPerform (core : Nat) (entry : Nat) : Statement (.bufferEntryPerform core entry) := of_event rfl
theorem logBurstWrite (stack : Nat) : Statement (.logBurstWrite stack) := of_event rfl
theorem logBurstTimeout (stack : Nat) : Statement (.logBurstTimeout stack) := of_event rfl
theorem automaticWindowOpen (part : Nat) (ctx : Nat) : Statement (.automaticWindowOpen part ctx) := of_event rfl
theorem wmarkComplete (grid : Nat) : Statement (.wmarkComplete grid) := of_event rfl
theorem rewindFinish (part : Nat) (ctx : Nat) : Statement (.rewindFinish part ctx) := of_event rfl
theorem ordrTimeout (slice : Nat) : Statement (.ordrTimeout slice) := of_event rfl
theorem promote (core : Nat) (slice : Nat) (line : Nat) : Statement (.promote core slice line) := of_event rfl
theorem ownedLineRecall (line : Nat) : Statement (.ownedLineRecall line) := of_event rfl
theorem flushxComplete (group : Nat) : Statement (.flushxComplete group) := of_event rfl
theorem evwtWake (group : Nat) : Statement (.evwtWake group) := of_event rfl
theorem evwtPoll (group : Nat) : Statement (.evwtPoll group) := of_event rfl
theorem evwtTimeout (group : Nat) : Statement (.evwtTimeout group) := of_event rfl
theorem napDeadline (group : Nat) : Statement (.napDeadline group) := of_event rfl
theorem fqputRoom (cluster : Nat) (bank : Nat) : Statement (.fqputRoom cluster bank) := of_event rfl
theorem fqgetMatch (cluster : Nat) (bank : Nat) : Statement (.fqgetMatch cluster bank) := of_event rfl
theorem bankRelease (cluster : Nat) (bank : Nat) : Statement (.bankRelease cluster bank) := of_event rfl
theorem bankConvertEnd (cluster : Nat) (bank : Nat) : Statement (.bankConvertEnd cluster bank) := of_event rfl
theorem issueLimitAdjust (core : Nat) : Statement (.issueLimitAdjust core) := of_event rfl
theorem translationWalk (core : Nat) (asid : Nat) (va : Nat) (write : Bool) : Statement (.translationWalk core asid va write) := of_event rfl
theorem tlbiComplete (group : Nat) : Statement (.tlbiComplete group) := of_event rfl
theorem streamWake (stream : Nat) : Statement (.streamWake stream) := of_event rfl
theorem streamSlotPoll (stream : Nat) : Statement (.streamSlotPoll stream) := of_event rfl
theorem packetNop (stream : Nat) : Statement (.packetNop stream) := of_event rfl
theorem packetLaunch (stream : Nat) : Statement (.packetLaunch stream) := of_event rfl
theorem packetWait (stream : Nat) : Statement (.packetWait stream) := of_event rfl
theorem waitSatisfied (stream : Nat) : Statement (.waitSatisfied stream) := of_event rfl
theorem packetMark (stream : Nat) : Statement (.packetMark stream) := of_event rfl
theorem packetBadpkt (stream : Nat) : Statement (.packetBadpkt stream) := of_event rfl
theorem teamPlacement (grid : Nat) (team : Nat) : Statement (.teamPlacement grid team) := of_event rfl
theorem halfActiveFlue (cluster : Nat) (flue : Nat) : Statement (.halfActiveFlue cluster flue) := of_event rfl
theorem teamRetire (grid : Nat) (team : Nat) : Statement (.teamRetire grid team) := of_event rfl
theorem gridComplete (grid : Nat) : Statement (.gridComplete grid) := of_event rfl
theorem completionRecordPost (stream : Nat) : Statement (.completionRecordPost stream) := of_event rfl
theorem eventQueuePost (cluster : Nat) : Statement (.eventQueuePost cluster) := of_event rfl
theorem engineCommandStart (engine : Nat) : Statement (.engineCommandStart engine) := of_event rfl
theorem ecanAnswer (group : Nat) : Statement (.ecanAnswer group) := of_event rfl
theorem collJoinTimeout (engine : Nat) (id : BitVec 32) : Statement (.collJoinTimeout engine id) := of_event rfl
theorem matrixPass (engine : Nat) : Statement (.matrixPass engine) := of_event rfl
theorem scaleFillReturn (engine : Nat) : Statement (.scaleFillReturn engine) := of_event rfl
theorem grantServed (engine : Nat) : Statement (.grantServed engine) := of_event rfl
theorem balanceSample (cluster : Nat) (raw : List Int) : Statement (.balanceSample cluster raw) := of_event rfl
theorem damperTick (cluster : Nat) : Statement (.damperTick cluster) := of_event rfl
theorem balRequestLapse (group : Nat) : Statement (.balRequestLapse group) := of_event rfl
theorem bodyBiasStep (cluster : Nat) : Statement (.bodyBiasStep cluster) := of_event rfl
theorem frequencyInterval (cluster : Nat) : Statement (.frequencyInterval cluster) := of_event rfl
theorem frequencyStep (cluster : Nat) (headroom : Bool) : Statement (.frequencyStep cluster headroom) := of_event rfl
theorem thermalStateChange (stack : Nat) (next : Thermal) : Statement (.thermalStateChange stack next) := of_event rfl
theorem stallSample (core : Nat) : Statement (.stallSample core) := of_event rfl
theorem timeSliceEnd (grid : Nat) (team : Nat) : Statement (.timeSliceEnd grid team) := of_event rfl
theorem budgetExpiry (grid : Nat) (team : Nat) : Statement (.budgetExpiry grid team) := of_event rfl
theorem teamSave (grid : Nat) (team : Nat) : Statement (.teamSave grid team) := of_event rfl
theorem uncorrectableError (site : ErrSite) : Statement (.uncorrectableError site) := of_event rfl
theorem contextStopComplete (part : Nat) (ctx : Nat) : Statement (.contextStopComplete part ctx) := of_event rfl
theorem counterLowRead (block : CtrBlock) (i : Nat) : Statement (.counterLowRead block i) := of_event rfl
theorem counterHighRead (block : CtrBlock) (i : Nat) : Statement (.counterHighRead block i) := of_event rfl
theorem streamEntryWrite (stream : Nat) (word : Nat) (value : Word) : Statement (.streamEntryWrite stream word value) := of_event rfl
theorem statbaseWrite (value : Word) : Statement (.statbaseWrite value) := of_event rfl
theorem fwctlGo (verified : Bool) : Statement (.fwctlGo verified) := of_event rfl
theorem mmioRegisterWrite (off : Nat) (value : Word) : Statement (.mmioRegisterWrite off value) := of_event rfl
theorem hostCxlMemWrite (pa : Nat) (data : List Byte) : Statement (.hostCxlMemWrite pa data) := of_event rfl
theorem hostCxlMemRead (pa : Nat) (n : Nat) : Statement (.hostCxlMemRead pa n) := of_event rfl
theorem hostSnoop (line : Nat) (data : List Byte) : Statement (.hostSnoop line data) := of_event rfl
theorem peerRequest (dev : Nat) (req : PeerReq) : Statement (.peerRequest dev req) := of_event rfl
theorem peerAck (window : Nat) : Statement (.peerAck window) := of_event rfl
theorem flitReplay (port : Nat) (ok : Bool) : Statement (.flitReplay port ok) := of_event rfl
theorem challenge (nonce : BitVec 256) : Statement (.challenge nonce) := of_event rfl
theorem getMeasurements (nonce : BitVec 256) : Statement (.getMeasurements nonce) := of_event rfl
theorem keyExchange (pub : Word) : Statement (.keyExchange pub) := of_event rfl
theorem ideKm (key : BitVec 256) : Statement (.ideKm key) := of_event rfl
theorem frequencyTransitionEnd (cluster : Nat) : Statement (.frequencyTransitionEnd cluster) := of_event rfl
theorem timerForwardStep (ns : Nat) : Statement (.timerForwardStep ns) := of_event rfl
theorem hostSnapshotTrigger  : Statement (.hostSnapshotTrigger) := of_event rfl
theorem snapshotStatusRead  : Statement (.snapshotStatusRead) := of_event rfl
theorem snapshotArm  : Statement (.snapshotArm) := of_event rfl
theorem liveUpdateHeartbeat  : Statement (.liveUpdateHeartbeat) := of_event rfl
theorem liveUpdateTimeout  : Statement (.liveUpdateTimeout) := of_event rfl
theorem heartbeat  : Statement (.heartbeat) := of_event rfl
theorem getVersion  : Statement (.getVersion) := of_event rfl
theorem getCapabilities  : Statement (.getCapabilities) := of_event rfl
theorem negotiateAlgorithms  : Statement (.negotiateAlgorithms) := of_event rfl
theorem getDigests  : Statement (.getDigests) := of_event rfl
theorem getCertificate  : Statement (.getCertificate) := of_event rfl
theorem finish  : Statement (.finish) := of_event rfl
theorem endSession  : Statement (.endSession) := of_event rfl
theorem deviceReset  : Statement (.deviceReset) := of_event rfl
theorem cxlReset  : Statement (.cxlReset) := of_event rfl

end Sys2Proof.Laws.RoundTrip
end

