-- ==== Sys2Proof/Laws/Scalar.lean ====
section
/-! SUPPORT. What the completion of a scalar instruction does, and the scalar operations on numbers as bit vectors. -/

namespace Sys2Proof.Machine

/-! ## Completion -/

@[simp] theorem State.charge_run (s : State) (n : Nat) : (s.charge n).run = s.run := by unfold State.charge; split <;> rfl

theorem State.charge_charged (s : State) (n : Nat) (g : Group) :
    s.charged { s.charge n with run := g } n ∧
      { s.charge n with run := g } = { s with run := g, cores := (s.charge n).cores, agentCyc := (s.charge n).agentCyc } := by
  unfold State.charge
  split
  · rename_i h
    refine ⟨⟨fun k => ?_, fun k => ?_⟩, rfl⟩
    · by_cases hk : k = s.run.core
      · subst hk
        rw [if_pos ⟨h, rfl⟩]
        exact State.core_setCore s _ _
      · rw [if_neg (fun hc => hk hc.2)]
        exact State.core_setCore_ne s _ hk
    · rw [if_neg (fun hc => hc.1 h)]
      rfl
  · rename_i h
    refine ⟨⟨fun k => ?_, fun k => ?_⟩, rfl⟩
    · rw [if_neg (fun hc => h hc.1)]
      rfl
    · by_cases hk : k = s.run.gid
      · subst hk
        rw [if_pos ⟨h, rfl⟩]
        exact Tbl.get_put_same _ _ _ _
      · rw [if_neg (fun hc => hk hc.2)]
        exact Tbl.get_put_ne _ _ _ hk

/-- `done` changes the group and its core's cycles, and nothing else. -/
theorem State.done_only (s : State) (g : Group) (n : Nat) :
    s.onlyGroup (s.done g n) n ∧ (s.done g n).run = { g with word := s.run.word + 1 } := by
  have h := State.charge_charged s n { g with word := s.run.word + 1 }
  exact ⟨⟨h.2, h.1⟩, rfl⟩

theorem Group.z_setPos (g : Group) (p : SPos) (x : Word) : (g.setPos p x).z = g.z := by cases p <;> rfl

theorem Group.pos_setPos_same (g : Group) (p : SPos) (x : Word) : (g.setPos p x).pos p = g.stored p x := by
  cases p with
  | s n => simp [Group.setPos, Group.pos, Group.stored]
  | m n => simp [Group.setPos, Group.pos, Group.stored]
  | em => rfl

theorem Group.pos_setPos_ne (g : Group) {p q : SPos} (x : Word) (h : q ≠ p) : (g.setPos p x).pos q = g.pos q := by
  cases p with
  | s n =>
    cases q with
    | s k =>
      have hk : n.toNat ≠ k.toNat := fun e => h (congrArg SPos.s (BitVec.eq_of_toNat_eq e).symm)
      simp [Group.setPos, Group.pos, hk]
    | m k => rfl
    | em => rfl
  | m n =>
    cases q with
    | s k => rfl
    | m k =>
      have hk : n.toNat ≠ k.toNat := fun e => h (congrArg SPos.m (BitVec.eq_of_toNat_eq e).symm)
      simp [Group.setPos, Group.pos, hk]
    | em => rfl
  | em => cases q <;> first | rfl | exact absurd rfl h

/-- A completion that writes one scalar position. -/
theorem State.done_setPos (s : State) (d : SPos) (x : Word) (n : Nat) : s.scalarStep (s.done (s.run.setPos d x) n) d x n := by
  obtain ⟨h1, h2⟩ := State.done_only s (s.run.setPos d x) n
  refine ⟨?_, fun p hp => ?_, ?_, h1⟩
  · rw [h2]; exact Group.pos_setPos_same ..
  · rw [h2]; exact Group.pos_setPos_ne _ x hp
  · rw [h2]; cases d <;> rfl

theorem State.scalar_step (s : State) (d : SPos) (x : Word) : s.scalarStep (s.scalar d x) d x := State.done_setPos s d x 1

/-! ## Numbers and bit vectors -/

theorem readInt_signed {w : Nat} (hw : 0 < w) (x : Nat) : readInt true w x = (BitVec.ofNat w x).toInt := by
  have h2 : 2 * 2 ^ (w - 1) = 2 ^ w := by rw [← Nat.pow_succ']; congr 1; omega
  simp only [readInt, BitVec.toInt_eq_toNat_cond, BitVec.toNat_ofNat, Bool.true_and, decide_eq_true_eq]
  have hp : ((2 ^ w : Nat) : Int) = (2 : Int) ^ w := by simp
  split <;> split <;> omega

theorem readInt_unsigned (w x : Nat) : readInt false w x = ((BitVec.ofNat w x).toNat : Int) := by simp [readInt]

theorem wrapInt_ofInt (w : Nat) (x : Int) : wrapInt w x = (BitVec.ofInt w x).toNat := by
  simp only [wrapInt, BitVec.toNat_ofInt]
  congr 2

theorem wrapInt_lt (w : Nat) (x : Int) : wrapInt w x < 2 ^ w := by rw [wrapInt_ofInt]; exact (BitVec.ofInt w x).isLt

/-- A scalar of a type as a bit vector of its width. -/
theorem scaResult_32 (x : BitVec 32) : scaResult .s32 x.toNat = x.signExtend 64 := by
  have hx := x.isLt
  apply BitVec.eq_of_toInt_eq
  rw [BitVec.toInt_signExtend_of_le (by decide)]
  simp only [scaResult, if_true, sext64, BitVec.toInt_eq_toNat_cond x]
  have hm : x.toNat % 2 ^ 32 = x.toNat := Nat.mod_eq_of_lt hx
  rw [hm]
  by_cases h : 2 * x.toNat < 2 ^ 32
  · rw [if_neg (by omega), if_pos h, BitVec.toInt_ofNat']
    simp only [Int.bmod]
    omega
  · rw [if_pos (by omega), if_neg h, BitVec.toInt_ofInt]
    simp only [Int.bmod]
    omega

theorem scaResult_n32 (x : BitVec 32) : scaResult .n32 x.toNat = x.setWidth 64 := by
  have hx := x.isLt
  apply BitVec.eq_of_toNat_eq
  simp only [scaResult, Ty.scaW, BitVec.toNat_ofNat, BitVec.toNat_setWidth, if_neg (show Ty.n32 ≠ Ty.s32 by decide)]
  omega

theorem scaResult_64 (ty : Ty) (h1 : ty ≠ .s32) (h2 : ty ≠ .n32) (x : Word) : scaResult ty x.toNat = x := by
  have hx := x.isLt
  apply BitVec.eq_of_toNat_eq
  have hw : Ty.scaW ty = 64 := by cases ty <;> first | rfl | contradiction
  simp only [scaResult, if_neg h1, hw, BitVec.toNat_ofNat]
  omega

/-- The number that a bit vector reads as. -/
def readBits (signed : Bool) {w : Nat} (x : BitVec w) : Int := if signed then x.toInt else x.toNat

theorem readInt_bits (signed : Bool) {w : Nat} (hw : 0 < w) (x : Nat) : readInt signed w x = readBits signed (BitVec.ofNat w x) := by
  cases signed
  · simp [readBits, readInt_unsigned]
  · simp [readBits, readInt_signed hw]

/-- A result on numbers, written as an operation on bit vectors of the type's width (R178). -/
theorem scaResult_byType {ty : Ty} (h : ty.isScalar = true) (x y : Word) (r : Nat)
    (f : Bool → (w : Nat) → BitVec w → BitVec w → BitVec w)
    (hf : r = (f (Ty.scaSigned ty) (Ty.scaW ty) (x.setWidth _) (y.setWidth _)).toNat) :
    scaResult ty r = Claims.byType ty f x y := by
  subst hf
  cases ty <;> first
    | exact scaResult_32 _
    | exact scaResult_n32 _
    | (exact absurd h (by decide))
    | (refine (scaResult_64 _ (by decide) (by decide) _).trans ?_
       simp only [Claims.byType, Ty.scaSigned, Ty.scaW, BitVec.setWidth_eq])

theorem Group.scaA_bits (g : Group) (ty : Ty) (a : SPos) :
    g.scaA ty a = readBits (Ty.scaSigned ty) ((g.pos a).setWidth (Ty.scaW ty)) := by
  rw [Group.scaA, readInt_bits _ (by cases ty <;> decide)]
  congr 1
  exact BitVec.eq_of_toNat_eq (by simp)

theorem Group.scaB_bits (g : Group) (ty : Ty) (b : SOp) :
    g.scaB ty b = readBits (Ty.scaSigned ty) ((g.sop ty b).setWidth (Ty.scaW ty)) := by
  rw [Group.scaB, readInt_bits _ (by cases ty <;> decide)]
  congr 1
  exact BitVec.eq_of_toNat_eq (by simp)

theorem wrapInt_add (g : Bool) {w : Nat} (x y : BitVec w) : wrapInt w (readBits g x + readBits g y) = (x + y).toNat := by
  rw [wrapInt_ofInt]
  cases g <;> simp [readBits, BitVec.ofInt_add]

theorem wrapInt_sub (g : Bool) {w : Nat} (x y : BitVec w) : wrapInt w (readBits g x - readBits g y) = (x - y).toNat := by
  rw [wrapInt_ofInt]
  have h : BitVec.ofInt w (readBits g x - readBits g y) = x - y := by
    apply BitVec.eq_of_toInt_eq
    rw [BitVec.toInt_ofInt, BitVec.toInt_sub]
    cases g <;> simp [readBits, BitVec.toInt_eq_toNat_bmod]
  rw [h]

theorem wrapInt_mul (g : Bool) {w : Nat} (x y : BitVec w) : wrapInt w (readBits g x * readBits g y) = (x * y).toNat := by
  rw [wrapInt_ofInt]
  cases g <;> simp [readBits, BitVec.ofInt_mul]

theorem wrapInt_read (g : Bool) {w : Nat} (x : BitVec w) : wrapInt w (readBits g x) = x.toNat := by
  rw [wrapInt_ofInt]
  cases g <;> simp [readBits]

/-- The upper half of an exact product of 2w bits. -/
theorem wrapInt_high (w : Nat) (x : Int) : wrapInt w (x / 2 ^ w) = ((BitVec.ofInt (2 * w) x >>> w).setWidth w).toNat := by
  simp only [BitVec.toNat_setWidth, BitVec.toNat_ushiftRight, BitVec.toNat_ofInt, wrapInt, Nat.shiftRight_eq_div_pow]
  have hp : (0 : Int) < 2 ^ w := Int.pow_pos (by decide)
  have h2 : ((2 ^ (2 * w) : Nat) : Int) = 2 ^ w * 2 ^ w := by
    rw [← Int.pow_add]
    simp
    congr 1
    omega
  have hn : 0 ≤ x % (2 ^ w * 2 ^ w) := Int.emod_nonneg _ (Int.ne_of_gt (Int.mul_pos hp hp))
  have h3 : ((2 ^ w : Nat) : Int) = 2 ^ w := by simp
  have h4 : x % (2 ^ w * 2 ^ w) = x - 2 ^ w * (2 ^ w * (x / (2 ^ w * 2 ^ w))) := by rw [Int.emod_def, Int.mul_assoc]
  apply Int.ofNat.inj
  show ((_ : Nat) : Int) = ((_ : Nat) : Int)
  rw [Int.natCast_emod, Int.natCast_ediv, h2, Int.toNat_of_nonneg hn,
    Int.toNat_of_nonneg (Int.emod_nonneg _ (Int.ne_of_gt hp)), h3, h4, Int.sub_ediv_of_dvd _ ⟨_, rfl⟩,
    Int.mul_ediv_cancel_left _ (Int.ne_of_gt hp), Int.sub_mul_emod_self_left]

theorem less_iff (g : Bool) {w : Nat} (x y : BitVec w) : Claims.less g x y = decide (readBits g x < readBits g y) := by
  cases g <;> simp [Claims.less, readBits, BitVec.slt, BitVec.ult]

theorem readBits_inj (g : Bool) {w : Nat} {x y : BitVec w} (h : readBits g x = readBits g y) : x = y := by
  cases g
  · exact BitVec.eq_of_toNat_eq (by simp [readBits] at h; omega)
  · exact BitVec.eq_of_toInt_eq (by simpa [readBits] using h)

end Sys2Proof.Machine
end

