-- ==== Sys2Proof/Laws/Vector.lean ====
section
/-! SUPPORT. What the completion of a vector instruction touches: vector registers, `fsr` and the next word of the group; storage
registers, reuse table, cycles and counters of its core; and the records that R270 lets the logs take. -/

namespace Sys2Proof.Machine

theorem State.booked_refl (n : Nat) (s : State) : State.booked n s s := ⟨rfl, fun _ _ => rfl, rfl, fun _ _ => rfl⟩

theorem State.booked_trans {n : Nat} {s t u : State} (h : State.booked n s t) (h' : State.booked n t u) : State.booked n s u := by
  obtain ⟨h1, h2, h3, h4⟩ := h
  obtain ⟨g1, g2, g3, g4⟩ := h'
  refine ⟨?_, fun k hk => (g2 k hk).trans (h2 k hk), g3.trans h3, fun p x => (g4 p x).trans (h4 p x)⟩
  rw [g1, h1]

theorem State.booked_setRun (n : Nat) (s : State) (g : Group) : State.booked n s (s.setRun g) :=
  ⟨rfl, fun _ _ => rfl, rfl, fun _ _ => rfl⟩

theorem State.booked_setCore {n : Nat} {s : State} {c : Core} (h : c.bare = (s.core n).bare) : State.booked n s (s.setCore n c) :=
  ⟨rfl, fun _ hk => State.core_setCore_ne s c hk, by simpa using h, fun _ _ => rfl⟩

theorem State.booked_freeRegs (n : Nat) (s : State) : State.booked n s (s.freeRegs n) := State.booked_setCore rfl

theorem Ctx.bare_spillRegs (c : Ctx) (which : Window → Bool) (core part : Nat) (x : VReg) (now : Nat) :
    (c.spillRegs which core part x now).bare = c.bare := by
  unfold Ctx.spillRegs
  dsimp only
  generalize List.flatMap _ c.windows = recs
  have h : ∀ (recs : List (BitVec 16 × (Nat × Nat) × Nat)) (c : Ctx), (recs.foldl (fun c r =>
      { { c with due := true }.gather (core / 48) (mkLogRec (x.extractLsb' (256 * r.2.2) 256).toNat (c.seqs.toList.getD (core / 48) 0 + 1) 0 r.1.toNat 2 0
          (r.2.1.1 * 2 ^ 40 + r.2.1.2 * 2 ^ 32 + r.2.2)) now with seqs := vmod c.seqs (core / 48) (· + 1) }) c).bare = c.bare := by
    intro recs
    induction recs with
    | nil => intro c; rfl
    | cons r recs ih => intro c; rw [List.foldl_cons, ih]; rfl
  rw [h]
  simp only [Ctx.bare, List.map_map]
  congr 1
  apply List.map_congr_left
  intro w _
  simp only [Function.comp]
  congr 1
  cases w.snap <;> rfl

theorem State.booked_dropRefs (s : State) (core part : Nat) (x : VReg) : State.booked core s (s.dropRefs core part x) := by
  refine ⟨rfl, fun k hk => ?_, ?_, fun p y => ?_⟩
  · exact State.core_setCore_ne s _ hk
  · show ((s.setCore core _).core core).bare = _
    rw [State.core_setCore]
    rfl
  · show (Tbl.find (s.ctxs.map fun kc => (kc.1, kc.2.spillRegs (fun _ => true) core part x s.time)) _).map Ctx.bare = _
    rw [Tbl.find_map (fun c : Ctx => c.spillRegs (fun _ => true) core part x s.time), Option.map_map]
    show Option.map (fun c : Ctx => (c.spillRegs (fun _ => true) core part x s.time).bare) _ = _
    simp only [Ctx.bare_spillRegs]
    rfl

theorem State.booked_countCore (s : State) (n ev part ctx : Nat) : State.booked n s (s.countCore n ev part ctx) := State.booked_setCore rfl

theorem State.booked_allocReg (s : State) (core part ctx : Nat) (x old : VReg) :
    State.booked core s (s.allocReg core part ctx x old).1 := by
  unfold State.allocReg
  dsimp only
  split
  · exact State.booked_setCore rfl
  · split
    · exact State.booked_trans (State.booked_trans (State.booked_dropRefs ..) (State.booked_countCore ..)) (State.booked_setCore rfl)
    · split
      · exact State.booked_trans (State.booked_dropRefs ..) (State.booked_setCore rfl)
      · exact State.booked_refl _ _

/-- WriteResult touches only what a vector instruction's completion may touch (R75, R80). -/
theorem State.booked_writeResult (s : State) (r : Nat) (x : VReg) (hit : Bool) :
    State.booked s.run.core s (s.writeResult r x hit).1 ∧ (s.writeResult r x hit).1.run = s.run.setReg r x := by
  unfold State.writeResult
  dsimp only
  split
  · refine ⟨State.booked_trans (State.booked_trans (State.booked_setRun _ _ _) (State.booked_setCore ?_)) (State.booked_freeRegs _ _), rfl⟩
    split <;> rfl
  · split
    · exact ⟨State.booked_trans (State.booked_setRun _ _ _) (State.booked_setCore rfl), rfl⟩
    · refine ⟨State.booked_trans (State.booked_trans (State.booked_trans (State.booked_setCore ?_) (State.booked_allocReg ..))
        (State.booked_setRun ..)) (State.booked_freeRegs ..), rfl⟩
      rfl

theorem Core.bare_installReuse (c : Core) (e : ReuseEntry) : (c.installReuse e).bare = c.bare := rfl

theorem State.booked_missBook (s : State) (ws : List (Nat × VReg)) (keys : List (ReuseKey × VReg)) (flags : Lane) :
    State.booked s.run.core s (s.missBook ws keys flags) := by
  have h : ∀ (ws : List (Nat × VReg)) (t : State × List VReg), t.1.run.core = s.run.core → State.booked s.run.core s t.1 →
      State.booked s.run.core s (ws.foldl (fun (t : State × List VReg) x =>
        match t.1.writeResult x.1 x.2 false with
        | (t1, inPlace) => (t1, if inPlace then s.run.reg x.1 :: t.2 else t.2)) t).1 := by
    intro ws
    induction ws with
    | nil => intro t _ h; exact h
    | cons w ws ih =>
      intro t hc h
      have hw := State.booked_writeResult t.1 w.1 w.2 false
      rw [List.foldl_cons]
      apply ih
      · show (t.1.writeResult w.1 w.2 false).1.run.core = _
        rw [hw.2]; exact hc
      · exact State.booked_trans h (hc ▸ hw.1)
  have h0 := h ws (s, []) rfl (State.booked_refl _ _)
  unfold State.missBook
  dsimp only
  split
  · exact h0
  split
  · exact h0
  · refine State.booked_trans h0 (State.booked_trans (State.booked_setCore ?_) (State.booked_freeRegs ..))
    generalize State.core _ s.run.core = c
    rename_i hd he
    clear hd he
    induction keys generalizing c with
    | nil => rfl
    | cons k ks ih => rw [List.foldl_cons, ih]; rfl

theorem State.booked_hits (s : State) (ws : List (Nat × VReg)) (n : Nat) (hn : n = s.run.core) :
    State.booked n s (ws.foldl (fun t x => (t.writeResult x.1 x.2 true).1) s) := by
  induction ws generalizing s with
  | nil => exact State.booked_refl _ _
  | cons w ws ih =>
    have hw := State.booked_writeResult s w.1 w.2 true
    rw [List.foldl_cons]
    exact State.booked_trans (hn ▸ hw.1) (ih _ (by rw [hw.2]; exact hn))

theorem State.vecBook_spec (s : State) (i : Instr) (ws : List (Nat × VReg)) (flags : Lane) (cyc : Nat) :
    ∃ t, State.booked s.run.core s t ∧ s.vecBook i ws flags cyc = (t.cores, t.ctxs) := by
  generalize h : s.vecBook i ws flags cyc = b
  unfold State.vecBook at h
  dsimp only at h
  generalize hk : (if (s.run.eligible i ((encode i).getD 0)) = true then
    ws.zipIdx.map fun x => (s.run.reuseKey i ((encode i).getD 0) none x.2 x.1.1, x.1.2) else []) = keys at h
  split at h
  · subst h
    exact ⟨s, State.booked_refl _ _, rfl⟩
  split at h
  · subst h
    refine ⟨_, ?_, rfl⟩
    exact State.booked_trans (State.booked_hits s ws _ rfl) (State.booked_setCore rfl)
  · subst h
    refine ⟨_, ?_, rfl⟩
    exact State.booked_trans (State.booked_missBook s ws _ flags) (State.booked_setCore rfl)

/-- THE COMPLETION OF A VECTOR INSTRUCTION says all that it can do: the registers, the flags, the next word, and what is booked. -/
theorem State.vecDone_spec (s : State) (i : Instr) (ws : List (Nat × VReg)) (flags : Lane) (cyc : Nat) :
    State.booked s.run.core s (s.vecDone i ws flags cyc) ∧
    (s.vecDone i ws flags cyc).run =
      { s.run with v := setRegs s.run.v ws, fsr := s.run.fsr ||| flags, word := s.run.word + 1 } := by
  obtain ⟨t, h, he⟩ := State.vecBook_spec s i ws flags cyc
  refine ⟨?_, rfl⟩
  unfold State.vecDone
  rw [he]
  exact ⟨rfl, h.2.1, h.2.2.1, h.2.2.2⟩

/-- Lane `t` of register `r` after a vector instruction that writes a lane value of a type to `d` (R91, R104). -/
theorem State.lanesDone_lane (s : State) (i : Instr) (ty : Ty) (d : RegNo) (m : VMode) (f : Nat → Nat × Bool) (cyc r t : Nat)
    (hr : r < 256) (ht : t < 32) :
    lane ((s.lanesDone i ty d m f cyc).run.reg r) t =
      if s.run.em.getLsbD t && s.run.opReg m.ixn m.id d t == r then BitVec.ofNat 32 (f t).1
      else if ty.isPair && s.run.em.getLsbD t && s.run.opReg m.ixn m.id d t + 1 == r then BitVec.ofNat 32 ((f t).1 / 2 ^ 32)
      else lane (s.run.reg r) t := by
  unfold State.lanesDone
  rw [(State.vecDone_spec ..).2, Group.reg_lt _ hr]
  cases ty.isPair with
  | true =>
    rw [if_pos rfl, Group.put64_lane _ _ _ _ _ _ hr ht]
    congr 1
    · apply BitVec.eq_of_toNat_eq
      simp only [BitVec.toNat_setWidth, BitVec.toNat_ofNat]
      omega
    · rw [Bool.true_and]
      congr 1
      apply BitVec.eq_of_toNat_eq
      simp only [BitVec.extractLsb'_toNat, BitVec.toNat_ofNat, Nat.shiftRight_eq_div_pow]
      omega
  | false =>
    simp only [Bool.false_eq_true, if_false, Bool.false_and]
    rw [Group.put32_lane _ _ _ _ _ _ hr ht]

theorem State.destBits_of_lane {s t : State} {pair : Bool} {m : VMode} {d : RegNo} {l : Nat} (x : Nat)
    (hx : x < 2 ^ (if pair then 64 else 32))
    (h0 : lane (t.run.reg (s.run.opReg m.ixn m.id d l)) l = BitVec.ofNat 32 x)
    (h1 : pair = true → lane (t.run.reg (s.run.opReg m.ixn m.id d l + 1)) l = BitVec.ofNat 32 (x / 2 ^ 32)) :
    s.destBits t pair m d l = x := by
  unfold State.destBits
  cases pair with
  | false =>
    simp only [Bool.false_eq_true, if_false] at hx ⊢
    rw [h0, BitVec.toNat_ofNat, Nat.mod_eq_of_lt hx]
  | true =>
    simp only [if_true] at hx ⊢
    rw [Group.lane64, h0, h1 rfl, BitVec.toNat_append, BitVec.toNat_ofNat, BitVec.toNat_ofNat,
      Nat.shiftLeft_eq, ← Nat.shiftLeft_eq, ← Nat.shiftLeft_add_eq_or_of_lt (Nat.mod_lt _ (by decide)), Nat.shiftLeft_eq]
    omega

/-- An instruction that gives every active lane a value of a type: all that it does (R91, R103, R104). -/
theorem State.lanesDone_step (s : State) (i : Instr) (ty : Ty) (d : RegNo) (m : VMode) (f : Nat → Nat × Bool) (cyc : Nat)
    (P : Nat → Nat → Prop) (hlt : ∀ l, (f l).1 < 2 ^ (if ty.isPair then 64 else 32))
    (hP : ∀ l, l < 32 → s.run.em.getLsbD l = true → P l (f l).1) :
    s.vecStep (s.lanesDone i ty d m f cyc) ty.isPair m d P ∧
    s.raises (s.lanesDone i ty d m f cyc) Claims.satFlag (∃ l, l < 32 ∧ s.run.em.getLsbD l = true ∧ (f l).2 = true) := by
  have hl := s.lanesDone_lane i ty d m f cyc
  have hv : s.lanesDone i ty d m f cyc = s.vecDone i
    (if ty.isPair then s.run.put64 d m fun l => BitVec.ofNat 64 (f l).1 else s.run.put32 d m fun l => BitVec.ofNat 32 (f l).1)
    (if (activeLanes s.run.em).any fun l => (f l).2 then fSAT else 0) cyc := rfl
  refine ⟨⟨?_, ?_, ?_, ?_⟩, ?_⟩
  · rw [hv]; exact (State.vecDone_spec ..).1
  · rw [hv, (State.vecDone_spec ..).2]
  · intro l h1 h2 h3
    rw [State.destBits_of_lane (f l).1 (hlt l)]
    · exact hP l h1 h2
    · rw [hl _ _ (by omega) h1]
      simp [h2]
    · intro hp
      rw [hp, if_pos rfl] at h3
      rw [hl _ _ h3 h1]
      simp [h2, hp]
  · intro r l h1 h2 h3
    rw [hl _ _ h1 h2, if_neg, if_neg]
    · intro hc
      apply h3
      simp only [Bool.and_eq_true, beq_iff_eq] at hc
      exact ⟨hc.1.2, .inr ⟨hc.1.1, hc.2⟩⟩
    · intro hc
      apply h3
      simp only [Bool.and_eq_true, beq_iff_eq] at hc
      exact ⟨hc.1, .inl hc.2⟩
  · have hf : (s.lanesDone i ty d m f cyc).run.fsr =
      s.run.fsr ||| (if (activeLanes s.run.em).any fun l => (f l).2 then fSAT else 0) := rfl
    have ha : ((activeLanes s.run.em).any fun l => (f l).2) = true ↔ ∃ l, l < 32 ∧ s.run.em.getLsbD l = true ∧ (f l).2 = true := by
      simp only [List.any_eq_true, mem_activeLanes]
      constructor
      · rintro ⟨l, ⟨h1, h2⟩, h3⟩; exact ⟨l, h1, h2, h3⟩
      · rintro ⟨l, h1, h2, h3⟩; exact ⟨l, ⟨h1, h2⟩, h3⟩
    refine ⟨fun h => ?_, fun h => ?_⟩
    · rw [hf, if_pos (ha.mpr h)]; rfl
    · rw [hf, if_neg (fun hc => h (ha.mp hc))]; simp

/-- Where the operand checks pass, the rest of the meaning runs (R90). -/
theorem State.checked_ok {s : State} {i : Instr} (h : regFault s.run i = none) (k : State → State) :
    s.checked i k = .next (k s) := by simp [State.checked, h]

theorem elW_pos (ty : Ty) : 0 < elW ty := by cases ty <;> decide

theorem clampInt_val (signed : Bool) (w : Nat) (x lo hi : Int) (hlo : lo = if signed then -(2 ^ (w - 1)) else 0)
    (hhi : hi = if signed then 2 ^ (w - 1) - 1 else 2 ^ w - 1) (hle : lo ≤ hi) :
    (clampInt signed w x).1 = max lo (min hi x) ∧ ((clampInt signed w x).2 = true ↔ x < lo ∨ hi < x) := by
  unfold clampInt
  simp only [← hlo, ← hhi]
  by_cases h1 : x < lo
  · rw [if_pos h1]; exact ⟨by omega, by simp; omega⟩
  · rw [if_neg h1]
    by_cases h2 : hi < x
    · rw [if_pos h2]; exact ⟨by omega, by simp; omega⟩
    · rw [if_neg h2]; exact ⟨by omega, by simp; omega⟩

theorem least_le_greatest (ty : Ty) : Claims.least ty ≤ Claims.greatest ty := by cases ty <;> decide

/-- An instruction whose meaning starts with the register checks runs where it is ready. -/
theorem runs_checked {i : Instr} {s : State} {k : State → State} {P : State → Prop} (he : exec i s = s.checked i k)
    (h : Claims.Ready s i) (hP : P (k s)) : Claims.Runs i s P := ⟨_, he.trans (State.checked_ok h.2 k), hP⟩

/-- Fit as the claims put it (R103). -/
theorem fit_isFit (ty : Ty) (sat : Bool) (x : Int) : Claims.isFit ty sat x (fit ty sat x).1 := by
  have hw := elW_pos ty
  have hp : (0 : Int) < 2 ^ elW ty := Int.pow_pos (by decide)
  cases sat
  · simp only [Claims.isFit, fit, Bool.false_eq_true, if_false, wrapInt]
    exact Int.toNat_of_nonneg (Int.emod_nonneg _ (Int.ne_of_gt hp))
  · obtain ⟨h1, -⟩ := clampInt_val (elSigned ty) (elW ty) x (Claims.least ty) (Claims.greatest ty) rfl rfl (least_le_greatest ty)
    simp only [Claims.isFit, fit, if_true, h1]
    have hle := least_le_greatest ty
    generalize hc : max (Claims.least ty) (min (Claims.greatest ty) x) = c
    have hc1 : Claims.least ty ≤ c := by omega
    have hc2 : c ≤ Claims.greatest ty := by omega
    clear hc h1 hle
    have h2 : (2 : Int) * 2 ^ (elW ty - 1) = 2 ^ elW ty := by
      rw [← Int.pow_succ']; congr 1; omega
    have h3 : ((2 ^ (elW ty - 1) : Nat) : Int) = 2 ^ (elW ty - 1) := by simp
    have h4 : ((2 ^ elW ty : Nat) : Int) = 2 ^ elW ty := by simp
    have hr : wrapInt (elW ty) c % 2 ^ elW ty = wrapInt (elW ty) c := Nat.mod_eq_of_lt (by
      have := Int.emod_lt_of_pos c hp
      have := Int.emod_nonneg c (Int.ne_of_gt hp)
      unfold wrapInt; omega)
    simp only [Claims.least, Claims.greatest] at hc1 hc2
    by_cases hn : 0 ≤ c
    · have hm : c % 2 ^ elW ty = c := Int.emod_eq_of_lt hn (by split at hc2 <;> omega)
      have hv : ((wrapInt (elW ty) c : Nat) : Int) = c := by unfold wrapInt; omega
      simp only [readInt, hr]
      split
      · rename_i hs
        simp only [Bool.and_eq_true, decide_eq_true_eq] at hs
        rw [hs.1] at hc2
        simp at hc2
        omega
      · omega
    · have hs : elSigned ty = true := by
        cases h : elSigned ty
        · rw [h] at hc1; simp at hc1; omega
        · rfl
      rw [hs] at hc1
      simp only [if_true] at hc1
      have hm : c % 2 ^ elW ty = c + 2 ^ elW ty := by
        rw [← Int.add_emod_right]
        exact Int.emod_eq_of_lt (by omega) (by omega)
      have hv : ((wrapInt (elW ty) c : Nat) : Int) = c + 2 ^ elW ty := by unfold wrapInt; omega
      simp only [readInt, hr, hs, Bool.true_and]
      rw [if_pos (by simp only [decide_eq_true_eq]; omega)]
      omega

theorem fit_flag (ty : Ty) (sat : Bool) (x : Int) : (fit ty sat x).2 = true ↔ sat = true ∧ Claims.outside ty x := by
  cases sat
  · simp [fit]
  · simpa [fit, Claims.outside] using
      (clampInt_val (elSigned ty) (elW ty) x (Claims.least ty) (Claims.greatest ty) rfl rfl (least_le_greatest ty)).2

theorem elBits_mapLane (ty : Ty) (f : Nat → Nat × Bool) (e : Nat) (he : e < ty.elems) (h : ∀ e, e < ty.elems → (f e).1 < 2 ^ elW ty) :
    elBits ty (mapLane ty f).1 e = (f e).1 := mapEls_el _ f _ e he h

theorem mapLane_lt (ty : Ty) (f : Nat → Nat × Bool) (h : ∀ e, e < ty.elems → (f e).1 < 2 ^ elW ty) :
    (mapLane ty f).1 < 2 ^ (if ty.isPair then 64 else 32) := by
  have := mapEls_lt (elW ty) f ty.elems h
  rwa [elW_elems] at this

/-- An elementwise instruction whose elements go through Fit (R103). -/
theorem State.lanesDone_fits (s : State) (i : Instr) (ty : Ty) (sat : Bool) (d : RegNo) (m : VMode) (v : Nat → Nat → Int) (cyc : Nat) :
    s.vecStep (s.lanesDone i ty d m (fun l => mapLane ty fun e => Machine.fit ty sat (v l e)) cyc) ty.isPair m d
      (fun l x => Claims.fits ty sat (v l) x) ∧
    s.raises (s.lanesDone i ty d m (fun l => mapLane ty fun e => Machine.fit ty sat (v l e)) cyc) Claims.satFlag
      (Claims.saturates s ty sat v) := by
  have hlt : ∀ l e, e < ty.elems → (Machine.fit ty sat (v l e)).1 < 2 ^ elW ty := fun _ _ _ => fit_lt ..
  obtain ⟨h1, h2⟩ := s.lanesDone_step i ty d m (fun l => mapLane ty fun e => Machine.fit ty sat (v l e)) cyc
    (fun l x => Claims.fits ty sat (v l) x) (fun l => mapLane_lt ty _ (hlt l))
    (fun l _ _ e he => by rw [elBits_mapLane ty _ e he (hlt l)]; exact fit_isFit ..)
  refine ⟨h1, ?_⟩
  have hs : (∃ l, l < 32 ∧ s.run.em.getLsbD l = true ∧ (mapLane ty fun e => Machine.fit ty sat (v l e)).2 = true) ↔
      Claims.saturates s ty sat v := by
    simp only [mapLane, mapEls_flag, Machine.fit_flag, Claims.saturates]
    constructor
    · rintro ⟨l, a, b, e, c, d, f⟩; exact ⟨l, e, a, b, c, d, f⟩
    · rintro ⟨l, e, a, b, c, d, f⟩; exact ⟨l, a, b, e, c, d, f⟩
  rwa [hs] at h2

/-- An elementwise instruction whose elements are bit vectors, and which raises no flag. -/
theorem State.lanesDone_bits (s : State) (i : Instr) (ty : Ty) (d : RegNo) (m : VMode) (f : Nat → Nat → Nat) (cyc : Nat)
    (P : Nat → Nat → Prop) (hlt : ∀ l e, e < ty.elems → f l e < 2 ^ elW ty)
    (hP : ∀ l x, l < 32 → s.run.em.getLsbD l = true → (∀ e, e < ty.elems → elBits ty x e = f l e) → P l x) :
    s.vecStep (s.lanesDone i ty d m (fun l => mapLane ty fun e => (f l e, false)) cyc) ty.isPair m d P ∧
    s.raises (s.lanesDone i ty d m (fun l => mapLane ty fun e => (f l e, false)) cyc) Claims.satFlag False := by
  obtain ⟨h1, h2⟩ := s.lanesDone_step i ty d m (fun l => mapLane ty fun e => (f l e, false)) cyc P
    (fun l => mapLane_lt ty _ (hlt l)) (fun l h1 h2 => hP l _ h1 h2 fun e he => elBits_mapLane ty _ e he (hlt l))
  refine ⟨h1, ?_⟩
  have hs : (∃ l, l < 32 ∧ s.run.em.getLsbD l = true ∧ (mapLane ty fun e => (f l e, false)).2 = true) ↔ False := by
    simp [mapLane, mapEls_flag]
  rwa [hs] at h2

/-- An instruction that writes a whole lane and raises no flag. -/
theorem State.lanesDone_whole (s : State) (i : Instr) (ty : Ty) (d : RegNo) (m : VMode) (f : Nat → Nat) (cyc : Nat)
    (P : Nat → Nat → Prop) (hlt : ∀ l, f l < 2 ^ (if ty.isPair then 64 else 32))
    (hP : ∀ l, l < 32 → s.run.em.getLsbD l = true → P l (f l)) :
    s.vecStep (s.lanesDone i ty d m (fun l => (f l, false)) cyc) ty.isPair m d P ∧
    s.raises (s.lanesDone i ty d m (fun l => (f l, false)) cyc) Claims.satFlag False := by
  obtain ⟨h1, h2⟩ := s.lanesDone_step i ty d m (fun l => (f l, false)) cyc P hlt hP
  refine ⟨h1, ?_⟩
  have hs : (∃ l, l < 32 ∧ s.run.em.getLsbD l = true ∧ ((f l, false) : Nat × Bool).2 = true) ↔ False := by simp
  rwa [hs] at h2

theorem elBits_lt (ty : Ty) (x e : Nat) : elBits ty x e < 2 ^ elW ty := Nat.mod_lt _ (Nat.two_pow_pos _)

/-- The lane of operand A, and of operand B or C, as a number of its type's width. -/
theorem Group.aN_lt (g : Group) (ty : Ty) (a : RegNo) (m : VMode) (l : Nat) :
    g.aN ty a m l < 2 ^ (if ty.isPair then 64 else 32) := by
  unfold Group.aN
  split
  · exact (g.a64 a m l).isLt
  · exact (g.a32 a m l).isLt

theorem Group.oN_lt (g : Group) (ty : Ty) (o : Opnd) (l : Nat) : g.oN ty o l < 2 ^ (if ty.isPair then 64 else 32) := by
  unfold Group.oN
  split
  · exact (g.op64 o l).isLt
  · exact (g.op32 o l).isLt

end Sys2Proof.Machine
end

