-- ==== Sys2Proof/Tests/Slice0.lean ====
section
/-! SUPPORT. Tests: ill-formed terms, worked words of the spec, single steps with results worked out by hand from the rules, and for each
statement states and operands that meet its hypotheses. -/

set_option Elab.async false

namespace Sys2Proof.Tests

open Sys2Proof Sys2Proof.Machine Sys2Proof.Claims

/-! ## Small states -/

/-- The word decodes to the instruction. -/
def reads (w : Word) (i : Instr) : Bool := match decode w with
  | .ok j => j == i
  | .error _ => false

/-- The word is refused with this error. -/
def refuses (w : Word) (e : DecErr) : Bool := match decode w with
  | .ok _ => false
  | .error d => d == e

/-- A compute group at supervisor level on core 0, inside a clause, with a translation of the first 8 MiB of device memory in its core's
cache. -/
def base : State :=
  let s := State.reset.placed 0
  { s with run := { s.run with pc := 16, clause := some ⟨16, {}, []⟩ }, cores := [(0, { tlb := [⟨0, 0, 2 ^ 23, 0, true, true, false, true⟩] })] }

/-- The same at user level. -/
def user : State := { base with ctxs := [(0, {})] }

/-- Control core 2. -/
def ctlCore : State := { base with cores := base.cores.map (fun x => (48, x.2)), run := { base.run with gid := 2, kind := .control 2, core := 48 } }

/-- The state after an instruction, or the same state where it has none. -/
def after (i : Instr) (s : State) : State := match exec i s with
  | .next t => t
  | _ => s

def withS (n : Nat) (x : Word) (s : State) : State := { s with run := { s.run with s := s.run.s.setIfInBounds n x } }
def withM (n : Nat) (x : Lane) (s : State) : State := { s with run := { s.run with m := s.run.m.setIfInBounds n x } }
def withEm (x : Lane) (s : State) : State := { s with run := { s.run with em := x } }
def withV (n : Nat) (f : Nat → Lane) (s : State) : State := { s with run := { s.run with v := s.run.v.setIfInBounds n (mkLanes f) } }
def withWord (a : Nat) (x : Word) (s : State) : State := { s with mem := Memory.words s.mem a [x] }

/-- Scalar register `n` after an instruction. -/
def sAfter (i : Instr) (s : State) (n : Nat) : Word := (after i s).run.s.toList.getD n 0

/-- Lane `l` of vector register `r` after an instruction. -/
def vAfter (i : Instr) (s : State) (r l : Nat) : Lane := lane ((after i s).run.reg r) l

/-- The cause that stopped or sent the running group to its handler, where the instruction took a trap through the frame words of a control
core or the supervisor path. -/
def stopCause (i : Instr) (s : State) : Option Nat := match (after i s).run.run with
  | .stopped c => some c
  | _ => none

/-! ## Terms that are not well formed, one for each check -/

theorem ill_brc_always : (Instr.brc .al (.s 0) 0).wf = false := by decide +kernel
theorem ill_brc_lanes_of_s : (Instr.brc .any (.s 0) 0).wf = false := by decide +kernel
theorem ill_bdv_any : (Instr.bdv .any 0 0 0).wf = false := by decide +kernel
theorem ill_emsav_em : (Instr.emsav .em false).wf = false := by decide +kernel
theorem ill_vote_em : (Instr.vote .any .em 0 false).wf = false := by decide +kernel
theorem ill_sadd_type : (Instr.sadd .s8x4 (.s 0) (.s 0) (.imm 0)).wf = false := by decide +kernel
theorem ill_sadd_em : (Instr.sadd .s32 .em (.s 0) (.imm 0)).wf = false := by decide +kernel
theorem ill_sbit_b : (Instr.sbit .n32 .pop (.s 0) (.s 0) (.imm 1)).wf = false := by decide +kernel
theorem ill_smov_lane_pair : (Instr.smovLane true 0 1 0 false).wf = false := by decide +kernel
theorem ill_smovi_half : (Instr.smovi .hi true (.s 0) 0).wf = false := by decide +kernel
theorem ill_smovi_half_m : (Instr.smovi .lo false (.m 0) 0).wf = false := by decide +kernel
theorem ill_ssel_em : (Instr.ssel .em (.s 0) (.s 0) (.s 0) false).wf = false := by decide +kernel
theorem ill_srd_lane : (Instr.srd .lane (.sca 0) false).wf = false := by decide +kernel
theorem ill_srd_pair : (Instr.srd .time (.vec true 1) false).wf = false := by decide +kernel
theorem ill_sld_size : (Instr.sld .b16 false .dflt .rlx .core false 0 (.s 0) 0).wf = false := by decide +kernel
theorem ill_sld_order : (Instr.sld .b4 false .dflt .rel .core false 0 (.s 0) 0).wf = false := by decide +kernel
theorem ill_sld_sx : (Instr.sld .b4 true .dflt .rlx .core false 0 (.s 0) 0).wf = false := by decide +kernel
theorem ill_sld_prm : (Instr.sld .b4 false .dflt .acq .core true 0 (.s 0) 0).wf = false := by decide +kernel
theorem ill_sst_order : (Instr.sst .b4 .dflt .acq .core 0 (.s 0) 0).wf = false := by decide +kernel
theorem ill_vadd_sat : (Instr.vadd .b32 true 0 0 (.v 0) {}).wf = false := by decide +kernel
theorem ill_vadd_pair : (Instr.vadd .s64 false 1 0 (.v 0) {}).wf = false := by decide +kernel
theorem ill_vadd_ixn : (Instr.vadd .s32 false 0 0 (.v 0) { ixn := 1 }).wf = false := by decide +kernel
theorem ill_vadd_index_of_pair : (Instr.vadd .s64 false 0 0 (.v 0) { ia := true }).wf = false := by decide +kernel
theorem ill_vmul_hi_sat : (Instr.vmul .s32 true true 0 0 (.v 0) {}).wf = false := by decide +kernel
theorem ill_vmul_bits_hi : (Instr.vmul .b32 true false 0 0 (.v 0) {}).wf = false := by decide +kernel
theorem ill_vdot_type : (Instr.vdot .s32 false 0 0 (.v 0) (.v 0) {}).wf = false := by decide +kernel
theorem ill_vshf_sat_right : (Instr.vshf .s32 .shr false true 0 0 (.v 0) {}).wf = false := by decide +kernel
theorem ill_vcmp_bits_order : (Instr.vcmp .b32 .lt (.mask 0 false) 0 (.v 0) {}).wf = false := by decide +kernel
theorem ill_vcmp_any_one : (Instr.vcmp .s32 .lt (.mask 0 true) 0 (.v 0) {}).wf = false := by decide +kernel
theorem ill_vcmp_mask_source_indexed : (Instr.vcmp .s32 .lt (.mask 0 false) 0 (.v 0) { ia := true }).wf = false := by decide +kernel
theorem ill_vcmp_mask_indexed : (Instr.vcmp .s32 .lt (.mask 0 false) 0 (.v 0) { id := true }).wf = false := by decide +kernel
theorem ill_vmin_c : (Instr.vmin .s32 .min 0 0 (.v 0) (.v 1) {}).wf = false := by decide +kernel
theorem ill_vuni_bits_abs : (Instr.vuni .b32 .abs false 0 0 {}).wf = false := by decide +kernel
theorem ill_vuni_sat_not : (Instr.vuni .s32 .not true 0 0 {}).wf = false := by decide +kernel
theorem ill_vuni_swap_packed : (Instr.vuni .s8x4 .bswp false 0 0 {}).wf = false := by decide +kernel
theorem ill_vbit_c : (Instr.vbit .s32 false 0 0 (.v 0) (.v 1) {}).wf = false := by decide +kernel
theorem ill_vmov_scalar_indexed : (Instr.vmov false 0 (.s (.s 0)) { ia := true }).wf = false := by decide +kernel
theorem ill_vmovi_type : (Instr.vmovi .f16x2 0 0).wf = false := by decide +kernel
theorem ill_vnrw_rounding : (Instr.vnrw .s8x4 .rsr false 0 0 (.v 0) 0 {}).wf = false := by decide +kernel
theorem ill_vnrw_element : (Instr.vnrw .s8x4 .rne false 0 0 (.v 0) 4 {}).wf = false := by decide +kernel
theorem ill_vnrw_source_pair : (Instr.vnrw .s32 .rne false 0 1 (.v 0) 0 {}).wf = false := by decide +kernel
theorem ill_vidx_pair : (Instr.vidx true .lane 1 false).wf = false := by decide +kernel
theorem ill_fadd_type : (Instr.fadd .f64 .rne false 0 0 (.v 0) {}).wf = false := by decide +kernel
theorem ill_fmin_type : (Instr.fmin .e4m3x4 .min 0 0 (.v 0) {}).wf = false := by decide +kernel
theorem ill_fcls_vector_set : (Instr.fcls .f32 (.vec 0) 0 (.s 1) {}).wf = false := by decide +kernel
theorem ill_fcvt_same : (Instr.fcvt .f32 .f32 .rne false 0 0 0 false).wf = false := by decide +kernel
theorem ill_fcvt_element : (Instr.fcvt .f32 .f16x2 .rne false 0 0 2 false).wf = false := by decide +kernel
theorem ill_icvt_both_float : (Instr.icvt .f32 .f16x2 false .rne false 0 0 0 false).wf = false := by decide +kernel
theorem ill_icvt_sat_int : (Instr.icvt .s32 .f32 false .rne true 0 0 0 false).wf = false := by decide +kernel
theorem ill_icvt_n4 : (Instr.icvt .s32 .f32 true .rne false 0 0 0 false).wf = false := by decide +kernel
theorem ill_dadd_pair : (Instr.dadd false .rne false 1 0 (.v 0) false).wf = false := by decide +kernel
theorem ill_scvn_element : (Instr.scvn false .rne false 0 0 (.v 0) 4 false).wf = false := by decide +kernel
theorem ill_kadd_type : (Instr.kadd .f64 0 0 false).wf = false := by decide +kernel
theorem ill_krnd_pair : (Instr.krnd .f64 .rne false false 0 (.v 1) false).wf = false := by decide +kernel
theorem ill_shfl_fill_pair : (Instr.shfl true .idx 0 0 (.v 0) (some (.v 1)) false).wf = false := by decide +kernel
theorem ill_slide_wide_bytes : (Instr.slide true false .b 0 0 (.v 0) 0 false).wf = false := by decide +kernel
theorem ill_bcst_pair : (Instr.bcst true 0 1 .first false).wf = false := by decide +kernel
theorem ill_gred_bits_min : (Instr.gred .b32 .min false (.v 0) 0 false).wf = false := by decide +kernel
theorem ill_gred_sat_min : (Instr.gred .s32 .min true (.v 0) 0 false).wf = false := by decide +kernel
theorem ill_perm_byte_zero : (Instr.perm true true 0 0 0 0 false).wf = false := by decide +kernel
theorem ill_ld_registers : (Instr.ld .b16 .dflt false false false .rlx .core 2 (.vec 4) 0).wf = false := by decide +kernel
theorem ill_ld_address_pair : (Instr.ld .b4 .dflt false false false .rlx .core 2 (.vec 5) 0).wf = false := by decide +kernel
theorem ill_ld_inv_order : (Instr.ld .b4 .dflt true false false .acq .core 2 (.vec 4) 0).wf = false := by decide +kernel
theorem ill_st_order : (Instr.st .b4 .dflt .acq .core 2 (.vec 4) 0).wf = false := by decide +kernel
theorem ill_lds_order : (Instr.lds .b4 false .rel .core 2 (.vec 4) 0).wf = false := by decide +kernel
theorem ill_atom_spad_scope : (Instr.atom .add false true .dflt .rlx .dev false 2 (.vec 4) 3 0).wf = false := by decide +kernel
theorem ill_atom_pair : (Instr.atom .add true false .dflt .rlx .dev false 2 (.vec 4) 3 0).wf = false := by decide +kernel
theorem ill_atmf_exact_scope : (Instr.atmf .exact .b4 .dflt .rlx .core false 0 (.vec 4) 3 0).wf = false := by decide +kernel
theorem ill_atmf_exact_d : (Instr.atmf .exactb .b2 .dflt .rlx .dev false 1 (.vec 4) 3 0).wf = false := by decide +kernel
theorem ill_fence_relaxed : (Instr.fence .rlx .dev).wf = false := by decide +kernel
theorem ill_prf_pair : (Instr.prf .dflt (.vec 5) 0).wf = false := by decide +kernel
theorem ill_fqput_registers : (Instr.fqput 4 (.s 0)).wf = false := by decide +kernel
theorem ill_evwt_order : (Instr.evwt true false false .sc .dev false 0 (.s 0) (.s 0) 0).wf = false := by decide +kernel
theorem ill_bal_burn : (Instr.balBurn (.imm 0x02100000)).wf = false := by decide +kernel
theorem ill_bal_shunt : (Instr.balShunt (.imm 0x19100000)).wf = false := by decide +kernel
theorem ill_bal_match : (Instr.balMatch (.imm 0x00100000)).wf = false := by decide +kernel
theorem ill_bal_ceil : (Instr.balCeil (.imm 0)).wf = false := by decide +kernel
theorem ill_mlda_format : (Instr.mlda .f32 0).wf = false := by decide +kernel
theorem ill_mdrn_latch_tile : (Instr.mdrn false true 1 0).wf = false := by decide +kernel
theorem ill_mzro_grant : (Instr.mzroGrant ⟨0, 17⟩).wf = false := by decide +kernel
theorem ill_msts_format : (Instr.msts .s8 false false 0 0 0).wf = false := by decide +kernel
theorem ill_mscl_count : (Instr.mscl false 0 (.imm 0) 0).wf = false := by decide +kernel
theorem ill_msta_both : (Instr.msta true true 0).wf = false := by decide +kernel
theorem ill_eqrd_odd : (Instr.eqrd 1 0).wf = false := by decide +kernel
theorem ill_event_core : (Instr.clauseSelect 404 0).wf = false := by decide +kernel
theorem ill_event_bank : (Instr.bankRelease 0 48).wf = false := by decide +kernel
theorem ill_event_sample : (Instr.balanceSample 0 []).wf = false := by decide +kernel
theorem ill_event_mmio : (Instr.mmioRegisterWrite 4 0).wf = false := by decide +kernel

/-! ## Words, written out from the encodings of the spec, for every instruction that has one (R58-R65 and the entry of each) -/

theorem decodes_control_transfers : ([
    (0x0000000000000000, .nop false),
    (0x0100000000070000, .bra 7),
    (0x0205000000000000, .brx 5),
    (0x03022000FFFE0000, .brc .ne (.s 2) 0xFFFE),
    (0x040320000009000C, .bdv .ne 3 9 12),
    (0x0500000000000000, .join),
    (0x0606000000030000, .call 6 3),
    (0x0706000000000000, .ret 6),
    (0x0800000000000000, .exit),
    (0x0800010000000000, .exitLanes),
    (0x0E00000000001234, .trap 0x1234),
    (0x0F00000000000005, .yield 5 false)] : List (Word × Instr)).all (fun p => reads p.1 p.2) = true := by decide +kernel

theorem decodes_masks_and_flags : ([
    (0x0909000000000000, .emsav (.s 9) false),
    (0x0A00004200008001, .emset .and (.s (.m 2)) false),
    (0x0A00000400000002, .emset .or (.v 4) false),
    (0x0B4142430400C096, .mlog (.m 1) (.m 2) (.m 3) (.s 4) 0x96 false),
    (0x0C03070000000000, .vote .ballot (.s 3) 7 false),
    (0x0C03070000000003, .vote .uni (.s 3) 7 false),
    (0x0D00000000000000, .tfence false)] : List (Word × Instr)).all (fun p => reads p.1 p.2) = true := by decide +kernel

theorem decodes_scalar_arithmetic : ([
    (0x1005060400000007, .sadd .b32 (.s 5) (.s 6) (.pos (.s 7))),
    (0x1102020000000001, .ssub .b32 (.s 2) (.s 2) (.imm 1)),
    (0x1202032100000009, .smul .n32 true (.s 2) (.s 3) (.imm 9)),
    (0x1302030200000009, .slog .xor (.s 2) (.s 3) (.imm 9)),
    (0x140203E200000009, .sshf .s64 .sra (.s 2) (.s 3) (.imm 9)),
    (0x1502031000000009, .scmp .s32 (.s 2) (.s 3) (.imm 9)),
    (0x190203F100000009, .smin .n64 true (.s 2) (.s 3) (.imm 9)),
    (0x1A02032200000000, .sbit .n32 .clz (.s 2) (.s 3) (.imm 0)),
    (0x1B0203E100000009, .sdiv .s64 true (.s 2) (.s 3) (.imm 9))] : List (Word × Instr)).all (fun p => reads p.1 p.2) = true := by decide +kernel

theorem decodes_scalar_moves : ([
    (0x1604004200008000, .smov (.s 4) (.m 2) false),
    (0x1604090000000083, .smovLane false 4 9 3 false),
    (0x16040A0000E0009F, .smovLane true 4 10 31 false),
    (0x1702000000000004, .smovi .whole false (.s 2) 4),
    (0x1704000180000000, .smovi .hi false (.s 4) 0x80000000),
    (0x180102034400C000, .ssel (.s 1) (.s 2) (.s 3) (.m 4) false),
    (0x1C0A090000000000, .srd .flmis (.sca 10) false),
    (0x1C06000000000001, .srd .lane (.vec false 6) false),
    (0x1D80000900008000, .swr .write .rm (.s 9) false),
    (0x1D81000900008001, .swr .set .fte (.s 9) false)] : List (Word × Instr)).all (fun p => reads p.1 p.2) = true := by decide +kernel

theorem decodes_scalar_memory : ([
    (0x1E07080031280040, .sld .b8 false .dflt .acq .dev false 7 (.s 8) 64),
    (0x1F0708002100FFF8, .sst .b4 .dflt .rlx .core 7 (.s 8) 0xFFF8)] : List (Word × Instr)).all (fun p => reads p.1 p.2) = true := by decide +kernel

theorem decodes_vector_integer : ([
    (0x2008060700F08000, .vadd .n64 false 8 6 (.s (.s 7)) {}),
    (0x2108060700580000, .vsub .s8x4 true 8 6 (.v 7) {}),
    (0x2208060700300001, .vmul .s16x2 true false 8 6 (.v 7) {}),
    (0x2308060709100000, .vmad .s32 false 8 6 (.v 7) (.v 9) {}),
    (0x2408010208380000, .vdot .s16x2 true 8 1 (.v 2) (.v 8) {}),
    (0x25030304000000C0, .vlog false 3 3 (.v 4) (.v 0) 0xC0 {}),
    (0x2608060700208007, .vshf .n32 .rol true false 8 6 (.s (.s 7)) {}),
    (0x2741030500100004, .vcmp .s32 .gt (.mask 1 false) 3 (.v 5) {}),
    (0x2806070041104000, .vsel .s32 6 7 (.v 0) (.s (.m 1)) {}),
    (0x2908060709100003, .vmin .s32 .clmp 8 6 (.v 7) (.v 9) {}),
    (0x2A08060000200003, .vuni .n32 .pop false 8 6 {}),
    (0x2B08060709200001, .vbit .n32 true 8 6 (.v 7) (.v 9) {})] : List (Word × Instr)).all (fun p => reads p.1 p.2) = true := by decide +kernel

theorem decodes_vector_moves : ([
    (0x2C05090000001200, .vmov false 5 (.v 9) { ia := true, ixn := 1 }),
    (0x2C04000200E08001, .vmov true 4 (.s (.s 2)) {}),
    (0x2D0200803FC00000, .vmovi .f32 2 0x3FC00000),
    (0x2E09040200388001, .vnrw .s16x2 .rne true 9 4 (.s (.s 2)) 1 {}),
    (0x2F00000000200001, .vidx false .group 0 false),
    (0x2F04000000F00002, .vidx true .grid 4 false)] : List (Word × Instr)).all (fun p => reads p.1 p.2) = true := by decide +kernel

theorem decodes_floating_point : ([
    (0x3003010200800000, .fadd .f32 .rne false 3 1 (.v 2) {}),
    (0x30040406009C8000, .fadd .f16x2 .rna true 4 4 (.s (.s 6)) {}),
    (0x3103010200898000, .fsub .f32 .rtz true 3 1 (.s (.s 2)) {}),
    (0x320A04050081A000, .fmul .f32 .rtz false 10 4 (.s (.s 5)) { nr := true }),
    (0x3308010203800000, .ffma .f32 .rne false false false 8 1 (.v 2) (.v 3) {}),
    (0x3403010200800003, .fmin .f32 .maxp 3 1 (.v 2) {}),
    (0x3542010200800002, .fcmp .f32 .lt (.mask 2 false) 1 (.v 2) {}),
    (0x3641020300808000, .fcls .f32 (.mask 1 false) 2 (.s 3) {}),
    (0x3703010000800000, .frcp .f32 .rne false 3 1 {}),
    (0x3803010000800000, .frsq .f32 .rne false 3 1 {}),
    (0x3903010000800000, .fsqt .f32 .rne false 3 1 {}),
    (0x3A03010000800000, .fex2 .f32 .rne false 3 1 {})] : List (Word × Instr)).all (fun p => reads p.1 p.2) = true := by decide +kernel

theorem decodes_functions_and_conversions : ([
    (0x3B03010000800000, .flg2 .f32 .rne false 3 1 {}),
    (0x3C03010000800001, .ftrg .f32 .rne false true 3 1 {}),
    (0x3D03010200800000, .fdiv .f32 .rne false 3 1 (.v 2) {}),
    (0x3E06040000A50018, .fcvt .bf16x2 .f32 .rsr false 6 4 1 false),
    (0x3F02010000800002, .icvt .f32 .n32 false .rne false 2 1 0 false),
    (0x400A020400B00001, .dadd true .rne false 10 2 (.v 4) false),
    (0x410A020400B00000, .dmul .rne false 10 2 (.v 4) false),
    (0x420A020406B00000, .dfma .rne false false false 10 2 (.v 4) (.v 6) false),
    (0x4307020300C88028, .scvn false .rne true 7 2 (.s (.s 3)) 2 false),
    (0x440702030080802D, .scvw true .rne false 7 2 (.s (.s 3)) 2 false)] : List (Word × Instr)).all (fun p => reads p.1 p.2) = true := by decide +kernel

theorem decodes_accumulators_and_index_registers : ([
    (0x4500000000000002, .kclr 2 false),
    (0x4600050000800001, .kadd .f32 1 5 false),
    (0x4704000000800080, .krnd .f32 .rne false false 0 (.s 4) false),
    (0x4804020000800000, .kscn .f32 .rne false false 0 4 2 false),
    (0x4905000000000001, .kmovGet 1 5 false),
    (0x4900050000000005, .kmovSet 1 5 false),
    (0x4900000000000029, .kmovCpy 1 2 false),
    (0x490000000000002D, .kmovAdd 1 2 false),
    (0x4A07000000000000, .fsrGet 7 false),
    (0x4A00000700008001, .fsrSet (.s 7) false),
    (0x4A00000700008002, .fsrClr (.s 7) false),
    (0x4A00000700008003, .fsrOr (.s 7) false),
    (0x4B00030400008001, .ixset 1 3 (.s (.s 4)) false),
    (0x4C00000400008005, .ixadd 1 (.s (.s 4)) true false)] : List (Word × Instr)).all (fun p => reads p.1 p.2) = true := by decide +kernel

theorem decodes_cross_lane : ([
    (0x5003010200000001, .shfl false .xor 3 1 (.v 2) none false),
    (0x500301040500C00B, .shfl false .dn 3 1 (.s (.s 4)) (some (.s (.s 5))) false),
    (0x5105010200000041, .slide false false .h 5 1 (.v 2) 1 false),
    (0x5203010000000009, .bcst false 3 1 (.lane 9) false),
    (0x5203010000000080, .bcst false 3 1 .first false),
    (0x5303060000100080, .gred .s32 .add false (.s 3) 6 false),
    (0x5408060000100008, .gscn .s32 .add false true 8 6 false),
    (0x5503010204000002, .perm false true 3 1 2 4 false),
    (0x5503010204000001, .perm true false 3 1 2 4 false)] : List (Word × Instr)).all (fun p => reads p.1 p.2) = true := by decide +kernel

theorem decodes_memory : ([
    (0x6007080021280040, .ld .b4 .dflt false false false .acq .dev 7 (.sca (.s 8) 0) 64),
    (0x610A040030440008, .st .b8 .dflt .rel .clus 10 (.vec 4) 8),
    (0x6207030010010040, .lds .b2 true .rlx .core 7 (.vec 3) 64),
    (0x6307030020000040, .sts .b4 .rlx .core 7 (.vec 3) 64),
    (0x6402060320080000, .atom .add false false .dflt .rlx .dev false 2 (.vec 6) 3 0),
    (0x6500090521083010, .atmf .exact .b4 .dflt .rlx .dev false 0 (.sca (.s 9)) 5 16),
    (0x6600000000680000, .fence .ar .dev),
    (0x6600000000680001, .fenceFlushx),
    (0x6700040000000040, .prf .dflt (.vec 4) 64),
    (0x6800040000002010, .cmnt .drop (.vec 4) 16)] : List (Word × Instr)).all (fun p => reads p.1 p.2) = true := by decide +kernel

theorem decodes_fifos_barriers_and_sleep : ([
    (0x6908040051000000, .fqput 8 (.s 4)),
    (0x6A08040051000000, .fqget 8 (.s 4)),
    (0x6B03000400008002, .bankRequest .fifo 3 (.s 4) false),
    (0x6B03000400008004, .bankQuery 3 (.s 4) false),
    (0x7000000400008013, .bar 3 (some (.s 4)) false),
    (0x7000000000000003, .bar 3 none false),
    (0x7100000400008013, .barv 3 (some (.s 4)) false),
    (0x7200000000000003, .barw 3 false),
    (0x7305080621280064, .evwt false false false .acq .dev false 5 (.s 8) (.s 6) 100),
    (0x7403020506000009, .evps 3 (.s 2) (.s 5) (.s 6) 9),
    (0x75000000000007D0, .nap (.imm 2000))] : List (Word × Instr)).all (fun p => reads p.1 p.2) = true := by decide +kernel

theorem decodes_balance_and_debug : ([
    (0x7600000000800BB8, .balBurn (.imm 0x00800BB8)),
    (0x760000010C8005DC, .balShunt (.imm 0x0C8005DC)),
    (0x760000020000EA60, .balMatch (.imm 0xEA60)),
    (0x7600000301000000, .balCeil (.imm 0x01000000)),
    (0x7600000400000007, .balBurn (.pos (.s 7))),
    (0x7705000000000000, .wmark 5 false),
    (0x7800000000000005, .dbrk 5 false),
    (0x7904000000000000, .snap 4 false)] : List (Word × Instr)).all (fun p => reads p.1 p.2) = true := by decide +kernel

theorem decodes_matrix : ([
    (0x800020FF00000000, .mlda .e4m3 32),
    (0x812009FF0B0C8000, .mma .e4m3 true 2 9 11 12),
    (0x823009FF0B0C8020, .mmal .e4m3 true false 0 3 9 (.imm 0x20) 11 12),
    (0x830004FF00000006, .mdrn true true 0 4),
    (0x842004FF00000000, .mfil false false 2 4),
    (0x850000FF00000004, .mzroGrant ⟨0, 4⟩),
    (0x853000FF00000000, .mzro 3),
    (0x861004FF05000001, .msts .e4m3 true false 1 4 5),
    (0x870004FF00068020, .mscl true 4 (.imm 32) 6),
    (0x880000FF00000000, .mrel),
    (0x890006FF00000001, .msta true false 6)] : List (Word × Instr)).all (fun p => reads p.1 p.2) = true := by decide +kernel

theorem decodes_engines : ([
    (0x900A0405001E0021, .cpy true true true 2 10 (.s 4) (.s 5) 0x21),
    (0x910A040506040021, .gath false true 0 10 (.s 4) (.s 5) (.s 6) 0x21),
    (0x920A040506000021, .scat false false 0 10 (.s 4) (.s 5) (.s 6) 0x21),
    (0x930B060708080005, .bin false true 11 (.s 6) (.s 7) (.s 8) 5),
    (0x940C090D0E000000, .ptch false false 0 12 (.s 9) (.s 13) (.s 14) 0),
    (0x950C000000010000, .rlse false 1 12 0),
    (0x960A040506200021, .coll .allGather false 10 (.s 4) (.s 5) (.s 6) 0x21),
    (0x970A040000080007, .lnch true 10 (.s 4) 7),
    (0x980A040000000007, .ecan 10 (.s 4) 7),
    (0x980A000000130007, .ecanSlot 3 10 7),
    (0x990A000000000000, .eqrd 10 0),
    (0x990A000000100000, .eqrdWait 10 0)] : List (Word × Instr)).all (fun p => reads p.1 p.2) = true := by decide +kernel

theorem decodes_system : ([
    (0xA000040500008000, .tlbiRng 4 5),
    (0xA000000500008001, .tlbiAsid 5),
    (0xA000000000000002, .tlbiAll),
    (0xA103080000000000, .ctxsStop 3 8),
    (0xA103080000000001, .ctxsSave 3 8),
    (0xA103080000000002, .ctxsEvict 3 8),
    (0xA103080900008003, .ctxsTeam 3 8 9),
    (0xA203080900008000, .ctxlCreate 3 8 9),
    (0xA203080000000001, .ctxlResume 3 8),
    (0xA203080000000002, .ctxlKill 3 8),
    (0xA203080900008003, .ctxlUpd 3 8 9),
    (0xA203080000000004, .ctxlEres 3 8),
    (0xA203080000000005, .ctxlEfail 3 8)] : List (Word × Instr)).all (fun p => reads p.1 p.2) = true := by decide +kernel

theorem decodes_system_returns_and_rewinds : ([
    (0xA300000000000000, .tret),
    (0xA400000500008002, .prack true 5),
    (0xA400000000000001, .prackRet),
    (0xA503080900008000, .rwnd false 3 8 9),
    (0xA503080900008001, .rwnd true 3 8 9),
    (0xA503080900008002, .rwndChk 3 8 9),
    (0xA503080000000004, .rwndCmt 3 8),
    (0xA603080900008000, .pcfg 3 8 9),
    (0xA700000000000000, .halt),
    (0xA703080000000001, .haltOff 3 8),
    (0xA703080000000002, .haltOn 3 8)] : List (Word × Instr)).all (fun p => reads p.1 p.2) = true := by decide +kernel

/-- The header worked out after R65: ENG 1, CNT 1, WAIT on `cf0` and `cf3`, SETA 5, SETB 15, CUR 2, YLD. -/
theorem decodes_header : (decodeHeader 0xA22012BE50000000).map (fun h => (h.eng, h.cnt, h.wait, h.seta, h.setb)) =
    some (.matrix, 1, 0b1001, 5, 15) ∧
    (decodeHeader 0xA22012BE50000000).map (fun h => (h.cur, h.yld, h.brk)) = some (2, true, false) := by decide +kernel

/-- A word of an opcode that R70 leaves unassigned is ILLOP, and one with a bit set that its entry does not name ILLENC (R72). -/
theorem refuses_unassigned : refuses 0x0010000000000000 .illenc && refuses 0xFF00000000000000 .illop && refuses 0xA300000000000001 .illenc = true := by
  decide +kernel

/-! ## Single steps: scalar instructions (R178-R183) -/

theorem test_sadd_wraps_32 : sAfter (.sadd .s32 (.s 5) (.s 6) (.imm 1)) (withS 6 0x7FFFFFFF base) 5 = 0xFFFFFFFF80000000 := by decide +kernel
theorem test_sadd_unsigned : sAfter (.sadd .n32 (.s 5) (.s 6) (.imm 1)) (withS 6 0xFFFFFFFF base) 5 = 0 := by decide +kernel
theorem test_ssub_source_is_destination : sAfter (.ssub .b32 (.s 2) (.s 2) (.imm 1)) (withS 2 0 base) 2 = 0xFFFFFFFFFFFFFFFF := by decide +kernel
theorem test_smul_hi_signed : sAfter (.smul .s64 true (.s 5) (.s 6) (.imm 2)) (withS 6 0x8000000000000000 base) 5 = 0xFFFFFFFFFFFFFFFF := by
  decide +kernel
theorem test_smul_hi_unsigned : sAfter (.smul .n64 true (.s 5) (.s 6) (.imm 2)) (withS 6 0x8000000000000000 base) 5 = 1 := by decide +kernel
theorem test_slog_andn : sAfter (.slog .andn (.s 5) (.s 6) (.imm 0x0F)) (withS 6 0xFF base) 5 = 0xF0 := by decide +kernel
theorem test_sshf_by_width : sAfter (.sshf .n32 .shl (.s 5) (.s 6) (.imm 32)) (withS 6 1 base) 5 = 0 := by decide +kernel
theorem test_sshf_sra : sAfter (.sshf .s32 .sra (.s 5) (.s 6) (.imm 200)) (withS 6 0x80000000 base) 5 = 0xFFFFFFFFFFFFFFFF := by decide +kernel
theorem test_scmp_unsigned : sAfter (.scmp .n64 (.s 5) (.s 6) (.pos (.s 7))) (withS 6 0xFFFFFFFFFFFFFFFF (withS 7 1 base)) 5 = 1 := by decide +kernel
theorem test_scmp_signed : sAfter (.scmp .s64 (.s 5) (.s 6) (.pos (.s 7))) (withS 6 0xFFFFFFFFFFFFFFFF (withS 7 1 base)) 5 = 0xFFFFFFFFFFFFFFFF := by
  decide +kernel
theorem test_smin_signed : sAfter (.smin .s32 false (.s 5) (.s 6) (.imm 3)) (withS 6 0xFFFFFFFE base) 5 = 0xFFFFFFFFFFFFFFFE := by decide +kernel
theorem test_smin_max_unsigned : sAfter (.smin .n32 true (.s 5) (.s 6) (.imm 3)) (withS 6 0xFFFFFFFE base) 5 = 0xFFFFFFFE := by decide +kernel
theorem test_sbit_ext_signed : sAfter (.sbit .s32 .ext (.s 5) (.s 6) (.imm 0x0404)) (withS 6 0x80 base) 5 = 0xFFFFFFFFFFFFFFF8 := by decide +kernel
theorem test_sbit_clz_zero : sAfter (.sbit .n64 .clz (.s 5) (.s 6) (.imm 0)) base 5 = 64 := by decide +kernel
theorem test_sdiv_by_zero : sAfter (.sdiv .s32 false (.s 5) (.s 6) (.imm 0)) (withS 6 7 base) 5 = 0xFFFFFFFFFFFFFFFF := by decide +kernel
theorem test_sdiv_rem_sign : sAfter (.sdiv .s64 true (.s 5) (.s 6) (.imm 4)) (withS 6 0xFFFFFFFFFFFFFFF9 base) 5 = 0xFFFFFFFFFFFFFFFD := by decide +kernel
theorem test_smov_mask_zero_extends : sAfter (.smov (.s 4) (.m 2) false) (withM 2 0x80000000 base) 4 = 0x80000000 := by decide +kernel
theorem test_smov_lane_pair : sAfter (.smovLane true 4 10 31 false) (withV 10 (fun l => BitVec.ofNat 32 l) (withV 11 (fun _ => 7) base)) 4 = 0x70000001F := by
  decide +kernel
theorem test_smovi_extends : sAfter (.smovi .whole false (.s 4) 0x80000000) base 4 = 0xFFFFFFFF80000000 := by decide +kernel
theorem test_smovi_hi_keeps_low : sAfter (.smovi .hi false (.s 4) 0x12345678) (withS 4 0xABCDEF base) 4 = 0x1234567800ABCDEF := by decide +kernel
theorem test_ssel_zero : sAfter (.ssel (.s 1) (.s 2) (.s 3) (.m 4) false) (withS 2 5 (withS 3 6 base)) 1 = 6 := by decide +kernel
theorem test_srd_lane_vector : vAfter (.srd .lane (.vec false 6) false) base 6 31 = 31 := by decide +kernel
theorem test_swr_set_clr : (after (.swr .clr .fte (.s 9) false) (after (.swr .write .fte (.s 8) false) (withS 8 0xFF (withS 9 0x0F base)))).run.fte = 0x30 := by
  decide +kernel
theorem test_swr_tvt_aligns : (after (.swr .write .tvt (.s 9) false) (withS 9 0xFF00000000001007 base)).run.tvt = 0x1000 := by decide +kernel

/-! ## Single steps: control transfer, masks, flags (R171, R184-R192) -/

theorem test_nop_moves_on : (after (.nop false) base).run.word = 1 := by decide +kernel
/-- The target 16 + 8 × 1 holds no header, so that the transfer faults and the group stops with ILLCLS, as it has no handler. -/
theorem test_bra_checks_target : stopCause (.bra 1) user = some 3 := by decide +kernel
theorem test_bra_moves : (after (.bra 1) (withWord 24 0xA00001FE00000000 base)).run.pc = 24 := by decide +kernel
theorem test_brx_bad_bits : stopCause (.brx 5) (withS 5 4 user) = some 3 := by decide +kernel
theorem test_brc_not_taken : (after (.brc .lt (.s 2) 1) (withS 2 0 base)).run.pc = base.run.pc := by decide +kernel
theorem test_brc_any_of_no_lane : (after (.brc .any (.m 1) 1) (withWord 24 0xA00001FE00000000 (withEm 0 (withM 1 1 base)))).run.pc = base.run.pc := by
  decide +kernel
theorem test_call_links : sAfter (.call 6 1) (withWord 24 0xA00001FE00000000 base) 6 = 32 := by decide +kernel
theorem test_ret_moves : (after (.ret 6) (withS 6 24 (withWord 24 0xA00001FE00000000 base))).run.pc = 24 := by decide +kernel
/-- R171 and the trace after R192: T = 0xAAAA_AAAA for odd lanes, and the entry holds F. -/
theorem test_bdv_splits : (let g := (after (.bdv .ne 3 1 2) (withWord 24 0xA00001FE00000000 (withV 3 (fun l => BitVec.ofNat 32 (l % 2)) base))).run
    (g.em, g.stack.map (·.pmask), g.stack.map (·.rmask), g.stack.map (·.jpc))) = (0xAAAAAAAA, [0x55555555], [0xFFFFFFFF], [32]) := by decide +kernel
theorem test_join_other_side : (let g := (after .join { base with run := { base.run with
      em := 0xAAAAAAAA, stack := [⟨16, 0x40, 0x55555555, 0xFFFFFFFF, 0xAAAAAAAA⟩], clause := some ⟨16, {}, []⟩ } }).run
    (g.em, g.pc, g.stack.map (·.pmask))) = (0x55555555, 0x40, [0]) := by decide +kernel
theorem test_exit_ends : (after .exit base).run.run = .ended := by decide +kernel
theorem test_exit_lanes_keeps_live : (let g := (after .exitLanes (withEm 0x0000FFFF base)).run; (g.live, g.em, g.run)) = (0xFFFF0000, 0, .ready) := by decide +kernel
theorem test_emsav_em : sAfter (.emsav (.s 9) false) (withEm 0xF0 base) 9 = 0xF0 := by decide +kernel
theorem test_emset_reads_every_lane : (after (.emset .or (.v 4) false) (withEm 1 (withV 4 (fun l => if l = 5 then 9 else 0) base))).run.em = 0x21 := by
  decide +kernel
theorem test_emset_live : (after (.emset .set (.s (.s 4)) false) { withS 4 0xFF base with run := { (withS 4 0xFF base).run with live := 0xF } }).run.em = 0xF := by
  decide +kernel
theorem test_mlog_xor : (after (.mlog (.m 1) (.m 2) (.m 3) (.s 4) 0x96 false) (withM 2 3 (withM 3 5 (withS 4 0x10 base)))).run.m[1] = 0x16 := by decide +kernel
theorem test_vote_ballot : sAfter (.vote .ballot (.s 3) 7 false) (withEm 0xFF (withV 7 (fun l => BitVec.ofNat 32 (l % 3)) base)) 3 = 0xB6 := by decide +kernel
theorem test_vote_all_of_no_lane : sAfter (.vote .all (.s 3) 7 false) (withEm 0 base) 3 = 1 := by decide +kernel
theorem test_tfence_passes : (after (.tfence false) base).run.word = 1 := by decide +kernel
theorem test_tfence_traps : stopCause (.tfence false) { user with run := { user.run with fsr := 1, fte := 1 } } = some 0x20 := by decide +kernel
theorem test_trap_stops : stopCause (.trap 7) user = some 0x22 := by decide +kernel
theorem test_yield_count : (let g := (after (.yield 5 false) base).run; (g.yieldN, g.yielded)) = (5, true) := by decide +kernel

/-! ## Single steps: integer lanes (R94-R121) -/

def allV (n : Nat) (x : Lane) (s : State) : State := withV n (fun _ => x) s

theorem test_vadd_saturates : (let t := after (.vadd .s8x4 true 3 1 (.v 2) {}) (allV 1 0x7F80017F (allV 2 0x01FF0101 base))
    (lane (t.run.reg 3) 7, t.run.fsr)) = (0x7F80027F, 0x20) := by decide +kernel
theorem test_vadd_inactive_lane : vAfter (.vadd .n32 false 3 1 (.v 1) {}) (withEm 1 (allV 1 4 (allV 3 9 base))) 3 1 = 9 := by decide +kernel
theorem test_vsub_wraps : vAfter (.vsub .n16x2 false 3 1 (.v 2) {}) (allV 1 0x00010000 (allV 2 0x00020001 base)) 3 0 = 0xFFFFFFFF := by decide +kernel
theorem test_vmul_hi : vAfter (.vmul .s32 true false 3 1 (.v 2) {}) (allV 1 0x80000000 (allV 2 2 base)) 3 0 = 0xFFFFFFFF := by decide +kernel
theorem test_vmad_pair : (let t := after (.vmad .n64 false 4 0 (.v 2) (.s (.s 1)) {}) (withS 1 5 (allV 0 0xFFFFFFFF (allV 2 2 base)))
    (lane (t.run.reg 4) 3, lane (t.run.reg 5) 3)) = (3, 2) := by decide +kernel
theorem test_vdot_sums_once : vAfter (.vdot .s16x2 true 8 1 (.v 2) (.v 3) {}) (allV 1 0x7FFF7FFF (allV 2 0x7FFF8000 (allV 3 0x7FFFFFFF base))) 8 0 = 0x7FFF8000 := by
  decide +kernel
theorem test_vlog_select : vAfter (.vlog false 3 1 (.v 2) (.v 4) 0xE4 {}) (allV 1 0xFF00 (allV 2 0x0FF0 (allV 4 0xF0F0 base))) 3 0 = 0xFF00 := by decide +kernel
theorem test_vshf_uniform : vAfter (.vshf .s8x4 .sra true false 3 1 (.s (.s 4)) {}) (withS 4 9 (allV 1 0x80017F81 base)) 3 0 = 0xFF0000FF := by decide +kernel
theorem test_vcmp_any : (after (.vcmp .n8x4 .eq (.mask 1 true) 1 (.v 2) {}) (withEm 3 (withV 1 (fun l => if l = 0 then 0x00000100 else 0x01010101) base))).run.m[1] = 1 := by
  decide +kernel
theorem test_vsel_mask : (let s := withM 1 2 (allV 7 5 (allV 0 6 base)); (vAfter (.vsel .s32 6 7 (.v 0) (.s (.m 1)) {}) s 6 1, vAfter (.vsel .s32 6 7 (.v 0) (.s (.m 1)) {}) s 6 0)) = (5, 6) := by
  decide +kernel
theorem test_vmin_clamp_crossed : vAfter (.vmin .s32 .clmp 8 6 (.v 7) (.v 9) {}) (allV 6 1 (allV 7 5 (allV 9 2 base))) 8 0 = 5 := by decide +kernel
theorem test_vuni_neg_least : (let t := after (.vuni .s32 .neg true 3 1 {}) (allV 1 0x80000000 base); (lane (t.run.reg 3) 0, t.run.fsr)) = (0x7FFFFFFF, 0x20) := by
  decide +kernel
theorem test_vuni_swap_pair : vAfter (.vuni .s64 .bswp false 4 2 {}) (allV 2 0x03020100 (allV 3 0x07060504 base)) 4 0 = 0x04050607 := by decide +kernel
theorem test_vbit_insert : vAfter (.vbit .n32 true 8 6 (.s (.s 1)) (.v 9) {}) (withS 1 0x0804 (allV 6 0xABC (allV 9 0xFFFFFFFF base))) 8 0 = 0xFFFFFBCF := by decide +kernel
theorem test_vmov_indexed : vAfter (.vmov false 5 (.v 9) { ia := true, ixn := 1 }) { allV 12 77 base with run := { (allV 12 77 base).run with ix := base.run.ix.set 1 (mkLanes fun _ => 0x00040003) } } 5 0 = 77 := by
  decide +kernel
theorem test_vmovi_s64 : vAfter (.vmovi .s64 2 0x80000000) base 3 0 = 0xFFFFFFFF := by decide +kernel
/-- 5 / 2^1 = 2.5 rounds to 2 under RNE, into element 1 of two. -/
theorem test_vnrw_tie : vAfter (.vnrw .s16x2 .rne true 9 4 (.s (.s 2)) 1 {}) (withS 2 1 (allV 4 5 (allV 9 0xAAAABBBB base))) 9 0 = 0x0002BBBB := by
  decide +kernel
theorem test_vidx_group : vAfter (.vidx false .group 2 false) { base with run := { base.run with num := 3 } } 2 5 = 101 := by decide +kernel

/-! ## Single steps: cross-lane, index registers (R98, R99, R116-R121) -/

def lanesV (n : Nat) (s : State) : State := withV n (fun l => BitVec.ofNat 32 (l + 100)) s

theorem test_shfl_up_wraps : vAfter (.shfl false .up 3 1 (.s (.s 4)) none false) (withS 4 1 (lanesV 1 base)) 3 0 = 131 := by decide +kernel
theorem test_shfl_fill : vAfter (.shfl false .dn 3 1 (.s (.s 4)) (some (.s (.s 5))) false) (withS 4 1 (withS 5 9 (lanesV 1 base))) 3 31 = 9 := by decide +kernel
theorem test_slide_halves : vAfter (.slide false false .h 5 1 (.v 2) 1 false) (allV 1 0x00020001 (allV 2 0x00040003 base)) 5 31 = 0x00030002 := by decide +kernel
theorem test_bcst_first : vAfter (.bcst false 3 1 .first false) (withEm 0xFFF0 (lanesV 1 base)) 3 9 = 104 := by decide +kernel
theorem test_gred_sum : sAfter (.gred .s32 .add false (.s 3) 6 false) (withEm 0xF (allV 6 0xFFFFFFFF base)) 3 = 0xFFFFFFFFFFFFFFFC := by decide +kernel
theorem test_gred_no_lane : sAfter (.gred .s32 .add false (.s 3) 6 false) (withEm 0 (withS 3 5 base)) 3 = 5 := by decide +kernel
theorem test_gscn_exclusive : vAfter (.gscn .s32 .add false true 8 6 false) (allV 6 2 base) 8 5 = 10 := by decide +kernel
theorem test_perm_zero : vAfter (.perm false true 3 1 2 4 false) (lanesV 1 (allV 4 64 base)) 3 0 = 0 := by decide +kernel
theorem test_perm_bytes : vAfter (.perm true false 3 1 2 4 false) (allV 1 0x04030201 (allV 2 0x08070605 (allV 4 0x80010203 base))) 3 0 = 0x05020304 := by decide +kernel
theorem test_ixset_loads : lane (after (.ixset 1 3 (.s (.s 4)) false) (withS 4 7 (allV 3 0x12340002 base))).run.ix[1] 0 = 0x00070002 := by decide +kernel
theorem test_ixadd_wraps : lane (after (.ixadd 1 (.s (.s 4)) true false) { withS 4 5 base with run := { (withS 4 5 base).run with ix := base.run.ix.set 1 (mkLanes fun _ => 0x00070004) } }).run.ix[1] 0 = 0x00070002 := by
  decide +kernel


/-! ## Single steps: floating point (R126-R166); `fsr` bits are IV 1, DZ 2, OF 4, UF 8, NX 16, SAT 32 -/

def flags (i : Instr) (s : State) : Nat := (after i s).run.fsr.toNat

theorem test_fadd_opposite_infinities : (vAfter (.fadd .f32 .rne false 3 1 (.v 2) {}) (allV 1 0x7F800000 (allV 2 0xFF800000 base)) 3 0,
    flags (.fadd .f32 .rne false 3 1 (.v 2) {}) (allV 1 0x7F800000 (allV 2 0xFF800000 base))) = (0x7FC00000, 1) := by decide +kernel
/-- 1 + 2^-24 is a tie: 1 under RNE, the next value up under RNA. -/
theorem test_fadd_tie : (vAfter (.fadd .f32 .rne false 3 1 (.v 2) {}) (allV 1 0x3F800000 (allV 2 0x33800000 base)) 3 0,
    vAfter (.fadd .f32 .rna false 3 1 (.v 2) {}) (allV 1 0x3F800000 (allV 2 0x33800000 base)) 3 0) = (0x3F800001 - 1, 0x3F800001) := by decide +kernel
theorem test_fsub_zero_sign : vAfter (.fsub .f32 .rdn false 3 1 (.v 1) {}) (allV 1 0x3F800000 base) 3 0 = 0x80000000 := by decide +kernel
theorem test_fsub_nan_sign : vAfter (.fsub .f32 .rne false 3 1 (.v 2) {}) (allV 1 0x3F800000 (allV 2 0x7FC00001 base)) 3 0 = 0xFFC00001 := by decide +kernel
theorem test_fmul_halves : vAfter (.fmul .f16x2 .rne false 3 1 (.v 2) {}) (allV 1 0x3C004000 (allV 2 0x40004400 base)) 3 0 = 0x40004800 := by decide +kernel
theorem test_fmul_overflow : (vAfter (.fmul .f32 .rtz false 3 1 (.v 1) {}) (allV 1 0x7F000000 base) 3 0,
    flags (.fmul .f32 .rtz false 3 1 (.v 1) {}) (allV 1 0x7F000000 base)) = (0x7F7FFFFF, 20) := by decide +kernel
/-- (1 + 2^-23)^2 - (1 + 2^-22) = 2^-46, which a rounded product would lose. -/
theorem test_ffma_one_rounding : vAfter (.ffma .f32 .rne false false true 4 1 (.v 1) (.v 2) {}) (allV 1 0x3F800001 (allV 2 0x3F800002 base)) 4 0 = 0x28800000 := by
  decide +kernel
theorem test_fmin_zero_order : vAfter (.fmin .f32 .min 3 1 (.v 2) {}) (allV 1 0 (allV 2 0x80000000 base)) 3 0 = 0x80000000 := by decide +kernel
theorem test_fmin_prefers_numbers : (vAfter (.fmin .f32 .max 3 1 (.v 2) {}) (allV 1 0x7FC00000 (allV 2 0xBF800000 base)) 3 0,
    vAfter (.fmin .f32 .maxp 3 1 (.v 2) {}) (allV 1 0x7FC00000 (allV 2 0xBF800000 base)) 3 0) = (0xBF800000, 0x7FC00000) := by decide +kernel
theorem test_fcmp_zeros_equal : (after (.fcmp .f32 .eq (.mask 2 false) 1 (.v 2) {}) (withEm 3 (allV 1 0 (allV 2 0x80000000 base)))).run.m[2] = 3 := by decide +kernel
theorem test_fcmp_quiet_nan : (flags (.fcmp .f32 .lt (.mask 2 false) 1 (.v 1) {}) (allV 1 0x7FC00000 base),
    flags (.fcmp .f32 .ne (.mask 2 false) 1 (.v 1) {}) (allV 1 0x7FC00000 base)) = (1, 0) := by decide +kernel
theorem test_fcls_vector : vAfter (.fcls .f32 (.vec 3) 1 .em {}) (allV 1 0x80000001 base) 3 0 = 4 := by decide +kernel
theorem test_frcp_power : (vAfter (.frcp .f32 .rne false 3 1 {}) (allV 1 0x40000000 base) 3 0, flags (.frcp .f32 .rne false 3 1 {}) (allV 1 0x40000000 base)) = (0x3F000000, 0) := by
  decide +kernel
theorem test_frcp_zero : (vAfter (.frcp .f32 .rne false 3 1 {}) (allV 1 0x80000000 base) 3 0, flags (.frcp .f32 .rne false 3 1 {}) (allV 1 0x80000000 base)) = (0xFF800000, 2) := by
  decide +kernel
theorem test_frsq_four : vAfter (.frsq .f32 .rne false 3 1 {}) (allV 1 0x40800000 base) 3 0 = 0x3F000000 := by decide +kernel
theorem test_fsqt_negative : flags (.fsqt .f32 .rne false 3 1 {}) (allV 1 0xBF800000 base) = 1 := by decide +kernel
theorem test_fsqt_two : vAfter (.fsqt .f32 .rne false 3 1 {}) (withEm 1 (allV 1 0x40000000 base)) 3 0 = 0x3FB504F3 := by decide +kernel
theorem test_fex2_integer : vAfter (.fex2 .f32 .rne false 3 1 {}) (allV 1 0x40400000 base) 3 0 = 0x41000000 := by decide +kernel
theorem test_flg2_power : vAfter (.flg2 .f32 .rne false 3 1 {}) (allV 1 0x41000000 base) 3 0 = 0x40400000 := by decide +kernel
theorem test_ftrg_half : vAfter (.ftrg .f32 .rne false false 3 1 {}) (allV 1 0x3F000000 base) 3 0 = 0x3F800000 := by decide +kernel
theorem test_ftrg_negative_integer : vAfter (.ftrg .f32 .rne false false 3 1 {}) (allV 1 0xBF800000 base) 3 0 = 0x80000000 := by decide +kernel
theorem test_fdiv_by_zero : (vAfter (.fdiv .f32 .rne false 3 1 (.v 2) {}) (allV 1 0x3F800000 (allV 2 0x80000000 base)) 3 0,
    flags (.fdiv .f32 .rne false 3 1 (.v 2) {}) (allV 1 0x3F800000 (allV 2 0x80000000 base))) = (0xFF800000, 2) := by decide +kernel
theorem test_fdiv_rounds : vAfter (.fdiv .f32 .rne false 3 1 (.v 2) {}) (withEm 1 (allV 1 0x3F800000 (allV 2 0x40400000 base))) 3 0 = 0x3EAAAAAB := by decide +kernel
/-- The trace after R166, lanes 6 and 31. -/
theorem test_fcvt_bytes : (vAfter (.fcvt .e4m3x4 .f32 .rne true 6 4 0 false) (allV 4 0x41280000 base) 6 0,
    vAfter (.fcvt .e4m3x4 .f32 .rne true 6 4 0 false) (allV 4 0x43780000 base) 6 0) = (0x52, 0x78) := by decide +kernel
/-- The signalling NaN worked after R136. -/
theorem test_fcvt_nan : vAfter (.fcvt .f16x2 .f32 .rne false 6 4 1 false) (allV 4 0x7FA12345 (allV 6 0 base)) 6 0 = 0x7F090000 := by decide +kernel
theorem test_icvt_to_float : vAfter (.icvt .f32 .n32 false .rne false 2 1 0 false) (allV 1 7 base) 2 0 = 0x40E00000 := by decide +kernel
theorem test_icvt_to_integer : (vAfter (.icvt .s32 .f32 false .rtz false 2 1 0 false) (allV 1 0x4F800000 base) 2 0,
    flags (.icvt .s32 .f32 false .rtz false 2 1 0 false) (allV 1 0x4F800000 base)) = (0x7FFFFFFF, 1) := by decide +kernel
theorem test_dadd_sub : vAfter (.dadd true .rne false 4 0 (.v 2) false) (allV 1 0x40080000 (allV 3 0x3FF00000 base)) 5 0 = 0x40000000 := by decide +kernel
theorem test_dmul : vAfter (.dmul .rne false 4 0 (.v 2) false) (allV 1 0x40080000 (allV 3 0xC0000000 base)) 5 0 = 0xC0180000 := by decide +kernel
theorem test_dfma_negp : vAfter (.dfma .rne false true false 6 0 (.v 2) (.v 4) false) (allV 1 0x3FF00000 (allV 3 0x40000000 (allV 5 0x40080000 base))) 7 0 = 0x3FF00000 := by
  decide +kernel
/-- 3.1875 / 3 is a tie that a reciprocal would miss (the example after R138). -/
theorem test_scvn_tie : vAfter (.scvn false .rne true 7 2 (.s (.s 3)) 2 false) (withS 3 0x40400000 (allV 2 0x404C0000 base)) 7 0 = 0x00380000 := by decide +kernel
theorem test_scvw_signalling : (vAfter (.scvw true .rne false 7 2 (.s (.s 3)) 0 false) (withS 3 0x3F800000 (allV 2 0x7D base)) 7 0,
    flags (.scvw true .rne false 7 2 (.s (.s 3)) 0 false) (withS 3 0x3F800000 (allV 2 0x7D base))) = (0x7FE00000, 1) := by decide +kernel
theorem test_kclr : (after (.kclr 2 false) { base with run := { base.run with wa := base.run.wa.set 2 ⟨5, 7⟩ } }).run.wa[2] = ⟨0, 0⟩ := by decide +kernel
/-- 1.0 sets bit 149 of the value field (the example after R127). -/
theorem test_kadd_one : (after (.kadd .f32 1 5 false) (withEm 8 (allV 5 0x3F800000 base))).run.wa[1].val = 2 ^ 149 := by decide +kernel
/-- 248 is the total of the trace after R166. -/
theorem test_krnd_total : sAfter (.krnd .f32 .rne false true 0 (.s 4) false) { base with run := { base.run with wa := base.run.wa.set 0 ⟨248 * 2 ^ 149, 0⟩ } } 4 = 0x43780000 := by
  decide +kernel
theorem test_kscn_prefix : (let s := withV 2 (fun l => if l = 0 then 0x3F800000 else 0x40000000) (withEm 7 base)
    (vAfter (.kscn .f32 .rne false false 0 4 2 false) s 4 2, vAfter (.kscn .f32 .rne false true 0 4 2 false) s 4 2)) = (0x40A00000, 0x40400000) := by decide +kernel
theorem test_kmov_get : (let s := { base with run := { base.run with wa := base.run.wa.set 0 ⟨7 * 2 ^ 32, 5⟩ } }
    (vAfter (.kmovGet 0 3 false) s 3 1, vAfter (.kmovGet 0 3 false) s 3 12, vAfter (.kmovGet 0 3 false) (allV 3 9 s) 3 13)) = (7, 5, 0) := by decide +kernel
theorem test_kmov_set : (after (.kmovSet 3 5 false) (withEm 0 (withV 5 (fun l => if l = 12 then 0xFF else if l = 11 then 1 else 0) base))).run.wa[3] = ⟨2 ^ 352, 7⟩ := by
  decide +kernel
theorem test_kmov_cpy : (after (.kmovCpy 1 0 false) { base with run := { base.run with wa := base.run.wa.set 0 ⟨9, 2⟩ } }).run.wa[1] = ⟨9, 2⟩ := by decide +kernel
theorem test_kmov_add : (after (.kmovAdd 1 0 false) { base with run := { base.run with wa := (base.run.wa.set 0 ⟨9, 2⟩).set 1 ⟨1, 1⟩ } }).run.wa[1] = ⟨10, 3⟩ := by decide +kernel
theorem test_fsr_get : sAfter (.fsrGet 7 false) { base with run := { base.run with fsr := 0x15 } } 7 = 0x15 := by decide +kernel
theorem test_fsr_set : flags (.fsrSet (.s 7) false) (withS 7 0xFFC1 base) = 1 := by decide +kernel
theorem test_fsr_clr : flags (.fsrClr (.s 7) false) (withS 7 0x11 { base with run := { base.run with fsr := 0x13 } }) = 2 := by decide +kernel
theorem test_fsr_or : flags (.fsrOr (.s 7) false) (withS 7 0x30 { base with run := { base.run with fsr := 1 } }) = 0x31 := by decide +kernel

/-! ## Hypotheses that hold: scalar, vector and floating-point statements

Each theorem is named after its statement and has one part for each clause with hypotheses: a state and operands that meet them. -/

/-- Every index is 3 of a bound of 4. -/
def ixed : State := { base with run := { base.run with ix := Vector.replicate 4 (mkLanes fun _ => 0x00040003) } }

theorem witness_ScalarArithmetic : Ty.isScalar .s32 = true ∧ Ty.isScalar .n64 = true := by decide
theorem witness_ScalarLogicShiftsAndMoves : Ty.isScalar .n32 = true ∧ Ty.isScalar .s64 = true ∧
    Ready base (.smovLane false 63 255 31 false) ∧ Ready base (.smovLane true 0 254 0 false) := by decide +kernel
theorem witness_VectorArithmetic :
    Ready base (.vadd .s8x4 true 255 1 (.s .em) {}) ∧ Ready base (.vadd .n64 false 254 0 (.v 2) {}) ∧
    Ready ixed (.vsub .n16x2 false 3 1 (.v 2) { ia := true, id := true, ixn := 3 }) ∧ Ready base (.vmul .s32 true false 3 1 (.v 2) {}) ∧
    Ready base (.vmad .s64 false 4 0 (.v 2) (.s (.s 63)) {}) ∧ Ready base (.vdot .s4x8 true 8 1 (.v 2) (.v 3) {}) := by decide +kernel
theorem witness_VectorLogicShiftsAndMoves :
    Ready base (.vlog false 3 1 (.v 2) (.v 4) 0xFF {}) ∧ Ready base (.vlog true 254 0 (.v 2) (.v 4) 0 {}) ∧
    Ready base (.vshf .s8x4 .shl true true 3 1 (.s (.s 4)) {}) ∧ Ready base (.vshf .n64 .rol false false 2 0 (.v 4) {}) ∧
    Ready base (.vbit .n32 true 8 6 (.s (.s 1)) (.v 9) {}) ∧ Ready base (.vbit .s64 false 8 6 (.s (.s 1)) (.v 0) {}) ∧
    Ready ixed (.vmov false 5 (.v 9) { ia := true, ixn := 1 }) ∧ Ready base (.vmov true 4 (.s .em) {}) ∧ Ready base (.vmovi .s64 254 0x80000000) ∧
    Ready base (.vidx false .group 2 false) ∧ Ready base (.vidx true .grid 2 false) ∧ Ready base (.srd .time (.vec true 2) false) ∧
    Ready base (.srd .lane (.vec false 255) false) := by decide +kernel
theorem witness_VectorComparesAndSelects :
    Ready base (.vcmp .n8x4 .eq (.mask 7 true) 1 (.v 2) {}) ∧ Ready base (.vcmp .s64 .ge (.mask 0 false) 0 (.v 2) {}) ∧
    Ready base (.vcmp .s16x2 .lt (.vec 255) 1 (.v 2) {}) ∧ Ready base (.vsel .s64 6 8 (.v 0) (.s (.m 1)) {}) ∧
    Ready base (.vsel .n8x4 6 8 (.v 0) (.v 1) {}) ∧ Ready base (.vmin .s32 .clmp 8 6 (.v 7) (.v 9) {}) ∧
    Ready base (.vmin .s8x4 .adf 8 6 (.v 7) (.v 0) {}) := by decide +kernel
theorem witness_VectorUnaryAndNarrowing :
    Ready base (.vuni .s32 .abs true 3 1 {}) ∧ Ready base (.vuni .s8x4 .neg true 3 1 {}) ∧ UniOp.bswp ≠ .abs ∧ UniOp.bswp ≠ .neg ∧
    Ready base (.vuni .s64 .bswp false 4 2 {}) ∧ Ready base (.vuni .n32 .pop false 4 2 {}) ∧
    Ready base (.vnrw .s16x2 .rne true 9 4 (.s (.s 2)) 1 {}) ∧ Ready base (.vnrw .n32 .rdn false 9 4 (.s (.s 2)) 0 {}) := by decide +kernel
theorem witness_LanesMoveAndPermute :
    Ready base (.shfl false .up 3 1 (.s (.s 4)) none false) ∧ Ready base (.shfl true .dn 4 2 (.v 6) (some (.s (.s 4))) false) ∧
    Ready base (.bcst false 3 1 (.lane 31) false) ∧ Ready base (.bcst false 3 1 .first false) ∧ Ready base (.slide false true .b 5 1 (.v 2) 31 false) ∧
    Ready base (.slide true false .w 4 0 (.s (.s 2)) 1 false) ∧ Ready base (.perm false true 3 1 2 4 false) ∧
    Ready base (.perm true false 3 1 2 4 false) := by decide +kernel
theorem witness_ReductionsAndScans :
    Ready base (.gred .s32 .add true (.v 3) 6 false) ∧ Ready base (.gred .n64 .xor false (.s 3) 6 false) ∧
    Ready (withEm 0 base) (.gred .s32 .max false (.s 3) 6 false) ∧ Ready base (.gscn .s32 .add false true 8 6 false) := by decide +kernel
theorem witness_IndexRegistersAndFlags :
    Ready base (.ixset 3 255 (.s (.s 4)) false) ∧ Ready base (.ixadd 0 (.v 1) true false) := by decide +kernel
theorem witness_RoundingIsExact :
    Ty.isFloat .f32 = true ∧ 0xFFFF < 2 ^ 16 ∧ 0x7F7FFFFF < 2 ^ fmtF32.bits ∧ fmtF32.read 0x7F7FFFFF = .fin false (2 ^ 24 - 1) 104 ∧
    fmtF32.read 0x80000001 = .fin true 1 (-149) ∧ Rm.rsr ≠ .dyn ∧
    (1 - (fmtF32.bias : Int) - fmtF32.f ≤ -23) ∧ pow2 (-23 + 23) ≤ (3 : Rat) / 2 ∧ (3 : Rat) / 2 < pow2 (-23 + 23 + 1) ∧
    ((1 : Rat) / 2 * pow2 (-149) < pow2 (-149 + 23)) ∧ ((3 * 2 ^ 22 : Nat) : Rat) * pow2 (-23) ≤ (fmtF32.maxM : Rat) * pow2 fmtF32.maxE := by
  decide +kernel
/-- The rounding that the second clause asks for, at a tie: one half goes to the even number 0. -/
theorem witness_RoundingIsExact_tie : isRounded .rne 0 (1 / 2) 0 ∧ isRounded .rna 0 (1 / 2) 1 ∧ isRounded .rdn 0 (-1 / 2) (-1) := by
  simp only [isRounded]; decide +kernel
theorem witness_FloatArithmetic :
    Ready base (.fadd .f32 .rne false 255 1 (.s .em) {}) ∧ Ready base (.fsub .bf16x2 .rsr true 3 1 (.v 2) {}) ∧
    Ready ixed (.fmul .f16x2 .dyn false 3 1 (.v 2) { ia := true, id := true, ixn := 3 }) ∧ Ready base (.fdiv .f32 .rtz false 3 1 (.v 2) {}) ∧
    Ready base (.ffma .f32 .rna true true true 4 1 (.v 1) (.v 2) {}) ∧ Ready base (.dadd true .rne false 254 0 (.v 2) false) ∧
    Ready base (.dmul .rup false 4 0 (.s (.s 2)) false) ∧ Ready base (.dfma .rdn false true false 6 0 (.v 2) (.v 4) false) := by decide +kernel
theorem witness_FloatSelectionAndFunctions :
    Ready base (.fmin .f32 .maxp 255 1 (.v 2) {}) ∧ Ready base (.fcmp .f16x2 .un (.mask 7 true) 1 (.v 2) {}) ∧
    Ready base (.fcmp .f64 .le (.vec 4) 0 (.v 2) {}) ∧ Ready base (.fcls .f32 (.mask 0 false) 1 (.s 3) {}) ∧
    Ready base (.fcls .f64 (.vec 254) 0 (.s 0) {}) ∧ Ready base (.frcp .f32 .rne false 3 1 {}) ∧ Ready base (.fsqt .f16x2 .rne false 3 1 {}) ∧
    Ready base (.frsq .f32 .rne true 3 1 {}) ∧ Ready base (.fex2 .f32 .rne false 3 1 {}) ∧ Ready base (.flg2 .bf16x2 .rne false 3 1 {}) ∧
    Ready base (.ftrg .f32 .rne false false 3 1 {}) ∧ Ready base (.ftrg .f32 .rne false true 3 1 {}) := by decide +kernel
theorem witness_ConversionsRoundOnce :
    Ready base (.fcvt .e4m3x4 .f32 .rne true 6 4 3 false) ∧ Ready base (.fcvt .f64 .f16x2 .rne false 6 4 1 false) ∧
    Ready base (.icvt .f32 .n32 false .rne false 2 1 0 false) ∧ Ty.isFloat .f32 = true ∧
    Ready base (.icvt .s32 .f32 false .rtz false 2 1 0 false) ∧ Ty.isFloat .s32 = false ∧
    Ready base (.scvn false .rne true 7 2 (.s (.s 3)) 3 false) ∧ Ready base (.scvw true .rne false 7 2 (.v 3) 0 false) := by decide +kernel
theorem witness_ExactAccumulation :
    Ready base (.kadd .f16x2 3 255 false) ∧ Ready base (.krnd .f64 .rsr false true 0 (.v 254) false) ∧
    Ready base (.krnd .bf16x2 .rne true false 0 (.s 63) false) ∧ Ready base (.kscn .f32 .rne false true 0 4 2 false) ∧
    Ready base (.kmovGet 3 255 false) ∧ Ready base (.kmovSet 0 255 false) := by decide +kernel

/-! ## Hypotheses that hold: control flow and exceptions -/

/-- The word at the target reads as code and is a header. -/
def headerAt (s : State) (x : Word) : Bool := match s.codeWord (x.setWidth 56) with
  | (_, .ok h) => (decodeHeader h).isSome
  | _ => false

theorem passes_headerAt {s : State} {x : Word} (h : x.extractLsb' 0 3 = 0 ∧ x.extractLsb' 56 8 = 0 ∧ headerAt s x = true) :
    ∃ s1, passes s x s1 := by
  obtain ⟨h1, h2, h3⟩ := h
  unfold headerAt at h3
  split at h3
  · rename_i s1 w hw
    exact ⟨s1, h1, h2, w, hw, h3⟩
  · exact absurd h3 (by decide)

/-- The user frame can be written and is not busy. -/
def frameIsFree (s : State) : Bool :=
  match s.translate s.run.core s.run.part s.run.ctx (s.userFrame s.run) .wr (!s.isSup s.run) with
  | (s1, .ok pa) => (region pa == .dev || region pa == .host) && !(s1.coreByte s.run.core (pa + 48)).getLsbD 1
  | _ => false

theorem frameFree_of {s : State} (h : frameIsFree s = true) : ∃ s1 pa, frameFree s s1 pa := by
  unfold frameIsFree at h
  split at h
  · rename_i s1 pa hw
    simp only [Bool.and_eq_true, Bool.or_eq_true, beq_iff_eq, Bool.not_eq_true'] at h
    exact ⟨s1, pa, hw, h.1, h.2⟩
  · exact absurd h (by decide)

/-- A header stands at 24, one word after the header of the open clause. -/
def coded : State := withWord 24 0xA00001FE00000000 base

/-- What a code word's read answers: the error, or nothing. -/
def codeErr (s : State) (a : Addr) : Option (Nat × Nat) := match s.codeWord a with
  | (_, .error e) => some e
  | _ => none

theorem witness_ControlTransfers :
    (∃ s1, passes coded (offsetTarget coded 1) s1) ∧ ((withS 2 0xFFFFFFFFFFFFFFFF coded).run.pos (.s 2)).toInt < 0 ∧
    ¬ (coded.run.pos (.s 2)).toInt < 0 ∧ (∃ s1, passes (withS 5 24 coded) (withS 5 24 coded).run.s[5] s1) :=
  ⟨passes_headerAt (by decide +kernel), by decide +kernel, by decide +kernel, passes_headerAt (by decide +kernel)⟩
theorem witness_ControlTransfers_bad_targets :
    (4 : Word).extractLsb' 0 3 ≠ 0 ∧ (0x0100000000000000 : Word).extractLsb' 56 8 ≠ 0 ∧
    (0x0800000 : Word).extractLsb' 0 3 = 0 ∧ (0x0800000 : Word).extractLsb' 56 8 = 0 ∧ (codeErr user 0x0800000).isSome = true ∧
    codeErr base 24 = none ∧ headerAt base 24 = false ∧ offsetTarget base 1 = 24 := by decide +kernel

/-- `n` entries on chip, joining at the header of the open clause. -/
def deep (n : Nat) (p : Lane) (s : State) : State :=
  { s with run := { s.run with stack := List.replicate n ⟨16, 0x40, p, 0xFFFFFFFF, 0xAAAAAAAA⟩ } }

def explicit (s : State) : State := { s with run := { s.run with mmode := true } }

theorem witness_DivergenceStackAndExit :
    let odd := withV 3 (fun l => BitVec.ofNat 32 (l % 2)) coded
    (Ready odd (.bdv .ne 3 1 1) ∧ odd.run.mmode = false ∧ odd.run.stack.length < 32 ∧
      (∀ l, l < 32 → ((0xAAAAAAAA#32).getLsbD l = true ↔ odd.run.em.getLsbD l = true ∧ (lane (odd.run.reg 3) l).toInt ≠ 0)) ∧
      (0xAAAAAAAA#32) ≠ 0 ∧ (∃ s1, passes odd (offsetTarget odd 1) s1)) ∧
    (∀ l, l < 32 → ((0#32).getLsbD l = true ↔ coded.run.em.getLsbD l = true ∧ (lane (coded.run.reg 3) l).toInt ≠ 0)) ∧
    coded.run.em &&& ~~~0#32 ≠ 0 ∧ (withEm 0 coded).run.em &&& ~~~0#32 = 0 ∧
    (explicit base).run.mmode = true ∧ Ready (explicit base) (.bdv .ne 3 1 1) ∧
    (base.run.mmode = false ∧ base.run.stack = []) ∧
    ((deep 1 0xFF base).run.stack = [⟨base.run.hdr, 0x40, 0xFF, 0xFFFFFFFF, 0xAAAAAAAA⟩] ∧ 0xFF &&& base.run.live ≠ 0) ∧
    (deep 1 0 base).run.stack.length = 1 ∧ (0 : Lane) &&& base.run.live = 0 ∧ base.run.mdepth = 0 := by
  and_intros <;> first | exact passes_headerAt (by decide +kernel) | decide +kernel

/-- A full stack with no entry in memory, and one with all 1,024 entries there. -/
theorem witness_DivergenceStackAndExit_spills :
    let s := deep 32 0xFF base
    let full := { s with run := { s.run with mdepth := 1024 } }
    let a := s.teamImage s.run + 0x20000 + 0x8000 * s.run.num + 32 * s.run.mdepth
    Memory.wf s.mem = true ∧ s.run.stack.length = 32 ∧ s.run.stack.getLast? = some ⟨16, 0x40, 0xFF, 0xFFFFFFFF, 0xAAAAAAAA⟩ ∧
    (s.run.mdepth < 1024 ∧ region a = .dev ∧ region (a + 31) = .dev ∧ s.logRoom [a / 32 * 32] s.run.part s.run.ctx s.run.grid = true ∧ a % 32 = 0) ∧
    (1024 ≤ full.run.mdepth ∧ full.run.mmode = false ∧ Ready full (.bdv .eq 3 1 1)) ∧
    (full.run.bdvTaken .ne 3 = 0 ∧ full.run.em ≠ 0) ∧ full.run.bdvTaken .eq 3 ≠ 0 := by decide +kernel
theorem witness_DivergenceStackAndExit_exits :
    (base.run.live &&& ~~~base.run.em = 0) ∧ ((withEm 1 base).run.live &&& ~~~(withEm 1 base).run.em ≠ 0) := by decide +kernel
theorem witness_MasksMoveCombineAndTest_votes : Ready base (.emset .andn (.v 255) false) ∧ Ready base (.emset .set (.s .em) false) ∧
    Ready base (.vote .ballot (.s 3) 7 false) ∧ Ready base (.vote .any (.m 7) 7 false) ∧ Ready base (.vote .all (.s 63) 255 false) ∧
    Ready base (.vote .uni (.s 3) 0 false) := by decide +kernel
theorem witness_MasksMoveCombineAndTest :
    let s := { base with run := { base.run with fsr := 0x20, fte := 0x20 } }
    (∀ i, i < 6 → ¬ (base.run.fsr.getLsbD i = true ∧ base.run.fte.getLsbD i = true)) ∧
    (s.run.fsr.getLsbD 5 = true ∧ s.run.fte.getLsbD 5 = true) := by decide +kernel

/-- A user-level group with a handler at 24. -/
def handled : State := { user with run := { user.run with tvt := 24 } }

theorem witness_UserTrapEntry : handled.memOk ∧ handled.run.kind = .compute ∧ handled.isSup handled.run = false ∧ handled.run.tvt ≠ 0 ∧
    (∃ s1 pa, frameFree handled s1 pa) ∧ (handled.desc handled.run.part handled.run.ctx)[10].getLsbD 49 = false :=
  ⟨⟨by decide +kernel, by decide +kernel⟩, by decide +kernel, by decide +kernel, by decide +kernel, frameFree_of (by decide +kernel),
    by decide +kernel⟩
theorem witness_SupervisorAndCoreTrapEntry :
    (user.memOk ∧ user.run.kind = .compute ∧ user.isSup user.run = false ∧ user.run.tvt = 0) ∧
    (handled.run.tvt ≠ 0 ∧ (0x10 : Nat) ≠ 0x20 ∧ (0x10 : Nat) ≠ 0x21 ∧ (0x10 : Nat) ≠ 0x22 ∧ (0x10 : Nat) ≠ 0x50) ∧
    (ctlCore.run.kind = .control 2 ∧ (Tbl.get 0 ctlCore.dev.frames (0x300000 + 128 * 2 + 48)).getLsbD 1 = false) ∧
    (Tbl.get (0 : Word) [(0x300000 + 128 * 2 + 48, 2)] (0x300000 + 128 * 2 + 48)).getLsbD 1 = true :=
  ⟨⟨⟨by decide +kernel, by decide +kernel⟩, by decide +kernel, by decide +kernel, by decide +kernel⟩, by decide +kernel,
    by decide +kernel, by decide +kernel⟩

/-- Control core 2 with a busy frame whose CLAUSE is 24 and RIDX `r`. -/
def framed (r : Nat) : State :=
  let f := 0x300000 + 128 * 2
  { withS 63 (BitVec.ofNat 64 f) ctlCore with
    mem := coded.mem
    dev := { ctlCore.dev with frames := [(f + 8, BitVec.ofNat 64 (r * 2 ^ 56 + 24)), (f + 16, 0x0000FFFF00000000), (f + 40, 7), (f + 48, 2)] } }

theorem witness_ReturnsFromTraps :
    (ctlCore.run.kind = .control 2 ∧ (Tbl.get 0 ctlCore.dev.frames (ctlCore.run.ctlFrame + 48)).getLsbD 1 = false) ∧
    ((framed 16).run.s[63].toNat = (framed 16).run.ctlFrame ∧ (Tbl.get 0 (framed 16).dev.frames ((framed 16).run.ctlFrame + 48)).getLsbD 1 = true ∧
      ((Tbl.get 0 (framed 16).dev.frames ((framed 16).run.ctlFrame + 8)).extractLsb' 56 5).toNat = 16) ∧
    ((Tbl.get 0 (framed 31).dev.frames ((framed 31).run.ctlFrame + 48)).getLsbD 1 = true ∧
      ((Tbl.get 0 (framed 31).dev.frames ((framed 31).run.ctlFrame + 8)).extractLsb' 56 5).toNat = 31 ∧ headerAt (framed 31) 24 = true) ∧
    (codeErr { framed 31 with mem := [] } 24 = none ∧ headerAt { framed 31 with mem := [] } 24 = false) := by decide +kernel

/-- A compute group with a frame at 0x1000 that `s63` names: CLAUSE 24, RIDX `r`, busy where `b`. -/
def inFrame (r : Nat) (b : Bool) : State :=
  let m := Memory.words coded.mem 0x1008 [BitVec.ofNat 64 (r * 2 ^ 56 + 24), 0x0000FFFF00000000, 0, 0, 7, if b then 2 else 0]
  { withS 63 0x1000 base with mem := m, run := { (withS 63 0x1000 base).run with inHandler := true } }

/-- The frame's page translates, and the word `i` of the frame. -/
def frameWord (s : State) (i : Nat) : Option Word :=
  match s.translate s.run.core s.run.part s.run.ctx ((s.run.s[63]).toNat % 2 ^ 56) .wr (!s.isSup s.run) with
  | (s1, .ok pa) => some (BitVec.ofNat 64 (leNat ((List.range 8).map fun j => s1.coreByte s.run.core (pa + 8 * i + j))))
  | _ => none

theorem witness_ReturnsFromTraps_groups :
    (inFrame 3 true).memOk ∧ (inFrame 3 true).run.kind = .compute ∧
    (frameWord (inFrame 3 false) 6 = some 0) ∧ (frameWord (inFrame 16 true) 6 = some 2 ∧ frameWord (inFrame 16 true) 1 = some 0x1000000000000018) ∧
    (frameWord (inFrame 3 true) 6 = some 2 ∧ frameWord (inFrame 3 true) 1 = some 0x0300000000000018 ∧ headerAt (inFrame 3 true) 24 = true) ∧
    (inFrame 3 true).isSup (inFrame 3 true).run = true :=
  by and_intros <;> decide +kernel
theorem witness_SelectorsAndControlRegisters :
    let s := { base with teams := [(base.run.teamKey, {})], grids := [(base.run.grid, {})] }
    (s.grid? s.run.grid).isSome = true ∧ s.run.kind = .compute ∧ s.run.core < 384 ∧ s.run.core % 24 / 2 < 12 ∧ s.run.ctx < 64 ∧ s.run.part < 64 ∧
    (s.team? s.run.teamKey).isSome = true ∧ (user.ctx? user.run.part user.run.ctx).isSome = true ∧ ctlCore.run.kind = .control 2 := by
  decide +kernel
theorem witness_RegisterChecks :
    regFault base.run (.vmov false 5 (.v 9) {}) = none ∧ (regFault base.run (.vmov false 5 (.v 9) { ia := true, ixn := 1 })).isSome = true := by
  decide +kernel

/-! ## Single steps: traps and returns -/

/-- TRAP with a handler writes the frame of R376 at the group's frame address and enters the handler (R379). -/
theorem test_trap_enters : (let t := after (.trap 7) handled
    (t.run.pc, t.run.mmode, t.run.inHandler, t.run.s[63].toNat)) = (24, true, true, handled.userFrame handled.run) := by decide +kernel
theorem test_tret_restores : (let t := after .tret (framed 31)
    (t.run.pc, t.run.em, t.run.s[63], Tbl.get 0 t.dev.frames (0x300000 + 256 + 48))) = (24, 0xFFFF, 7, 0) := by decide +kernel
theorem test_prack_ret : (let t := after .prackRet (inFrame 3 true)
    (t.run.pc, t.run.resume, t.run.em, t.run.inHandler, Memory.word t.mem 0x1030)) = (24, some 3, 0xFFFF, false, 0) := by decide +kernel

/-! ## Hypotheses that hold: memory -/

/-- The bytes lie in the first page of the core's translation cache. -/
def pageOk (s : State) (acc : Access) (a : Word) (n pa : Nat) : Bool := match (s.core s.run.core).tlb with
  | e :: _ => e.asid == s.asid s.run.part s.run.ctx && decide (e.va ≤ a.toNat) && decide (a.toNat + n ≤ e.va + e.size) &&
      decide (a.toNat + n ≤ 2 ^ 56) && pa == e.pa + (a.toNat - e.va) && decide (pa + n ≤ 2 ^ 39) && acc != .ex &&
      (acc != .wr || (e.w && e.d)) && (!e.s || s.isSup s.run)
  | [] => false

theorem inPage_pageOk {s : State} {acc : Access} {a : Word} {n pa : Nat} (h : pageOk s acc a n pa = true) : inPage s acc a n pa := by
  unfold pageOk at h
  split at h
  · rename_i e rest he
    simp only [Bool.and_eq_true, Bool.or_eq_true, beq_iff_eq, decide_eq_true_eq, bne_iff_ne, Bool.not_eq_true'] at h
    obtain ⟨⟨⟨⟨⟨⟨⟨⟨h1, h2⟩, h3⟩, h4⟩, h5⟩, h6⟩, h7⟩, h8⟩, h9⟩ := h
    exact ⟨e, rest, he, h1, h2, h3, h4, h5, h6, h7, fun k => h8.resolve_left (· k), fun k => h9.resolve_left (by simp [k])⟩
  · exact absurd h (by decide)

theorem get_all {α : Type} {d : α} {t : Tbl α} {p : α → Bool} (hd : p d = true) (h : t.all (fun x => p x.2) = true) (n : Nat) :
    p (Tbl.get d t n) = true := by
  induction t with
  | nil => exact hd
  | cons x t ih =>
    rw [List.all_cons, Bool.and_eq_true] at h
    obtain ⟨k, v⟩ := x
    unfold Tbl.get
    split
    · exact h.1
    · exact ih h.2

/-- No command owns a line, no request of a matrix engine does but the one of number `but`, and no write is held. -/
def quiet (s : State) (but : Option Nat := none) : Bool :=
  s.engines.all (fun e => e.2.cmds.all fun c => c.lines.isEmpty && (match c.st with
    | .running ws => ws.isEmpty
    | _ => true)) &&
  s.matrix.all (fun m => m.2.table.all fun x => x.lines.isEmpty || some x.ord == but) &&
  s.cores.all fun c => c.2.buf.all fun b => b.held == 0

theorem nothingWaits_of {s : State} {but : Option Nat} (h : quiet s but = true) : nothingWaits s but := by
  simp only [quiet, Bool.and_eq_true] at h
  obtain ⟨⟨h, k⟩, j⟩ := h
  refine ⟨fun e c line he hc => ?_, fun m x hm hx _ hn => ?_, fun n b hb => ?_⟩
  · have := List.all_eq_true.mp (List.all_eq_true.mp h e he) c hc
    simp only [Bool.and_eq_true, List.isEmpty_iff] at this
    obtain ⟨h1, h2⟩ := this
    unfold Cmd.owns
    rw [h1]
    split <;> try rfl
    rename_i ws hw
    rw [hw] at h2
    simp_all [List.isEmpty_iff]
  · have := List.all_eq_true.mp (List.all_eq_true.mp k m hm) x hx
    simp only [Bool.or_eq_true, List.isEmpty_iff, beq_iff_eq] at this
    exact this.resolve_right hn
  · have := get_all (d := ({} : Core)) (p := fun c => c.buf.all fun b => b.held == 0) rfl j n
    simpa using List.all_eq_true.mp this b hb

theorem offHeaders_of {s : State} (h : s.ctxs.all (fun c => !c.2.logs) = true) (a n : Nat) : offHeaders s a n := by
  intro k c hm hl
  have := List.all_eq_true.mp h _ hm
  simp [hl] at this

theorem unlogged_of {s : State} {p x : Nat} (h : (s.ctx? p x).all (fun c => !c.logs) = true) : unlogged s p x := by
  intro c hc
  rw [hc] at h
  simpa using h

/-- `s4` is 0x100 and `v5` holds 4t in lane t; memory holds 32 words from 0x100. -/
def loads : State :=
  { withS 4 0x100 (withV 5 (fun l => BitVec.ofNat 32 (4 * l)) base) with mem := Memory.words [] 0x100 [0x8877665544332211, 0xFFEEDDCCBBAA9988] }

def ldI : Instr := .ld .b4 .dflt true false false .rlx .core 3 (.sca (.s 4) 5) 0

/-- After the same load has completed once. -/
def loadedOnce : State := after (.loadComplete 1) (after ldI loads)

theorem witness_LoadsReadMemory :
    Ready loads ldI ∧ loads.run.kind = .compute ∧ loads.loadHit (loads.loadKeys ldI 3 1 1) = none ∧ loads.loadHit [] = none ∧
    (∀ l, l < 32 → loads.run.em.getLsbD l = true → inPage loads .rd (loads.run.addr true (.sca (.s 4) 5) 0 l) 4 (0x100 + 4 * l)) ∧
    (Ready loadedOnce ldI ∧ (loadedOnce.loadHit (loadedOnce.loadKeys ldI 3 1 1)).isSome = true) ∧
    ((Instr.sld .b8 false .dflt .rlx .core false 6 (.s 4) 8).wf = true ∧ inPage loads .rd (loads.run.pos (.s 4) + 8) 8 0x108) :=
  ⟨by decide +kernel, by decide +kernel, by decide +kernel, by decide +kernel,
    fun l h e => inPage_pageOk ((by decide +kernel :
      ∀ l, l < 32 → loads.run.em.getLsbD l = true → pageOk loads .rd (loads.run.addr true (.sca (.s 4) 5) 0 l) 4 (0x100 + 4 * l) = true) l h e),
    by decide +kernel, by decide +kernel, inPage_pageOk (by decide +kernel)⟩
theorem witness_StoresEnterTheBufferOrPerform :
    (loads.run.kind = .compute ∧ Ready loads (.st .b4 .dflt .rlx .core 3 (.sca (.s 4) 5) 0) ∧
      ∀ l, l < 32 → loads.run.em.getLsbD l = true → inPage loads .wr (loads.run.addr true (.sca (.s 4) 5) 0 l) 4 (0x100 + 4 * l)) ∧
    ((Instr.sst .b8 .dflt .rlx .core 6 (.s 4) 0).wf = true ∧ inPage loads .wr (loads.run.pos (.s 4) + 0) 8 0x100) ∧
    (ctlCore.memOk ∧ ctlCore.run.kind ≠ .compute ∧ { ctlCore with grids := [] }.grid? ctlCore.run.grid = none ∧
      inPage ctlCore .wr (ctlCore.run.pos (.s 4) + 0x100) 8 0x100) :=
  ⟨⟨by decide +kernel, by decide +kernel, fun l h e => inPage_pageOk ((by decide +kernel :
      ∀ l, l < 32 → loads.run.em.getLsbD l = true → pageOk loads .wr (loads.run.addr true (.sca (.s 4) 5) 0 l) 4 (0x100 + 4 * l) = true) l h e)⟩,
    ⟨by decide +kernel, inPage_pageOk (by decide +kernel)⟩, ⟨⟨by decide +kernel, by decide +kernel⟩, by decide +kernel, by decide +kernel,
    inPage_pageOk (by decide +kernel)⟩⟩

/-- A team with a window of 4 KiB, `v5` with the addresses of its words. -/
def scratch : State :=
  { withV 5 (fun l => BitVec.ofNat 32 (31 * 2 ^ 19 + 4 * l)) base with teams := [(base.run.teamKey, { grid := 1, winBase := 0x400, winRows := 4 })] }

def places (s : State) (a : Nat → Word) (n l : Nat) : List (Nat × Nat) := (s.spadBytes s.run (a l) n).getD []

theorem witness_ScratchpadAccesses :
    let off := fun a : Nat => a % 2 ^ 19
    (scratch.run.kind = .compute ∧ (scratch.team? scratch.run.teamKey).isSome = true ∧ off (31 * 2 ^ 19 + 4095) < 1024 * 4 ∧ 1024 * 4 ≤ off (31 * 2 ^ 19 + 4096) ∧
      (31 * 2 ^ 19 + 4096) / 2 ^ 19 = 31) ∧ ctlCore.run.kind ≠ .compute ∧ (24 ≤ 24 * 2 ^ 19 / 2 ^ 19 ∧ 24 * 2 ^ 19 / 2 ^ 19 < 31) ∧
    (0x400 / 2 ^ 19 < 24 ∧ scratch.spadByte scratch.run 0x400 = some (0x400, scratch.run.teamKey)) ∧
    scratch.spadByte scratch.run 0x3FF = none := by decide +kernel
theorem witness_ScratchpadAccesses_reads :
    let a := fun l => scratch.run.addr false (.vec 5) 0 l
    scratch.memOk ∧
    (∀ l, l < 32 → scratch.run.em.getLsbD l = true → scratch.spadBytes scratch.run (a l) 4 = some (places scratch a 4 l)) ∧
    (Ready scratch (.lds .b4 false .rlx .core 3 (.vec 5) 0) ∧
      scratch.loadHit (scratch.loadKeys (.lds .b4 false .rlx .core 3 (.vec 5) 0) 3 1 0) = none) ∧
    (Ready scratch (.sts .b4 .rlx .core 3 (.vec 5) 0) ∧ ∀ l, l < 32 → ((places scratch a 4 l).map (·.1)).Nodup) :=
  ⟨⟨by decide +kernel, by decide +kernel⟩, by decide +kernel, by decide +kernel, by decide +kernel⟩
theorem witness_AtomicsReadModifyWrite :
    let i := Instr.atom .add true false .dflt .rlx .dev false 6 (.sca (.s 4)) 8 0
    let f := Instr.atmf .max .b4 .dflt .rlx .dev false 6 (.sca (.s 4)) 8 0
    let ready := fun n => ∀ l, l < 32 → (loads.run.em &&& ~~~loads.run.doneMask).getLsbD l = true →
      (loads.run.aaddr true (.sca (.s 4)) 0 l).toNat % n = 0 ∧ pageOk loads .wr (loads.run.aaddr true (.sca (.s 4)) 0 l) n 0x100 = true
    (∀ x, loads.grid? loads.run.grid = some x → x.log = false ∧ x.recAtom = false) ∧ ready 8 ∧ Ready loads i ∧ ready 4 ∧ Ready loads f ∧
    offHeaders loads 0x100 8 ∧ AtmfFn.max ≠ .exact ∧ AtmfFn.max ≠ .exactb ∧
    (Ready scratch (.atom .cas false true .dflt .rlx .core false 6 (.vec 5) 8 0) ∧ ∀ l, l < 32 →
      (scratch.run.aaddr false (.vec 5) 0 l).toNat % 4 = 0 ∧
      (scratch.spadBytes scratch.run (scratch.run.aaddr false (.vec 5) 0 l) 4).isSome = true) := by
  refine ⟨?_, by decide +kernel, by decide +kernel, by decide +kernel, by decide +kernel, offHeaders_of (by decide +kernel) _ _, by decide, by decide,
    by decide +kernel⟩
  intro x h
  have : loads.grid? loads.run.grid = some { id := 1, roles := [(1, 256)], map := [0], placed := [0] } := by decide +kernel
  rw [this] at h
  injection h with h
  subst h
  exact ⟨rfl, rfl⟩

/-- The same with a grid launched with EXACT. -/
def exactly : State := { loads with grids := [(1, { id := 1, roles := [(1, 256)], map := [0], placed := [0], exact := true })] }

theorem witness_AtomicsReadModifyWrite_exact :
    let i := Instr.atmf .exact .b4 .dflt .rlx .dev false 0 (.sca (.s 4)) 8 0
    Ready loads i ∧ (loads.grid? loads.run.grid).map (·.exact) = some false ∧ Ready exactly i ∧ (exactly.grid? exactly.run.grid).map (·.exact) = some true ∧
    exactly.slices = [] ∧ Ready exactly (.atmf .exactb .b2 .dflt .rlx .dev false 0 (.sca (.s 4)) 8 0) ∧
    ∀ l, l < 32 → (exactly.run.em &&& ~~~exactly.run.doneMask).getLsbD l = true →
      (exactly.run.aaddr true (.sca (.s 4)) 0 l).toNat % 4 = 0 ∧ pageOk exactly .wr (exactly.run.aaddr true (.sca (.s 4)) 0 l) 4 0x100 = true := by
  decide +kernel

/-- The cause with which an access fails. -/
def accessFails (s : State) (a : Word) (n : Nat) (acc : Access) : Option Nat := match s.locate a n acc with
  | (_, .error e) => some e.cause
  | _ => none

theorem witness_FailedAccessesFault :
    let far := withS 4 0x800000 base
    let odd := withS 4 0x101 base
    accessFails far (far.run.pos (.s 4) + 0) 4 .rd = some 0x10 ∧ accessFails far (far.run.pos (.s 4) + 0) 4 .wr = some 0x10 ∧
    accessFails far (0x0100000000000000) 4 .wr = some 0x11 ∧
    ((0 < 32 ∧ far.run.em.getLsbD 0 = true ∧ ∀ k, k < 0 → far.run.em.getLsbD k = false) ∧
      Ready far (.ld .b4 .dflt false false false .rlx .core 3 (.sca (.s 4) 0) 0) ∧ Ready far (.st .b4 .dflt .rlx .core 3 (.sca (.s 4) 0) 0) ∧
      accessFails far (far.run.addr true (.sca (.s 4) 0) 0 0) 4 .rd = some 0x10) ∧
    (Ready far (.sts .b4 .rlx .core 3 (.sca (.s 4) 0) 0) ∧ far.spadBytes far.run (far.run.addr false (.sca (.s 4) 0) 0 0) 4 = none) ∧
    (Ready odd (.atom .add false false .dflt .rlx .dev false 6 (.sca (.s 4)) 8 0) ∧ (odd.run.aaddr true (.sca (.s 4)) 0 0).toNat % 4 ≠ 0) := by
  decide +kernel
theorem witness_FencesAndHintsKeepValues : Ready base (.prf .dflt (.vec 254) 0) ∧ Ready base (.cmnt .evict (.sca (.s 4) 0) 0) := by decide +kernel

/-- Bank 7 of cluster 0 in a state. -/
def banked (b : Bank) : State := { base with clusters := [(0, { banks := Vector.ofFn fun i => if i.val = 7 then b else {} })] }

/-- The same, with an MMA that reads the FIFO of bank 7 outstanding. -/
def bound : State :=
  let op : MxOp := .mma .e4m3 false 0 (BitVec.ofNat 64 (2 ^ 63 + 7)) 1 0 0 0
  { banked { mode := .fifo } with matrix := [(0, { table := [{ gid := 0, part := 0, ctx := 0, grid := 1, team := 0, core := 0, op := op, seta := 15, setb := 15 }] })] }

theorem witness_FifosAndBanks :
    let ok := fun s : State => let b := s.bank 0 7
      b.mode = .fifo ∧ b.st = .stable ∧ b.owner = s.run.part
    (ok (banked { mode := .fifo }) ∧ Ready (banked { mode := .fifo }) (.fqput 8 (.s 4)) ∧ (banked { mode := .fifo }).run.cluster = 0) ∧
    (∀ l, l < 32 → ∀ j, j < 32 → (0 : BitVec 8192).extractLsb' (256 * l + 8 * j) 8 = if base.run.em.getLsbD l then dataByte base.run 8 l j else 0) ∧
    ((banked { mode := .fifo, entries := List.replicate 127 0 }).bank 0 7).entries.length < 128 ∧
    128 ≤ ((banked { mode := .fifo, entries := List.replicate 128 0 }).bank 0 7).entries.length ∧
    ¬ ok (banked { mode := .spad }) ∧ ¬ ok (banked { mode := .fifo, owner := 1 }) ∧ ¬ 48 < 48 ∧
    (Ready (banked { mode := .fifo }) (.fqget 8 (.s 4)) ∧ (banked { mode := .fifo }).fifoBound 0 7 = false) ∧ bound.fifoBound 0 7 = true := by
  decide +kernel
theorem witness_FifosAndBanks_requests :
    ((withS 5 48 base).run.pos (.s 5)).toNat = 48 ∧ ((banked { owner := 1 }).bank 0 7).owner ≠ base.run.part ∧
    ((withS 5 47 base).run.pos (.s 5)).toNat < 48 ∧ ((banked {}).bank 0 7).owner = base.run.part ∧
    (((banked {}).bank 0 7).st = .stable ∧ ((banked {}).bank 0 7).mode = .cache ∧ ((banked {}).bank 0 7).mode ≠ .spad) ∧
    ((banked { st := .pending .fifo true }).bank 0 7).st = .pending .fifo true ∧
    ((banked { st := .convert .fifo none }).bank 0 7).st = .convert .fifo none := by decide +kernel

/-! ## Hypotheses that hold: barriers, waits, events, balance requests -/

/-- A grid of teams of `n` groups. -/
def teamOf (n : Nat) (s : State) : State := { s with grids := [(1, { id := 1, roles := [(n, 8)], map := [0], placed := [0] })] }

theorem witness_BarriersAndWatermarks :
    ((base.team? base.run.teamKey).isSome = true ∧ base.run.wait = .none) ∧
    ((base.run.pos (.s 4)).toNat % 64 = 0 ∧ base.teamGroups < ((withS 4 2 base).run.pos (.s 4)).toNat % 64) ∧
    (0 < ((withS 4 2 base).run.pos (.s 4)).toNat % 64 ∧ ((withS 4 2 base).run.pos (.s 4)).toNat % 64 ≤ (teamOf 2 base).teamGroups) ∧
    (0 < base.teamGroups ∧ base.teamGroups = 1) := by decide +kernel

/-- A grid of kind COOP, without and with a tile grant of the group. -/
def coop : State := { base with grids := [(1, { id := 1, roles := [(1, 8)], map := [0], placed := [0], coop := true })] }
def granted : State := { coop with matrix := [(0, { grants := [⟨base.run.gid, [0, 1], {}, none⟩] })] }

theorem witness_BarriersAndWatermarks_marks :
    (base.run.kind = .compute ∧ (base.grid? base.run.grid).map (·.coop) = some false) ∧
    ((granted.grid? granted.run.grid).map (·.coop) = some true ∧ (granted.grantOf granted.run.gid).isSome = true) ∧
    ((coop.grid? coop.run.grid).map (·.coop) = some true ∧ coop.grantOf coop.run.gid = none) := by decide +kernel

/-- What a one-page access finds: no device memory. -/
def noDev (s : State) (a : Word) : Bool := match s.locate1 a 4 .rd with
  | (_, .ok (.mem q)) => region q != .dev
  | (_, .ok _) => true
  | _ => false

/-- The same page mapped to host memory. -/
def hosted : State := { base with cores := [(0, { tlb := [⟨0, 0, 2 ^ 23, 4 * 2 ^ 48, true, true, false, true⟩] })] }

theorem witness_EventWaitsAndQueues :
    (((withS 4 0x102 base).run.pos (.s 4)).toNat % 4 ≠ 0) ∧ (((withS 4 0x100 base).run.pos (.s 4)).toNat % 8 = 0 ∧ pageOk base .rd 0x100 8 0x100 = true) ∧
    ((31 * 2 ^ 19) % 4 = 0 ∧ scratch.spadByte scratch.run (31 * 2 ^ 19) = some (0x400, scratch.run.teamKey) ∧
      (scratch.spadByte scratch.run (31 * 2 ^ 19 + 3)).isSome = true) ∧ base.spadByte base.run (31 * 2 ^ 19) = none ∧ noDev hosted 0x100 = true := by
  decide +kernel
theorem witness_EventWaitsAndQueues_posts :
    let full : State := { base with clusters := [(0, { queue := List.replicate 1024 0 })] }
    let far := withS 4 5 user
    ¬ (far.isSup far.run = true ∨ ((far.run.pos (.s 4)).toNat % 16 = far.run.cluster ∧ (far.run.pos (.s 4)).toNat < 16)) ∧
    (base.isSup base.run = true ∧ (base.cluster 0).queueRoom = true) ∧ (full.isSup full.run = true ∧ (full.cluster 0).queueRoom = false) ∧
    ¬ (user.run.kind ≠ .compute ∨ user.isSup user.run = true) ∧ (full.cluster 0).queue ≠ [] ∧ (base.cluster 0).queue = [] := by decide +kernel
theorem witness_NapBalanceBreakAndSnap :
    let off := { base with dev := { base.dev with snap := { arm := false } } }
    ((base.run.pos (.s 4)).toNat % 2 ^ 32 = 0 ∧ (5 : BitVec 32).toNat ≠ 0 ∧ 0 < (base.cluster base.run.cluster).freq ∧ 5 % 2 ^ 20 ≠ 0 ∧
      (base.team? base.run.teamKey).isSome = true) ∧
    ¬ (user.isSup user.run = true ∨ (user.desc user.run.part user.run.ctx)[10].getLsbD 50 = true) ∧
    (off.isSup off.run = true ∧ off.dev.snap.arm = false) ∧ (base.isSup base.run = true ∧ base.dev.snap.arm = true) := by decide +kernel

/-! ## Single steps: memory (R194-R253) -/

/-- Lane `l` of the data of the youngest outstanding load. -/
def pendingLane (s : State) (l : Nat) : List Lane := match s.run.loads.getLast? with
  | some ⟨_, .vec _ _ vals, _, _, _, _, _⟩ => vals.map (lane · l)
  | _ => []

/-- Little-endian bytes, and the extension of a byte by its sign. -/
theorem test_ld_word : (pendingLane (after ldI loads) 1, pendingLane (after ldI loads) 2) = ([0x88776655], [0xBBAA9988]) := by decide +kernel
theorem test_ld_sign : pendingLane (after (.ld .b1 .dflt false true false .rlx .core 3 (.sca (.s 4) 0) 7) loads) 0 = [0xFFFFFF88] := by decide +kernel
theorem test_load_completes : vAfter (.loadComplete 1) (after ldI loads) 3 1 = 0x88776655 := by decide +kernel
theorem test_sld : sAfter (.loadComplete 1) (after (.sld .b8 false .dflt .rlx .core false 6 (.s 4) 8) loads) 6 = 0xFFEEDDCCBBAA9988 := by decide +kernel
theorem test_sld_page : stopCause (.sld .b8 false .dflt .rlx .core false 6 (.s 4) 0) (withS 4 0x800000 user) = some 0x10 := by decide +kernel
/-- Every lane stores to one place: the highest active lane's byte stays (R212), in the buffer of the core alone. -/
theorem test_st_highest_lane : (let t := after (.st .b1 .dflt .rlx .core 3 (.sca (.s 4) 0) 0) (withV 3 (fun l => BitVec.ofNat 32 l) (withEm 0xFF loads))
    (t.coreByte 0 0x100, t.coreByte 1 0x100, Memory.get t.mem 0x100)) = (7, 0x11, 0x11) := by decide +kernel
theorem test_sst_performs_later : (let t := after (.sst .b4 .dflt .rlx .core 6 (.s 4) 4) (withS 6 0xA1B2C3D4 loads)
    (t.coreByte 0 0x104, Memory.get (after (.bufferEntryPerform 0 0) t).mem 0x107)) = (0xD4, 0xA1) := by decide +kernel
theorem test_sts_lds : (let t := after (.sts .b4 .rlx .core 5 (.vec 5) 0) scratch
    (Memory.get t.spad 0x404, pendingLane (after (.lds .b4 false .rlx .core 3 (.vec 5) 0) t) 3)) = (4, [0x00F8000C]) := by decide +kernel
theorem test_lds_bound : stopCause (.lds .b4 false .rlx .core 3 (.vec 5) 4) { scratch with ctxs := [(0, {})], teams := [(base.run.teamKey, { grid := 1, winRows := 0 })] } =
    some 0x13 := by decide +kernel
/-- Three lanes add in ascending order: each receives the value before its own addition (R235, R243). -/
theorem test_atom_add : (let t := after (.atom .add false false .dflt .rlx .dev false 6 (.sca (.s 4)) 8 0) (withEm 7 (withV 8 (fun _ => 0x10) loads))
    (pendingLane t 2, Memory.word t.mem 0x100)) = ([0x44332231], 0x8877665544332241) := by decide +kernel
theorem test_atom_cas : (let s := withEm 1 (withV 8 (fun _ => 0x44332211) (withV 6 (fun _ => 5) loads))
    let t := after (.atom .cas false false .dflt .rlx .dev false 6 (.sca (.s 4)) 8 0) s
    (pendingLane t 0, Memory.word t.mem 0x100)) = ([0x44332211], 0x8877665500000005) := by decide +kernel
theorem test_atmf_add : Memory.word (after (.atmf .add .b4 .dflt .rlx .dev false 6 (.sca (.s 4)) 8 0x40) (withEm 3 (withV 8 (fun _ => 0x3FC00000) loads))).mem 0x140 =
    0x40400000 := by decide +kernel
/-- 1.5 + 1.5 in a cell: memory is as before, and the value field is 3 in units of 2^-149. -/
theorem test_atmf_exact : (let t := after (.atmf .exact .b4 .dflt .rlx .dev false 0 (.sca (.s 4)) 8 0x40) (withEm 3 (withV 8 (fun _ => 0x3FC00000) exactly))
    (t.mem = exactly.mem : Bool) && ((t.slice (homeSlice 0x140)).cells.map (·.acc)) == [⟨3 * 2 ^ 149, 0⟩]) = true := by decide +kernel
theorem test_atmf_needs_exact : stopCause (.atmf .exact .b4 .dflt .rlx .dev false 0 (.sca (.s 4)) 8 0) { loads with ctxs := [(0, {})] } = some 2 := by decide +kernel
theorem test_fence_goes_on : (after (.fence .sc .sys) base).run.word = 1 := by decide +kernel
theorem test_flushx_waits : (after .fenceFlushx base).run.wait = .flushx := by decide +kernel
theorem test_prf_no_value : (after (.prf .dflt (.vec 4) 0) base).run.word = 1 := by decide +kernel
theorem test_prf_no_fault : (after (.prf .dflt (.sca (.s 4) 0) 0) (withS 4 0x800000 base)).run.word = 1 := by decide +kernel
theorem test_cmnt_no_value : (after (.cmnt .drop (.sca (.s 4) 0) 0) loads).mem = loads.mem := by decide +kernel
theorem test_fqput_active_lanes : (let s := banked { mode := .fifo }
    let t := after (.fqput 8 (.s 4)) { s with run := (withS 4 7 (withEm 2 (allV 8 0xAABBCCDD s))).run }
    (t.bank 0 7).entries.map fun e => (e.extractLsb' 0 32, e.extractLsb' 256 32)) = [(0, 0xAABBCCDD)] := by decide +kernel
theorem test_fqput_waits_when_full : (match (after (.fqput 8 (.s 4)) { banked { mode := .fifo, entries := List.replicate 128 0 } with
    run := (withS 4 7 base).run }).run.wait with
    | .fqput 0 7 _ => true
    | _ => false) = true := by decide +kernel
theorem test_fqget_outstanding : (after (.fqget 8 (.s 4)) { banked { mode := .fifo } with run := (withS 4 7 base).run }).run.loads.map (·.fifo) = [some (0, 7)] := by
  decide +kernel
theorem test_fqget_error : stopCause (.fqget 8 (.s 4)) { banked { mode := .spad } with run := (withS 4 7 base).run, ctxs := [(0, {})] } = some 0x14 := by decide +kernel
theorem test_bank_request : (let t := after (.bankRequest .fifo 6 (.s 5) false) (withS 5 7 base)
    (t.run.s[6], (t.bank 0 7).st)) = (0, .pending .fifo false) := by decide +kernel
theorem test_bank_query : sAfter (.bankQuery 6 (.s 5) false) { banked { mode := .fifo, st := .pending .cache false } with run := (withS 5 7 base).run } 6 = 0x16 := by
  decide +kernel

/-! ## Single steps: barriers, waits, events, balance requests (R254-R258, R268, R302, R303, R357, R366, R371) -/

theorem test_bar_last_releases : (let t := after (.bar 3 none false) base
    (t.run.word, t.run.wait, (t.team? base.run.teamKey).map (·.bars[3].phase))) = (1, .none, some 1) := by decide +kernel
theorem test_bar_waits : (after (.bar 3 (some (.s 4)) false) (withS 4 2 (teamOf 2 base))).run.wait = .bar 3 0 := by decide +kernel
theorem test_barv_goes_on : (after (.barv 3 (some (.s 4)) false) (withS 4 2 (teamOf 2 base))).run.word = 1 := by decide +kernel
theorem test_barw_waits : (after (.barw 3 false) base).run.wait = .bar 3 0 := by decide +kernel
theorem test_bar_count_zero : stopCause (.bar 3 (some (.s 4)) false) user = some 2 := by decide +kernel
theorem test_evwt_meets : (let t := after (.evwt true false false .rlx .core false 6 (.s 4) (.s 5) 0) (withS 5 0xFF44332211 loads)
    (t.run.s[6], t.run.word)) = (0x44332211, 1) := by decide +kernel
theorem test_evwt_sleeps : (after (.evwt false false false .rlx .core false 6 (.s 4) (.s 5) 2) (withS 5 0x44332211 loads)).run.wait =
    .evwt false false false false 0x100 0x44332211 6 0x44332211 (some (base.time + 2000)) false := by decide +kernel
theorem test_evps_posts : (let t := after (.evps 6 (.s 7) (.s 8) (.s 9) 0x55) (withS 8 0x12345678 (withS 9 0xAB base))
    (t.run.s[6], (t.cluster 0).queue.map fun r => (r.extractLsb' 0 44, r.extractLsb' 64 64))) = (1, [(0x2AB00000001, 0x0000005512345678)]) := by
  decide +kernel
theorem test_eqrd_empty : (let t := after (.eqrd 6 0) { base with clusters := [(0, { lost := 3 })] }
    (t.run.s[6], t.run.s[7], (t.cluster 0).lost)) = (0, 0x300000000, 0) := by decide +kernel
theorem test_eqrd_wait : (after (.eqrdWait 6 0) base).run.wait = .eqrd 6 := by decide +kernel
theorem test_nap_zero : (after (.nap (.imm 0)) base).run.word = 1 := by decide +kernel
theorem test_nap_sleeps : (after (.nap (.imm 500)) base).run.wait = .nap (base.time + 500) := by decide +kernel
/-- An amount of 40 is clamped to 32, for 1,500 cycles. -/
theorem test_bal_burn : (after (.balBurn (.imm (40 * 2 ^ 20 + 1500))) base).run.burn = some ⟨32, 1500000⟩ := by decide +kernel
theorem test_bal_shunt_cancels : (after (.balShunt (.imm (5 * 2 ^ 20))) { base with run := { base.run with shunt := some ⟨3, 9⟩ } }).run.shunt = none := by decide +kernel
theorem test_bal_match : (after (.balMatch (.imm 3)) base).run.match_ = some ⟨0, 3000⟩ := by decide +kernel
theorem test_bal_ceil : ((after (.balCeil (.imm 0)) base).team? base.run.teamKey).map (·.ceil) = some 1 := by decide +kernel
theorem test_wmark_waits : (after (.wmark 6 false) coop).run.wait = .wmark 6 := by decide +kernel
theorem test_wmark_grant : stopCause (.wmark 6 false) { granted with ctxs := [(0, {})] } = some 0x43 := by decide +kernel
theorem test_dbrk_first : (after (.dbrk 9 false) base).run.pend = some (.brk 9) := by decide +kernel
theorem test_snap_latches : (let t := after (.snap 6 false) base
    (t.run.s[6], t.dev.snap.gen, t.dev.snap.arm)) = (0x100000000, 1, false) := by decide +kernel
theorem test_snap_not_allowed : sAfter (.snap 6 false) user 6 = 2 := by decide +kernel

/-! ## Hypotheses that hold: the matrix engine -/

/-- A group with a grant of two tiles of engine 0, a team window of 64 KiB and the latch loaded for E4M3; `s9` names the first block of the
window. -/
def tiled : State :=
  let s := withS 9 (BitVec.ofNat 64 (31 * 2 ^ 19)) base
  { s with
    run := { s.run with latchIssue := some (some .e4m3) }
    teams := [(s.run.teamKey, { grid := 1, winRows := 64 })]
    matrix := [(0, { grants := [⟨s.run.gid, [2, 5], {}, none⟩] })] }

/-- The same with the grant marked by a fault of cause 3 at 0x80. -/
def marked : State := { tiled with matrix := [(0, { grants := [⟨tiled.run.gid, [2, 5], {}, some (3, 0x80)⟩] })] }

theorem witness_MatrixRequestsPostOrFault :
    let r : Grant := ⟨tiled.run.gid, [2, 5], {}, none⟩
    let b := tiled.run.s[9]
    tiled.grantOf tiled.run.gid = some r ∧ (Ready tiled (.mlda .e4m3 0) ∧ Ready tiled (.mlda .n8 222) ∧ r.fault = none ∧ r.tiles ≠ []) ∧
    (1 < r.tiles.length ∧ tiled.run.latchIssue = some (some .e4m3) ∧
      (b.getLsbD 63 = false ∧ b.extractLsb' 24 39 = 0 ∧ b.extractLsb' 0 7 = 0 ∧ tiled.blockOk tiled.run b.toNat = true) ∧
      (tiled.run.s[11]).extractLsb' 48 16 = 0 ∧ (tiled.run.s[11]).extractLsb' 37 3 = 0 ∧ (tiled.run.s[12]).extractLsb' 48 16 = 0) ∧
    (4095 < 4096 ∧ tiled.slotCount tiled.run.teamKey 3 < 64 ∧ (0x400 : Word).extractLsb' 0 7 = 0 ∧
      ∀ i : Nat, i < 4 → tiled.blockOk tiled.run (b.toNat + i * ((0x400 : Word).extractLsb' 0 32).toInt) = true) ∧
    (b.toNat % 128 = 0 ∧ (∀ i, i < 512 → (tiled.spadBytes tiled.run (BitVec.ofNat 64 (b.toNat + i * 32)) 32).isSome = true)) ∧
    (b.toNat % 32 = 0 ∧ 64 % 32 = 0 ∧ (((64 : Word) <<< 32).extractLsb' 32 32).toNat = 64 ∧
      ∀ i, i < 64 → (tiled.spadBytes tiled.run (BitVec.ofNat 64 (b.toNat + i * 64)) 64).isSome = true) ∧
    (0 < 1 ∧ (tiled.run.s[12]).extractLsb' 16 48 = 0) := by decide +kernel
/-- The rows of B from a FIFO: bit 63 and the bank's number. -/
theorem witness_MatrixRequestsPostOrFault_fifo :
    let s := { banked { mode := .fifo } with matrix := tiled.matrix }
    let b : Word := BitVec.ofNat 64 (2 ^ 63 + 7)
    b.getLsbD 63 = true ∧ b.extractLsb' 6 57 = 0 ∧ s.fifoOk 0 0 ((b.extractLsb' 0 6).setWidth 64) = true ∧ s.boundElsewhere 0 7 0 = false := by decide +kernel
theorem witness_MatrixRequestsPostOrFault_faults :
    (base.grantOf base.run.gid = none ∧ Ready base (.mlda .e4m3 0)) ∧
    (marked.grantOf marked.run.gid = some ⟨tiled.run.gid, [2, 5], {}, some (3, 0x80)⟩ ∧ Ready marked (.mlda .e4m3 0)) ∧
    (tiled.grantOf tiled.run.gid = some ⟨tiled.run.gid, [2, 5], {}, none⟩ ∧ [2, 5].length ≤ (2 : BitVec 4).toNat ∧ (1 : BitVec 4).toNat < [2, 5].length) ∧
    ((withS 9 0x40 tiled).run.s[9].toNat % 128 ≠ 0 ∧ (withS 9 0x41 tiled).run.s[9].toNat % 32 ≠ 0) ∧
    4096 ≤ ((withS 9 4096 tiled).run.pos (.s 9)).toNat ∧ tiled.run.latchIssue = some (some .e4m3) ∧ FA.e4m3 ≠ FA.bf16 ∧ base.run.latchIssue = none := by
  decide +kernel
theorem witness_MatrixEngineWorks :
    (FVal.nan false true 0).isNan = true ∧ [FVal.fin false 3 0].length = [FVal.fin false 0 0].length ∧
    (FVal.fin false 0 0).isZero = true ∧ (FVal.inf false).isNan = false ∧ (tiled.grantOf tiled.run.gid).isSome = true ∧
    (base.grantOf base.run.gid = none ∧ (base.mx 0).grantQ = [] ∧ (16 : BitVec 5).toNat ≤ (base.mx 0).free.length) ∧
    (let m : Matrix := { grantQ := [(7, 1)] }
     m.grantQ ≠ []) ∧ (let m : Matrix := { grants := [⟨7, [0, 3], {}, none⟩] }
      m.free.length < (15 : BitVec 5).toNat) := by decide +kernel

/-- An entry of a group's requests. -/
def entry (g : Group) (op : MxOp) : MxEntry := { gid := g.gid, part := g.part, ctx := g.ctx, grid := g.grid, team := g.team, core := g.core, op := op, seta := 15, setb := 15 }

/-- The engine with the entry alone. -/
def queued (op : MxOp) : State :=
  { tiled with matrix := [(0, { table := [entry tiled.run op], grants := [⟨tiled.run.gid, [2, 5], {}, none⟩] })] }

theorem witness_MatrixEngineWorks_passes :
    let s := queued (.mzro 1)
    (s.mstaPending s.run.gid (s.frozen s.run.teamKey) = true ∧ tiled.mstaPending tiled.run.gid (tiled.frozen tiled.run.teamKey) = false) ∧
    (s.savedMx = [] ∧ (s.matrix.map fun m => (m.1, m.2.grants)) = [(0, [⟨(entry tiled.run (.mzro 1)).gid, [2, 5], {}, none⟩])] ∧
      (1 : Nat) < [2, 5].length) := by decide +kernel

/-! ## Hypotheses that hold: engine commands -/

/-- A command of the running group of `base`. -/
def command (op : CmdOp) (a b c : Word) (st : CmdSt) : Cmd := {
  id := 1, op := op, a := a, b := b, c := c, ev := false, tag := 0, gid := base.run.gid, part := 0, ctx := 0, grid := 1, team := 0, core := 0, cluster := 0
  stream := 0, prio := 0, seta := 15, setb := 15, st := st }

/-- Engine 0 with one command. -/
def engined (c : Cmd) : State := { base with engines := [(0, { cmds := [c] })] }

theorem witness_EngineCommandsPostAndCancel :
    let full := { base with patch := [(4 * base.run.teamKey + 3, List.replicate 64 (command .gath 0 0 0 .queued))] }
    (base.slotCount base.run.teamKey 3 < 64 ∧ 64 ≤ full.slotCount full.run.teamKey 3) ∧
    (let there := fun st => (((engined (command (.cpy false) 0 16 0 st)).engine (((withS 4 1 base).run.pos (.s 4)).extractLsb' 32 8).toNat).cmds.find?
        (fun c => c.id == (withS 4 1 base).run.pos (.s 4))).map (·.st)
     there .queued = some .queued ∧ there .heldFault = some .heldFault ∧ there (.running []) = some (.running []) ∧ there (.finished 0) = some (.finished 0)) ∧
    ((command .gath 0 0 0 .queued).part = base.run.part ∧ (command .gath 0 0 0 .queued).ctx = base.run.ctx ∧ { command .gath 0 0 0 .queued with ctx := 1 }.ctx ≠ base.run.ctx) ∧
    (base.patch = [] ∧ (base.engine 0).cmds = []) ∧
    (let s := { base with run := { base.run with wait := .answer 6 2 } }
     (s.group? s.run.gid).map (·.wait) = some (.answer 6 2)) := by decide +kernel
/-- A collective and a launch that run, a launch that has finished, the grid of a launch with and without a team placed, and a held copy. -/
theorem witness_EngineCommandsPostAndCancel_answers :
    let launch := command .lnch 0 0 0 (.running [])
    let grids := fun placed : List Nat => [(5, ({ id := 5, lnch := some launch.id, placed := placed } : Grid))]
    let coll := CmdOp.coll .broadcast
    ((∀ rows, coll ≠ .cpy rows) ∧ coll ≠ .gath ∧ coll ≠ .scat ∧ coll ≠ .lnch) ∧
    (∀ y, y ∈ (grids [0]) → y.2.lnch = some launch.id ∧ y.2.placed ≠ []) ∧ (∀ y, y ∈ (grids []) → y.2.placed = []) ∧
    (∀ y, y ∈ base.grids → y.2.lnch ≠ some launch.id) ∧ (command .lnch 0 0 0 (.finished 0)).st = .finished 0 ∧
    (let s := { base with patch := [(4 * base.run.teamKey + 3, [command .gath 0 0 0 .queued])] }
     s.patch = [(4 * base.run.teamKey + 3, [command .gath 0 0 0 .queued])] ∧ (s.engine 0).cmds = [] ∧ (command .gath 0 0 0 .queued).id = 1 ∧
       (command .gath 0 0 0 .queued).ev = false) := by
  refine ⟨⟨?_, by decide, by decide, by decide⟩, by decide +kernel, by decide +kernel, by decide +kernel, by decide +kernel, by decide +kernel⟩
  intro rows h
  cases h

/-- Tables at 0 and 0x4000 that map the first 16 GiB of device memory to themselves. -/
def tables (m : Memory) : Memory := Memory.words (Memory.words m 0 [0x4001]) 0x4000 [0x6F]

/-- A copy of 16 bytes from 0x100 to 0x200, by a descriptor at 0x400. -/
def copying : State :=
  let s := engined (command (.cpy false) 0x400 16 0 .queued)
  { s with mem := tables (Memory.words (Memory.words [] 0x100 [0x8877665544332211, 0xFFEEDDCCBBAA9988]) 0x400 [0x100, 0x200, 0, 0]) }

/-- The writes of the plan of a command. -/
def planned (s : State) (c : Cmd) : Option (List EngWrite) := match s.plan c with
  | (_, .ok ws) => some ws
  | _ => none

theorem witness_CommandsStartAndComplete :
    let c := command (.cpy false) 0x400 16 0 .queued
    let ws : List EngWrite := [⟨0, 0x200, [0x11], 0⟩, ⟨0, 0x300, [0x22], 0⟩]
    let r := command (.cpy false) 0x400 16 0 (.running ws)
    (copying.memOk) ∧
    ((copying.engine 0).cmds.countP (fun y => y.st != .queued) < 8 ∧ (copying.engine 0).cmds.find? (fun y => y.st == .queued) = some c ∧
      (copying.core c.core).buf = [] ∧ (planned copying c).isSome = true) ∧
    (2 ^ 40 ≤ (command (.cpy false) 0 (BitVec.ofNat 64 (2 ^ 40)) 0 .queued).b.toNat ∧ 2 ^ 32 ≤ (command .gath 0 (BitVec.ofNat 64 (2 ^ 32)) 0 .queued).b.toNat ∧
      4096 < (command (.bin false) 0 1 4097 .queued).c.toNat ∧ 64 < (command (.ptch true 0) 0 65 0 .queued).b.toNat) ∧
    (((engined (command (.rlse 3) 0 0 0 .queued)).engine 0).cmds.find? (fun y => y.st == .queued) = some (command (.rlse 3) 0 0 0 .queued) ∧ 3 < 4) ∧
    (r.id.toNat / 2 ^ 32 % 256 = 0 ∧ ((engined r).engine 0).cmds = [r] ∧ r.op ≠ .lnch ∧ (∀ w, w ∈ ws → w.space = 0) ∧ r.ev = false) ∧
    ((engined r).engines = [(0, { (engined r).engine 0 with cmds := [r] })] ∧
      ws.any (fun w : EngWrite => w.space == 0 && w.at' / 128 == 0x200 / 128) = true) ∧
    (r.st ≠ .queued ∧ r.c.extractLsb' 0 32 = 0) ∧
    (copying.group? c.gid).map (·.loads) = some [] := by and_intros <;> decide +kernel
theorem witness_CommandsStartAndComplete_quiet :
    unlogged base 0 0 ∧ offHeaders base 0x200 16 ∧ nothingWaits (copying.plan (command (.cpy false) 0x400 16 0 .queued)).1 :=
  ⟨unlogged_of (by decide +kernel), offHeaders_of (by decide +kernel) _ _, nothingWaits_of (by decide +kernel)⟩
theorem witness_CommandsStartAndComplete_events :
    let one := fun c : Cmd => (engined c).engines = [(0, { (engined c).engine 0 with cmds := [c] })]
    let w : EngWrite := ⟨0, 0x200, [0x11], 0⟩
    (∀ x, x ∈ base.engines → x.2.cmds = []) ∧ one (command (.cpy false) 0 0 0 .queued) ∧ ((engined (command (.rlse 3) 0 0 0 .queued)).core 0).buf = [] ∧
    one (command (.rlse 3) 0 0 0 .queued) ∧ one (command .gath 0 0 0 (.running [w])) ∧ w.space = 0 ∧ w.at' / 128 = 0x200 / 128 ∧
    one (command (.coll .broadcast) 0 0 0 (.running [])) ∧ (command (.coll .broadcast) 0 0 0 (.running [])).c.extractLsb' 0 32 = 0 := by decide +kernel
theorem witness_CommandsStartAndComplete_held :
    (∀ n b, b ∈ ((engined (command .gath 0 0 0 (.running [⟨0, 0x200, [0x11], 0⟩]))).core n).buf → b.held = 0) ∧
    unlogged (engined (command .gath 0 0 0 .queued)) 0 0 ∧ offHeaders (engined (command .gath 0 0 0 .queued)) 0x200 1 ∧
    ∀ g, (engined (command .gath 0 0 0 .queued)).group? base.run.gid = some g → ∀ o, o ∈ g.loads → o.fifo = none :=
  ⟨(nothingWaits_of (s := { base with engines := [] }) (but := none) (by decide +kernel)).2.2, unlogged_of (by decide +kernel),
    offHeaders_of (by decide +kernel) _ _, fun g h o ho => by
      rw [(by decide +kernel : (engined (command .gath 0 0 0 .queued)).group? base.run.gid = some base.run)] at h
      injection h with h
      subst h
      cases ho⟩

/-! ## Hypotheses that hold: system instructions -/

/-- A supervisor with a second context, which `s8` names; a descriptor at 0x2000 with ASID 5, which `s9` names. -/
def supervising (c : Ctx) : State :=
  { withS 8 1 (withS 9 0x2000 base) with
    ctxs := [(0, supCtx), (1, c)]
    mem := Memory.words (Memory.words [] 0x2000 [BitVec.ofNat 64 (5 * 2 ^ 52)]) 0x2038 [0x100] }

/-- The descriptor at 0x2000. -/
def descAt (s : State) : Vector Word 16 := Vector.ofFn fun i => Memory.word s.mem (0x2000 + 8 * i.val)

/-- The context that this descriptor gives. -/
def created : Ctx := { desc := descAt (supervising {}) }

/-- A team of the second context on core 0. -/
def withTeam : State :=
  { supervising {} with
    grids := [(1, { id := 1, roles := [(1, 256)], map := [0], placed := [0] }), (2, { id := 2, ctx := 1, roles := [(1, 8)], map := [0], placed := [0] })]
    teams := [(teamKey 1 0, { grid := 1 }), (teamKey 2 0, { grid := 2 })]
    groups := [(groupId (teamKey 2 0) 0, { gid := groupId (teamKey 2 0) 0, ctx := 1, grid := 2, slot := 5 })] }

theorem witness_ContextsStopSaveAndLive :
    let s := supervising {}
    user.isSup user.run = false ∧ s.isSup s.run = true ∧ s.ctx? 0 2 = none ∧
    ((s.ctx? 0 0).isSome = true ∧ s.run.kind = .compute ∧ s.run.part = 0 ∧ s.run.ctx = 0) ∧
    (s.ctx? 0 1 = some {} ∧ ¬ (s.run.kind = .compute ∧ s.run.part = 0 ∧ s.run.ctx = 1) ∧ (s.run.s[8].extractLsb' 0 6).toNat = 1 ∧
      ({} : Ctx).rwact = false ∧ ({} : Ctx).st = .live ∧ s.run.wait = .none) ∧
    ((supervising { rwact := true }).ctx? 0 1).map (·.rwact) = some true ∧ ((supervising { st := .stopped }).ctx? 0 1).map (·.st) = some .stopped ∧
    (∀ x, x ∈ s.allGroups → ¬ (x.kind = .compute ∧ x.core = 0 ∧ x.slot = 0 ∧ x.part = 0 ∧ x.ctx = 1)) ∧
    (let t := withTeam
     (∃ x, x ∈ t.allGroups ∧ x.kind = .compute ∧ x.core = 0 ∧ x.slot = 5 ∧ x.part = 0 ∧ x.ctx = 1 ∧
       (∀ z, z ∈ t.allGroups → z.core = x.core → z.slot = x.slot → z.teamKey = x.teamKey) ∧ (t.team? x.teamKey).map (·.at') = some .resident ∧
       ((t.grid? 2).map fun y => (y.part, y.ctx)) = some (0, 1))) := by decide +kernel
theorem witness_ContextsStopSaveAndLive_live :
    let s := supervising {}
    let free := { s with ctxs := [(0, supCtx)] }
    let x := descAt free
    (¬ ((0x30 : Nat) < 48) ∧ ¬ (free.partDesc 1).getLsbD 32 = true) ∧ ((0 : Nat) < 48 ∧ (free.partDesc 0).getLsbD 32 = true) ∧ free.ctx? 0 1 = none ∧
    ((0x2000 : Nat) % 128 = 0 ∧ region 0x2000 = .dev ∧ (0x2000 : Nat) < 2 ^ 39 ∧ descOk x = true) ∧
    (∀ c, c ∈ free.ctxs → c.2.desc[0].extractLsb' 52 12 ≠ x[0].extractLsb' 52 12) ∧ (0x2040 : Nat) % 128 ≠ 0 ∧
    (descUpd created.desc x = true ∧ created.rwact = false) ∧ descUpd ({} : Ctx).desc x = false ∧
    ((∀ y, y ∈ s.allGroups → y.kind = .compute → y.part = 0 → y.ctx = 1 → y.run ≠ .stopping) ∧ ({} : Ctx).st = .live) ∧
    { created with st := .stopped }.st ≠ .live ∧
    (∀ z, z ∈ created.fill.toList → 256 * z ≤ s.logHwm created * ({ created with desc := x } : Ctx).segSize) := by decide +kernel

/-- A context that logs, with three windows, the second of which carries a mark and the third is a barrier. -/
def logged : Ctx :=
  { desc := (Vector.replicate 16 0).set 1 0x8000
    windows := [⟨3, false, true, false, [], none, 0⟩, ⟨4, false, true, true, [], none, 0⟩, ⟨5, false, false, false, [], none, 0⟩] }

/-- What the check of a rewind answers: the status, and the windows it would undo. -/
def checked (force : Bool) (v : BitVec 16) : Nat × Nat := match logged.windows.dropWhile (fun y => y.num != v) with
  | [] => (1, 0)
  | y :: ys => (if y.anch = false then 1 else if force = false ∧ (y :: ys).any (·.mark) = true then 2 else 0, ys.length + 1)

theorem witness_SystemInstructions :
    let s := supervising logged
    let c0 := { ctlCore with run := { ctlCore.run with gid := 0, kind := .control 0 } }
    let ask := { ctlCore with run := { ctlCore.run with gid := 18, kind := .scheduler 2 } }
    let change := fun w : Word => { ask with mem := Memory.words [] 0x3000 [w, 0] }
    user.isSup user.run = false ∧ s.isSup s.run = true ∧ s.ctx? 0 2 = none ∧ (supervising {}).ctx? 0 1 = some {} ∧ ({} : Ctx).logs = false ∧
    (s.ctx? 0 1 = some logged ∧ logged.logs = true ∧ logged.rwact = false ∧ { logged with rwact := true }.rwact = true) ∧
    (checked false 9 = (1, 0) ∧ checked false 5 = (1, 1) ∧ checked false 3 = (2, 3) ∧ checked true 3 = (0, 3) ∧ checked true 4 = (0, 2)) ∧
    (let p := { base.run with preempt := true, inHandler := true }
     p.kind = .compute ∧ p.preempt = true ∧ p.inHandler = true) ∧ base.run.preempt = false ∧
    (s.mayConfigure = false ∧ c0.isSup c0.run = true ∧ ask.mayConfigure = true ∧ ask.changeList 0x3000 0 = none ∧
      (ask.changeList 0x3000 256).isSome = true) ∧
    (((change 0).changeList 0x3000 1).map fun es => (match (change 0).changes 0 es with
        | .error e => some e
        | .ok _ => none)) = some (some (1, 0)) ∧
    (((change 0x502).changeList 0x3000 1).map fun es => (match (change 0x502).changes 0 es with
        | .error e => some e
        | .ok _ => none)) = some none ∧
    (base.run.kind = .compute ∧ ctlCore.run.kind ≠ .compute) ∧ (384 ≤ (0x180 : Nat) ∧ 383 < 384) ∧
    (let t := withTeam
     ((t.team? (teamKey 2 0)).map fun x => (x.grid, x.team, x.at', x.core)) = some (2, 0, .resident, 0) ∧ (t.core 0).buf = [] ∧ t.run.core ≠ 1 ∧
       (∀ z, z ∈ t.teams → z.2.core = 1 → z.2.pre = false)) := by decide +kernel

/-! ## Single steps: the matrix engine (R305-R324) -/

/-- The operation of the youngest entry of engine 0. -/
def lastOp (s : State) : Option MxOp := ((s.mx 0).table.getLast?).map (·.op)

theorem test_mlda_posts : (match lastOp (after (.mlda .bf16 0) (allV 31 7 tiled)) with
    | some (.mlda .bf16 rows _) => rows.extractLsb' (1024 * 31) 32 == 7
    | _ => false) = true := by decide +kernel
theorem test_mlda_latch : (after (.mlda .bf16 0) tiled).run.latchIssue = some (some .bf16) := by decide +kernel
theorem test_mma_posts : lastOp (after (.mma .e4m3 false 1 9 11 12) tiled) = some (.mma .e4m3 false 1 (BitVec.ofNat 64 (31 * 2 ^ 19)) 1 0 0 0) := by decide +kernel
theorem test_mma_latch_format : stopCause (.mma .bf16 false 1 9 11 12) { tiled with ctxs := [(0, {})] } = some 0x43 := by decide +kernel
theorem test_mmal_count : (match lastOp (after (.mmal .e4m3 true false 0 1 9 (.imm 3) 11 12) (withS 11 0x400 tiled)) with
    | some (.mma .e4m3 true 1 _ 3 0x400 0 0) => true
    | _ => false) = true := by decide +kernel
theorem test_mmal_count_zero_keeps : (after (.mmal .e4m3 false false 0 1 9 (.imm 0) 11 12) tiled).run.latchIssue = some (some .e4m3) := by decide +kernel
theorem test_mdrn_misaligned : stopCause (.mdrn false false 1 9) { withS 9 0x40 tiled with ctxs := [(0, {})] } = some 0x43 := by decide +kernel
theorem test_mdrn_posts : lastOp (after (.mdrn true true 1 9) tiled) = some (.mdrn true true 1 (BitVec.ofNat 64 (31 * 2 ^ 19))) := by decide +kernel
theorem test_mfil_latch : (after (.mfil true true 1 9) tiled).run.latchIssue = some none := by decide +kernel
theorem test_mzro_grant : (let t := after (.mzroGrant ⟨0, 3⟩) { base with matrix := [(0, { grants := [⟨7, [0, 2], {}, none⟩] })] }
    (t.run.word, (t.mx 0).grants.map (·.tiles))) = (1, [[0, 2], [1, 3, 4]]) := by decide +kernel
theorem test_mzro_grant_waits : (after (.mzroGrant ⟨0, 15⟩) { base with matrix := [(0, { grants := [⟨7, [0, 2], {}, none⟩] })] }).run.wait = .grant 15 := by decide +kernel
theorem test_mzro_beyond_grant : stopCause (.mzro 2) { tiled with ctxs := [(0, {})] } = some 0x43 := by decide +kernel
theorem test_mzro_pass : ((((queued (.mzro 1)).runPass 0 (entry tiled.run (.mzro 1))).1.mx 0).tiles[5], (((queued (.mzro 1)).runPass 0 (entry tiled.run (.mzro 1))).1.mx 0).table) =
    (0, []) := by decide +kernel
theorem test_msts_stride : stopCause (.msts .f32 false true 1 9 11) { withS 11 ((64 : Word) <<< 32) tiled with ctxs := [(0, {})] } = some 0x43 := by decide +kernel
theorem test_msts_posts : lastOp (after (.msts .e4m3 true true 0 9 11) (withS 11 ((64 : Word) <<< 32) tiled)) =
    some (.msts .e4m3 true true 0 (BitVec.ofNat 64 (31 * 2 ^ 19)) ((64 : Word) <<< 32)) := by decide +kernel
theorem test_mscl_posts : lastOp (after (.mscl true 9 (.imm 4) 12) (withS 12 7 tiled)) = some (.mscl true (BitVec.ofNat 64 (31 * 2 ^ 19)) 4 7) := by decide +kernel
theorem test_mrel_pass : (((queued .mrel).runPass 0 (entry tiled.run .mrel)).1.mx 0).grants = [] := by decide +kernel
theorem test_mrel_no_grant : stopCause .mrel user = some 0x43 := by decide +kernel
theorem test_msta_status : sAfter (.msta false true 6) marked 6 = 0x0203 := by decide +kernel
theorem test_msta_clears : (let t := after (.msta true false 6) { tiled with run := { tiled.run with mxc := Vector.ofFn fun i => BitVec.ofNat 16 (i.val + 1) } }
    (t.run.s[6], t.run.mxc)) = (0x0004000300020001, Vector.replicate 4 0) := by decide +kernel
/-- 2 × 3 with a row scale of 1/2 and a tensor scale of 4, added to 1: 13. -/
theorem test_step_element : stepElem [.fin false 2 0] [.fin false 3 0] (.fin false 1 (-1)) (.fin false 1 2) (.fin false 1 0) = (0x41500000, 0) := by decide +kernel

/-! ## Single steps: engine commands (R292-R303) -/

/-- Engine, operation and operands of the youngest command of an engine. -/
def lastCmd (s : State) (e : Nat) : Option (CmdOp × Word × Word × Word) := ((s.engine e).cmds.getLast?).map fun c => (c.op, c.a, c.b, c.c)

def abc : State := withS 7 7 (withS 8 8 (withS 9 9 base))

theorem test_cpy_posts : (let t := after (.cpy true false false 0 6 (.s 7) (.s 8) 0) abc
    (t.run.s[6], lastCmd t 0)) = (1, some (.cpy true, 7, 8, 0)) := by decide +kernel
theorem test_gath_holds : (let t := after (.gath false true 3 6 (.s 7) (.s 8) (.s 9) 0) abc
    ((t.engine 0).cmds, (Tbl.get [] t.patch (4 * abc.run.teamKey + 3)).map (·.op))) = ([], [.gath]) := by decide +kernel
theorem test_scat_posts : lastCmd (after (.scat true false 0 6 (.s 7) (.s 8) (.s 9) 5) abc) 0 = some (.scat, 7, 8, 9) := by decide +kernel
theorem test_bin_engine : (let t := after (.bin true true 6 (.s 7) (.s 8) (.s 9) 5) abc
    (t.run.s[6], lastCmd t 0x40)) = (0x4000000001, some (.bin true, 7, 8, 9)) := by decide +kernel
theorem test_ptch_posts : lastCmd (after (.ptch true false 2 6 (.s 7) (.s 8) (.s 9) 5) abc) 0x40 = some (.ptch true 2, 7, 8, 9) := by decide +kernel
theorem test_rlse_posts : lastCmd (after (.rlse false 2 6 5) abc) 0x40 = some (.rlse 2, 0, 0, 0) := by decide +kernel
theorem test_coll_engine : lastCmd (after (.coll .broadcast false 6 (.s 7) (.s 8) (.s 9) 5) abc) 0x50 = some (.coll .broadcast, 7, 8, 9) := by decide +kernel
theorem test_lnch_engine : lastCmd (after (.lnch false 6 (.s 7) 5) abc) 0x58 = some (.lnch, 7, 0, 0) := by decide +kernel
theorem test_ecan_queued : (let t := after (.ecan 6 (.s 4) 0) { engined (command (.cpy false) 0 16 0 .queued) with run := (withS 4 1 base).run }
    (t.run.wait, (t.engine 0).cmds)) = (.answer 6 0, []) := by decide +kernel
theorem test_ecan_unknown : (after (.ecan 6 (.s 4) 0) (withS 4 9 base)).run.wait = .answer 6 2 := by decide +kernel
theorem test_ecan_slot : (let t := after (.ecanSlot 3 6 0) base
    (t.run.wait, (t.engine 0x40).cmds.map (·.op))) = (.ecanSlot 6 3, [.ecanSlot 3 base.run.gid 6]) := by decide +kernel
theorem test_ecan_answer : sAfter (.ecanAnswer base.run.gid) { base with run := { base.run with wait := .answer 6 2 } } 6 = 2 := by decide +kernel
/-- The copy runs and its bytes reach their places when it completes. -/
theorem test_copy_moves : Memory.word (after (.asyncCommandComplete 1) (after (.engineCommandStart 0) copying)).mem 0x208 = 0xFFEEDDCCBBAA9988 := by decide +kernel
theorem test_collective_times_out : ((after (.collJoinTimeout 0 0) (engined (command (.coll .broadcast) 0 0 0 (.running [])))).engine 0).cmds = [] := by decide +kernel

/-! ## Single steps: system instructions (R273, R332, R340, R395-R402) -/

theorem test_tlbi_waits : (after (.tlbiRng 8 9) (withS 8 0x5000 (withS 9 0x500000000C base))).run.wait = .tlbi 0 0x5000 4096 0x50 := by decide +kernel
theorem test_tlbi_user : stopCause .tlbiAll user = some 4 := by decide +kernel
theorem test_tlbi_asid : (after (.tlbiAsid 9) (withS 9 0x700000000 base)).run.wait = .tlbi 1 0 0 7 := by decide +kernel
theorem test_ctxs_stop_waits : (after (.ctxsStop 6 8) (supervising {})).run.wait = .stop 6 0 1 := by decide +kernel
theorem test_ctxs_stop_own : sAfter (.ctxsStop 6 8) (withS 8 0 (supervising {})) 6 = 5 := by decide +kernel
theorem test_ctxs_save : (let t := after (.ctxsSave 6 8) withTeam
    (t.run.s[6], (t.team? (teamKey 2 0)).map (·.at'))) = (0, some (.saved false)) := by decide +kernel
theorem test_ctxs_evict_free : sAfter (.ctxsEvict 6 8) (withS 8 2 (supervising {})) 6 = 1 := by decide +kernel
theorem test_ctxs_team : ((after (.ctxsTeam 6 8 9) (withS 9 0xA00 withTeam)).team? (teamKey 2 0)).map (·.at') = some (.saved false) := by decide +kernel
theorem test_ctxl_create : (let t := after (.ctxlCreate 6 8 9) { supervising {} with ctxs := [(0, supCtx)] }
    (t.run.s[6], (t.ctx? 0 1).map (·.desc[7]))) = (0, some 0x100) := by decide +kernel
theorem test_ctxl_create_live : sAfter (.ctxlCreate 6 8 9) (supervising {}) 6 = 2 := by decide +kernel
theorem test_ctxl_upd : sAfter (.ctxlUpd 6 8 9) (supervising created) 6 = 0 ∧ sAfter (.ctxlUpd 6 8 9) (supervising {}) 6 = 3 := by decide +kernel
theorem test_ctxl_resume : ((after (.ctxlResume 6 8) (supervising { st := .stopped })).ctx? 0 1).map (·.st) = some .live := by decide +kernel
theorem test_ctxl_kill : (after (.ctxlKill 6 8) (supervising {})).ctx? 0 1 = none := by decide +kernel
theorem test_ctxl_eres : ((after (.ctxlEres 6 8) { supervising {} with engines := [(0, { cmds := [{ command .gath 0 0 0 .heldFault with ctx := 1 }] })] }).engine 0).cmds.map (·.st) =
    [.queued] := by decide +kernel
theorem test_ctxl_efail : ((after (.ctxlEfail 6 8) { supervising {} with engines := [(0, { cmds := [{ command .gath 0 0 0 .heldFault with ctx := 1 }] })] }).engine 0).cmds = [] := by
  decide +kernel
theorem test_rwnd_waits : (let t := after (.rwnd true 6 8 9) (withS 9 3 (supervising logged))
    (t.run.wait, (t.ctx? 0 1).map (·.st))) = (.rewind 6 0 1 3, some .stopped) := by decide +kernel
theorem test_rwnd_chk : sAfter (.rwndChk 6 8 9) (withS 9 3 (supervising logged)) 6 = 0x30002 := by decide +kernel
theorem test_rwnd_cmt : (let t := after (.rwndCmt 6 8) (supervising logged)
    (t.run.s[6], (t.ctx? 0 1).map fun c => c.windows.map (·.num))) = (0x30000, some [6]) := by decide +kernel
theorem test_prack_acknowledges : (let s := { withS 8 0x1FF base with run := { (withS 8 0x1FF base).run with preempt := true, inHandler := true } }
    (after (.prack true 8) s).run.run) = .acked 256 true := by decide +kernel
theorem test_prack_elsewhere : stopCause (.prack true 8) user = some 2 := by decide +kernel
theorem test_pcfg_not_allowed : sAfter (.pcfg 6 8 9) base 6 = 6 := by decide +kernel
theorem test_halt_compute : stopCause .halt { base with ctxs := [(0, {})] } = some 4 := by decide +kernel
theorem test_halt_control : (after .halt ctlCore).run.run = .off := by decide +kernel
theorem test_halt_off : ((after (.haltOff 6 8) (withS 8 7 base)).core 7).inService = false := by decide +kernel
theorem test_halt_on_range : sAfter (.haltOn 6 8) (withS 8 384 base) 6 = 1 := by decide +kernel

/-! ## Hypotheses that hold: events of the device -/

/-- The running group waits. -/
def waiting (w : Wait) : State := { loads with run := { loads.run with wait := w } }

/-- An exact cell of grid 1 at 0x140. -/
def cellOf (grid : Nat) : Cell := ⟨0x140, .f32, ⟨3 * 2 ^ 149, 0⟩, 0x3F800000, grid⟩

theorem witness_WaitsEndAndLoadsDeliver :
    let in_ := fun s : State => s.group? base.run.gid = some s.run ∧ s.run.gid = base.run.gid
    (waiting .none).memOk ∧
    (in_ (waiting (.nap 0)) ∧ 0 ≤ base.time) ∧
    (let s := waiting (.evwt true false false false 0x100 0x44332211 6 0 (some 0) false)
     in_ s ∧ s.run.core ≠ 2 ^ 16 ∧ (0x100 : Word).toNat % 4 = 0 ∧ s.evwtHold s.run = .go ∧ pageOk { s with active := true, run := s.run } .rd 0x100 4 0x100 = true ∧
      leNat ((List.range 4).map fun i => s.coreByte 0 (0x100 + i)) = 0x44332211 ∧ (0x44332211 : Nat) ≠ 0x44332212 % 2 ^ 32 ∧ 0 ≤ s.time) ∧
    (let s := { scratch with run := { scratch.run with wait := .evwt true false true false (31 * 2 ^ 19) 0 6 0 none true } }
     in_ s ∧ (31 * 2 ^ 19) % 4 = 0 ∧ s.spadByte s.run (31 * 2 ^ 19) = some (0x400, s.run.teamKey) ∧ (s.spadByte s.run (31 * 2 ^ 19 + 3)).isSome = true) ∧
    in_ (waiting (.stackAccess true)) ∧ in_ (waiting (.answer 6 2)) ∧
    (in_ (waiting (.tlbi 1 0 0 5)) ∧ (waiting .none).engines = [] ∧ ∀ c, c ∈ (waiting .none).cores → c.2.buf = []) ∧
    (in_ (waiting .flushx) ∧ (waiting .flushx).slices = []) ∧
    (let s := { waiting .flushx with slices := [(3, { cells := [cellOf 1] })] }
     in_ s ∧ (cellOf 1).grid = s.run.grid ∧ (s.grid? s.run.grid).isSome = true ∧ (cellOf 1).fmt = .f32) ∧
    (let s := { banked { mode := .fifo, entries := List.replicate 127 0 } with run := (waiting (.fqput 0 7 5)).run }
     in_ s ∧ (s.bank 0 7).entries.length < 128 ∧ 7 < 48 ∧ (s.allGroups.filter fun y => y.wait == .fqput 0 7 5) = [s.run]) ∧
    (let s := { waiting (.eqrd 6) with clusters := [(0, { queue := [5] })] }
     in_ s ∧ (s.cluster s.run.cluster).queue = [5] ∧ (s.allGroups.filter fun y => y.wait == .eqrd 6) = [s.run]) ∧
    (let s := waiting (.evps 0 6 7)
     in_ s ∧ (s.cluster 0).queueRoom = true ∧ (s.allGroups.filter fun y => y.wait != .none) = [s.run] ∧ s.engines = []) := by
  refine ⟨⟨by decide +kernel, by decide +kernel⟩, ?_⟩
  decide +kernel
theorem witness_WaitsEndAndLoadsDeliver_flush :
    let s := { waiting .flushx with slices := [(3, { cells := [cellOf 1] })] }
    unlogged s 0 0 ∧ nothingWaits s ∧ offHeaders s 0x140 4 :=
  ⟨unlogged_of (by decide +kernel), nothingWaits_of (by decide +kernel), offHeaders_of (by decide +kernel) _ _⟩

/-- The running group with one outstanding operation. -/
def loading (d : LoadDst) (f : Option (Nat × Nat)) : State :=
  { base with run := { base.run with loads := [⟨9, d, 3, 15, f, [], 0⟩], cf := base.run.cf.set 3 ⟨true, 1⟩ } }

theorem witness_WaitsEndAndLoadsDeliver_loads :
    let alone := fun s : State => ∀ x, x ∈ s.allGroups → (x.loads.any fun y => y.id == 9) = true → x = s.run
    (let s := loading (.sca 6 7) none
     s.group? s.run.gid = some s.run ∧ s.run.loads = [⟨9, .sca 6 7, 3, 15, none, [], 0⟩] ∧ alone s ∧ s.run.run ≠ .ended) ∧
    (let s := loading .none none
     s.group? s.run.gid = some s.run ∧ alone s) ∧
    (let s := loading (.vec 255 0xFF [7]) none
     s.group? s.run.gid = some s.run ∧ alone s ∧ s.run.core ≠ 2 ^ 16 ∧ (255 : BitVec 8).toNat + 1 ≤ 256) ∧
    (let s := { loading (.vec 8 0xFF [7]) (some (0, 7)) with clusters := (banked { mode := .fifo, entries := [5] }).clusters }
     s.group? s.run.gid = some s.run ∧ alone s ∧ 7 < 48 ∧ (s.bank 0 7).entries = [5]) := by decide +kernel

/-- Core 0 with one buffer entry: bytes 0 and 31 of the sector at 0x100. -/
def buffered : State := { base with cores := [(0, { buf := [⟨0x100, 0x80000001, 0x5A#256 <<< 248 ||| 0xA5, 0, 0, 1, 0, .dflt⟩] })] }

/-- Whether a walk installs its translation. -/
def walks (s : State) (va : Nat) (acc : Access) (user : Bool) : Bool := match s.walkInstall 0 0 0 va acc user with
  | (_, .ok _) => true
  | _ => false

/-- An engine whose MMA waits for a scale of tensor 0, whose descriptor is at 0x600: two rows and two columns of scales at 0x700. -/
def scaling : State :=
  let c : Ctx := { desc := ((Vector.replicate 16 0).set 3 0x600).set 4 1 }
  { base with
    ctxs := [(0, c)]
    mem := tables (Memory.words [] 0x600 [0x700, 0x20002])
    matrix := [(0, { table := [{ entry base.run (.mma .e4m3 false 0 0 1 0 0 0) with scaleWait := true }] })] }

def scaleComes (s : State) (x : MxEntry) : Bool := match s.scaleNum x .e4m3 0 0 with
  | (s1, .ok (num, b)) => decide (((s1.mx 0).scales.countP fun y => y.num % 512 == num % 512) < 8) && (match s1.loadScale 0 x 0 num b [] with
    | (_, .ok _) => true
    | _ => false)
  | _ => false

theorem witness_UnitsWork :
    (base.memOk) ∧ ((buffered.core 0).buf[0]? = some ⟨0x100, 0x80000001, 0x5A#256 <<< 248 ||| 0xA5, 0, 0, 1, 0, .dflt⟩ ∧
      (buffered.core 0).buf.take 0 = [] ∧ 0x100 % 32 = 0) ∧
    (base.core 0).buf = [] ∧
    (let s := { base with mem := tables [] }
     s.ctxs = [(64 * 0 + 0, supCtx)] ∧ supCtx.desc[0].extractLsb' 52 12 = BitVec.ofNat 12 0 ∧ walks s 0x1000 .wr (!(supCtx.desc[10].getLsbD 51)) = true ∧
      walks s 0x1000 .rd (!(supCtx.desc[10].getLsbD 51)) = true) ∧
    (((banked { st := .pending .fifo false }).bank 0 7).st = .pending .fifo false ∧ 7 < 48) ∧
    (((banked { st := .pending .fifo true }).bank 0 7).st = .pending .fifo true ∧ (banked { st := .pending .fifo true }).bankFree 0 7 = true) ∧
    ((banked { st := .convert .fifo none }).bank 0 7).st = .convert .fifo none ∧
    ((((queued (.mzro 1)).mxRefresh 0).mxChoose 0).isSome = true ∧ ((queued (.mzro 1)).core 0).buf = []) ∧
    (((scaling.mx 0).table.find? (·.scaleWait)).isSome = true ∧ scaleComes scaling { entry base.run (.mma .e4m3 false 0 0 1 0 0 0) with scaleWait := true } = true) ∧
    (let s := { base with matrix := [(0, { grantQ := [(base.run.gid, 16)] })] }
     (s.mx 0).grantQ = [(base.run.gid, 16)] ∧ 16 ≤ (s.mx 0).free.length ∧ s.group? base.run.gid = some s.run) := by
  refine ⟨⟨by decide +kernel, by decide +kernel⟩, ?_⟩
  decide +kernel
theorem witness_UnitsWork_quiet :
    nothingWaits buffered ∧ unlogged buffered 0 0 ∧ offHeaders buffered 0x100 32 ∧ nothingWaits (queued (.mzro 1)) ∧ nothingWaits scaling :=
  ⟨nothingWaits_of (by decide +kernel), unlogged_of (by decide +kernel), offHeaders_of (by decide +kernel) _ _,
    nothingWaits_of (by decide +kernel), nothingWaits_of (by decide +kernel)⟩

/-- Stream 4 in state RUNNING of a live context, with a log of 16 slots at 0x1000 and a completion log of 16 at 0x2000, NEXTSEQ 1, and the
packet `ws` in its slot. -/
def streaming (ws : List Word) (taken : List Taken) : State :=
  { base with
    mem := Memory.words [] 0x1040 (ws.map id)
    streams := [(4, { w0 := BitVec.ofNat 64 (4 * 2 ^ 58 + 0x1000), w1 := BitVec.ofNat 64 (4 * 2 ^ 58 + 0x2000), w2 := BitVec.ofNat 64 (2 ^ 32 + 2 ^ 30), awake := true, taken := taken })] }

/-- Word 0 of a packet of kind `k` in the slot of sequence number 1. -/
def head (k : Nat) : Word := BitVec.ofNat 64 (2 ^ 32 + k * 2 ^ 24)

/-- What a launch answers: its status, or that it runs. -/
def launched (s : State) (ws : List Word) : Option (Option Nat) := match s.launch ws 0 0 4 1 0 none 0 with
  | (_, .error st) => some (some st)
  | (_, .ok _) => some none

/-- A launch of one team of one group of budget 8, mapped to core 0 by the map at 0x700, from the entry 24. -/
def launchWords : List Word := [head 1 ||| 0x400000, 24, 0, 0x700, 0, 0, 0, 0]

theorem witness_StreamsTakePacketsAndRecord :
    let x := fun k => (streaming [head k] []).stream 4
    ((x 0).state = 1 ∧ (Memory.word (streaming [head 0] []).mem (x 0).slot).extractLsb' 32 32 = BitVec.ofNat 32 (x 0).nextSeq) ∧
    ((streaming [head 0] []).canTake (x 0) = true ∧ (((streaming [head 0] []).packet (x 0)).getD 0 0).extractLsb' 24 8 = 0) ∧
    ((streaming [head 4] []).canTake (x 4) = true ∧ 4 ≤ ((((streaming [head 4] []).packet (x 4)).getD 0 0).extractLsb' 24 8).toNat) ∧
    ((streaming [head 2] []).canTake (x 2) = true ∧ (streaming [head 2] []).badWait (x 2) ((streaming [head 2] []).packet (x 2)) = false ∧
      (streaming [head 2 ||| 0x1000] []).badWait (x 2) [head 2 ||| 0x1000] = true) ∧
    ((streaming [head 3] []).canTake (x 3) = true ∧ (x 3).readyMark = none) ∧
    ((streaming [head 1] []).canTake (x 1) = true ∧ (x 1).heldLaunch = none ∧ (streaming [head 1] []).autoDue 0 0 = false) := by decide +kernel
theorem witness_StreamsTakePacketsAndRecord_work :
    let x := fun (t : Taken) => (streaming [] [t]).stream 4
    (x { seq := 1, words := [head 3] }).readyMark = some { seq := 1, words := [head 3] } ∧
    ((x { seq := 1, words := [head 2, 0] }).heldWait = some { seq := 1, words := [head 2, 0] } ∧ (0 - 0 : Int) % 2 ^ 32 < 2 ^ 31) ∧
    ((x { seq := 1, words := [head 1] }).heldLaunch = some { seq := 1, words := [head 1] } ∧ (streaming [] []).schedules = true ∧
      ((streaming [] []).ctx? 0 0).map (fun c => (c.st, c.rewound)) = some (.live, none) ∧ (head 1).getLsbD 18 = false ∧
      (head 1 ||| 0x40000).getLsbD 18 = true ∧ (x { seq := 1, words := [head 1] }).taken.head?.any (·.seq == 1) = true) ∧
    launched (streaming [] []) [head 1 ||| 1] = some (some 1) ∧ launched { base with mem := tables [] } launchWords = some none ∧
    (let y := x { seq := 1, words := [head 0], done := some (0, 1) }
     y.nextDone = some ({ seq := 1, words := [head 0], done := some (0, 1) }, 0) ∧ base.dev.upd = false ∧ base.dev.statbase.getLsbD 0 = false ∧ 1 < 2 ^ 32) ∧
    (State.reset.dev.ready = false ∧ base.dev.ready = true) ∧
    ((streaming [] []).stream 4).state = 1 ∧ (base.stream 4).state = 0 ∧
    (let w := ((streaming [] []).stream 4).w0
     4 ≤ (w.extractLsb' 58 6).toNat ∧ (w.extractLsb' 0 52).toNat % (64 * 2 ^ (w.extractLsb' 58 6).toNat) = 0x0 ∧ region (w.extractLsb' 0 52).toNat = .dev) := by
  decide +kernel
theorem witness_StreamsTakePacketsAndRecord_quiet : (streaming [] []).memOk ∧ unlogged (streaming [] []) 0 0 ∧ nothingWaits (streaming [] []) :=
  ⟨⟨by decide +kernel, by decide +kernel⟩, unlogged_of (by decide +kernel), nothingWaits_of (by decide +kernel)⟩

/-- A grid of two teams of one group on core 0 of a context with an image slot, nothing resident. -/
def placing : State :=
  let c : Ctx := { desc := (Vector.replicate 16 0).set 7 1 }
  { base with
    active := false, ctxs := [(0, c)], teams := [], groups := [], run := {}
    grids := [(2, { id := 2, roles := [(1, 8)], map := [0, 1], teams := 2, alone := true })] }

/-- A team of grid 2 with its group. -/
def residing (t : Team) (g : Group) : State :=
  { placing with teams := [(teamKey 2 0, { t with grid := 2 })], groups := [(groupId (teamKey 2 0) 0, { g with gid := groupId (teamKey 2 0) 0, grid := 2 })] }

/-- A partition of two pipes of core 0 with a group of budgets 32 and 64 in each, so that a team whose group has budget 256 fits in neither. -/
def crowded : State :=
  let wanted : Grid := { id := 3, roles := [(1, 256)], map := [0], teams := 1 }
  { placing with
    dev := { placing.dev with quota := [(0, BitVec.ofNat 64 (512 * 2 ^ 33 + 2 * 2 ^ 18 + 4 * 2 ^ 6))] }
    grids := [(3, wanted)]
    groups := [(100, { gid := 100, slot := 0, budget := 32 }), (101, { gid := 101, slot := 2, budget := 64 })] }

theorem witness_TeamsComeAndGo :
    (let g : Grid := { id := 2, roles := [(1, 8)], map := [0, 1], teams := 2, alone := true }
     placing.grid? 2 = some g ∧ g.id = 2 ∧ placing.team? (teamKey 2 0) = none ∧ (placing.roomFor g 0).isSome = true ∧ placing.firstAt g 0 = true ∧ g.coop = false) ∧
    ((crowded.group? 100).map (fun x => (x.gid, x.core, x.clause.isNone)) = some (100, 0, true) ∧ (crowded.group? 100).map (·.run) = some .ready ∧ crowded.grid? 0 = none ∧
      ((crowded.rivals 0).find? fun r => r.1.part == 0 && crowded.fragmentedFor 0 r.1 r.2).map (fun r => (r.1.id, r.2, (crowded.nextMove 0 r.1 r.2).map fun m =>
        (m.1.slot, m.2))) = some (3, 0, some (0, 1)) ∧
      (crowded.quota 0 0).row0 ≤ 1 ∧ 1 < (crowded.quota 0 0).row0 + (crowded.quota 0 0).rowN ∧ 1 ≠ 0 / 2 ∧
      (freeSlot (crowded.quota 0 0) ((crowded.heldOn 0).filter (·.slot != 0)) 1).isSome = true ∧
      (freeBlock ((crowded.heldOn 0).filter (·.slot != 0)) 1 32).isSome = true) ∧
    (residing {} { run := .ended }).canRetire (teamKey 2 0) = true := by decide +kernel
theorem witness_TeamsComeAndGo_ends :
    (let g : Grid := { id := 2, roles := [(1, 8)], map := [0, 1], teams := 2, retired := [0, 1] }
     placing.gridDone g = true ∧ placing.slices = [] ∧ g.lnch = none) ∧
    (let s := residing {} {}
     (s.team? (teamKey 2 0)).map (fun y => (y.at', y.grid)) = some (.resident, 2) ∧ ((s.grid? 2).map (·.marking)) = some false ∧
       (s.desc 0 0)[9].extractLsb' 3 53 = 0 ∧ (s.core 0).buf = []) ∧
    ((residing { saveDue := some true } {}).team? (teamKey 2 0)).map (fun y => (y.at', y.saveDue, y.core)) = some (.resident, some true, 0) ∧
    (((8 : Word).extractLsb' 3 53 ≠ 0) ∧ (base.core 0).holdFlue = false ∧ (base.core 0).holdClus = false) ∧
    (let s := residing { pre := true } { preempt := true, run := .acked 8 false }
     (s.team? (teamKey 2 0)).map (fun y => (y.pre, y.saveDue)) = some (true, none) ∧ (s.core 0).buf = [] ∧
       ∀ x, x ∈ s.allGroups → ¬ (x.preempt = true ∧ (x.run = .ready ∨ x.run = .stopping))) ∧
    (let s := residing { pre := true, budgetAt := some 0 } { preempt := true }
     (s.team? (teamKey 2 0)).map (·.budgetAt) = some (some 0) ∧ 0 ≤ s.time ∧ ∃ x, x ∈ s.allGroups ∧ x.preempt = true ∧ x.run = .ready ∧ x.wait = .none) := by
  decide +kernel

/-- A compute group at the clause at 16, with the pages of its core. -/
def selecting (g : Group) : State :=
  { base with active := false, run := {}, groups := [(40, { g with gid := 40, pc := 16 })], mem := Memory.words [] 16 [0xA00001FE00000000] }

/-- What a fetch gives. -/
def fetches (s : State) : Option Clause := match s.nextClause.2 with
  | .ok c => some c
  | _ => none

theorem witness_ClauseSelectEnters :
    (let g : Group := { gid := 40, pc := 16, clause := some ⟨0, {}, [0]⟩ }
     (selecting g).active = false ∧ (selecting g).readyOn 0 0 = [(g, .inside)] ∧ Tbl.find (selecting g).groups 40 = some g) ∧
    (let g : Group := { gid := 40, pc := 16 }
     (selecting g).readyOn 0 0 = [(g, .enter)] ∧ (fetches (((selecting g).chosen g []).load { g with passed := 0 })).isSome = true ∧ g.resume = none) ∧
    (let s := { placing with teams := [(teamKey 2 0, { grid := 2, core := 1 })], grids := [(2, { id := 2, map := [1], placed := [0], alone := true })] }
     s.teamsOn 0 = [] ∧ (s.teamsOn 1).head? = some { grid := 2, core := 1 } ∧ (s.grid? 2).map (·.alone) = some true ∧ s.rivals 0 = []) := by decide +kernel

/-- A group that leaves a clause fetches the next one, and enters it as it was then (R72). -/
theorem test_fetch_ahead :
    let s := { selecting {} with active := true, run := { gid := 40, pc := 16 }, groups := [] }
    let t := { s.leave with mem := [] }
    (Tbl.find s.leave.groups 40).bind (·.ahead) = some ⟨16, { seta := 15, setb := 15 }, [0]⟩ ∧
      (after (.clauseSelect 0 0) t).run.clause = some ⟨16, { seta := 15, setb := 15 }, [0]⟩ := by decide +kernel

/-- A context that logs to 0x100000, with 64 records of segment 2 gathered at time 0. -/
def bursting (n : Nat) : State :=
  let c : Ctx := { desc := ((Vector.replicate 16 0).set 1 0x108000).set 2 16, bursts := [(2, (List.range n).map (BitVec.ofNat 512), 0)] }
  { base with ctxs := [(0, c)], time := 10000 }

/-- A context that logs, whose last command has completed, with no grid. -/
def resting : State := { base with active := false, run := {}, grids := [], ctxs := [(0, { logged with bound := true })], time := 2 ^ 40 }

/-- A grid whose one group waits at its marker. -/
def atMarker (c : Ctx) : State :=
  let g : Grid := { id := 2, roles := [(1, 8)], map := [0], placed := [0], teams := 1, coop := true, marked := [groupId (teamKey 2 0) 0] }
  { residing {} { wait := .wmark 6 } with grids := [(2, g)], ctxs := [(0, c)] }

theorem witness_WindowsOpen :
    ((bursting 64).memOk) ∧ ((bursting 64).ctxs.map (·.1) = [64 * 0 + 0] ∧ 64 ≤ ((List.range 64).map (BitVec.ofNat 512)).length) ∧
    (0 + 10000 ≤ (bursting 1).time ∧ (List.range 1).map (BitVec.ofNat 512) ≠ []) ∧
    (resting.ctx? 0 0 = some { logged with bound := true } ∧ resting.autoDue 0 0 = true ∧
      ∀ z, z ∈ logged.fill.toList → 256 * z ≤ resting.logHwm { logged with bound := true } * ({ logged with bound := true } : Ctx).segSize) ∧
    (((atMarker {}).grid? 2).map (fun x => (x.id, x.part, x.ctx, (atMarker {}).markReady x)) = some (2, 0, 0, true) ∧ ({} : Ctx).logs = false) ∧
    ((atMarker logged).ctx? 0 0 = some logged ∧ logged.rwact = false ∧ logged.logs = true ∧
      ((atMarker logged).grid? 2).map (fun x => (atMarker logged).markReady x) = some true) := by
  refine ⟨⟨by decide +kernel, by decide +kernel⟩, ?_⟩
  decide +kernel

/-- A rewind to window 4 in progress, which control core 0 waits for. -/
def rewinding : State :=
  { base with
    active := false, run := {}, grids := [], teams := []
    ctxs := [(0, { logged with rwact := true, st := .stopped, rewound := some (4, 0) })]
    groups := [(0, { gid := 0, kind := .control 0, wait := .rewind 6 0 0 4 })] }

/-- A record of the sector at 0x200 in window 4 that saved bytes 7. -/
def saved : BitVec 512 := mkLogRec 7 0 0xFFFFFFFF 4 0 0 0x200

theorem witness_RewindsAndRecoveriesRestore :
    let s := rewinding
    s.memOk ∧
    ((s.ctx? 0 0).map (fun c => (c.rewound, (c.windows.dropWhile (fun y => y.num != BitVec.ofNat 16 4)).map (fun w => (w.num, w.snap.isNone)))) =
        some (some (4, 0), [(4, true), (5, true)]) ∧ 0 ≠ 20 ∧ s.runsIn 0 0 = false ∧
      (s.ctx? 0 0).map (·.rwact) = some true ∧ (∀ x, x ∈ s.cores → x.2.buf = []) ∧
      (s.group? 0).map (fun g => (g.gid, g.kind, g.wait)) = some (0, .control 0, .rewind 6 0 0 4)) ∧
    (recPa saved % 32 = 0 ∧ recKindLog saved = 0 ∧ recWin saved = 4 ∧ recPa saved = 0x200) := by
  refine ⟨⟨by decide +kernel, by decide +kernel⟩, ?_⟩
  decide +kernel
theorem witness_RewindsAndRecoveriesRestore_errors :
    let held : State := { base with ctxs := [(0, { orders := [(3, [(0, 0, 0)])], orderAt := [(3, 0)] })], time := 1000000 }
    let stopping : State := { rewinding with ctxs := [(0, { stopReq := true })], groups := [(0, { gid := 0, kind := .control 0, wait := .stop 6 0 0 })] }
    (held.ctxs.map (·.1) = [64 * 0 + 0] ∧ held.ctxs.map (·.2.orders) = [[(3, [(0, 0, 0)])]] ∧ held.ctxs.map (fun c => (c.2.st, Tbl.find c.2.orderAt 3)) = [(.live, some 0)] ∧
      0 + 1000000 ≤ held.time) ∧
    (stopping.packetsDone 0 0 = true ∧ stopping.runsIn 0 0 = false ∧ stopping.residentTeams 0 0 = [] ∧
      (Tbl.find stopping.groups 0).map (·.wait) = some (.stop 6 0 0) ∧ stopping.ctxs.map (fun c => (c.2.st, c.2.stopReq)) = [(.live, true)]) := by
  and_intros <;> decide +kernel
theorem witness_RewindsAndRecoveriesRestore_windows :
    let mark : Ctx := { logged with windows := [⟨4, false, true, false, [], none, 0⟩] }
    (mark.logs = true ∧ mark.rwact = false ∧ mark.curWin = 4 ∧ (mark.windows.dropWhile (fun y => y.num != mark.curWin)).map (fun w => (w.anch, w.mark)) = [(true, false)]) ∧
    ({} : Ctx).logs = false ∧
    (([(0, saved)] : List (Nat × BitVec 512)).reverse.find? fun r => recKindLog r.2 == 0 && recPa r.2 == 0x220 / 32 * 32) = none ∧
    (([(0, saved)] : List (Nat × BitVec 512)).reverse.find? fun r => recKindLog r.2 == 0 && recPa r.2 == 0x21F / 32 * 32) = some (0, saved) := by decide +kernel
theorem witness_BalanceSamplesAndDampers :
    let x : Core := { flueD := ⟨4, some 0⟩ }
    (0 % 50 = 0 ∧ 7 % 50 ≠ 0 ∧ (base.cluster 0).sampledAt ≠ some 0) ∧ (x.flueD.tick.any (fun z => decide (z ≤ 0)) = true ∧ x.holdFlue = false) ∧ (({} : Core).flueD.tick.any (fun z => decide (z ≤ 0)) = false) := by decide +kernel

/-- A core whose group's context has a sample ring of 2^12 bytes at 0x3000 and samples every 1,024 cycles, which at 1,500 MHz first pass in
nanosecond 683. -/
def sampled : State :=
  let c : Ctx := { desc := ((Vector.replicate 16 0).set 10 0xA00000000000).set 11 0x300C }
  { base with ctxs := [(0, c)], active := false, run := {}, groups := [(base.run.gid, { base.run with clause := none })], time := 683 }

theorem witness_ClocksTemperatureAndSamples :
    (({ ceil := 1500, freq := 2100 } : Cluster).ceil < ({ ceil := 1500, freq := 2100 } : Cluster).freq) ∧ (1450 + 50 ≤ 1500) ∧ (1500 ≤ 1500 ∧ 1500 < 1500 + 50) ∧
    (base.cluster 0).transition = none ∧ (base.stk 0).thermal = .normal ∧ sampled.sampled 0 sampled.time = [(0, 0)] ∧
    ((sampled.samplable 0 0 0).map (fun g => (g.part, g.ctx, g.core, g.slot)) = [(0, 0, 0, 0)] ∧ ((sampled.ctx? 0 0).map (·.samples)) = some 0 ∧
      0 < 2 ^ ((0x300C : Word).extractLsb' 0 5).toNat / 32) := by decide +kernel
/-- Whatever the temperature, one of the states leads to another. -/
theorem witness_ClocksTemperatureAndSamples_states (t : Int) : ∃ x, thermalAt x t ≠ x := by
  by_cases h : 85 ≤ t
  · refine ⟨.normal, ?_⟩
    unfold thermalAt
    simp only [reduceCtorEq, ↓reduceIte, h]
    split <;> exact Thermal.noConfusion
  · refine ⟨.cap, ?_⟩
    unfold thermalAt
    rw [if_neg (by simp; omega)]
    by_cases k : 82 ≤ t <;> simp [k]

/-! ## Single steps: events of the device -/

theorem test_nap_ends : (after (.napDeadline base.run.gid) (waiting (.nap 0))).run.word = 1 := by decide +kernel
theorem test_nap_not_yet : (after (.napDeadline base.run.gid) (waiting (.nap 5))).run.wait = .nap 5 := by decide +kernel
theorem test_evwt_wakes : (let t := after (.evwtWake base.run.gid) (waiting (.evwt true false false false 0x100 0x44332211 6 0 none false))
    (t.run.s[6], t.run.wait)) = (0x44332211, .none) := by decide +kernel
theorem test_evwt_times_out : (let t := after (.evwtTimeout base.run.gid) (waiting (.evwt true false false false 0x100 1 6 9 (some 0) false))
    (t.run.s[6], t.run.word)) = (0x44332211, 1) := by decide +kernel
theorem test_spill_completes : (after (.stackSpillComplete base.run.gid) (waiting (.stackAccess true))).run.wait = .none := by decide +kernel
theorem test_flushx_rounds : (let t := after (.flushxComplete base.run.gid) { waiting .flushx with slices := [(3, { cells := [cellOf 1] })] }
    (leNat (Memory.read t.mem 0x140 4), t.run.word, (t.slice 3).cells.map (·.base))) = (0x40800000, 1, [0x40800000]) := by decide +kernel
theorem test_fqput_room : (let s := { banked { mode := .fifo, entries := [1] } with run := (waiting (.fqput 0 7 5)).run }
    (((after (.fqputRoom 0 7) s).bank 0 7).entries)) = [1, 5] := by decide +kernel
theorem test_fqget_match : (let s := { loading (.vec 8 0xFF [7]) (some (0, 7)) with clusters := (banked { mode := .fifo, entries := [0xABCD] }).clusters }
    pendingLane (after (.fqgetMatch 0 7) s) 0) = [0xABCD, 0, 0, 0, 0, 0, 0, 0] := by decide +kernel
theorem test_load_counts_down : (after (.loadComplete 9) (loading (.sca 6 7) none)).run.cf[3] = ⟨false, 0⟩ := by decide +kernel
theorem test_load_inactive_lanes : (let t := after (.loadComplete 9) (loading (.vec 4 1 [mkLanes fun _ => 7]) none)
    (lane (t.run.reg 4) 0, lane (t.run.reg 4) 1)) = (7, 0) := by decide +kernel
theorem test_buffer_performs : (let t := after (.bufferEntryPerform 0 0) buffered
    (Memory.get t.mem 0x100, Memory.get t.mem 0x11F, (t.core 0).buf.length)) = (0xA5, 0x5A, 0) := by decide +kernel
theorem test_promote_leaves : Tbl.get [] ((after (.promote 0 5 0x80) { base with slices := [(5, { sharers := [(0x80, [0, 3])] })] }).slice 5).sharers 0x80 = [3] := by
  decide +kernel
theorem test_bank_release : ((after (.bankRelease 0 7) (banked { st := .pending .fifo true })).bank 0 7).st = .convert .fifo none := by decide +kernel
theorem test_bank_convert : ((after (.bankConvertEnd 0 7) (banked { st := .convert .fifo none })).bank 0 7).mode = .fifo := by decide +kernel
theorem test_issue_limit : ((after (.issueLimitAdjust 0) { base with cores := [(0, { misses := 8, lost := 2, limit := 16 })] }).core 0).limit = 8 := by decide +kernel
theorem test_walk_installs : ((after (.translationWalk 0 0 0x1000 true) { base with mem := tables [], cores := [] }).core 0).tlb.map (fun e => (e.va, e.size, e.w)) =
    [(0, 2 ^ 34, true)] := by decide +kernel
theorem test_tlbi_drops : ((after (.tlbiComplete base.run.gid) (waiting (.tlbi 2 0 0 0))).core 0).tlb = [] := by decide +kernel
theorem test_matrix_pass : ((after (.matrixPass 0) (queued (.mzro 1))).mx 0).table = [] := by decide +kernel
theorem test_scale_fill : (((after (.scaleFillReturn 0) scaling).mx 0).table.map (·.scaleWait), ((after (.scaleFillReturn 0) scaling).mx 0).scales.length) = ([false], 1) := by
  decide +kernel
theorem test_grant_served : ((after (.grantServed 0) { base with matrix := [(0, { grantQ := [(base.run.gid, 2)] })] }).mx 0).grants.map (·.tiles) = [[0, 1]] := by decide +kernel
theorem test_event_queue_post : (let t := after (.eventQueuePost 0) { waiting (.eqrd 6) with clusters := [(0, { queue := [5] })] }
    (t.run.s[6], (t.cluster 0).queue)) = (5, []) := by decide +kernel
theorem test_bal_lapses : (after (.balRequestLapse base.run.gid) { base with run := { base.run with burn := some ⟨3, 0⟩, shunt := some ⟨3, 1⟩ } }).run.burn = none := by
  decide +kernel

/-- The stream takes NOP, and its record says so. -/
theorem test_packet_nop : (((after (.packetNop 4) (streaming [head 0] [])).stream 4).nextSeq, ((after (.packetNop 4) (streaming [head 0] [])).stream 4).taken.length) = (2, 1) := by
  decide +kernel
theorem test_packet_bad : ((after (.packetBadpkt 4) (streaming [head 5] [])).stream 4).taken.map (fun t => t.done.map (·.1)) = [some 1] := by decide +kernel
theorem test_packet_wait : ((after (.packetWait 4) (streaming [head 2] [])).stream 4).taken.map (·.done) = [none] := by decide +kernel
theorem test_packet_mark : ((after (.packetMark 4) (streaming [] [{ seq := 1, words := [head 3] }])).stream 4).taken.map (fun t => t.done.map (·.1)) = [some 0] := by decide +kernel
theorem test_wait_satisfied : ((after (.waitSatisfied 4) (streaming [] [{ seq := 1, words := [head 2, 0] }])).stream 4).taken.map (fun t => t.done.map (·.1)) = [some 0] := by
  decide +kernel
theorem test_launch_rejected : ((after (.packetLaunch 4) (streaming [] [{ seq := 1, words := [head 1 ||| 1] }])).stream 4).taken.map (fun t => t.done.map (·.1)) = [some 1] := by
  decide +kernel
/-- The record of R288: CSEQ 1, STATUS 0, SRC 0x58, STREAM 4, SEQ 7, in slot 1. -/
theorem test_completion_record : (let t := after (.completionRecordPost 4) (streaming [] [{ seq := 7, words := [head 0], done := some (0, 1) }])
    (Memory.word t.mem 0x2010, Memory.word t.mem 0x2018)) = (0x0045800000000001, 7) := by decide +kernel
theorem test_team_places : (let t := after (.teamPlacement 2 0) placing
    ((t.team? (teamKey 2 0)).map (·.core), (Tbl.find t.groups (groupId (teamKey 2 0) 0)).map (·.budget))) = (some 0, some 8) := by decide +kernel
theorem test_compaction_moves : ((after (.compaction 0 100 1) crowded).group? 100).map (fun g => (g.slot, g.block)) = some (3, 64) := by decide +kernel
theorem test_team_retires : (after (.teamRetire 2 0) (residing {} { run := .ended })).team? (teamKey 2 0) = none := by decide +kernel
theorem test_grid_completes : (after (.gridComplete 2) { placing with grids := [(2, { id := 2, roles := [(1, 8)], map := [0], teams := 1, retired := [0] })] }).grid? 2 = none := by
  decide +kernel
theorem test_slice_ends : ((after (.timeSliceEnd 2 0) (residing {} {})).team? (teamKey 2 0)).map (·.at') = some (.saved false) := by decide +kernel
theorem test_team_saved : ((after (.teamSave 2 0) (residing { pre := true } { preempt := true, run := .acked 8 false })).team? (teamKey 2 0)).map (·.at') = some (.saved true) := by
  decide +kernel
theorem test_budget_expires : ((after (.budgetExpiry 2 0) (residing { pre := true, budgetAt := some 0 } { preempt := true })).team? (teamKey 2 0)).map (·.at') = some (.saved false) := by
  decide +kernel
theorem test_clause_select : (let t := after (.clauseSelect 0 0) (selecting {})
    (t.active, t.run.clause.map (·.hdr), t.run.pc)) = (true, some 16, 32) := by decide +kernel
theorem test_half_flue : ((after (.halfActiveFlue 0 0) { placing with
    teams := [(teamKey 2 0, { grid := 2, core := 1 })], grids := [(2, { id := 2, map := [1], placed := [0], alone := true })] }).core 0).loop = true := by decide +kernel
theorem test_burst_written : (let t := after (.logBurstTimeout 2) (bursting 2)
    ((t.ctx? 0 0).map (·.pos), leNat (Memory.read t.mem 0x2FF040 8))) =
    (some ((Vector.replicate 8 0).set 2 2), 1) := by decide +kernel
theorem test_window_opens : ((after (.automaticWindowOpen 0 0) resting).ctx? 0 0).map (fun c => c.windows.map (·.num)) = some [3, 4, 5, 6] := by decide +kernel
theorem test_wmark_completes : (let t := after (.wmarkComplete 2) (atMarker logged)
    (Tbl.find t.groups (groupId (teamKey 2 0) 0)).map fun g => (g.s[6], g.wait)) = some (6, .none) := by decide +kernel
theorem test_rewind_finishes : (let t := after (.rewindFinish 0 0) rewinding
    ((t.ctx? 0 0).map fun c => c.windows.map (·.num), (t.group? 0).map fun g => g.s[6])) = (some [3, 4], some 0x20000) := by decide +kernel
theorem test_undo_oldest : Memory.get (base.undo { logged with records := [(0, saved), (0, mkLogRec 9 1 0xFFFFFFFF 4 0 0 0x200)] } [4]).mem 0x200 = 7 := by decide +kernel
theorem test_context_stops : (let s := { rewinding with ctxs := [(0, { stopReq := true })], groups := [(0, { gid := 0, kind := .control 0, wait := .stop 6 0 0 })] }
    let t := after (.contextStopComplete 0 0) s
    ((t.ctx? 0 0).map fun c => c.st == .stopped, (t.group? 0).map fun g => g.wait == .none)) = (some true, some true) := by decide +kernel
theorem test_shared_error : (let t := after (.uncorrectableError .shared) base
    (t.dev.devErr, t.dev.errc)) = (true, 0x40) := by decide +kernel
theorem test_context_error_kills : (after (.uncorrectableError (.contextState 0 1)) (supervising {})).ctx? 0 1 = none := by decide +kernel
/-- Four burn pipes of a core whose pipes are idle draw 25 mA each (R358). -/
theorem test_balance_burn : ({ base with cores := [(1, { burn := 4 })] } : State).burnMicro 1 = 100000 := by
  have h : (({ base with cores := [(1, { burn := 4 })] } : State).core 1).burn = 4 ∧ popMask (({ base with cores := [(1, { burn := 4 })] } : State).core 1).issued = 0 := by
    decide +kernel
  simp only [State.burnMicro, h.1, h.2]
  omega
theorem test_damper_recovers : ((after (.damperTick 0) { base with cores := [(0, { flueD := ⟨4, some 0⟩ })] }).core 0).flueD = ⟨2, some 1000⟩ := by decide +kernel
theorem test_bias_steps : ((after (.bodyBiasStep 3) { base with clusters := [(3, { bias := 0x1D08 })] }).cluster 3).biasUp = 1 := by decide +kernel
theorem test_frequency_ceiling : ((after (.frequencyInterval 3) { base with clusters := [(3, { passes := 1, instrs := 4 })] }).cluster 3).ceil = 2100 := by decide +kernel
theorem test_frequency_step : ((after (.frequencyStep 3 true) { base with clusters := [(3, { ceil := 1650 })] }).cluster 3).transition = some 1550 := by decide +kernel
theorem test_transition_ends : ((after (.frequencyTransitionEnd 3) { base with clusters := [(3, { transition := some 1550 })] }).cluster 3).freq = 1550 := by decide +kernel
theorem test_thermal_thresholds : (thermalAt .normal 84, thermalAt .normal 85, thermalAt .hot 82, thermalAt .hot 81, thermalAt .hot 95, thermalAt .cap 92,
    thermalAt .cap 91) = (.normal, .hot, .hot, .normal, .cap, .cap, .hot) := by decide +kernel
theorem test_timer : (after (.timerForwardStep 7) base).time = base.time + 7 := by decide +kernel
theorem test_stall_sample : Memory.word (after (.stallSample 0) sampled).mem 0x3018 = 683 := by decide +kernel

/-! ## Hypotheses that hold, and single steps: the host, peers and trust -/

/-- Device 9 may use this device; one store to a peer is not acknowledged. -/
def peered : State :=
  { loads with dev := { loads.dev with peers := [(0, BitVec.ofNat 64 (2 ^ 63 + 9 * 2 ^ 42))], peerOut := [⟨4, 40, 0, 0, 1, 0, []⟩, ⟨4, 41, 0, 0, 1, 0, []⟩] } }

theorem witness_HostAndPeersAccess :
    (∃ e, e ∈ peered.dev.peers ∧ e.2.getLsbD 63 = true ∧ (e.2.extractLsb' 42 14).toNat = 9) ∧
    ¬ (∃ e, e ∈ base.dev.peers ∧ e.2.getLsbD 63 = true ∧ (e.2.extractLsb' 42 14).toNat = 9) ∧ 2 ^ 39 - 8 + 8 ≤ 2 ^ 39 ∧ ¬ (2 ^ 39 - 7 + 8 ≤ 2 ^ 39) ∧
    (2 ^ 39 - 8) % 8 = 0 ∧ ¬ ((4 : Nat) % 8 = 0) ∧ peered.dev.peerOut = [] ++ ⟨4, 40, 0, 0, 1, 0, []⟩ :: [⟨4, 41, 0, 0, 1, 0, []⟩] ∧ (base.dev.ports[11]).up = true ∧ base.engines = [] ∧
    (let c := command .gath 0 0 0 (.running [⟨0, 0x210, [1], 0⟩])
     c ∈ ((engined c).engine 0).cmds ∧ c.owns (0x220 / 128 * 128) = true) := by decide +kernel
/-- A write to a line that an engine owns waits (R224). -/
theorem test_host_waits : (after (.hostCxlMemWrite 0x220 [1]) (engined (command .gath 0 0 0 (.running [⟨0, 0x210, [1], 0⟩])))).pending = [.hostCxlMemWrite 0x220 [1]] := by
  decide +kernel
theorem test_host_writes : Memory.get (after (.hostCxlMemWrite 0x500 [1, 2]) base).mem 0x501 = 2 := by decide +kernel
theorem test_host_reads_memory : (after (.hostCxlMemRead 0x100 2) (after (.sst .b4 .dflt .rlx .core 6 (.s 4) 0) loads)).dev.out = [.readData [0x11, 0x22]] := by decide +kernel
theorem test_snoop_drops : ((after (.hostSnoop 0x80 []) { base with clusters := [(0, { lines := [⟨0x80, .dflt, 0, 0, 0, 0, 15⟩] })] }).cluster 0).lines = [] := by decide +kernel
theorem test_peer_adds : (let t := after (.peerRequest 9 (.atom .add 0x100 false 0x10 0)) peered
    (Memory.word t.mem 0x100, t.dev.out)) = (0x8877665544332221, [.peerAnswer 9 true [0x11, 0x22, 0x33, 0x44]]) := by decide +kernel
theorem test_peer_refused : (after (.peerRequest 8 (.load 0x100 4)) peered).dev.out = [.peerAnswer 8 false []] := by decide +kernel
theorem test_peer_ack : (after (.peerAck 4) peered).dev.peerOut = [⟨4, 41, 0, 0, 1, 0, []⟩] := by decide +kernel
theorem test_port_fails : ((after (.flitReplay 3 false) { base with dev := { base.dev with ports := base.dev.ports.set 3 ⟨true, 15, 0⟩ } }).dev.ports[3]).up = false := by decide +kernel

/-- A store of `s6` to offset 0x100 of peer window 0, over port 3 alone, which has failed 15 times. -/
def stored : State :=
  let s := withS 4 0x100 { base with
    cores := [(0, { tlb := [⟨0, 0, 2 ^ 23, 2 ^ 51, true, true, false, true⟩] })]
    dev := { base.dev with peers := [(0, 3#64 <<< 62 ||| 8)], ports := base.dev.ports.set 3 ⟨true, 15, 0⟩ } }
  after (.sst .b4 .dflt .rlx .core 6 (.s 4) 0) { s with run := { s.run with clause := some ⟨16, {}, [0x1F06040021000000]⟩ } }

/-- It is behind its word until the peer acknowledges it, and faults there where the port goes down (R230, R409). -/
theorem test_peer_store_waits : (stored.dev.peerOut.map fun p => (p.window, p.port, p.pa), stored.ackHold stored.run, stored.run.word) =
    ([(0, 3, 2 ^ 51 + 0x100)], .first (.peerAck 0), 1) := by decide +kernel
theorem test_peer_store_lost : (let t := after (.flitReplay 3 false) stored
    (t.dev.peerOut, t.run.run, t.run.resume, Memory.word t.mem (t.supFrame stored.run + 24))) = ([], .stopped 0x11, some 0, 0x100) := by decide +kernel

/-- A context 0 for the counters, and core 0 with a counter. -/
def counting : State := { base with cores := [(0, { ctrs := (Vector.replicate 16 0).set 2 0x1122334455667788 })] }

theorem witness_DeviceRegistersUpdatesAndSpdm :
    (({ key := some 5 } : Spdm).key.isSome = true ∧ ({} : Spdm).key = none ∧ ({ session := true } : Spdm).session = true) ∧
    ((counting.ctx? 0 0).isSome = true ∧ ({ counting with ctxs := [] }.ctx? 0 0) = none) ∧ (base.dev.snap.arm = true ∧ ({ arm := false } : SnapStatus).arm = false) ∧
    (State.reset.dev.ready = false ∧ base.dev.ready = true ∧ base.streams = [] ∧ ∃ x, x ∈ (streaming [] []).streams ∧ x.2.state ≠ 0) ∧
    (base.dev.upd = false ∧ base.dev.devErr = false) ∧
    (base.dev.snapAt ≠ some base.time ∧ { base.dev with snapAt := some base.time }.snapAt = some base.time) ∧
    (let d := { base.dev with update := .started 0 7 }
     d.update = .started 0 7 ∧ base.time ≤ 0 + 100000000 ∧ (0 + 100000000 : Nat) ≤ ({ base with time := 100000000 } : State).time) ∧ base.dev.update = .idle := by decide +kernel
theorem test_counter_halves : (after (.counterHighRead (.core 0) 2) (after (.counterLowRead (.core 0) 2) counting)).dev.out = [.regData 0x55667788, .regData 0x11223344] := by
  decide +kernel
theorem test_snapshot_lost : (after .hostSnapshotTrigger { base with dev := { base.dev with snap := { arm := false } } }).dev.snap.lost = 1 := by decide +kernel
theorem test_snapshot_status : (after .snapshotStatusRead { base with dev := { base.dev with snap := { gen := 3, lost := 2 } } }).dev.out = [.regData 0x302000001] := by decide +kernel
theorem test_snapshot_arms : (after .snapshotArm { base with dev := { base.dev with snap := { arm := false } } }).dev.snap.arm = true := by decide +kernel
theorem test_statbase : (after (.statbaseWrite 0xFFFFFFFFFFFFFFFF) base).dev.statbase = 0x000FFFFFFFFF0001 := by decide +kernel
theorem test_stream_entry : ((after (.streamEntryWrite 4 1 0xFFFFFFFFFFFFFFFF) base).stream 4).w1 = 0xFC0FFFFFFFFFFFFF := by decide +kernel
theorem test_counter_select : ((after (.mmioRegisterWrite (0x400000 + 128) 0xFFFFFFFF) base).core 0).sels[0] = 0xFFFFF := by decide +kernel
theorem test_update_refused : (let t := after (.fwctlGo true) { base with dev := { base.dev with upd := true } }
    (t.dev.upd, t.dev.fwStat, (after (.fwctlGo false) base).dev.fwStat)) = (true, 5, 3) := by decide +kernel
theorem test_update_ends : (let t := after .liveUpdateHeartbeat { base with dev := { base.dev with update := .started 0 7, upd := true } }
    (t.dev.heartbeat, t.dev.upd, t.dev.fwStat)) = (8, false, 2) := by decide +kernel
theorem test_update_times_out : (let t := after .liveUpdateTimeout { base with time := 100000000, dev := { base.dev with update := .started 0 7, upd := true } }
    (t.dev.upd, t.dev.fwStat)) = (false, 4) := by decide +kernel
theorem test_heartbeat : (after .heartbeat base).dev.heartbeat = 1 := by decide +kernel
theorem test_finish_needs_key : (after .finish base).dev.out = [.spdm 0x7F []] := by decide +kernel
theorem test_session_ends : (after .endSession { base with dev := { base.dev with spdm := { session := true, key := some 5 } } }).dev.spdm.key = none := by decide +kernel
theorem test_ide_key : (after (.ideKm 5) { base with dev := { base.dev with spdm := { session := true } } }).dev.spdm.ide = some 5 := by decide +kernel
theorem test_cxl_reset : (after .cxlReset { base with dev := { base.dev with devErr := true, errc := 0x40 } }).dev.devErr = false := by decide +kernel

/-! ## The step -/

/-- The instruction `w` is the first after reset. -/
def placedWord (w : Word) : State := State.reset.withFetchWord 64 w.toNat

/-- Nothing holds the instruction back at issue. -/
def goes (s : State) (i : Instr) : Bool := match s.hold i with
  | .go => true
  | _ => false

theorem witness_StepRunsTheDecodedInstruction :
    let s := placedWord 0x1703000000000005
    let e : State := { base with pending := [.timerForwardStep 7] }
    (s.pending = [] ∧ s.dev.ready = true ∧ s.active = true ∧ s.run.clause.map (·.code) = some [0x1703000000000005] ∧ s.run.wait = .none ∧
      (s.run.clause.elim true s.run.isOver) = false ∧ reads 0x1703000000000005 (.smovi .whole false (.s 3) 5) = true ∧ goes s (.smovi .whole false (.s 3) 5) = true) ∧
    (e.pending = [.timerForwardStep 7] ∧ (Instr.timerForwardStep 7).wf = true ∧ encode (.timerForwardStep 7) = none ∧
      (e.outsideHold (.timerForwardStep 7) == .go) = true ∧ s.dev.devErr = false) := by decide +kernel
theorem test_step_runs : (match step (placedWord 0x1703000000000005) with
    | .next t => t.run.s[3] == 5
    | _ => false) = true := by decide +kernel
theorem test_step_takes_events : (match step { base with pending := [.timerForwardStep 7] } with
    | .next t => t.time == base.time + 7 && t.pending.isEmpty
    | _ => false) = true := by decide +kernel
theorem witness_FetchAdmitsOnlyCheckedClauses :
    (fetches ((selecting {}).load { gid := 40, pc := 16 })).isSome = true ∧ fetches ((selecting {}).load { gid := 40, pc := 32 }) = none := by decide +kernel
theorem witness_EncodingsAgree : (Instr.vmovi .f32 2 0x3FC00000).wf = true ∧ encode (.vmovi .f32 2 0x3FC00000) = some 0x2D0200803FC00000 ∧
    (Header.ok {}) = true ∧ reads 0x2D0200803FC00000 (.vmovi .f32 2 0x3FC00000) = true := by decide +kernel
theorem witness_StepKeepsMemoryCanonical : base.memOk ∧ (match step base with
    | .next _ => true
    | _ => false) = true := ⟨⟨by decide +kernel, by decide +kernel⟩, by decide +kernel⟩

/-! ## Hypotheses that hold: lines that engines own, inputs of the links, the transcendental functions -/

/-- A code word that cannot be read yet, because an engine owns its line. -/
theorem witness_ReturnsFromTraps_waits :
    let ws : List EngWrite := [⟨0, 0x10, [1], 0⟩]
    let s := { inFrame 3 true with engines := (engined (command .gath 0 0 0 (.running ws))).engines }
    frameWord s 6 = some 2 ∧ frameWord s 1 = some 0x0300000000000018 ∧ (codeErr s 24).map (·.1) = some cWAIT := by decide +kernel
theorem witness_EngineCommandsPostAndCancel_waits :
    let c := { command .gath 0 0 0 .waiting with begun := false }
    let l := { command .lnch 0 0 0 (.finished 1) with begun := false }
    let m := { command .lnch 0 0 0 (.finished 0) with begun := true }
    ((engined c).engine 0).cmds.find? (fun y => y.id == 1) = some c ∧ c.st = .waiting ∧ (l.op = .lnch ∧ l.begun = false) ∧ (m.op = .lnch ∧ m.begun = true) := by
  decide +kernel
/-- The oldest queued command, and one that waits for its first access; nothing that goes before it owns a line. -/
theorem witness_CommandsStartAndComplete_starts :
    let c := command (.cpy false) 0x400 16 0 .queued
    let w := { c with st := .waiting }
    ((copying.engine 0).cmds.all (fun y => y.st != .waiting) ∧ (copying.engine 0).cmds.find? (fun y => y.st == .queued) = some c) ∧
    ((engined w).engine 0).cmds.find? (fun y => y.st == .waiting) = some w ∧ nothingAhead (copying.plan c).1 c := by
  refine ⟨by decide +kernel, by decide +kernel, fun e x line he hx _ => ?_, fun m x hm hx _ => ?_⟩
  · exact (nothingWaits_of (s := (copying.plan (command (.cpy false) 0x400 16 0 .queued)).1) (but := none) (by decide +kernel)).1 e x line he hx
  · exact (nothingWaits_of (s := (copying.plan (command (.cpy false) 0x400 16 0 .queued)).1) (but := none) (by decide +kernel)).2.1 m x hm hx ‹_› nofun
/-- The placement map of a launch is free, or is in the destination of a gather in its queue. -/
theorem witness_StreamsTakePacketsAndRecord_map :
    let s := { base with mem := tables [] }
    (s.mapWaits launchWords 0 0).isNone = true ∧
    ({ s with engines := (engined { command .gath 0 0 0 .queued with lines := [0x700] }).engines }.mapWaits launchWords 0 0).isSome = true := by decide +kernel
theorem witness_NapBalanceBreakAndSnap_joins :
    let s := { base with dev := { base.dev with snap := { arm := false }, snapAt := some base.time } }
    s.isSup s.run = true ∧ s.dev.snap.arm = false ∧ s.dev.snapAt = some s.time := by decide +kernel
/-- A request for tile 1 behind an MREL: the group's new grant has one tile, or the grant is another group's. -/
theorem witness_MatrixEngineWorks_released :
    let s := { queued (.mzro 1) with matrix := [(0, { table := [entry tiled.run (.mzro 1)], grants := [⟨tiled.run.gid, [2], {}, none⟩] })] }
    s.savedMx = [] ∧ (s.mx 0).grants = [⟨(entry tiled.run (.mzro 1)).gid, [2], {}, none⟩] ∧ [2].length ≤ 1 ∧
    ({ entry tiled.run (.mzro 1) with gid := 7 }).gid ≠ tiled.run.gid := by decide +kernel
theorem witness_HostAndPeersAccess_links :
    (region (2 ^ 48) = .mmio ∧ region 0x100 ≠ .mmio ∧ State.reset.dev.ready = false ∧ base.dev.ready = true) ∧ { base.dev with devErr := true }.devErr = true ∧
    ((0x100 : Nat) + 8 ≤ 2 ^ 39 ∧ (0x100 : Nat) % 8 = 0 ∧ ¬ ((0x101 : Nat) % 4 = 0) ∧ 0x180 / 128 * 128 + 128 ≤ 2 ^ 39) ∧
    (let s := { base with dev := { base.dev with peers := [(0, 3#64 <<< 62 ||| 9#64 <<< 42 ||| 8)], refusing := [9] } }
     region (2 ^ 51 + 0x100) = .peer ∧ ((Tbl.get 0 s.dev.peers (windowOf (2 ^ 51 + 0x100))).extractLsb' 42 14).toNat ∈ s.dev.refusing) := by
  decide +kernel
/-- A peer that refuses gives ACCESS (R408). -/
theorem test_peer_refuses : (match { base with dev := { base.dev with peers := [(0, 3#64 <<< 62 ||| 9#64 <<< 42 ||| 8)], refusing := [9] } }.placeOf (2 ^ 51 + 0x100) 4 .wr with
    | .error c => some c
    | _ => none) = some 0x11 := by decide +kernel
/-- Values in no table of R154: 1.5, 3 and 0.75 of FP32. -/
theorem witness_FunctionsAreCorrectlyRounded :
    let v := fun x : Nat => valueOf (fmtF32.read x)
    (Ready base (.fex2 .f32 .rne false 3 1 {}) ∧ (v 0x3FC00000).den ≠ 1) ∧ (Ready base (.flg2 .f32 .rup false 3 1 {}) ∧ 0 < v 0x40400000) ∧
    (Ready base (.ftrg .f32 .rsr false false 3 1 {}) ∧ Ready base (.ftrg .f32 .rtz false true 3 1 {}) ∧ (2 * v 0x3F400000).den ≠ 1) := by
  decide +kernel
/-- They are proper, 3 is no power of two, and 2 has no rational root. -/
theorem witness_FunctionsAreCorrectlyRounded_values :
    proper (fmtF32.read 0x3FC00000) ∧ proper (fmtF32.read 0x40400000) ∧ proper (fmtF32.read 0x3F400000) ∧ (fmtF32.read 0x40000000).sign = false := by
  have h : (fmtF32.read 0x3FC00000, fmtF32.read 0x40400000, fmtF32.read 0x3F400000, (fmtF32.read 0x40000000).sign) =
    (.fin false 0xC00000 (-23), .fin false 0xC00000 (-22), .fin false 0xC00000 (-24), false) := by decide +kernel
  simp only [Prod.mk.injEq] at h
  obtain ⟨h1, h2, h3, h4⟩ := h
  rw [h1, h2, h3, h4]
  exact ⟨nofun, nofun, nofun, rfl⟩
end Sys2Proof.Tests
end

section
/-! SUPPORT and CERTIFICATES. A step of the machine: what its issue records, and whose turn it is (R25, R49, R224). -/

namespace Sys2Proof.Machine

/-! ## What the issue of an instruction records -/

/-- Issue records its counts in the group, its core and its cluster, and nowhere else. -/
theorem State.begin_only (s : State) (i : Instr) :
    s.begin i = { s with run := (s.begin i).run, cores := (s.begin i).cores, clusters := (s.begin i).clusters } := rfl

theorem State.begin_run (s : State) (i : Instr) : (s.begin i).run = { s.run with doneMask := (s.begin i).run.doneMask } := by
  unfold State.begin
  dsimp only
  split <;> rfl

theorem Tbl.get_ite_put {α : Type} (d : α) (t : Tbl α) (c : Bool) (n : Nat) (x : α) (k : Nat) :
    Tbl.get d (if c then Tbl.put t n x else t) k = if c = true ∧ k = n then x else Tbl.get d t k := by
  by_cases hc : c = true
  · by_cases hk : k = n
    · simp [hc, hk]
    · simp [hc, hk, Tbl.get_put_ne d t x hk]
  · simp [hc]

theorem State.begin_core (s : State) (i : Instr) (n : Nat) :
    (s.begin i).core n = { s.core n with issued := ((s.begin i).core n).issued } := by
  unfold State.begin State.core
  dsimp only
  rw [Tbl.get_ite_put]
  split_ifs with h
  · rw [h.2]; rfl
  · rfl

theorem State.begin_cluster (s : State) (i : Instr) (k : Nat) :
    (s.begin i).cluster k = { s.cluster k with instrs := ((s.begin i).cluster k).instrs } := by
  unfold State.begin State.cluster
  dsimp only
  rw [Tbl.get_ite_put]
  split_ifs with h
  · rw [h.2]
  · rfl

/-! ## Whose turn it is -/

/-- Where the world brings nothing, on a machine that is up and whose logs are in step, the agent inside a clause has its turn. -/
theorem step_of_active {s : State} (hp : s.pending = []) (hr : s.dev.ready = true) (he : s.dev.devErr = false)
    (hl : ∀ x, x ∈ s.ctxs → x.2.due = false) (ha : s.active = true) : step s = s.runs := by
  have hdue : s.ctxs.any (·.2.due) = false := List.any_eq_false.2 fun x hx => by simp [hl x hx]
  simp [step, hp, State.firstOutside, State.act, he, hr, hdue, ha]

/-- The instruction that a word of the open clause decodes to. -/
theorem Group.instr_of_decode {g : Group} {c : Clause} {w : Word} {i : Instr} (hc : g.clause = some c) (hw : c.code[g.word]? = some w)
    (hd : decode w = .ok i) : g.instr = some i := by
  simp [Group.instr, hc, hw, hd]

/-- An instruction that nothing holds back executes, after the counts of its issue. -/
theorem State.runs_of_go {s : State} {c : Clause} {i : Instr} (hc : s.run.clause = some c) (hw : s.run.wait = .none)
    (ho : s.run.isOver c = false) (hi : s.run.instr = some i) (hh : s.hold i = .go) : s.runs = exec i (s.begin i) := by
  simp [State.runs, hc, hw, ho, hi, hh]

/-- What the world brings first, where it waits for no line, is what the step executes. -/
theorem step_of_event {s : State} {e : Instr} {rest : List Instr} (hp : s.pending = e :: rest) (hw : e.wf = true) (hn : encode e = none)
    (hh : s.outsideHold e = .go) : step s = exec e { s with pending := rest } := by
  simp [step, hp, State.firstOutside, hh, isEvent, hw, hn]

end Sys2Proof.Machine

namespace Sys2Proof.Claims

open Sys2Proof.Machine

/-- Settles O57: the turn is the running agent's (`step_of_active`), its word is the instruction, and issue records what the lemmas about
`State.begin` say; an outside event that waits for no line goes first (`step_of_event`). -/
theorem stepRunsTheDecodedInstruction : Obligations.StepRunsTheDecodedInstruction := by
  unfold Obligations.StepRunsTheDecodedInstruction
  refine ⟨fun s c w i hp hr he hl ha hc hwait ho hw hd hh => ?_, fun s e rest hp hw hn hh => step_of_event hp hw hn hh⟩
  have hrun : s.runs = exec i (s.begin i) := State.runs_of_go hc hwait ho (Group.instr_of_decode hc hw hd) hh
  exact ⟨(step_of_active hp hr he hl ha).trans hrun, s.begin_only i, s.begin_run i, s.begin_core i, s.begin_cluster i⟩

end Sys2Proof.Claims
end

section
/-! SUPPORT and CERTIFICATES. CLAUSE_SELECT, the entry into a clause, and what the fetch checks (R26, R49-R52, R69, R72, R354). -/

namespace Sys2Proof.Machine

/-! ## The choice of a pipe -/

/-- An update of a table that keeps the keys, read at a key. -/
theorem Tbl.find_map_key {α : Type} (h : Nat × α → Nat × α) (hk : ∀ x, (h x).1 = x.1) (t : Tbl α) (n : Nat) :
    Tbl.find (t.map h) n = (Tbl.find t n).map fun v => (h (n, v)).2 := by
  induction t with
  | nil => rfl
  | cons c t ih =>
    obtain ⟨k, v⟩ := c
    rcases hc : h (k, v) with ⟨k', v'⟩
    have hkk : k' = k := by have := hk (k, v); rw [hc] at this; exact this
    subst hkk
    simp only [List.map_cons, hc, Tbl.find]
    split
    · rename_i e; subst e; simp [hc]
    · exact ih

/-- An agent that is chosen alone has been passed over no more. -/
theorem State.find_chosen_alone (s : State) {g : Group} (hg : Tbl.find s.groups g.gid = some g) :
    Tbl.find (s.chosen g []).groups g.gid = some { g with passed := 0 } := by
  unfold State.chosen
  rw [Tbl.find_map_key _ _ _ _, hg]
  · simp
  · intro x; dsimp only; split_ifs <;> rfl

/-- An agent that its pipe finds ready is ready. -/
theorem State.ready_of_readyOn {s : State} {core pipe : Nat} {g : Group} {e : Entry} (h : s.readyOn core pipe = [(g, e)]) :
    s.ready g = some e := by
  have hm : (g, e) ∈ s.readyOn core pipe := by rw [h]; exact List.mem_singleton.2 rfl
  unfold State.readyOn at hm
  obtain ⟨x, -, hx⟩ := List.mem_filterMap.1 hm
  split at hx
  · cases hx
  · obtain ⟨e', he, hp⟩ := Option.map_eq_some_iff.1 hx
    cases hp
    exact he

/-- An agent that may enter a clause is outside one. -/
theorem State.clause_none_of_enter {s : State} {g : Group} (h : s.ready g = some .enter) : g.clause = none := by
  unfold State.ready at h
  cases hc : g.clause with
  | none => rfl
  | some c =>
    simp only [hc, Option.isSome_some, if_true] at h
    split_ifs at h
    cases h

/-- CLAUSE_SELECT with one ready agent issues for it. -/
theorem execClauseSelect_one {s : State} {core pipe : Nat} {g : Group} {e : Entry} (ha : s.active = false)
    (h : s.readyOn core pipe = [(g, e)]) : execClauseSelect core pipe s = .next (s.issue g e []) := by
  simp [execClauseSelect, ha, h, State.choose]

/-- An agent that goes on inside its clause: one that stalled has held its pipe, and keeps its count of passes (R26). -/
theorem State.issue_inside (s : State) {g : Group} (hg : Tbl.find s.groups g.gid = some g) :
    (s.issue g .inside []).active = true ∧ (s.issue g .inside []).run =
      { g with passed := if g.wait = .stall ∧ g.clause ≠ none then g.passed else 0, wait := .none, lastIssue := s.turn } := by
  refine ⟨rfl, ?_⟩
  by_cases hh : g.holdsPipe = true
  · have hw : g.wait = .stall ∧ g.clause ≠ none := by
      simpa [Group.holdsPipe, Option.isSome_iff_ne_none] using hh
    simp [State.issue, hh, hg, State.load, State.setRun, if_pos hw]
  · have hw : ¬ (g.wait = .stall ∧ g.clause ≠ none) := by
      simpa [Group.holdsPipe, Option.isSome_iff_ne_none] using hh
    simp [State.issue, hh, State.find_chosen_alone s hg, State.load, State.setRun, if_neg hw]

/-! ## The entry into a clause -/

theorem State.served_codeWords (s : State) (va : Addr) (i n : Nat) : s.Served (s.codeWords va i n).1 := by
  induction n generalizing s va i with
  | zero => exact s.served_refl
  | succ n ih =>
    have h1 := State.served_codeWord s va
    unfold State.codeWords
    split
    · rename_i s1 e he; rw [he] at h1; exact h1
    · rename_i s1 w he
      rw [he] at h1
      have h2 := ih s1 (va + 8) (i + 1)
      split
      · rename_i s2 e he2; rw [he2] at h2; exact h1.trans h2
      · rename_i s2 ws he2; rw [he2] at h2; exact h1.trans h2

/-- A fetch leaves the groups, teams and descriptors. -/
theorem State.served_fetch (s : State) : s.Served s.fetch.1 := by
  have h1 := State.served_codeWord s s.run.pc
  unfold State.fetch
  dsimp only
  split
  · rename_i s1 e he; rw [he] at h1; exact h1
  · rename_i s1 hw he
    rw [he] at h1
    have h2 := h1.trans (State.served_codeWords s1 (s.run.pc + 8) 0 ((fld hw 53 4).toNat + 1))
    split
    · rename_i s2 i c l he2; rw [he2] at h2; exact h2
    · rename_i s2 ws he2
      rw [he2] at h2
      split
      · exact h2
      · split
        · exact h2
        · split <;> exact h2

theorem State.served_nextClause (s : State) : s.Served s.nextClause.1 := by
  unfold State.nextClause
  split
  · split
    · exact s.served_refl
    · exact s.served_fetch
  · exact s.served_fetch

/-- The flags that a list names become pending, and each flag that is pending stays so. -/
theorem pending_foldl (names : List Nat) (cf : Vector Flag 12) (n : Nat) (h : n < 12) (hn : n ∈ names ∨ cf[n].pending = true) :
    ((names.foldl (fun cf n => vmod cf n fun f => { f with pending := true }) cf)[n]).pending = true := by
  induction names generalizing cf with
  | nil => exact hn.resolve_left (by simp)
  | cons k ks ih =>
    refine ih _ ?_
    by_cases hk : n = k
    · right; subst hk; simp [vmod, h]
    · rcases hn with hn | hn
      · exact .inl ((List.mem_cons.1 hn).resolve_left hk)
      · right
        show ((vmod cf k fun f => { f with pending := true })[n]).pending = true
        unfold vmod
        split
        · rw [Vector.getElem_set_ne _ _ (Ne.symm hk)]; exact hn
        · exact hn

theorem mem_flagNames {a b : BitVec 4} {n : Nat} (h : n < 12) (hn : a.toNat = n ∨ b.toNat = n) : n ∈ flagNames a b := by
  unfold flagNames
  rw [List.mem_append]
  rcases hn with hn | hn
  · left; simp [hn, h]
  · by_cases e : b = a
    · left; subst e; simp [hn, h]
    · right; simp [hn, h, e]

/-- A group that enters a clause at its header (R32, R49, R52). -/
theorem Group.opened_header (g : Group) (c : Clause) (now : Nat) (hr : g.resume = none) :
    let u := g.opened c now
    u.clause = some c ∧ u.pc = c.hdr + 8 * (BitVec.ofNat 56 (c.h.cnt.toNat + 2)) ∧ u.wait = .none ∧
    u.word = (if g.mmode = true ∧ g.em = 0 then c.h.cnt.toNat + 1 else 0) ∧ u.lastIssue = now ∧ u.s = g.s ∧ u.v = g.v ∧
    ∀ (n : Nat) (h : n < 12), (c.h.seta.toNat = n ∨ c.h.setb.toNat = n) → (u.cf[n]).pending = true := by
  have he : g.entryWord = none := by simp [Group.entryWord, hr]
  unfold Group.opened
  rw [he]
  refine ⟨rfl, rfl, rfl, ?_, rfl, rfl, rfl, fun n h hn => pending_foldl _ _ n h (.inl (mem_flagNames h hn))⟩
  simp

/-- The entry into a clause counts on the core, and leaves the group inside the clause. -/
theorem State.enterClause_ok {s s1 : State} {c : Clause} (h : s.nextClause = (s1, .ok c)) :
    s.enterClause.active = s.active ∧ s.enterClause.run = s.run.opened c s.turn := by
  have hs := State.served_nextClause s
  rw [h] at hs
  have hr : s1.run = s.run := hs.run
  have ha : s1.active = s.active := hs.active
  have hcharge : ∀ (t : State) (n : Nat), (t.charge n).active = t.active := fun t n => by unfold State.charge; split <;> rfl
  unfold State.enterClause
  rw [h]
  dsimp only
  split_ifs <;> simp [hr, ha, hcharge]

/-- An agent that enters a clause which it is given leaves the others and stays inside it. -/
theorem State.issue_enter {s s1 : State} {g : Group} {c : Clause} (hg : Tbl.find s.groups g.gid = some g) (hc : g.clause = none)
    (hr : g.resume = none) (h : ((s.chosen g []).load { g with passed := 0 }).nextClause = (s1, .ok c)) :
    (s.issue g .enter []).active = true ∧ (s.issue g .enter []).run = Group.opened { g with passed := 0 } c s.turn := by
  have hh : g.holdsPipe = false := by simp [Group.holdsPipe, hc]
  obtain ⟨ha, hrun⟩ := State.enterClause_ok h
  obtain ⟨hcl, -, hw, -⟩ := Group.opened_header { g with passed := 0 } c s.turn hr
  have hl : (Group.opened { g with passed := 0 } c s.turn).leaves = false := by simp [Group.leaves, hcl, hw]
  have hi : s.issue g .enter [] = ((s.chosen g []).load { g with passed := 0 }).enterClause := by
    simp only [State.issue, hh, Bool.false_eq_true, if_false, State.find_chosen_alone s hg, Option.getD_some]
    rw [if_neg (by rw [hrun]; exact Bool.eq_false_iff.1 hl)]
  rw [hi]
  exact ⟨ha, hrun⟩

/-! ## What the fetch checks -/

/-- A word that passes checks 4a to 4d. -/
theorem wordFault_none {k : AgentKind} {sup : Bool} {e : Eng} {w : Word} (h : wordFault k sup e w = none) :
    (∃ x, decode w = .ok x) ∧ e.admits (opcode w) = true ∧ (k ≠ .compute → controlAdmits (opcode w) = true) ∧
    (privileged w = true → sup = true) := by
  unfold wordFault at h
  split at h
  · cases h
  · split_ifs at h with h1 h2 h3
    refine ⟨?_, by simpa using h2, fun hk => by simpa [hk] using h1, fun hp => by simpa [hp] using h3⟩
    cases hd : decode w with
    | ok x => exact ⟨x, rfl⟩
    | error x => rw [hd] at h; cases h

/-- Every word of a clause that passes check 4 passes it alone, and control transfers and system words stand last. -/
theorem codeFault_none {k : AgentKind} {sup : Bool} {e : Eng} {sys : Bool} {n : Nat} {ws : List Word}
    (h : codeFault k sup e sys n ws = none) {i : Nat} {w : Word} (hw : ws[i]? = some w) :
    wordFault k sup e w = none ∧ (mustBeLast (opcode w) = true → i + 1 = ws.length) := by
  induction ws generalizing sys n i with
  | nil => simp at hw
  | cons x ws ih =>
    unfold codeFault at h
    dsimp only at h
    split at h
    · cases h
    · rename_i hx
      split_ifs at h with hl
      cases i with
      | zero =>
        obtain rfl : x = w := by simpa using hw
        refine ⟨hx, fun hm => ?_⟩
        have : ws = [] := by
          simp only [hm, Bool.true_and, Bool.or_eq_true, not_or] at hl
          simpa using hl.1
        simp [this]
      | succ i =>
        obtain ⟨h1, h2⟩ := ih h (by simpa using hw)
        exact ⟨h1, fun hm => by simp [h2 hm]⟩

theorem State.codeWords_length {s s1 : State} {va : Addr} {i n : Nat} {ws : List Word} (h : s.codeWords va i n = (s1, .ok ws)) :
    ws.length = n := by
  induction n generalizing s va i ws s1 with
  | zero => simp only [State.codeWords, Prod.mk.injEq, Except.ok.injEq] at h; simp [← h.2]
  | succ n ih =>
    unfold State.codeWords at h
    split at h
    · cases h
    · split at h
      · cases h
      · rename_i he
        simp only [Prod.mk.injEq, Except.ok.injEq] at h
        simp [← h.2, ih he]

/-- What a header word counts is what its decoded header counts. -/
theorem decodeHeader_cnt {w : Word} {h : Header} (hd : decodeHeader w = some h) : h.cnt = fld w 53 4 := by
  unfold decodeHeader at hd
  dsimp only at hd
  split_ifs at hd
  cases hd
  rfl

/-- A fetch that succeeds read the clause at the group's PC, and every check passed (R50, R69, R72, R73). -/
theorem State.fetch_ok {s s1 : State} {c : Clause} (h : s.fetch = (s1, .ok c)) :
    c.hdr = s.run.pc ∧ c.code.length = c.h.cnt.toNat + 1 ∧ (c.h.eng = .system → s1.isSup s.run = true) ∧
    codeFault s.run.kind (s1.isSup s.run) c.h.eng false 0 c.code = none := by
  unfold State.fetch at h
  dsimp only at h
  split at h
  · cases h
  · split at h
    · cases h
    · rename_i hws
      split at h
      · cases h
      · rename_i hh
        split at h
        · cases h
        · rename_i hsup
          split at h
          · cases h
          · rename_i hcode
            cases h
            exact ⟨rfl, by rw [decodeHeader_cnt hh]; exact State.codeWords_length hws, by simpa using hsup, hcode⟩

/-- A fetch that fails names the header of the clause (R72). -/
theorem State.fetch_error {s s1 : State} {t : Trap} (h : s.fetch = (s1, .error t)) : t.fpc = s.run.pc ∧ t.clause = s.run.pc := by
  unfold State.fetch at h
  dsimp only at h
  split at h
  · cases h; exact ⟨rfl, rfl⟩
  · split at h
    · cases h; exact ⟨rfl, rfl⟩
    · split at h
      · cases h; exact ⟨rfl, rfl⟩
      · split at h
        · cases h; exact ⟨rfl, rfl⟩
        · split at h
          · cases h; exact ⟨rfl, rfl⟩
          · cases h

/-! ## Half-active flues -/

/-- An empty even core whose mate has a team, with none waiting for it, engages its loop (R354). -/
theorem execHalfActiveFlue_loop {s : State} {cluster flue : Nat} {t : Team} {x : Grid} (he : s.teamsOn (24 * cluster + 2 * flue) = [])
    (ht : (s.teamsOn (24 * cluster + 2 * flue + 1)).head? = some t) (hx : s.grid? t.grid = some x)
    (hr : s.rivals (24 * cluster + 2 * flue) = []) (hb : t.burnAuto = true ∨ x.alone = true) :
    execHalfActiveFlue cluster flue s =
      .next (s.setCore (24 * cluster + 2 * flue) { s.core (24 * cluster + 2 * flue) with loop := true }) := by
  simp [execHalfActiveFlue, he, ht, hx, hr, hb]

end Sys2Proof.Machine

namespace Sys2Proof.Claims

open Sys2Proof.Machine

/-- Settles O48: the one ready agent of a pipe issues (`execClauseSelect_one`), inside its clause or into the one that it is given; and the
clause that a fetch gives has passed every check (`State.fetch_ok`). -/
theorem clausesEnterChecked : Obligations.ClausesEnterChecked := by
  unfold Obligations.ClausesEnterChecked
  refine ⟨fun s s1 core pipe cluster flue g c => ⟨fun ha h hg => ?_, fun ha h hg hn hr => ?_, fun t x he ht hx hr hb => ?_⟩,
    fun s s1 c h => ?_, fun s s1 t h => State.fetch_error h⟩
  · exact ⟨_, execClauseSelect_one ha h, State.issue_inside s hg⟩
  · have hc := State.clause_none_of_enter (State.ready_of_readyOn h)
    obtain ⟨hact, hrun⟩ := State.issue_enter hg hc hr hn
    obtain ⟨h1, h2, -, h3, h4, h5, h6, h7⟩ := Group.opened_header { g with passed := 0 } c s.turn hr
    refine ⟨_, execClauseSelect_one ha h, hact, ?_⟩
    rw [hrun]
    exact ⟨h1, h2, h3, h4, h5, h6, h7⟩
  · exact ⟨_, execHalfActiveFlue_loop he ht hx hr hb, State.core_setCore .., fun k hk => State.core_setCore_ne _ _ hk⟩
  · obtain ⟨h1, h2, h3, h4⟩ := State.fetch_ok h
    have hs := State.served_fetch s
    rw [h] at hs
    refine ⟨h1, h2, hs.run, h3, fun i w hw => ?_⟩
    obtain ⟨hf, hl⟩ := codeFault_none h4 hw
    obtain ⟨a, b, d, e⟩ := wordFault_none hf
    exact ⟨a, b, d, e, hl⟩

end Sys2Proof.Claims
end

section
/-! SUPPORT and CERTIFICATES. Divergence: the transfers of BDV and JOIN, the stack and its part in memory, and the end of a group (R170-R172,
R185). -/

namespace Sys2Proof.Machine

open Sys2Proof.Claims

/-! ## Transfers that pass their test -/

/-- The rest of a transfer runs where its target passes (R72). -/
theorem State.toTarget_passes {s s1 : State} {target : Word} (h : passes s target s1) (k : State → State) : s.toTarget target k = k s1 := by
  obtain ⟨h1, h2, w, hw, hd⟩ := h
  simp [State.toTarget, h1, h2, hw, headerOk, hd]

/-- The test of a target leaves the running group. -/
theorem passes_run {s s1 : State} {target : Word} (h : passes s target s1) : s1.run = s.run := by
  obtain ⟨-, -, w, hw, -⟩ := h
  have hs := State.served_codeWord s (target.setWidth 56)
  rw [hw] at hs
  exact hs.run

/-- A completion is what the group becomes. -/
theorem State.done_becomes (s : State) (g : Group) (n : Nat) : becomes s (s.done g n) g n :=
  ⟨(State.done_only s g n).2, (State.done_only s g n).1⟩

/-- A completion looks at the core of the running group and at its word, and not at the rest of it. -/
theorem State.done_setRun (s : State) {h : Group} (g : Group) (n : Nat) (hk : h.kind = s.run.kind) (hc : h.core = s.run.core)
    (hg : h.gid = s.run.gid) (hw : h.word = s.run.word) : (s.setRun h).done g n = s.done g n := by
  have hrun : (s.setRun h).run = h := rfl
  unfold State.done State.charge
  rw [hrun, hk, hc, hg, hw]
  cases s.run.kind <;> rfl

/-! ## A short stack -/

/-- A push that finds room on chip (R170). -/
theorem State.push_short {s : State} (e : StackEntry) (h : s.run.stack.length < 32) :
    s.push e = some (s.setRun { s.run with stack := e :: s.run.stack }) := by
  simp [State.push, h]

/-- A push beyond 1,056 entries, or outside device memory, fails (R170). -/
theorem State.push_full {s : State} (e : StackEntry) (h : s.run.stack.length = 32)
    (hf : 1024 ≤ s.run.mdepth ∨ region (s.stackAddr s.run.mdepth) ≠ .dev) : s.push e = none := by
  have hif : (decide (1024 ≤ s.run.mdepth) || region (s.stackAddr s.run.mdepth) != .dev) = true := by simpa using hf
  simp only [State.push, h, Nat.lt_irrefl, if_false, hif, if_true]

/-- A pop that leaves no entry to be read back (R170). -/
theorem State.pop_short {s : State} {top : StackEntry} {rest : List StackEntry} (hs : s.run.stack = top :: rest)
    (h : rest.length ≠ 31 ∨ s.run.mdepth = 0) : s.pop = some (s.setRun { s.run with stack := rest }) := by
  have hn : ¬ (rest.length = 31 ∧ 0 < s.run.mdepth) := by omega
  simp only [State.pop, hs, List.tail_cons, if_neg hn]

/-! ## BDV and JOIN -/

/-- The lanes of BDV's taken side are those whose value meets the condition (R171). -/
theorem Group.bdvTaken_eq (g : Group) (c : Cnd) (a : RegNo) (t : Lane)
    (ht : ∀ l, l < 32 → (t.getLsbD l = true ↔ g.em.getLsbD l = true ∧ cndValue c (lane (g.reg a.toNat) l).toInt = true)) :
    g.bdvTaken c a = t := by
  refine BitVec.eq_of_getLsbD_eq fun l hl => ?_
  rw [Bool.eq_iff_iff, ht l hl]
  simp only [Group.bdvTaken, mkMask_bit, hl, decide_true, Bool.true_and, Bool.and_eq_true]

section Bdv
variable {s : State} {c : Cnd} {a : RegNo} {off1 off2 : BitVec 16} (hr : Ready s (.bdv c a off1 off2))
include hr

theorem execBdv_mmode (hm : s.run.mmode = true) : exec (.bdv c a off1 off2) s = .next (s.faultExact 0x02) := by
  show execBdv c a off1 off2 s = _
  unfold execBdv
  rw [State.checked_ok hr.2]
  simp [hm]

/-- Some lane takes the branch: the rest waits at the header after it. -/
theorem execBdv_taken {s1 : State} (hm : s.run.mmode = false) (ht : s.run.bdvTaken c a ≠ 0) (hp : passes s (offsetTarget s off1) s1) :
    exec (.bdv c a off1 off2) s = .next (
      match s1.push ⟨(offsetTarget s off2).setWidth 56, s.run.nextHdr, s.run.em &&& ~~~s.run.bdvTaken c a, s.run.em, s.run.bdvTaken c a⟩ with
      | some u => u.done { u.run with em := s.run.bdvTaken c a, pc := (offsetTarget s off1).setWidth 56 } 1
      | none => s1.faultExact 0x42) := by
  have htb : (s.run.bdvTaken c a != 0) = true := by simpa using ht
  show execBdv c a off1 off2 s = _
  unfold execBdv
  rw [State.checked_ok hr.2]
  dsimp only
  rw [if_neg (by simp [hm]), if_pos htb]
  congr 1
  exact State.toTarget_passes hp _

/-- No lane takes the branch. -/
theorem execBdv_fallsThrough (hm : s.run.mmode = false) (ht : s.run.bdvTaken c a = 0) (hf : s.run.em ≠ 0) :
    exec (.bdv c a off1 off2) s = .next (
      match s.push ⟨(offsetTarget s off2).setWidth 56, s.run.nextHdr, 0, s.run.em, s.run.em⟩ with
      | some u => u.done { u.run with em := s.run.em, pc := s.run.nextHdr } 1
      | none => s.faultExact 0x42) := by
  have hfb : (s.run.em != 0) = true := by simpa using hf
  show execBdv c a off1 off2 s = _
  unfold execBdv
  rw [State.checked_ok hr.2]
  dsimp only
  have hn : s.run.em &&& ~~~s.run.bdvTaken c a = s.run.em := by rw [ht]; exact BitVec.and_allOnes
  rw [if_neg (by simp [hm]), if_neg (by simp [ht]), hn, if_pos hfb]
  rfl

/-- No lane is active: the group goes to the join. -/
theorem execBdv_empty {s1 : State} (hm : s.run.mmode = false) (ht : s.run.bdvTaken c a = 0) (hf : s.run.em = 0)
    (hp : passes s (offsetTarget s off2) s1) :
    exec (.bdv c a off1 off2) s = .next (
      match s1.push ⟨(offsetTarget s off2).setWidth 56, s.run.nextHdr, 0, s.run.em, 0⟩ with
      | some u => u.done { u.run with em := 0, pc := (offsetTarget s off2).setWidth 56 } 1
      | none => s1.faultExact 0x42) := by
  show execBdv c a off1 off2 s = _
  unfold execBdv
  rw [State.checked_ok hr.2]
  dsimp only
  rw [if_neg (by simp [hm]), if_neg (by simp [ht]), if_neg (by simp [hf])]
  congr 1
  exact State.toTarget_passes hp _

end Bdv

/-- A push on chip and the rest of a BDV are one completion. -/
theorem State.push_done {s : State} (e : StackEntry) (h : s.run.stack.length < 32) (em : Lane) (pc : Addr) (d : State) :
    becomes s (match s.push e with
      | some u => u.done { u.run with em := em, pc := pc } 1
      | none => d) { s.run with stack := e :: s.run.stack, em := em, pc := pc } 1 := by
  have hd := State.done_setRun s (h := { s.run with stack := e :: s.run.stack }) { s.run with stack := e :: s.run.stack, em := em, pc := pc } 1
    rfl rfl rfl rfl
  rw [State.push_short e h]
  exact (congrArg (becomes s · _ 1) hd).mpr (State.done_becomes s _ 1)

/-- The parts of JOIN: what it answers for each stack (R171, R172). -/
theorem execJoin_mmode {s : State} (hm : s.run.mmode = true) : exec .join s = .next (s.faultExact 0x02) := by
  show execJoin s = _
  simp [execJoin, hm]

theorem execJoin_mismatch {s : State} (hm : s.run.mmode = false) (h : ∀ top rest, s.run.stack = top :: rest → top.jpc ≠ s.run.hdr) :
    exec .join s = .next (s.faultExact 0x03) := by
  show execJoin s = _
  unfold execJoin
  dsimp only
  rw [if_neg (by simp [hm])]
  split
  · rfl
  · rename_i top rest hs
    rw [if_pos (by simpa using h top rest hs)]

section Join
variable {s : State} {top : StackEntry} {rest : List StackEntry} (hm : s.run.mmode = false) (hs : s.run.stack = top :: rest)
  (hj : top.jpc = s.run.hdr)
include hm hs hj

/-- The pending side runs. -/
theorem execJoin_side (hp : top.pmask &&& s.run.live ≠ 0) :
    exec .join s = .next (s.done { s.run with
      em := top.pmask &&& s.run.live, stack := { top with smask := top.pmask &&& s.run.live, pmask := 0 } :: rest, pc := top.ppc } 1) := by
  have hpb : (top.pmask &&& s.run.live != 0) = true := by simpa using hp
  show execJoin s = _
  unfold execJoin
  simp only [hm, hs, hj, bne_self_eq_false, Bool.false_eq_true, if_false, hpb, if_true]

/-- No lane of the pending side is left: the entry goes. -/
theorem execJoin_pop (hp : top.pmask &&& s.run.live = 0) :
    exec .join s = .next (match s.pop with
      | some u => u.done { u.run with em := top.rmask &&& s.run.live, pc := s.run.nextHdr } 1
      | none => s.stackFault) := by
  show execJoin s = _
  unfold execJoin
  simp only [hm, hs, hj, hp, bne_self_eq_false, Bool.false_eq_true, if_false]
  cases s.pop <;> rfl

end Join

/-! ## The part of the stack that is in memory -/

/-- An entry reads back as it was written, but for its SMASK (R170). -/
theorem StackEntry.ofBits_bits (e : StackEntry) : StackEntry.ofBits e.bits = { e with smask := e.rmask &&& ~~~e.pmask } := by
  have h1 : e.bits.extractLsb' 144 56 = e.jpc := by
    ext i hi
    simp [StackEntry.bits, hi, show 144 + i < 256 by omega,
      BitVec.getLsbD_of_ge e.ppc (144 + i - 80) (by omega),
      BitVec.getLsbD_of_ge e.pmask (144 + i - 32) (by omega), BitVec.getLsbD_of_ge e.rmask (144 + i) (by omega)]
  have h2 : e.bits.extractLsb' 80 56 = e.ppc := by
    ext i hi
    simp [StackEntry.bits, hi, show 80 + i < 256 by omega, show 80 + i < 144 by omega,
      BitVec.getLsbD_of_ge e.pmask (80 + i - 32) (by omega), BitVec.getLsbD_of_ge e.rmask (80 + i) (by omega)]
  have h3 : e.bits.extractLsb' 32 32 = e.pmask := by
    ext i hi
    simp [StackEntry.bits, hi, show 32 + i < 256 by omega, show 32 + i < 144 by omega, show 32 + i < 80 by omega]
  have h4 : e.bits.extractLsb' 0 32 = e.rmask := by
    ext i hi
    simp [StackEntry.bits, hi, show i < 256 by omega, show i < 144 by omega, show i < 80 by omega]
  simp only [StackEntry.ofBits, h1, h2, h3, h4]

@[simp] theorem State.freeAll_mem (s : State) : s.freeAll.mem = s.mem :=
  List.foldlRecOn s.cores _ (motive := fun t : State => t.mem = s.mem) rfl fun _ h _ _ => h

@[simp] theorem State.freeAll_ctxs (s : State) : s.freeAll.ctxs = s.ctxs :=
  List.foldlRecOn s.cores _ (motive := fun t : State => t.ctxs = s.ctxs) rfl fun _ h _ _ => h

theorem Ctx.logs_of_desc {c d : Ctx} (h : c.desc = d.desc) : c.logs = d.logs := by simp [Ctx.logs, h]
theorem Ctx.logBase_of_desc {c d : Ctx} (h : c.desc = d.desc) : c.logBase = d.logBase := by simp [Ctx.logBase, h]

theorem Ctx.header_length (c : Ctx) (w : Word) : (c.header w).length = 10 := by simp [Ctx.header]

/-- Storing a context that logs puts it in its table and its header in memory (R260). -/
theorem State.setCtxLog_logs (s : State) (part ctx : Nat) {d : Ctx} (h : d.logs = true) :
    ∃ d' w, d'.desc = d.desc ∧ (s.setCtxLog part ctx d).ctxs = Tbl.put s.ctxs (ctxKey part ctx) d' ∧
      (s.setCtxLog part ctx d).mem = Memory.words s.mem d'.logBase (d'.header w) := by
  have hd : ({ Ctx.watermark (s.logHwm d) 16 d with due := false } : Ctx).desc = d.desc := Ctx.watermark_desc _ _ d
  unfold State.setCtxLog
  generalize ({ Ctx.watermark (s.logHwm d) 16 d with due := false } : Ctx) = d' at hd ⊢
  rw [if_pos h]
  refine ⟨d', Memory.word s.mem (d'.logBase + 8), hd, ?_⟩
  dsimp only
  split <;> simp

/-- Storing a context with its log writes the context and the ten words of its header, and nothing else of memory (R260). -/
theorem State.setCtxLog_writes (s : State) (part ctx : Nat) (d : Ctx) :
    (∃ d', d'.desc = d.desc ∧ (s.setCtxLog part ctx d).ctxs = Tbl.put s.ctxs (ctxKey part ctx) d') ∧
    (Memory.wf s.mem = true → Memory.wf (s.setCtxLog part ctx d).mem = true) ∧
    ∀ b, (d.logs = true → b < d.logBase ∨ d.logBase + 80 ≤ b) → Memory.get (s.setCtxLog part ctx d).mem b = Memory.get s.mem b := by
  by_cases hl : d.logs = true
  · obtain ⟨d', w, hd, hc, hm⟩ := s.setCtxLog_logs part ctx hl
    rw [hm]
    refine ⟨⟨d', hd, hc⟩, fun h => Memory.words_wf h _ _, fun b h => Memory.get_words_out _ _ ?_⟩
    rw [Ctx.header_length, Ctx.logBase_of_desc hd]
    exact h hl
  · have he : s.setCtxLog part ctx d = s.setCtx part ctx d := by unfold State.setCtxLog; exact if_neg hl
    rw [he]
    exact ⟨⟨d, rfl, rfl⟩, id, fun _ _ => rfl⟩

theorem Tbl.mem_put {α : Type} {t : Tbl α} {n : Nat} {x : α} {y : Nat × α} (h : y ∈ Tbl.put t n x) : y = (n, x) ∨ y ∈ t := by
  induction t with
  | nil => exact .inl (List.mem_singleton.1 h)
  | cons c t ih =>
    obtain ⟨k, v⟩ := c
    unfold Tbl.put at h
    split_ifs at h with h1 h2
    · exact (List.mem_cons.1 h)
    · exact (List.mem_cons.1 h).imp_right (List.mem_cons_of_mem _)
    · rcases List.mem_cons.1 h with h | h
      · exact .inr (h ▸ List.mem_cons_self)
      · exact (ih h).imp_right (List.mem_cons_of_mem _)

theorem Tbl.mem_of_find {α : Type} {t : Tbl α} {n : Nat} {x : α} (h : Tbl.find t n = some x) : (n, x) ∈ t := by
  induction t with
  | nil => cases h
  | cons c t ih =>
    obtain ⟨k, v⟩ := c
    unfold Tbl.find at h
    split_ifs at h with h1
    · cases h; subst h1; exact List.mem_cons_self
    · exact List.mem_cons_of_mem _ (ih h)

theorem homeSlice_lt (pa : Nat) : homeSlice pa < 128 := by
  have h (x : Nat) : x % 128 < 2 ^ 7 := Nat.mod_lt _ (by decide)
  exact Nat.xor_lt_two_pow (Nat.xor_lt_two_pow (Nat.xor_lt_two_pow (Nat.xor_lt_two_pow (h _) (h _)) (h _)) (h _))
    (lt_of_lt_of_le (Nat.mod_lt _ (by decide)) (by decide))

/-- A log that has room for the record of a sector takes it. -/
theorem State.room_of_logRoom {s : State} {sector part ctx grid : Nat} {c : Ctx} (hc : s.ctx? part ctx = some c)
    (h : s.logRoom [sector] part ctx grid = true) (hcap : s.captures sector part ctx grid = true) :
    (c.full || !c.room (homeSlice sector / 16) 1) = false := by
  have hseg : homeSlice sector / 16 < 8 := by have := homeSlice_lt sector; omega
  have hd : [sector].dedup = [sector] := List.dedup_eq_self.2 (List.nodup_singleton _)
  have hn : segCount (homeSlice sector / 16) [sector] = 1 := by simp [segCount]
  unfold State.logRoom at h
  simp only [hc, List.filter_cons, hcap, if_true, List.filter_nil, hd, List.isEmpty_cons, Bool.false_or,
    Bool.and_eq_true, Bool.not_eq_true', List.all_eq_true, List.mem_range] at h
  obtain ⟨hf, hr⟩ := h
  have hr := hr _ hseg
  rw [hn] at hr
  simpa [hf] using hr

/-- A write of a whole sector that no log's header holds, whose record the log has room for: its bytes are there, and every other byte but
those of log headers is as before (R238, R260, R263). -/
theorem State.performSector_mem {s : State} {a part ctx grid : Nat} {bs : List Byte} (hwf : Memory.wf s.mem = true) (hal : a % 32 = 0)
    (hroom : s.logRoom [a / 32 * 32] part ctx grid = true) (hoff : offHeaders s a 32) (cap : Bool) :
    let t := s.performSector a (bs.map some) cap part ctx grid
    (∀ b, b < a ∨ a + bs.length ≤ b → (∀ k c, (k, c) ∈ s.ctxs → c.logs = true → b < c.logBase ∨ c.logBase + 80 ≤ b) →
      Memory.get t.mem b = Memory.get s.mem b) ∧ Memory.read t.mem a bs.length = bs := by
  have hsec : a / 32 * 32 = a := by omega
  have write (u : State) (hu : Memory.wf u.mem = true)
      (hd : ∀ x, x ∈ u.ctxs → ∃ y, y ∈ s.ctxs ∧ y.2.desc = x.2.desc)
      (hm : ∀ b, (∀ k c, (k, c) ∈ s.ctxs → c.logs = true → b < c.logBase ∨ c.logBase + 80 ≤ b) → Memory.get u.mem b = Memory.get s.mem b) :
      let t := { u with mem := Memory.writeMask u.mem a (bs.map some) }.keepHeaders (a / 32 * 32)
      (∀ b, b < a ∨ a + bs.length ≤ b → (∀ k c, (k, c) ∈ s.ctxs → c.logs = true → b < c.logBase ∨ c.logBase + 80 ≤ b) →
        Memory.get t.mem b = Memory.get s.mem b) ∧ Memory.read t.mem a bs.length = bs := by
    have hk : { u with mem := Memory.writeMask u.mem a (bs.map some) }.keepHeaders (a / 32 * 32) =
        { u with mem := Memory.writeMask u.mem a (bs.map some) } := by
      unfold State.keepHeaders
      rw [List.find?_eq_none.2]
      intro x hx hh
      obtain ⟨⟨k, y⟩, hy, hyd⟩ := hd x hx
      simp only [Bool.and_eq_true, decide_eq_true_eq] at hh
      have := hoff k y hy ((Ctx.logs_of_desc hyd).trans hh.1)
      rw [Ctx.logBase_of_desc hyd] at this
      omega
    rw [hk]
    refine ⟨fun b hb hl => ?_, ?_⟩
    · rw [Memory.get_writeMask_out _ _ (by simpa using hb)]
      exact hm b hl
    · refine List.ext_getElem (by simp) fun i h1 h2 => ?_
      rw [Memory.read_get _ _ _ _ h2, Memory.get_writeMask_in hu a _ i (by simpa using h2)]
      simp
  unfold State.performSector
  dsimp only
  split
  · rename_i hcap
    obtain ⟨-, hcap⟩ := Bool.and_eq_true_iff.1 hcap
    split
    · exact write s hwf (fun x hx => ⟨x, hx, rfl⟩) fun _ _ => rfl
    · rename_i c hc
      have hfull := State.room_of_logRoom hc hroom hcap
      rw [hsec] at hfull
      rw [if_neg (by rw [hfull]; decide)]
      obtain ⟨⟨d', hd', hput⟩, hw, hget⟩ := State.setCtxLog_writes _ part ctx _
      refine write _ (hw hwf) (fun x hx => ?_) fun b hb => ?_
      · rw [hput] at hx
        have hcm : (ctxKey part ctx, c) ∈ s.ctxs := Tbl.mem_of_find hc
        rcases Tbl.mem_put hx with rfl | hx
        · exact ⟨_, hcm, hd'.symm⟩
        · exact ⟨x, hx, rfl⟩
      · exact hget b (hb _ c (Tbl.mem_of_find hc))
  · exact write s hwf (fun x hx => ⟨x, hx, rfl⟩) fun _ _ => rfl

/-- A write of an aligned sector performs in one piece. -/
theorem State.perform_sector (s : State) {a : Nat} (bs : List Byte) (hal : a % 32 = 0) (hl : bs.length = 32) (cap : Bool)
    (part ctx grid : Nat) : s.perform a (bs.map some) cap part ctx grid = s.performSector a (bs.map some) cap part ctx grid := by
  have hk : 32 - a % 32 = 32 := by omega
  have he : (bs.map some).isEmpty = false := by cases bs <;> simp_all
  have ht : (bs.map some).take 32 = bs.map some := List.take_of_length_le (by simp [hl])
  have hd : (bs.map some).drop 32 = [] := List.drop_of_length_le (by simp [hl])
  unfold State.perform
  rw [List.length_map, hl]
  simp [splitSectors, hk, he, ht, hd]

@[simp] theorem State.mended_mem (s : State) (a : Nat) : (s.mended a).mem = s.mem := rfl

/-- The write of a whole sector mends it (R170). -/
theorem State.mended_bad (s : State) (a : Nat) : (s.mended a).dev.bad.contains (a / 32) = false := by
  rw [Bool.eq_false_iff, Ne, List.contains_iff_mem]
  simp [State.mended]

/-- The group whose push of `e` spills its oldest entry. -/
def Group.spills (g : Group) (e : StackEntry) : Group :=
  { g with stack := e :: g.stack.dropLast, mdepth := g.mdepth + 1, wait := .stackAccess false }

/-- A push that finds 32 entries on chip and room in the save area writes the oldest there (R170). -/
theorem State.push_spills {s : State} (e : StackEntry) {old : StackEntry} (hl : s.run.stack.length = 32)
    (hold : s.run.stack.getLast? = some old) (hd : s.run.mdepth < 1024) (hreg : region (s.stackAddr s.run.mdepth) = .dev) :
    s.push e = some (((s.setRun (s.run.spills e)).perform (s.stackAddr s.run.mdepth) ((leBytes old.bits.toNat 32).map some) true s.run.part
      s.run.ctx s.run.grid).mended (s.stackAddr s.run.mdepth)) := by
  have hif : (decide (1024 ≤ s.run.mdepth) || region (s.stackAddr s.run.mdepth) != .dev) = false := by simp [hreg, hd]
  simp only [State.push, hl, Nat.lt_irrefl, if_false, hif, Bool.false_eq_true, hold, Option.map_some, Option.getD_some]
  rfl

/-- What the spill of an entry leaves: its bytes at its place, and every other byte but those of log headers (R170, R260). -/
theorem State.spill_writes {s : State} {a : Nat} (g : Group) (x : BitVec 256) (part ctx grid : Nat) (hwf : Memory.wf s.mem = true)
    (hroom : s.logRoom [a / 32 * 32] part ctx grid = true) (hal : a % 32 = 0) (hoff : offHeaders s a 32) :
    let t := ((s.setRun g).perform a ((leBytes x.toNat 32).map some) true part ctx grid).mended a
    t.run = g ∧ t.dev.bad.contains (a / 32) = false ∧
      (∀ b, b < a ∨ a + 32 ≤ b → (∀ k c, (k, c) ∈ s.ctxs → c.logs = true → b < c.logBase ∨ c.logBase + 80 ≤ b) →
        Memory.get t.mem b = Memory.get s.mem b) ∧
      Memory.read t.mem a 32 = leBytes x.toNat 32 := by
  have hl := leBytes_length x.toNat 32
  obtain ⟨hout, hin⟩ := State.performSector_mem (s := s.setRun g) (bs := leBytes x.toNat 32) hwf hal hroom hoff true
  rw [hl] at hout hin
  refine ⟨(State.served_perform _ _ _ _ _ _ _).run, State.mended_bad _ a, ?_⟩
  rw [State.mended_mem, State.perform_sector _ _ hal hl]
  exact ⟨hout, hin⟩

/-- A pop that leaves 31 entries reads the newest of those in memory back (R170). -/
theorem State.pop_refill {s : State} {top old : StackEntry} {rest : List StackEntry} (hs : s.run.stack = top :: rest)
    (hl : rest.length = 31) (hd : 0 < s.run.mdepth) (hreg : region (s.stackAddr (s.run.mdepth - 1)) = .dev)
    (hbad : s.dev.bad.contains (s.stackAddr (s.run.mdepth - 1) / 32) = false)
    (hm : Memory.read s.mem (s.stackAddr (s.run.mdepth - 1)) 32 = leBytes old.bits.toNat 32) :
    s.pop = some (s.setRun { s.run with
      stack := rest ++ [{ old with smask := old.rmask &&& ~~~old.pmask }], mdepth := s.run.mdepth - 1, wait := .stackAccess true }) := by
  have hx : BitVec.ofNat 256 (leNat (leBytes old.bits.toNat 32)) = old.bits := by
    rw [leNat_leBytes]
    refine BitVec.eq_of_toNat_eq ?_
    rw [BitVec.toNat_ofNat, show 256 ^ 32 = 2 ^ 256 by norm_num, Nat.mod_mod, Nat.mod_eq_of_lt old.bits.isLt]
  have hif : (region (s.stackAddr (s.run.mdepth - 1)) != .dev || s.isBad (s.stackAddr (s.run.mdepth - 1))) = false := by
    simp only [State.isBad, hreg, hbad]; rfl
  simp only [State.pop, hs, List.tail_cons, if_pos (And.intro hl hd), hif, Bool.false_eq_true, if_false, hm, hx, StackEntry.ofBits_bits]

/-- A refill of an entry that an uncorrectable error has struck fails, and the error is reported as well (R170, R393). -/
theorem execJoin_struck {s : State} {top : StackEntry} {rest : List StackEntry} (hm : s.run.mmode = false) (hs : s.run.stack = top :: rest)
    (hl : rest.length = 31) (hd : 0 < s.run.mdepth) (hj : top.jpc = s.run.hdr) (hp : top.pmask &&& s.run.live = 0)
    (hbad : s.dev.bad.contains (s.stackAddr (s.run.mdepth - 1) / 32) = true) :
    exec .join s = .next { s.faultExact 0x42 with
      pending := .uncorrectableError (.logOrSave s.run.part s.run.ctx) :: (s.faultExact 0x42).pending } := by
  have hif : (region (s.stackAddr (s.run.mdepth - 1)) != .dev || s.isBad (s.stackAddr (s.run.mdepth - 1))) = true := by
    simp only [State.isBad, hbad, Bool.or_true]
  have hpop : s.pop = none := by
    simp only [State.pop, hs, List.tail_cons, if_pos (And.intro hl hd), hif, if_true]
  rw [execJoin_pop hm hs hj hp, hpop]
  unfold State.stackFault State.isBad
  rw [if_pos hbad]

end Sys2Proof.Machine

namespace Sys2Proof.Claims

open Sys2Proof.Machine

/-- The place of the newest entry in memory, after a push to it. -/
theorem stackAddr_after_push {s u : State} {a : Nat} (ha : a = s.teamImage s.run + 0x20000 + 0x8000 * s.run.num + 32 * s.run.mdepth)
    (hd : u.run.mdepth = s.run.mdepth + 1)
    (hi : u.teamImage u.run + 0x8000 * u.run.num = s.teamImage s.run + 0x8000 * s.run.num) : u.stackAddr (u.run.mdepth - 1) = a := by
  show u.teamImage u.run + 0x20000 + 0x8000 * u.run.num + 32 * (u.run.mdepth - 1) = a
  omega

/-- Settles O19: BDV and JOIN by the lemmas about each of their cases; a spill and its refill by what the write of a sector leaves in memory
(`State.push_spill`, `State.pop_refill`); EXIT is one completion. -/
theorem divergenceStackAndExit : Obligations.DivergenceStackAndExit := by
  unfold Obligations.DivergenceStackAndExit
  refine ⟨fun s s1 c a off1 off2 => ?_, fun s e old rest a hwf hl hold ha => ?_, fun s => ?_⟩
  · refine ⟨fun hr hm hlen t f ht hf => ?_, fun hr hm => ⟨_, execBdv_mmode hr hm, rfl⟩, fun hm => ⟨_, execJoin_mmode hm, rfl⟩,
      fun hm h => ⟨_, execJoin_mismatch hm h, rfl⟩, fun hm top rest hs hj => ⟨fun hp => ?_, fun hp hd => ?_⟩⟩
    · have htk : s.run.bdvTaken c a = t := Group.bdvTaken_eq _ _ _ _ fun l hl => by
        rw [ht l hl]; cases c <;> simp [cndValue]
      subst hf
      refine ⟨fun h0 hp => ?_, fun h0 hf => ?_, fun h0 hf hp => ?_⟩
      · have hrun := passes_run hp
        refine ⟨_, execBdv_taken hr hm (htk ▸ h0) hp, ?_⟩
        rw [htk, ← hrun]
        exact State.push_done _ (hrun ▸ hlen) _ _ _
      · subst h0
        have he : s.run.em &&& ~~~(0 : Lane) = s.run.em := BitVec.and_allOnes
        rw [he] at hf ⊢
        exact ⟨_, execBdv_fallsThrough hr hm htk hf, State.push_done _ hlen _ _ _⟩
      · subst h0
        have he : s.run.em &&& ~~~(0 : Lane) = s.run.em := BitVec.and_allOnes
        rw [he] at hf
        have hrun := passes_run hp
        refine ⟨_, execBdv_empty hr hm htk hf hp, ?_⟩
        rw [← hrun]
        exact State.push_done _ (hrun ▸ hlen) _ _ _
    · exact ⟨_, execJoin_side hm hs hj hp, State.done_becomes _ _ _⟩
    · refine ⟨_, execJoin_pop hm hs hj hp, ?_⟩
      rw [State.pop_short hs hd]
      have h := State.done_setRun s (h := { s.run with stack := rest })
        { s.run with em := top.rmask &&& s.run.live, pc := s.run.nextHdr, stack := rest } 1 rfl rfl rfl rfl
      exact (congrArg (becomes s · _ 1) h).mpr (State.done_becomes s _ 1)
  · have hs : a = s.stackAddr s.run.mdepth := ha
    refine ⟨fun h => State.push_full e hl (hs ▸ h), fun hd hm s1 c v off1 off2 hr => ⟨fun ht hf => ?_, fun ht hp => ?_⟩,
      fun hd hreg _ hroom hal hoff => ?_, fun u top hm hst hlen hdep hj hp himg hbad => ?_⟩
    · rw [execBdv_fallsThrough hr hm ht hf, State.push_full _ hl (.inl hd)]
    · have hrun := passes_run hp
      rw [execBdv_taken hr hm ht hp, State.push_full _ (hrun ▸ hl) (.inl (hrun ▸ hd))]
    · have hpush := State.push_spills e hl hold hd (hs ▸ hreg)
      rw [← hs] at hpush
      obtain ⟨hrun, hbad, hout, hin⟩ := State.spill_writes (s.run.spills e) old.bits s.run.part s.run.ctx s.run.grid hwf hroom hal hoff
      refine ⟨_, hpush, ?_⟩
      rw [hrun]
      refine ⟨rfl, rfl, rfl, rfl, hbad, hout, fun u top hst hlen hdep hmem hub himg => ?_⟩
      have hu : u.stackAddr (u.run.mdepth - 1) = a := stackAddr_after_push ha hdep himg
      refine ⟨_, State.pop_refill (old := old) hst hlen (by omega) (hu ▸ hreg) (hu ▸ hub) (by rw [hu, hmem]; exact hin), ?_, rfl, rfl, rfl⟩
      simp [hdep]
    · have hu : u.stackAddr (u.run.mdepth - 1) = a := stackAddr_after_push ha hdep himg
      exact execJoin_struck hm hst hlen (by omega) hj hp (hu ▸ hbad)
  · refine ⟨⟨_, rfl, State.done_becomes _ _ _⟩, fun h0 => ⟨_, rfl, ?_⟩, fun h0 => ⟨_, rfl, ?_⟩⟩
    · rw [if_pos h0]; exact State.done_becomes _ _ _
    · rw [if_neg h0]; exact State.done_becomes _ _ _

end Sys2Proof.Claims
end

section
/-! SUPPORT. How a team is placed, moved and retired, and how its grid completes (R19, R21, R24, R28, R82, R198). -/

namespace Sys2Proof.Machine

theorem Tbl.find_del_same {α : Type} (t : Tbl α) (n : Nat) : Tbl.find (Tbl.del t n) n = none := by
  induction t with
  | nil => rfl
  | cons c t ih =>
    obtain ⟨k, v⟩ := c
    by_cases h : k = n
    · subst h; simpa [Tbl.del] using ih
    · have hd : Tbl.del ((k, v) :: t) n = (k, v) :: Tbl.del t n := by simp [Tbl.del, h]
      rw [hd, Tbl.find, if_neg h, ih]

section
variable {α β : Type} (key : β → Nat) (val : β → α)

/-- What is put under other numbers does not matter. -/
theorem Tbl.find_foldl_put_ne (xs : List β) (t : Tbl α) {k : Nat} (hk : k ∉ xs.map key) :
    Tbl.find (xs.foldl (fun t x => Tbl.put t (key x) (val x)) t) k = Tbl.find t k := by
  induction xs generalizing t with
  | nil => rfl
  | cons y ys ih =>
    obtain ⟨hy, hys⟩ := not_or.1 (mt List.mem_cons.2 hk)
    rw [List.foldl_cons, ih _ hys, Tbl.find_put_ne _ _ hy]

/-- Of groups with different numbers that are put in a table, each is found. -/
theorem Tbl.find_foldl_put (xs : List β) (t : Tbl α) (hn : (xs.map key).Nodup) {x : β} (hx : x ∈ xs) :
    Tbl.find (xs.foldl (fun t x => Tbl.put t (key x) (val x)) t) (key x) = some (val x) := by
  induction xs generalizing t with
  | nil => cases hx
  | cons y ys ih =>
    rw [List.map_cons, List.nodup_cons] at hn
    rw [List.foldl_cons]
    rcases List.mem_cons.1 hx with rfl | hx
    · rw [Tbl.find_foldl_put_ne key val _ _ hn.1, Tbl.find_put_same]
    · exact ih _ hn.2 hx

end

/-! ## Placement -/

theorem placeGroups_length {q : Quota} {team : Nat} {hs : List Held} {bs : List Nat} {gs : List (Nat × Nat)}
    (h : placeGroups q team hs bs = some gs) : gs.length = bs.length := by
  induction bs generalizing hs gs with
  | nil => cases h; rfl
  | cons b bs ih =>
    unfold placeGroups at h
    split at h
    · cases h
    · obtain ⟨gs', hg, rfl⟩ := Option.map_eq_some_iff.1 h
      simp [ih hg]

/-- A team that has room waits to be placed, and each of its groups has its place. -/
theorem State.roomFor_some {s : State} {g : Grid} {team : Nat} {p : Placement} (h : s.roomFor g team = some p) :
    s.wants g team = true ∧ p.groups.length = g.groupsOf.length := by
  unfold State.roomFor at h
  split at h
  · rename_i hw
    obtain ⟨n, -, hf⟩ := List.exists_of_findSome?_eq_some h
    refine ⟨hw, ?_⟩
    unfold State.fit at hf
    split at hf
    · rename_i hg _
      cases hf
      simpa using placeGroups_length hg
    · cases hf
  · cases h

/-- A team that has never been placed and waits has an image slot. -/
theorem State.freeImage_of_wants {s : State} {g : Grid} {team : Nat} (h : s.wants g team = true) (hn : s.team? (teamKey g.id team) = none) :
    (s.freeImage g.part g.ctx).isSome = true := by
  unfold State.wants at h
  rw [hn] at h
  simp only [Bool.and_eq_true] at h
  exact h.2.2

/-- A placement counts for the grids of the core, which keep all else. -/
theorem State.passOver_grid (s : State) (gid n k : Nat) :
    (s.passOver gid n).grid? k = (s.grid? k).map fun x => { x with passedOver := if k = gid then 0 else
      if (((s.rivals n).map (·.1.id)).dedup.contains k) then x.passedOver + 1 else x.passedOver } := by
  unfold State.passOver State.grid?
  dsimp only
  rw [Tbl.find_map_key _ fun x => by split_ifs <;> rfl]
  congr 1
  funext x
  split_ifs <;> rfl

theorem State.passOver_freeImage (s : State) (gid n part ctx : Nat) : (s.passOver gid n).freeImage part ctx = s.freeImage part ctx := by
  have hd : (s.passOver gid n).desc part ctx = s.desc part ctx := rfl
  have ht : (s.passOver gid n).teams = s.teams := rfl
  unfold State.freeImage
  rw [hd, ht]
  have hg (k : Nat) (b : Bool) (f : Grid → Bool) (hf : ∀ x j, f { x with passedOver := j } = f x) :
      ((s.passOver gid n).grid? k).elim b f = (s.grid? k).elim b f := by
    rw [State.passOver_grid]
    cases s.grid? k with
    | none => rfl
    | some x => exact hf x _
  simp only [hg _ _ (fun g => g.part == part && g.ctx == ctx) fun _ _ => rfl]

/-- A team is placed for the first time where there is room and no rival goes first (R21, R287). -/
theorem State.place1_new {s : State} {grid team : Nat} {g : Grid} {p : Placement} (hg : s.grid? grid = some g) (hid : g.id = grid)
    (hn : s.team? (teamKey grid team) = none) (hp : s.roomFor g team = some p) (hf : s.firstAt g p.core = true) :
    ∃ i, s.place1 grid team = some ((s.passOver grid p.core).create { g with passedOver := 0 } team i p) := by
  have hi := State.freeImage_of_wants (State.roomFor_some hp).1 (hid ▸ hn)
  rw [← s.passOver_freeImage grid p.core] at hi
  obtain ⟨i, hi⟩ := Option.isSome_iff_exists.1 hi
  have hg1 : (s.passOver grid p.core).grid? grid = some { g with passedOver := 0 } := by rw [State.passOver_grid, hg]; simp
  exact ⟨i, by simp [State.place1, hg, hp, hf, hn, hi, hg1]⟩

/-- TEAM_PLACEMENT of a team that is placed alone. -/
theorem execTeamPlacement_new {s : State} {grid team : Nat} {g : Grid} {p : Placement} (hg : s.grid? grid = some g) (hid : g.id = grid)
    (hn : s.team? (teamKey grid team) = none) (hp : s.roomFor g team = some p) (hf : s.firstAt g p.core = true)
    (hc : g.coop = false ∨ g.marking = true) :
    ∃ i, exec (.teamPlacement grid team) s = .next ((s.passOver grid p.core).create { g with passedOver := 0 } team i p) := by
  obtain ⟨i, hi⟩ := State.place1_new hg hid hn hp hf
  have hcomp : s.companions g team = [team] := by
    unfold State.companions
    rw [if_neg]
    rcases hc with hc | hc <;> simp [hc]
  refine ⟨i, ?_⟩
  show execTeamPlacement grid team s = _
  simp [execTeamPlacement, hg, hp, hcomp, State.placeAll, hi]

theorem groupId_inj {key m n : Nat} (h : groupId key m = groupId key n) : m = n := by
  unfold groupId at h
  omega

/-- The groups of a new team, each in the state of R19. -/
theorem State.create_group (s : State) (g : Grid) (team image : Nat) (p : Placement) (hl : p.groups.length = g.groupsOf.length) (num : Nat)
    (h : num < g.groupsOf.length) :
    Tbl.find (s.create g team image p).groups (groupId (teamKey g.id team) num) =
      some (newGroup g team (s.initTvt g.part g.ctx) p.core num (g.groupsOf[num]).1 (g.groupsOf[num]).2 (p.groups[num]'(hl ▸ h)).1
        (p.groups[num]'(hl ▸ h)).2 s.turn) := by
  let make (x : ((Nat × Nat) × Nat × Nat) × Nat) : Group :=
    newGroup g team (s.initTvt g.part g.ctx) p.core x.2 x.1.1.1 x.1.1.2 x.1.2.1 x.1.2.2 s.turn
  have he : (s.create g team image p).groups =
      ((g.groupsOf.zip p.groups).zipIdx.map make).foldl (fun t x => Tbl.put t x.gid x) s.groups := rfl
  have hx : ((g.groupsOf[num], p.groups[num]'(hl ▸ h)), num) ∈ (g.groupsOf.zip p.groups).zipIdx := by
    rw [List.mem_zipIdx_iff_getElem?]
    simp [h, hl]
  have hn : (((g.groupsOf.zip p.groups).zipIdx.map make).map Group.gid).Nodup := by
    rw [List.map_map]
    have hs : (((g.groupsOf.zip p.groups).zipIdx.map Prod.snd).map (groupId (teamKey g.id team))).Nodup := by
      rw [List.zipIdx_map_snd]
      exact List.Nodup.map (fun _ _ h => groupId_inj h) (List.nodup_range' ..)
    rwa [List.map_map] at hs
  rw [he]
  exact Tbl.find_foldl_put Group.gid id _ _ hn (List.mem_map_of_mem hx)

/-! ## Compaction -/

/-- A group that is put back where it was is found there. -/
theorem State.group_setGroup (s : State) (g : Group) : (s.setGroup g).group? g.gid = some g := by
  unfold State.setGroup State.group?
  by_cases h : (s.active && decide (s.run.gid = g.gid)) = true
  · rw [if_pos h]
    have ha : s.active = true := (Bool.and_eq_true_iff.1 h).1
    simp [ha]
  · rw [if_neg h, if_neg h]
    exact Tbl.find_put_same _ _ _

@[simp] theorem State.setGroup_cores (s : State) (g : Group) : (s.setGroup g).cores = s.cores := by
  unfold State.setGroup; split <;> rfl

/-- The move that R82 chooses for a group at its clause boundary. -/
theorem execCompaction_moves {s : State} {n gid pipe sl bl : Nat} {x : Group} {r : Grid × Nat} {m : Held × Nat} (hx : s.group? gid = some x)
    (hk : x.kind = .compute) (hn : x.core = n) (hc : x.clause = none) (hrun : ∀ c, x.run ≠ .stopped c) (hh : x.inHandler = false)
    (hr : (s.rivals n).find? (fun r => r.1.part == x.part && s.fragmentedFor n r.1 r.2) = some r) (hm : s.nextMove n r.1 r.2 = some m)
    (hs : m.1.slot = x.slot) (hp : m.2 = pipe) (hy : ∀ y, s.grid? x.grid = some y → y.marking = false)
    (hsl : freeSlot (s.quota n x.part) ((s.heldOn n).filter (·.slot != x.slot)) pipe = some sl)
    (hbl : freeBlock ((s.heldOn n).filter (·.slot != x.slot)) pipe x.budget = some bl) :
    exec (.compaction n gid pipe) s = .next ((s.setCore n { s.core n with cyc := (s.core n).cyc + 64 }).setGroup
      { x with slot := sl, block := bl, memClause := false, memFrom := s.nextId }) := by
  have hstop : x.isStopped = false := by
    unfold Group.isStopped
    split
    · rename_i c h; exact absurd h (hrun c)
    · rfl
  have hmark : (s.grid? x.grid).elim false Grid.marking = false := by
    cases h : s.grid? x.grid with
    | none => rfl
    | some y => exact hy y h
  have hmay : s.mayMove x = true := by simp [State.mayMove, hstop, hh, hmark]
  have hmove : s.firstMove n x.part = some m := by simp [State.firstMove, hr, hm]
  show execCompaction n gid pipe s = _
  unfold execCompaction
  rw [hx]
  dsimp only
  rw [if_neg (by simp [hk, hn, hc, hmay]), hmove, hsl, hbl]
  dsimp only
  rw [if_pos ⟨hs, hp⟩]

/-! ## Retirement -/

/-- `t` has the teams, grids and scratchpad of `s`. -/
structure State.Kept (s t : State) : Prop where
  teams : t.teams = s.teams
  grids : t.grids = s.grids
  spad : t.spad = s.spad

theorem State.kept_refl (s : State) : s.Kept s := ⟨rfl, rfl, rfl⟩
theorem State.Kept.trans {s t u : State} (h : s.Kept t) (k : t.Kept u) : s.Kept u :=
  ⟨k.teams.trans h.teams, k.grids.trans h.grids, k.spad.trans h.spad⟩

theorem State.kept_setGroup (s : State) (g : Group) : s.Kept (s.setGroup g) := by
  unfold State.setGroup; split <;> exact ⟨rfl, rfl, rfl⟩

theorem State.kept_freeEntry (s : State) (x : MxEntry) : s.Kept (s.freeEntry x) := by
  unfold State.freeEntry State.countDown
  split
  · exact (show s.Kept (s.mapMx _) from ⟨rfl, rfl, rfl⟩).trans (State.kept_setGroup _ _)
  · exact ⟨rfl, rfl, rfl⟩

theorem State.kept_cancelMx (s : State) (p : MxEntry → Bool) : s.Kept (s.cancelMx p) :=
  List.foldlRecOn _ _ (motive := fun t : State => s.Kept t) s.kept_refl fun t h x _ => h.trans (t.kept_freeEntry x)

theorem State.kept_lapse (s : State) (core tag : Nat) : s.Kept (s.lapse core tag) := by
  unfold State.lapse
  dsimp only
  split <;> exact ⟨rfl, rfl, rfl⟩

/-- A team that leaves without a save is gone; the grids and the bytes of its window stay as they are (R28). -/
theorem State.discardTeam_leaves (s : State) (key : Nat) :
    ((s.discardTeam key).team? key = none) ∧ (s.discardTeam key).grids = s.grids ∧ (s.discardTeam key).spad = s.spad := by
  unfold State.discardTeam
  split
  · rename_i h; exact ⟨h, rfl, rfl⟩
  · rename_i t h
    dsimp only
    generalize hs0 : (if (t.at' == Residency.resident) = true then s.countClock t.core else s) = s0
    have h0 : s.Kept s0 := by subst hs0; split <;> exact ⟨rfl, rfl, rfl⟩
    generalize hgids : (s0.teamMembers key).map (·.gid) = gids
    generalize hs2 : (((s0.cancelMx fun x => gids.contains x.gid).endGrants (gids.contains ·)).dropGroups (·.inTeam key)) = s2
    have h2 : s0.Kept s2 := by
      subst hs2
      exact (s0.kept_cancelMx _).trans ⟨rfl, rfl, rfl⟩
    have hl := State.kept_lapse
      { s2 with teams := Tbl.del s2.teams key, savedMx := Tbl.del s2.savedMx key, patch := s2.patch.filter fun p => p.1 / 4 != key } t.core t.winGen
    have hfin : ∀ u : State, u.teams = Tbl.del s2.teams key → u.grids = s2.grids → u.spad = s2.spad →
        u.wakeEvict.team? key = none ∧ u.wakeEvict.grids = s.grids ∧ u.wakeEvict.spad = s.spad := fun u ht hg hs =>
      ⟨(congrArg (Tbl.find · key) ht).trans (Tbl.find_del_same _ _), hg.trans (h2.grids.trans h0.grids), hs.trans (h2.spad.trans h0.spad)⟩
    split
    · exact hfin _ hl.teams hl.grids hl.spad
    · exact hfin _ hl.teams hl.grids hl.spad

/-- TEAM_RETIRE: the team is gone and its grid counts it; held commands and the bytes of its window stay (R28). -/
theorem execTeamRetire_retires {s : State} {grid team : Nat} {g : Grid} (hg : s.grid? grid = some g) (hr : s.canRetire (teamKey grid team) = true) :
    ∃ u, exec (.teamRetire grid team) s = .next u ∧ u.team? (teamKey grid team) = none ∧
      u.grid? grid = some { g with retired := g.retired ++ [team] } ∧ u.patch = s.patch ∧ u.spad = s.spad := by
  obtain ⟨ht, hgr, hsp⟩ := s.discardTeam_leaves (teamKey grid team)
  have hg1 : ({ s.discardTeam (teamKey grid team) with patch := s.patch } : State).grid? grid = some g :=
    (congrArg (Tbl.find · grid) hgr).trans hg
  have he : exec (.teamRetire grid team) s =
      .next (({ s.discardTeam (teamKey grid team) with patch := s.patch } : State).setGrid grid { g with retired := g.retired ++ [team] }) := by
    show execTeamRetire grid team s = _
    unfold execTeamRetire
    rw [if_pos hr]
    dsimp only
    split
    · rename_i h; cases hg1.symm.trans h; rfl
    · rename_i h; cases hg1.symm.trans h
  exact ⟨_, he, ht, State.grid_find_setGrid _ _ _, rfl, hsp⟩

/-! ## The completion of a grid -/

theorem State.dropInv_only (s : State) (grid : Nat) : s.dropInv grid = { s with cores := (s.dropInv grid).cores } :=
  List.foldlRecOn _ _ (motive := fun t : State => t = { s with cores := t.cores }) rfl fun t h n _ => by rw [h]; rfl

/-- A grid without live cells completes: it is gone, and its packet is done (R28, R284). -/
theorem execGridComplete_done {s : State} {grid : Nat} {g : Grid} (hg : s.grid? grid = some g) (hd : s.gridDone g = true)
    (hc : ∀ q, q ∈ s.slices → ∀ c, c ∈ q.2.cells → c.grid ≠ grid) (hl : g.lnch = none) :
    ∃ u, exec (.gridComplete grid) s = .next u ∧ u.grid? grid = none ∧ (u.stream g.stream).taken =
      (s.stream g.stream).taken.map fun y => if y.seq = g.seq then { y with done := some (0, s.nextId) } else y := by
  have hcells : s.gridCells grid = [] := by
    simp only [State.gridCells, List.flatMap_eq_nil_iff, List.filter_eq_nil_iff, beq_iff_eq]
    exact hc
  have hnext : s.roundNext grid = true := by simp [State.roundNext, hg, hcells]
  have hroom : s.roundRoom grid = true := by
    simp only [State.roundRoom, hg, hcells, List.map_nil, State.logRoom]
    split <;> simp
  have hround : ∃ q, s.roundCells grid false = { s with slices := q } := by
    simp only [State.roundCells, hg, hcells, List.foldl_nil]
    exact ⟨_, rfl⟩
  obtain ⟨q, hq⟩ := hround
  show ∃ u, execGridComplete grid s = _ ∧ _
  unfold execGridComplete
  rw [hg]
  dsimp only
  rw [if_neg (by simp [hd, hnext]), if_neg (by simp [hroom]), hq, State.dropInv_only]
  simp only [State.tellLaunch, hl]
  refine ⟨_, rfl, Tbl.find_del_same _ _, ?_⟩
  exact congrArg Stream.taken (State.stream_setStream _ _ _)

end Sys2Proof.Machine
end

section
/-! SUPPORT. What a save of a team meets on its way: clauses that end and stores that perform move no team to another
core, and an empty buffer stays empty (R29, R51, R228, R385). -/

namespace Sys2Proof.Machine

/-! ## Buffers that a write, a translation and a count leave alone -/

/-- `t` has the store buffers of `s`. -/
structure State.SameBufs (s t : State) : Prop where
  buf : ∀ n, (t.core n).buf = (s.core n).buf

theorem State.sameBufs_refl (s : State) : s.SameBufs s := ⟨fun _ => rfl⟩
theorem State.SameBufs.trans {s t u : State} (h : s.SameBufs t) (k : t.SameBufs u) : s.SameBufs u := ⟨fun n => (k.buf n).trans (h.buf n)⟩

theorem State.sameBufs_of_cores {s t : State} (h : t.cores = s.cores) : s.SameBufs t := ⟨fun n => by unfold State.core; rw [h]⟩

theorem State.sameBufs_setCore (s : State) {n : Nat} {c : Core} (h : c.buf = (s.core n).buf) : s.SameBufs (s.setCore n c) := by
  refine ⟨fun k => ?_⟩
  by_cases hk : k = n
  · subst hk; rw [State.core_setCore]; exact h
  · rw [State.core_setCore_ne _ _ hk]

theorem State.sameBufs_freeRegs (s : State) (n : Nat) : s.SameBufs (s.freeRegs n) := s.sameBufs_setCore rfl

theorem State.sameBufs_freeAll (s : State) : s.SameBufs s.freeAll :=
  List.foldlRecOn _ _ (motive := fun t : State => s.SameBufs t) s.sameBufs_refl fun t h x _ => h.trans (t.sameBufs_freeRegs x.1)

theorem State.sameBufs_setCtxLog (s : State) (part ctx : Nat) (c : Ctx) : s.SameBufs (s.setCtxLog part ctx c) := by
  unfold State.setCtxLog
  dsimp only
  split_ifs
  · refine State.SameBufs.trans ?_ (State.sameBufs_freeAll _)
    exact ⟨fun _ => rfl⟩
  · exact ⟨fun _ => rfl⟩
  · exact ⟨fun _ => rfl⟩

theorem State.sameBufs_logFull (s : State) (part ctx : Nat) (c : Ctx) : s.SameBufs (s.logFull part ctx c) := by
  unfold State.logFull
  split_ifs
  · exact s.sameBufs_setCtxLog _ _ _
  · exact State.sameBufs_of_cores rfl
  · exact (s.sameBufs_setCtxLog part ctx { c with full := true }).trans (State.sameBufs_of_cores rfl)

theorem State.sameBufs_mark (s : State) (part ctx cause a : Nat) : s.SameBufs (s.mark part ctx cause a) := by
  unfold State.mark
  split
  · exact s.sameBufs_refl
  · dsimp only
    split_ifs
    · refine State.SameBufs.trans ?_ (State.sameBufs_setCtxLog _ _ _ _)
      exact State.sameBufs_of_cores rfl
    · exact s.sameBufs_refl

theorem State.keepHeaders_cores (s : State) (a : Nat) : (s.keepHeaders a).cores = s.cores := by
  unfold State.keepHeaders; split <;> rfl

theorem State.sameBufs_performSector (s : State) (pa : Nat) (data : List (Option Byte)) (cap : Bool) (part ctx grid : Nat) :
    s.SameBufs (s.performSector pa data cap part ctx grid) := by
  have write (t : State) : t.SameBufs ({ t with mem := Memory.writeMask t.mem pa data }.keepHeaders (pa / 32 * 32)) :=
    State.sameBufs_of_cores (State.keepHeaders_cores _ _)
  unfold State.performSector
  dsimp only
  split_ifs
  · split
    · exact write s
    · split_ifs
      · exact s.sameBufs_logFull _ _ _
      · refine State.SameBufs.trans ?_ (write _)
        exact (show s.SameBufs ((s.setSlice _ _).countSlice _ _ _ _ _) from ⟨fun _ => rfl⟩).trans (State.sameBufs_setCtxLog _ _ _ _)
  · exact write s

theorem State.sameBufs_perform (s : State) (pa : Nat) (data : List (Option Byte)) (cap : Bool) (part ctx grid : Nat) :
    s.SameBufs (s.perform pa data cap part ctx grid) :=
  List.foldlRecOn _ _ (motive := fun t : State => s.SameBufs t) s.sameBufs_refl fun t h _ _ => h.trans (t.sameBufs_performSector ..)

theorem State.touchSlice_cores (s : State) (line : Nat) (need : BitVec 4) (part ctx : Nat) (h : Hint) :
    (s.touchSlice line need part ctx h).cores = s.cores := by
  unfold State.touchSlice
  dsimp only
  split_ifs
  · rfl
  · rfl
  · split <;> rfl

theorem State.sameBufs_setCluster (s : State) (k : Nat) (c : Cluster) : s.SameBufs (s.setCluster k c) := State.sameBufs_of_cores rfl

theorem State.sameBufs_install (s : State) (core : Nat) (e : TlbEntry) : s.SameBufs (s.install core e) := by
  unfold State.install
  dsimp only
  refine State.SameBufs.trans (State.sameBufs_setCore _ ?_) (State.sameBufs_setCluster _ _ _)
  rfl

theorem State.sameBufs_walkInstall (s : State) (core part ctx va : Nat) (acc : Access) (user : Bool) :
    s.SameBufs (s.walkInstall core part ctx va acc user).1 := by
  unfold State.walkInstall
  dsimp only
  split
  · exact s.sameBufs_refl
  · split_ifs
    · refine State.SameBufs.trans ?_ (State.sameBufs_install _ _ _)
      exact State.sameBufs_of_cores rfl
    · exact s.sameBufs_refl

theorem State.sameBufs_cached (s : State) (core asid va : Nat) {t : State} {e : TlbEntry} (h : s.cached core asid va = some (t, e)) :
    s.SameBufs t := by
  unfold State.cached at h
  dsimp only at h
  split at h
  · cases h; exact s.sameBufs_setCore rfl
  · obtain ⟨x, -, hx⟩ := Option.map_eq_some_iff.1 h
    cases hx; exact s.sameBufs_install _ _

theorem State.sameBufs_translate (s : State) (core part ctx va : Nat) (acc : Access) (user : Bool) :
    s.SameBufs (s.translate core part ctx va acc user).1 := by
  unfold State.translate
  dsimp only
  split
  · exact s.sameBufs_walkInstall ..
  · rename_i t e h
    have ht := s.sameBufs_cached core _ va h
    split_ifs
    · exact ht
    · split
      · exact ht.trans (State.sameBufs_walkInstall ..)
      · split_ifs
        · refine ht.trans (State.SameBufs.trans ?_ (State.sameBufs_install _ _ _))
          exact State.sameBufs_of_cores rfl
        · exact ht.trans (State.sameBufs_walkInstall ..)
    · exact ht

/-! ## Steps that leave a team on its core and an empty buffer empty -/

/-- In `t` every team is on its core of `s`, and the buffer of core `n` is empty if it was. -/
structure State.Calm (n : Nat) (s t : State) : Prop where
  core : ∀ k, (t.team? k).map Team.core = (s.team? k).map Team.core
  buf : (s.core n).buf = [] → (t.core n).buf = []

section
variable {n : Nat}

theorem State.calm_refl (s : State) : s.Calm n s := ⟨fun _ => rfl, id⟩
theorem State.Calm.trans {s t u : State} (h : s.Calm n t) (k : t.Calm n u) : s.Calm n u :=
  ⟨fun i => (k.core i).trans (h.core i), fun e => k.buf (h.buf e)⟩

theorem State.calm_ite {c : Prop} [Decidable c] {s t u : State} (ht : s.Calm n t) (hu : s.Calm n u) : s.Calm n (if c then t else u) := by
  split
  · exact ht
  · exact hu

/-- Teams and buffers alone matter. -/
theorem State.calm_of {s t : State} (ht : t.teams = s.teams) (hb : s.SameBufs t) : s.Calm n t :=
  ⟨fun k => by unfold State.team?; rw [ht], fun e => (hb.buf n).trans e⟩

theorem State.calm_of_eq {s t : State} (ht : t.teams = s.teams) (hc : t.cores = s.cores) : s.Calm n t :=
  State.calm_of ht (State.sameBufs_of_cores hc)

theorem State.calm_setRun (s : State) (g : Group) : s.Calm n (s.setRun g) := State.calm_of_eq rfl rfl
theorem State.calm_writeWords (s : State) (pa : Nat) (ws : List Word) : s.Calm n (s.writeWords pa ws) := State.calm_of_eq rfl rfl
theorem State.calm_mapGroups (s : State) (p : Group → Bool) (f : Group → Group) : s.Calm n (s.mapGroups p f) := State.calm_of_eq rfl rfl
theorem State.calm_haltTeam (s : State) (key gid : Nat) (brk : Bool) : s.Calm n (s.haltTeam key gid brk) := s.calm_mapGroups _ _
theorem State.calm_postSystem (s : State) (k : Nat) (r : BitVec 128) : s.Calm n (s.postSystem k r) := State.calm_of_eq rfl rfl
theorem State.calm_setRunDev (s : State) (g : Group) (d : Dev) : s.Calm n { s with run := g, dev := d } := State.calm_of_eq rfl rfl

theorem State.calm_holdEntry (s : State) (m i : Nat) : s.Calm n (s.holdEntry m i) := by
  refine ⟨fun _ => rfl, fun e => ?_⟩
  unfold State.holdEntry
  by_cases hm : n = m
  · subst hm; rw [State.core_setCore]; simp [e]
  · rw [State.core_setCore_ne _ _ hm]; exact e

theorem State.calm_logFull (s : State) {part ctx : Nat} {c : Ctx} (h : s.ctx? part ctx = some c) : s.Calm n (s.logFull part ctx c) :=
  State.calm_of (s.served_logFull h).teams (s.sameBufs_logFull _ _ _)

theorem State.calm_bufPerform (s : State) (m i : Nat) : s.Calm n (s.bufPerform m i) := by
  unfold State.bufPerform
  dsimp only
  split
  · exact s.calm_refl
  · rename_i e he
    have herase : s.Calm n (s.setCore m { s.core m with buf := (s.core m).buf.eraseIdx i }) := by
      refine ⟨fun _ => rfl, fun h => ?_⟩
      by_cases hm : n = m
      · subst hm; rw [h] at he; cases he
      · rw [State.core_setCore_ne _ _ hm]; exact h
    have hperform (u : State) (pa : Nat) (d) (l : Nat) (b) (hint) : u.Calm n
        ((u.perform pa d true e.part e.ctx e.grid).touchSlice l b e.part e.ctx hint) :=
      State.calm_of ((u.served_perform ..).trans (State.served_touchSlice ..)).teams
        ((u.sameBufs_perform ..).trans (State.sameBufs_of_cores (State.touchSlice_cores ..)))
    split_ifs
    · exact s.calm_refl
    · exact s.calm_holdEntry m i
    · exact (herase.trans (hperform ..)).trans (State.calm_of (State.served_mark ..).teams (State.sameBufs_mark ..))
    · exact herase.trans (hperform ..)
    · split
      · rename_i x hx
        exact (s.calm_holdEntry m i).trans (State.calm_logFull _ hx)
      · exact s.calm_refl

theorem State.calm_drainFrom (s : State) (m k : Nat) : s.Calm n (s.drainFrom m k) := by
  induction k generalizing s with
  | zero => exact s.calm_refl
  | succ k ih =>
    unfold State.drainFrom
    dsimp only
    split_ifs
    · exact ih s
    · exact (s.calm_bufPerform m _).trans (ih _)

theorem State.calm_drainBuf (s : State) (m : Nat) : s.Calm n (s.drainBuf m) := s.calm_drainFrom m _

theorem State.calm_freeze (s : State) (key : Nat) : s.Calm n (s.freeze key) := by
  refine ⟨fun k => ?_, fun e => by rw [State.freeze_only]; exact e⟩
  unfold State.freeze
  split
  · rename_i t ht
    rw [State.mxRefreshAll_matrix]
    show (Tbl.find (Tbl.put s.teams key { t with frozen := true }) k).map Team.core = _
    by_cases hk : k = key
    · subst hk; rw [Tbl.find_put_same, ht]; rfl
    · rw [Tbl.find_put_ne _ _ hk]; rfl
  · rfl

/-! ## Traps -/

theorem State.calm_frameEntry (s : State) (t : Trap) (a : Addr) : s.Calm n (s.frameEntry t a).1 := by
  have hw := State.served_translate s s.run.core s.run.part s.run.ctx (s.userFrame s.run) .wr (!s.isSup s.run)
  have hb := State.sameBufs_translate s s.run.core s.run.part s.run.ctx (s.userFrame s.run) .wr (!s.isSup s.run)
  unfold State.frameEntry
  dsimp only
  split
  · rename_i s1 pa e
    rw [e] at hw hb
    have h1 : s.Calm n s1 := State.calm_of hw.teams hb
    split_ifs
    · exact h1
    · exact (((h1.trans (s1.calm_drainBuf s.run.core)).trans (State.calm_writeWords _ _ _)).trans (State.calm_setRun _ _)).trans
        (State.calm_freeze _ _)
    · exact h1
  · rename_i s1 er e
    rw [e] at hw hb
    exact State.calm_of hw.teams hb

theorem State.calm_supTrap (s : State) (t : Trap) (nest : Bool) : s.Calm n (s.supTrap t nest) := by
  unfold State.supTrap
  have hw := (s.calm_drainBuf (n := n) s.run.core).trans (State.calm_writeWords _ (s.supFrame s.run) (frameWords s.run t false nest))
  have hh := (hw.trans (State.calm_setRun _ (s.run.stopAt t))).trans (State.calm_haltTeam _ s.run.teamKey s.run.gid false)
  exact (hh.trans (State.calm_freeze _ _)).trans (State.calm_postSystem _ _ _)

theorem State.calm_stopBusy (s : State) (t : Trap) : s.Calm n (s.stopBusy t) := by
  unfold State.stopBusy
  refine State.Calm.trans ?_ (State.calm_freeze _ _)
  split_ifs
  · exact (s.calm_setRunDev _ _).trans (State.calm_haltTeam _ _ _ _)
  · exact s.calm_setRunDev _ _

theorem State.calm_deviceError (s : State) (cause : Nat) : s.Calm n (s.deviceError cause) := by
  unfold State.deviceError State.snapTrigger
  dsimp only
  split_ifs <;> exact State.calm_of_eq rfl rfl

theorem State.calm_ctlTrap (s : State) (t : Trap) : s.Calm n (s.ctlTrap t) := by
  unfold State.ctlTrap
  dsimp only
  split_ifs
  · split
    · exact (s.calm_setRun _).trans (State.calm_deviceError _ _)
    · exact State.calm_of_eq rfl rfl
  · exact State.calm_of_eq rfl rfl

theorem State.calm_takeTrap (s : State) (t : Trap) : s.Calm n (s.takeTrap t) := by
  unfold State.takeTrap
  dsimp only
  split
  · refine State.calm_ite (s.calm_stopBusy t) (State.calm_ite ?_ (s.calm_supTrap t _))
    have hf := s.calm_frameEntry (n := n) t s.run.tvt
    generalize s.frameEntry t s.run.tvt = r at hf
    obtain ⟨s1, e⟩ := r
    cases e with
    | made => exact State.calm_ite (hf.trans (State.calm_haltTeam _ _ _ _)) hf
    | busy => exact State.calm_ite (hf.trans (State.calm_stopBusy _ _)) (hf.trans (State.calm_supTrap _ _ _))
    | unwritten => exact hf.trans (State.calm_supTrap _ _ _)
  · exact s.calm_ctlTrap t

/-! ## The end of a clause -/

theorem State.sameBufs_countClock (s : State) (m : Nat) : s.SameBufs (s.countClock m) := by
  refine s.sameBufs_setCore ?_
  dsimp only
  exact List.foldlRecOn _ _ (motive := fun c : Core => c.buf = (s.core m).buf) rfl fun c h x _ => h

theorem State.calm_countCycles (s : State) : s.Calm n s.countCycles := by
  unfold State.countCycles
  split
  · exact State.calm_of rfl ((s.sameBufs_countClock _).trans (State.sameBufs_setCore _ rfl))
  · exact s.calm_refl

theorem State.calm_endClause (s : State) (c : Clause) : s.Calm n (s.endClause c) := by
  have h1 : s.Calm n (s.countCycles.setRun (s.run.closed c s.turn)) := s.calm_countCycles.trans (State.calm_setRun _ _)
  have h2 : s.Calm n (match s.run.endTrap c s.run.pc 31 with
      | some t => (s.countCycles.setRun (s.run.closed c s.turn)).takeTrap t
      | none => s.countCycles.setRun (s.run.closed c s.turn)) := by
    split
    · exact h1.trans (State.calm_takeTrap _ _)
    · exact h1
  unfold State.endClause
  dsimp only
  split
  · exact h2
  · exact h2
  · exact h2
  · exact h1
  · exact h1
  · exact h1

/-- Where the agents stand does not matter. -/
theorem State.calm_agents (s : State) (a : Bool) (g : Group) (gs : Tbl Group) : s.Calm n { s with active := a, run := g, groups := gs } :=
  State.calm_of_eq rfl rfl

theorem State.calm_as (s : State) (g : Group) {f : State → State} (hf : ∀ u : State, u.Calm n (f u)) : s.Calm n (s.as g f) := by
  unfold State.as
  dsimp only
  refine State.calm_ite (hf s) ?_
  have hrun := (s.calm_agents true g (if s.active then Tbl.put (Tbl.del s.groups g.gid) s.run.gid s.run else Tbl.del s.groups g.gid)).trans (hf _)
  exact State.calm_ite (hrun.trans (State.calm_agents _ _ _ _)) (hrun.trans (State.calm_agents _ _ _ _))

theorem State.calm_unrun (s : State) (key : Nat) : s.Calm n (s.unrun key) := by
  unfold State.unrun
  dsimp only
  have hleave : s.Calm n (if s.active && s.run.inTeam key then
      { s with active := false, groups := Tbl.put s.groups s.run.gid s.run, run := {} } else s) :=
    State.calm_ite (s.calm_agents false {} _) s.calm_refl
  refine hleave.trans (List.foldlRecOn _ _ (motive := fun t : State => State.Calm n _ t) (State.calm_refl _) fun t h g _ => h.trans ?_)
  split
  · exact State.calm_ite (t.calm_as g fun u => u.calm_endClause _) t.calm_refl
  · exact t.calm_refl

end

end Sys2Proof.Machine
end

section
/-! SUPPORT. A pre-emption's ways to a save, and the save itself (R28, R353, R385-R387). -/

namespace Sys2Proof.Machine

@[simp] theorem State.wakeEvict_teams (s : State) : s.wakeEvict.teams = s.teams := rfl
@[simp] theorem State.switchOut_teams (s : State) (part ctx : Nat) : (s.switchOut part ctx).teams = s.teams := by
  unfold State.switchOut; split <;> rfl
@[simp] theorem State.freeRegs_teams (s : State) (core : Nat) : (s.freeRegs core).teams = s.teams := rfl

/-- The team is saved: its state is in its image, and it is not pre-empted any more. -/
def State.isSaved (s : State) (key : Nat) (coop : Bool) : Prop := ∃ y, s.team? key = some y ∧ y.at' = .saved coop ∧ y.pre = false

/-- A save of a resident team whose core has no store in its buffer is made at once (R228). -/
theorem State.saveTeam_saved {s : State} {key : Nat} {t : Team} (coop : Bool) (ht : s.team? key = some t) (hr : t.at' = .resident)
    (hb : (s.core t.core).buf = []) : (s.saveTeam key coop).isSaved key coop := by
  have hcalm : s.Calm t.core ((s.unrun key).drainBuf t.core) := (s.calm_unrun key).trans (State.calm_drainBuf _ _)
  unfold State.saveTeam
  rw [ht]
  dsimp only
  rw [if_neg (by simp [hr])]
  generalize (s.unrun key).drainBuf t.core = u at hcalm
  have hcore : ((u.team? key).getD t).core = t.core := by
    have h := hcalm.core key
    rw [ht] at h
    cases hu : u.team? key with
    | none => rfl
    | some y => rw [hu] at h; exact Option.some.inj h
  generalize (u.team? key).getD t = y at hcore
  rw [if_neg (by simp [hcore, hcalm.buf hb])]
  refine ⟨{ y with at' := .saved coop, frozen := false, pre := false, saveDue := none, budgetAt := none, winBanks := [] }, ?_, rfl, rfl⟩
  unfold State.team?
  rw [State.wakeEvict_teams]
  split
  · rw [State.switchOut_teams, State.freeRegs_teams, State.setTeam_teams, Tbl.find_put_same]
  · rw [State.freeRegs_teams, State.setTeam_teams, Tbl.find_put_same]

/-- What makes a pre-emption a forced save (R353, R385). -/
theorem forced_iff (w : Word) (c : Core) :
    (decide (bitsOf w 3 53 = 0) || c.held) = true ↔ w.extractLsb' 3 53 = 0 ∨ c.holdFlue = true ∨ c.holdClus = true := by
  have hb : bitsOf w 3 53 = 0 ↔ w.extractLsb' 3 53 = 0 := by simp [bitsOf, ← BitVec.toNat_inj]
  rw [Bool.or_eq_true, decide_eq_true_iff, hb, Core.held, Bool.or_eq_true]

theorem State.mayPreempt_of {s : State} {grid team : Nat} {y : Team} {g : Grid} (hy : s.team? (teamKey grid team) = some y)
    (hr : y.at' = .resident) (hg : s.grid? grid = some g) (hm : g.marking = false) : s.mayPreempt grid team = true := by
  simp [State.mayPreempt, hy, hr, hg, hm]

section
variable {s : State} {grid team : Nat} {y : Team} (hy : s.team? (teamKey grid team) = some y) (hr : y.at' = .resident)
include hy hr

/-- The end of a slice saves by force where PVEC is 0 or a mismatch trap holds the core (R353, R385). -/
theorem execTimeSliceEnd_forced {g : Grid} (hg : s.grid? grid = some g) (hk : y.grid = grid) (hm : g.marking = false)
    (hp : ((s.desc g.part g.ctx)[9]).extractLsb' 3 53 = 0 ∨ (s.core y.core).holdFlue = true ∨ (s.core y.core).holdClus = true)
    (hb : (s.core y.core).buf = []) :
    ∃ u, exec (.timeSliceEnd grid team) s = .next u ∧ u.isSaved (teamKey grid team) false := by
  refine ⟨_, ?_, State.saveTeam_saved false hy hr hb⟩
  show execTimeSliceEnd grid team s = _
  unfold execTimeSliceEnd State.preempt
  rw [if_pos (State.mayPreempt_of hy hr hg hm), hy]
  dsimp only
  rw [hk, hg]
  dsimp only
  rw [if_neg (by simp [hr]), if_pos ((forced_iff _ _).2 hp)]

/-- The end of a slice asks the groups of a team that run, or wait on completion flags alone, to enter their handlers (R385). -/
theorem execTimeSliceEnd_asks {g : Grid} (hg : s.grid? grid = some g) (hk : y.grid = grid) (hm : g.marking = false)
    (hp : ((s.desc g.part g.ctx)[9]).extractLsb' 3 53 ≠ 0) (hf : (s.core y.core).holdFlue = false) (hc : (s.core y.core).holdClus = false) :
    exec (.timeSliceEnd grid team) s = .next ((s.setTeam (teamKey grid team) { y with pre := true }).mapGroups
      (fun g => g.inTeam (teamKey grid team) && g.asked) fun g => { g with preempt := true }) := by
  show execTimeSliceEnd grid team s = _
  unfold execTimeSliceEnd State.preempt
  rw [if_pos (State.mayPreempt_of hy hr hg hm), hy]
  dsimp only
  rw [hk, hg]
  dsimp only
  rw [if_neg (by simp [hr]), if_neg (by rw [forced_iff]; simpa [hf, hc] using hp)]

/-- A save that waited for the team's stores goes on (R228). -/
theorem execTeamSave_due {coop : Bool} (hd : y.saveDue = some coop) (hb : (s.core y.core).buf = []) :
    ∃ u, exec (.teamSave grid team) s = .next u ∧ u.isSaved (teamKey grid team) coop := by
  refine ⟨_, ?_, State.saveTeam_saved coop hy hr hb⟩
  show execTeamSave grid team s = _
  simp [execTeamSave, hy, hd]

/-- A team that no group of it holds back any more is saved (R385). -/
theorem execTeamSave_acked (hp : y.pre = true) (hd : y.saveDue = none) (hb : (s.core y.core).buf = [])
    (ho : ∀ x ∈ s.teamMembers (teamKey grid team), x.owes = false) :
    ∃ u, exec (.teamSave grid team) s = .next u ∧ u.isSaved (teamKey grid team) true := by
  refine ⟨_, ?_, State.saveTeam_saved true hy hr hb⟩
  show execTeamSave grid team s = _
  have hany : (s.teamMembers (teamKey grid team)).any Group.owes = false := by simpa using ho
  simp [execTeamSave, hy, hd, hp, hany]

omit hr in
/-- A budget that expires saves by force, and its record names the first group that had not acknowledged (R386). -/
theorem execBudgetExpiry_saves {k : Nat} {x : Group} (hp : y.pre = true) (hd : y.saveDue = none) (hk : y.budgetAt = some k) (ht : k ≤ s.time)
    (hx : (s.teamMembers (teamKey grid team)).find? Group.owes = some x) :
    exec (.budgetExpiry grid team) s =
      .next ((s.saveTeam (teamKey grid team) false).postSystem (s.supCl x.part x.ctx) (s.trapRecord x cBUDGET)) := by
  show execBudgetExpiry grid team s = _
  simp [execBudgetExpiry, hy, hp, hd, hk, ht, hx]

end

/-- A system record that is posted stands last in its queue, with the sequence number that it gets (R288, R291). -/
theorem Cluster.postSystem_last (c : Cluster) (r : BitVec 128) :
    (c.postSystem r).queue.getLast? = some (r ||| (BitVec.ofNat 32 c.cseq).setWidth 128) := by
  unfold Cluster.postSystem Cluster.append
  split <;> simp

theorem Group.owes_iff (x : Group) : x.owes = true ↔
    x.preempt = true ∧ (x.run = .ready ∨ x.run = .stopping) ∧ (x.inHandler = true ∨ x.wait = .none ∨ x.wait = .stall) := by
  unfold Group.owes
  cases x.run <;> simp [or_assoc]

theorem Group.asked_iff (x : Group) (key : Nat) : (x.inTeam key && x.asked) = true ↔
    x.kind = .compute ∧ x.teamKey = key ∧ x.run = .ready ∧ (x.wait = .none ∨ x.wait = .stall) ∧ x.inHandler = false := by
  simp [Group.inTeam, Group.asked, and_assoc]

/-- What an update of some groups makes of each of them. -/
theorem State.find_mapGroups (s : State) (p : Group → Bool) (f : Group → Group) (k : Nat) :
    Tbl.find (s.mapGroups p f).groups k = (Tbl.find s.groups k).map fun x => if p x then f x else x := by
  rw [← Tbl.find_map]
  congr 1
  refine List.map_congr_left fun kv _ => ?_
  split <;> rfl

end Sys2Proof.Machine

namespace Sys2Proof.Claims
open Sys2Proof.Machine

/-- Settles O47: each unit that places, moves, retires, pre-empts or saves a team, on a state in which it is due. -/
theorem teamsComeAndGo : Obligations.TeamsComeAndGo := by
  unfold Obligations.TeamsComeAndGo
  intro s grid team n gid pipe g
  dsimp only
  refine ⟨?_, ?_, ?_, ?_, fun y => ?_, ?_, ?_, ?_⟩
  · intro p hg hid hn hp hf hc
    obtain ⟨i, he⟩ := execTeamPlacement_new hg hid hn hp hf hc
    subst hid
    refine ⟨_, he, ⟨_, Tbl.find_put_same _ _ _, rfl, rfl, rfl, rfl⟩, ⟨_, Tbl.find_put_same _ _ _, rfl⟩, fun num h => ?_⟩
    exact ⟨_, State.create_group _ { g with passedOver := 0 } team i p (State.roomFor_some hp).2 num h, rfl⟩
  · intro x sl bl r m hx hgid hk hn hc hrun hh hr hm hs hpp hy _ _ _ hsl hbl
    refine ⟨_, execCompaction_moves hx hk hn hc hrun hh hr hm hs hpp hy hsl hbl, ?_, ?_⟩
    · exact hgid ▸ State.group_setGroup _ _
    · unfold State.core
      rw [State.setGroup_cores]
      exact congrArg Core.cyc (State.core_setCore _ _ _)
  · intro hg hr
    obtain ⟨u, he, h1, h2, h3, h4⟩ := execTeamRetire_retires hg hr
    exact ⟨u, he, h1, ⟨_, h2, rfl⟩, h3, h4⟩
  · exact execGridComplete_done
  · rintro ⟨hy, hr⟩ hg hk hm
    refine ⟨fun hp hb => execTimeSliceEnd_forced hy hr hg hk hm hp hb, fun hp hf hc =>
      ⟨_, execTimeSliceEnd_asks hy hr hg hk hm hp hf hc, State.team_find_setTeam _ _ _, fun k x hx => ?_⟩⟩
    rw [State.find_mapGroups]
    simp only [State.setTeam_groups, hx, Option.map_some, Group.asked_iff]
  · rintro y coop ⟨hy, hr⟩ hd hb
    exact execTeamSave_due hy hr hd hb
  · rintro y ⟨hy, hr⟩ hp hd hb ho
    exact execTeamSave_acked hy hr hp hd hb fun x hx => Bool.eq_false_iff.2 fun h => ho x hx (x.owes_iff.1 h)
  · rintro y k ⟨hy, hr⟩ hp hd hb hk ht ⟨x, hx, ho⟩
    have hsome : ((s.teamMembers (teamKey grid team)).find? Group.owes).isSome = true :=
      List.find?_isSome.2 ⟨x, hx, x.owes_iff.2 ho⟩
    obtain ⟨x0, h0⟩ := Option.isSome_iff_exists.1 hsome
    obtain ⟨-, hstatus, hkind, -⟩ := mkRecord_fields x0.tag (s.launchOf x0).2 (s.launchOf x0).1 0xFF 3 cBUDGET
      (BitVec.ofNat 32 ((s.saveTeam (teamKey grid team) false).cluster (s.supCl x0.part x0.ctx)).cseq)
    refine ⟨_, execBudgetExpiry_saves hy hp hd hk ht h0, State.saveTeam_saved false hy hr hb, x0, _, List.mem_of_find?_eq_some h0,
      x0.owes_iff.1 (List.find?_some h0), ?_, hkind, hstatus⟩
    exact (congrArg (fun c : Cluster => c.queue.getLast?) (State.cluster_setCluster _ _ _)).trans (Cluster.postSystem_last _ _)

end Sys2Proof.Claims
end

section
/-! SUPPORT and CERTIFICATES. The round trip of words and of clause headers (R50, R57-R65). -/

namespace Sys2Proof

/-- Every instruction has its round trip, by the lemma of its constructor. -/
theorem Laws.RoundTrip.statement (i : Instr) : Laws.RoundTrip.Statement i :=
  open Laws.RoundTrip in i.casesOn
    nop bra brx brc bdv join call ret exit exitLanes emsav emset mlog vote tfence trap yield sadd ssub smul slog sshf scmp smin sbit sdiv
    smov smovLane smovi ssel srd swr sld sst vadd vsub vmul vmad vdot vlog vshf vcmp vsel vmin vuni vbit vmov vmovi vnrw vidx fadd fsub fmul
    ffma fmin fcmp fcls frcp frsq fsqt fex2 flg2 ftrg fdiv fcvt icvt dadd dmul dfma scvn scvw kclr kadd krnd kscn kmovGet kmovSet kmovCpy
    kmovAdd fsrGet fsrSet fsrClr fsrOr ixset ixadd shfl slide bcst gred gscn perm ld st lds sts atom atmf fence fenceFlushx prf cmnt fqput
    fqget bankRequest bankQuery bar barv barw evwt evps nap balBurn balShunt balMatch balCeil wmark dbrk snap mlda mma mmal mdrn mfil
    mzroGrant mzro msts mscl mrel msta cpy gath scat bin ptch rlse coll lnch ecan ecanSlot eqrd eqrdWait tlbiRng tlbiAsid tlbiAll ctxsStop
    ctxsSave ctxsEvict ctxsTeam ctxlCreate ctxlResume ctxlKill ctxlUpd ctxlEres ctxlEfail tret prack prackRet rwnd rwndChk rwndCmt pcfg halt
    haltOff haltOn clauseSelect loadComplete asyncCommandComplete compaction stackSpillComplete bufferEntryPerform logBurstWrite
    logBurstTimeout automaticWindowOpen wmarkComplete rewindFinish ordrTimeout promote ownedLineRecall flushxComplete evwtWake evwtPoll
    evwtTimeout napDeadline fqputRoom fqgetMatch bankRelease bankConvertEnd issueLimitAdjust translationWalk tlbiComplete streamWake
    streamSlotPoll packetNop packetLaunch packetWait waitSatisfied packetMark packetBadpkt teamPlacement halfActiveFlue teamRetire
    gridComplete completionRecordPost eventQueuePost engineCommandStart ecanAnswer collJoinTimeout matrixPass scaleFillReturn grantServed
    balanceSample damperTick balRequestLapse bodyBiasStep frequencyInterval frequencyStep thermalStateChange stallSample timeSliceEnd
    budgetExpiry teamSave uncorrectableError contextStopComplete counterLowRead counterHighRead streamEntryWrite statbaseWrite fwctlGo
    mmioRegisterWrite hostCxlMemWrite hostCxlMemRead hostSnoop peerRequest peerAck flitReplay challenge getMeasurements keyExchange ideKm
    frequencyTransitionEnd timerForwardStep hostSnapshotTrigger snapshotStatusRead snapshotArm liveUpdateHeartbeat liveUpdateTimeout
    heartbeat getVersion getCapabilities negotiateAlgorithms getDigests getCertificate finish endSession deviceReset cxlReset

@[simp] theorem Eng.ofCode_code (x : Eng) : Eng.ofCode x.code = x := by cases x <;> rfl

/-- Each field of a header's word is what the header holds (R50). -/
theorem encodeHeader_fields (h : Header) :
    fld (encodeHeader h) 57 3 = h.eng.code ∧ fld (encodeHeader h) 53 4 = h.cnt ∧ fld (encodeHeader h) 41 12 = h.wait ∧
    fld (encodeHeader h) 37 4 = h.seta ∧ fld (encodeHeader h) 33 4 = h.setb ∧ fld (encodeHeader h) 29 4 = h.cur ∧
    bitAt (encodeHeader h) 28 = h.yld ∧ bitAt (encodeHeader h) 27 = h.brk := by
  have bit (x : Bool) : (b1 x).getLsbD 0 = x := by cases x <;> rfl
  unfold encodeHeader fld bitAt
  refine ⟨?_, ?_, ?_, ?_, ?_, ?_, ?_, ?_⟩
  case refine_7 | refine_8 =>
    repeat refine (gl_hi _ _ (by decide)).trans ?_
    exact (gl_lo _ _ (by decide)).trans (bit _)
  all_goals
    repeat refine (ex_hi _ _ (by decide)).trans ?_
    exact (ex_lo _ _ (by decide)).trans (ex_all _)

theorem decodeHeader_encodeHeader {h : Header} (hk : h.ok = true) : decodeHeader (encodeHeader h) = some h := by
  obtain ⟨heng, hcnt, hwait, hseta, hsetb, hcur, hyld, hbrk⟩ := encodeHeader_fields h
  simp only [decodeHeader, heng, hcnt, hwait, hseta, hsetb, hcur, hyld, hbrk, Eng.ofCode_code, hk, beq_self_eq_true, Bool.and_self, if_true]

/-- What a word decodes to has passed the check that the decoder ends with. -/
theorem wf_and_encode_of_decode {w : Word} {i : Instr} (h : decode w = .ok i) : i.wf = true ∧ encode i = some w := by
  unfold decode at h
  split at h
  · cases h
  · split_ifs at h with hw
    cases h
    simpa using hw

end Sys2Proof

namespace Sys2Proof.Claims

/-- Settles O55: the round trip of each constructor, of a header by its fields, and what the decoder's last check says of a word. -/
theorem encodingsAgree : Obligations.EncodingsAgree := by
  unfold Obligations.EncodingsAgree
  exact ⟨⟨fun i w => Laws.RoundTrip.statement i w, fun _ hk => decodeHeader_encodeHeader hk⟩, fun _ _ h => wf_and_encode_of_decode h⟩

/-- Settles O56: each instruction is well formed and has the word, so that the word decodes to it (O55). -/
theorem workedWordsDecode : Obligations.WorkedWordsDecode := by
  unfold Obligations.WorkedWordsDecode
  have back (i : Instr) (w : Word) (hw : i.wf = true) (he : encode i = some w) : decode w = .ok i := Laws.RoundTrip.statement i w hw he
  refine ⟨?_, ?_, ?_, ?_, ?_, ?_, ?_, ?_, ?_, ?_, ?_, ?_, ?_, ?_, ?_⟩ <;> exact back _ _ (by decide) (by decide)

end Sys2Proof.Claims
end

section
/-! SUPPORT and CERTIFICATES. Control transfers: conditions on masks, a target that passes its test and one that fails it (R60, R61, R72,
R184, R192, R224). -/

namespace Sys2Proof.Machine

open Sys2Proof.Claims

/-! ## Conditions on the active lanes of a mask (R61) -/

theorem maskAny_iff (x em : Lane) : (x &&& em != 0) = true ↔ ∃ l, l < 32 ∧ em.getLsbD l = true ∧ x.getLsbD l = true := by
  rw [bne_iff_ne]
  constructor
  · intro h
    obtain ⟨l, hl, hb⟩ := lane_of_ne_zero h
    rw [BitVec.getLsbD_and, Bool.and_eq_true] at hb
    exact ⟨l, hl, hb.2, hb.1⟩
  · rintro ⟨l, hl, he, hx⟩ h
    have hb := congrArg (fun y : Lane => y.getLsbD l) h
    simp [he, hx] at hb

theorem maskNone_iff (x em : Lane) : (x &&& em == 0) = true ↔ ∀ l, l < 32 → em.getLsbD l = true → x.getLsbD l = false := by
  have h := not_congr (maskAny_iff x em)
  simpa using h

theorem maskAll_iff (x em : Lane) : (x &&& em == em) = true ↔ ∀ l, l < 32 → em.getLsbD l = true → x.getLsbD l = true := by
  rw [beq_iff_eq]
  constructor
  · intro h l _ he
    have hb := congrArg (fun y : Lane => y.getLsbD l) h
    simpa [he] using hb
  · refine fun h => BitVec.eq_of_getLsbD_eq fun l hl => ?_
    rw [BitVec.getLsbD_and]
    cases he : em.getLsbD l with
    | false => simp
    | true => simp [h l hl he]

/-! ## The four transfers and BRC by the test of their target (R72, R184) -/

theorem execBra_eq (off : BitVec 16) (s : State) :
    exec (.bra off) s = .next (s.toTarget (offsetTarget s off) (·.jump (offsetTarget s off))) := by
  show execBra off s = _
  rfl
theorem execBrx_eq (a : SReg) (s : State) : exec (.brx a) s = .next (s.toTarget s.run.s[a.toNat] (·.jump s.run.s[a.toNat])) := by
  show execBrx a s = _
  rfl
theorem execRet_eq (a : SReg) (s : State) : exec (.ret a) s = .next (s.toTarget s.run.s[a.toNat] (·.jump s.run.s[a.toNat])) := by
  show execRet a s = _
  rfl

/-- CALL where its target passes: the group goes there with its link written. -/
def State.callTo (s : State) (d : SReg) (target : Word) : State :=
  s.done { s.run with s := s.run.s.set d.toNat (s.run.nextHdr.setWidth 64), pc := target.setWidth 56 } 1

theorem execCall_eq (d : SReg) (off : BitVec 16) (s : State) :
    exec (.call d off) s = .next (s.toTarget (offsetTarget s off) (·.callTo d (offsetTarget s off))) := by
  show execCall d off s = _
  rfl
theorem execBrc_taken {c : Cnd} {p : SPos} {s : State} (off : BitVec 16) (h : s.run.cnd c p = true) :
    exec (.brc c p off) s = .next (s.toTarget (offsetTarget s off) (·.jump (offsetTarget s off))) := by
  show execBrc c p off s = _
  unfold execBrc
  rw [if_pos h]
  rfl
theorem execBrc_goesOn {c : Cnd} {p : SPos} {s : State} (off : BitVec 16) (h : ¬ s.run.cnd c p = true) :
    exec (.brc c p off) s = .next (s.done s.run 1) := by
  show execBrc c p off s = _
  unfold execBrc
  rw [if_neg h]

/-- A transfer of the group as `s` has it, from a state that has only looked at the target. -/
theorem State.jump_becomes {s s1 : State} (h : s1.run = s.run) (target : Word) :
    becomes s1 (s1.jump target) { s.run with pc := target.setWidth 56 } 1 := h ▸ s1.done_becomes _ 1
theorem State.callTo_becomes {s s1 : State} (h : s1.run = s.run) (d : SReg) (target : Word) :
    becomes s1 (s1.callTo d target)
      { s.run with s := s.run.s.set d.toNat (s.run.nextHdr.setWidth 64), pc := target.setWidth 56 } 1 := h ▸ s1.done_becomes _ 1

/-! ## A target that fails its test (R72, log 13) -/

/-- Bits of a target that no header has. -/
theorem State.toTarget_badBits {s : State} {target : Word} (h : target.extractLsb' 0 3 ≠ 0 ∨ target.extractLsb' 56 8 ≠ 0) (k : State → State) :
    s.toTarget target k = s.takeTrap (s.run.branchFault 0x03 target 0) := by
  unfold State.toTarget
  exact if_pos (by simpa using h)

section
variable {s s1 : State} {target : Word} (h0 : target.extractLsb' 0 3 = 0) (h1 : target.extractLsb' 56 8 = 0) (k : State → State)
include h0 h1

/-- A header that cannot be read: the transfer waits where an engine owns its line, and else faults (R72, R224). -/
theorem State.toTarget_unreadable {e : Nat × Nat} (hc : s.codeWord (target.setWidth 56) = (s1, .error e)) :
    s.toTarget target k = if e.1 = cWAIT then s1.retry else s1.takeTrap (s1.run.branchFault e.1 target e.2) := by
  simp [State.toTarget, h0, h1, hc]

/-- A word that is no header. -/
theorem State.toTarget_noHeader {w : Word} (hc : s.codeWord (target.setWidth 56) = (s1, .ok w)) (hd : decodeHeader w = none) :
    s.toTarget target k = s1.takeTrap (s1.run.branchFault 0x03 target 0) := by
  simp [State.toTarget, h0, h1, hc, headerOk, hd, cILLCLS]

end

/-- What every transfer to a target answers where none of them goes on from it. -/
theorem transfers_of_toTarget {s r : State} {target : Word} (h : ∀ k, s.toTarget target k = r) :
    (∀ off, offsetTarget s off = target → exec (.bra off) s = .next r ∧ ∀ d, exec (.call d off) s = .next r) ∧
    ∀ a : SReg, s.run.s[a.toNat] = target → exec (.brx a) s = .next r ∧ exec (.ret a) s = .next r := by
  refine ⟨fun off ht => ⟨?_, fun d => ?_⟩, fun a ht => ⟨?_, ?_⟩⟩
  · rw [execBra_eq, ht, h]
  · rw [execCall_eq, ht, h]
  · rw [execBrx_eq, ht, h]
  · rw [execRet_eq, ht, h]

end Sys2Proof.Machine

namespace Sys2Proof.Claims

open Sys2Proof.Machine

/-- Settles O18: each transfer is `toTarget` of its target, which runs the rest where the target passes (`State.toTarget_passes`) and
answers the same for every transfer where it does not. -/
theorem controlTransfers : Obligations.ControlTransfers := by
  unfold Obligations.ControlTransfers
  refine ⟨?_, fun s s1 target => ⟨fun hb => ?_, fun h0 h1 => ⟨fun e hc => ?_, fun w hc hd => ?_⟩⟩⟩
  · intro s s1 off a p c n nr bits holds next
    have hcnd : s.run.cnd c p = true ↔ holds := by
      cases c with
      | any => exact maskAny_iff bits s.run.em
      | all => exact maskAll_iff bits s.run.em
      | none => exact maskNone_iff bits s.run.em
      | _ => simp [Group.cnd, cndValue, holds]
    refine ⟨⟨_, rfl, s.done_becomes _ 1⟩, ⟨_, rfl, s.done_becomes _ 1⟩, fun hp => ?_,
      fun hn => ⟨_, execBrc_goesOn off (mt hcnd.1 hn), s.done_becomes _ 1⟩, fun hp => ?_⟩
    · have hrun := passes_run hp
      refine ⟨hrun, ⟨_, execBra_eq off s, ?_⟩, ⟨_, execCall_eq a off s, ?_⟩, fun hh => ⟨_, execBrc_taken off (hcnd.2 hh), ?_⟩⟩
      · rw [State.toTarget_passes hp]; exact State.jump_becomes hrun _
      · rw [State.toTarget_passes hp]; exact State.callTo_becomes hrun a _
      · rw [State.toTarget_passes hp]; exact State.jump_becomes hrun _
    · have hrun := passes_run hp
      refine ⟨hrun, ⟨_, execBrx_eq a s, ?_⟩, ⟨_, execRet_eq a s, ?_⟩⟩
      · rw [State.toTarget_passes hp]; exact State.jump_becomes hrun _
      · rw [State.toTarget_passes hp]; exact State.jump_becomes hrun _
  · exact transfers_of_toTarget (State.toTarget_badBits hb)
  · have hrun : s1.run = s.run := by have := (State.served_codeWord s (target.setWidth 56)).run; rwa [hc] at this
    have ht := fun k => State.toTarget_unreadable h0 h1 k hc
    rw [hrun] at ht
    split_ifs at ht ⊢
    · exact transfers_of_toTarget fun k => (ht k).trans (by rw [State.retry, hrun]; rfl)
    · exact transfers_of_toTarget ht
  · have hrun : s1.run = s.run := by have := (State.served_codeWord s (target.setWidth 56)).run; rwa [hc] at this
    exact transfers_of_toTarget fun k => (State.toTarget_noHeader h0 h1 k hc hd).trans (by rw [hrun]; rfl)

end Sys2Proof.Claims
end

section
/-! SUPPORT and CERTIFICATES. A user-kind trap of a user-level group: the entry to its handler, and what it leaves (R51, R191, R368, R376-R379). -/

namespace Sys2Proof.Machine

open Sys2Proof.Claims

/-- The cause halts the rest of the team: BRK or WATCH (R51, R368). -/
abbrev haltsTeam (cause : Nat) : Prop := cause = 0x21 ∨ cause = 0x50

/-- An entry to a handler leaves every other group as it is. -/
theorem State.frameEntry_groups (s : State) (x : Trap) (a : Addr) : (s.frameEntry x a).1.groups = s.groups := by
  have hs := State.served_translate s s.run.core s.run.part s.run.ctx (s.userFrame s.run) .wr (!s.isSup s.run)
  unfold State.frameEntry
  dsimp only
  split
  · rename_i s1 pa e
    rw [e] at hs
    split_ifs
    · exact hs.groups
    · rw [State.freeze_groups, State.setRun_groups]
      exact (hs.trans ((State.served_drainBuf s1 s.run.core).trans (State.served_writeWords _ _ _))).groups
    · exact hs.groups
  · rename_i s1 er e
    rw [e] at hs
    exact hs.groups

/-- Halting a team for the time of a handler, group by group: those that are ready, but for the one that enters. -/
theorem State.find_haltTeam (s : State) (key gid : Nat) {n : Nat} {g : Group} (h : Tbl.find s.groups n = some g) :
    Tbl.find (s.haltTeam key gid true).groups n = some (
      if g.inTeam key = true ∧ g.gid ≠ gid ∧ g.run = .ready then
        { g with run := if g.clause.isSome then .stopping else .stopped 0, brkHalt := true } else g) := by
  unfold State.haltTeam
  rw [State.find_mapGroups, h]
  by_cases hp : g.inTeam key = true ∧ g.gid ≠ gid
  · by_cases hr : g.run = .ready <;> simp [hp, hr]
  · have hn : ¬ (g.inTeam key = true ∧ g.gid ≠ gid ∧ g.run = .ready) := fun h => hp ⟨h.1, h.2.1⟩
    have hb : (g.inTeam key && g.gid != gid) = false := by simpa using hp
    simp only [Option.map_some, hb, Bool.false_eq_true, if_false, if_neg hn]

theorem State.haltTeam_run (s : State) (key : Nat) (brk : Bool) : (s.haltTeam key s.run.gid brk).run = s.run := by
  simp [State.haltTeam, State.mapGroups]

section
variable {s s1 : State} {pa : Nat} (hm : s.memOk) (hk : s.run.kind = .compute) (hu : s.isSup s.run = false) (ht : s.run.tvt ≠ 0)
  (hf : frameFree s s1 pa)
include hm hk hu ht hf

/-- A trap of user kind that the debugger does not take enters the group's handler through its frame, and BRK and WATCH halt the rest of its
team (R51, R368, R378, R379). -/
theorem State.takeTrap_enters {x : Trap} (hx : userKind x.cause = true)
    (hd : haltsTeam x.cause → (s.desc s.run.part s.run.ctx)[10].getLsbD 49 = false) :
    ∃ t, s.takeTrap x = (if haltsTeam x.cause then t.haltTeam s.run.teamKey s.run.gid true else t) ∧
      t.run = inHandlerAt s.run (s.userFrame s.run) s.run.tvt ∧
      frameHolds (fun i => Memory.word t.mem (pa + 8 * i)) s.run x true false ∧
      (∀ team, s.team? s.run.teamKey = some team → t.team? s.run.teamKey = some { team with frozen := true }) ∧ t.groups = s.groups := by
  obtain ⟨t, he, hrun, hframe, hteam⟩ := State.frameEntry_free s s1 pa x s.run.tvt hm hf
  have hgroups := s.frameEntry_groups x s.run.tvt
  rw [he] at hgroups
  have hstop : (x.cause == cBRK || x.cause == cWATCH) = true ↔ haltsTeam x.cause := by simp [haltsTeam, cBRK, cWATCH]
  have hif : (userKind x.cause && s.run.tvt != 0 &&
      !((x.cause == cBRK || x.cause == cWATCH) && (s.desc s.run.part s.run.ctx)[10].getLsbD 49)) = true := by
    have htb : (s.run.tvt != 0) = true := by simpa using ht
    rw [hx, htb, Bool.true_and, Bool.true_and, Bool.not_eq_true', Bool.and_eq_false_imp]
    exact fun h => hd (hstop.1 h)
  refine ⟨t, ?_, hrun, hframe, hteam, hgroups⟩
  rw [State.takeTrap_user s x hk hu, if_pos hif, he]
  simp only [if_true, hstop]

/-- What that leaves: the group in its handler, its frame, its team frozen, and every other group as its cause says. -/
theorem State.takeTrap_entered {x : Trap} (hx : userKind x.cause = true)
    (hd : haltsTeam x.cause → (s.desc s.run.part s.run.ctx)[10].getLsbD 49 = false) :
    (s.takeTrap x).run = inHandlerAt s.run (s.userFrame s.run) s.run.tvt ∧
    frameHolds (fun i => Memory.word (s.takeTrap x).mem (pa + 8 * i)) s.run x true false ∧
    (∀ team, s.team? s.run.teamKey = some team → (s.takeTrap x).team? s.run.teamKey = some { team with frozen := true }) ∧
    ∀ n g, Tbl.find s.groups n = some g → Tbl.find (s.takeTrap x).groups n = some (
      if haltsTeam x.cause ∧ g.inTeam s.run.teamKey = true ∧ g.gid ≠ s.run.gid ∧ g.run = .ready then
        { g with run := if g.clause.isSome then .stopping else .stopped 0, brkHalt := true } else g) := by
  obtain ⟨t, he, hrun, hframe, hteam, hgroups⟩ := State.takeTrap_enters hm hk hu ht hf hx hd
  have hgid : s.run.gid = t.run.gid := by rw [hrun]; rfl
  by_cases hs : haltsTeam x.cause
  · rw [he, if_pos hs]
    refine ⟨?_, hframe, hteam, fun n g h => ?_⟩
    · rw [hgid, State.haltTeam_run]
      exact hrun
    · simp only [hs, true_and]
      exact State.find_haltTeam t _ _ (hgroups ▸ h)
  · rw [he, if_neg hs]
    refine ⟨hrun, hframe, hteam, fun n g h => ?_⟩
    rw [if_neg fun h => hs h.1, hgroups, h]

end

theorem execTrap_compute {s : State} (hk : s.run.kind = .compute) (e : BitVec 32) :
    exec (.trap e) s = .next (s.takeTrap ⟨0x22, s.run.wordAddr, s.run.word, 0, e.toNat, 0, s.run.after.1, s.run.after.2⟩) := by
  show execTrap e s = _
  unfold execTrap
  dsimp only
  rw [if_pos hk]

end Sys2Proof.Machine

namespace Sys2Proof.Claims

open Sys2Proof.Machine

/-- Settles O21: TRAP takes TRAPI, and a trap of user kind enters the handler through a frame that is free (`State.takeTrap_entered`). -/
theorem userTrapEntry : Obligations.UserTrapEntry := by
  unfold Obligations.UserTrapEntry
  refine ⟨fun s s1 pa e hm hk hu ht hf => ⟨_, execTrap_compute hk e, ?_⟩, fun s s1 pa x hm hk hu ht hx hf => ?_⟩
  · obtain ⟨hrun, hframe, -, -⟩ := State.takeTrap_entered hm hk hu ht hf
      (x := ⟨0x22, s.run.wordAddr, s.run.word, 0, e.toNat, 0, s.run.after.1, s.run.after.2⟩) rfl (fun h => by simp [haltsTeam] at h)
    exact ⟨hrun, hframe⟩
  · have hkind : userKind x.cause = true := by
      rcases hx with h | h | ⟨h | h, -⟩ <;> rw [h] <;> rfl
    refine State.takeTrap_entered hm hk hu ht hf hkind fun h => ?_
    rcases hx with hx | hx | ⟨-, hd⟩
    · rw [hx] at h; simp [haltsTeam] at h
    · rw [hx] at h; simp [haltsTeam] at h
    · exact hd

end Sys2Proof.Claims
end

section
/-! SUPPORT and CERTIFICATES. The return from a trap: what each frame makes of it, and the end of the clause that returns (R51, R224, R369,
R371, R379, R380, R399, R400). -/

namespace Sys2Proof.Machine

open Sys2Proof.Claims

/-! ## The words of a frame -/

/-- The words of the frame of a control or scheduler core (R380). -/
def State.coreFrame (s : State) (i : Nat) : Word := Tbl.get 0 s.dev.frames (s.run.s[63].toNat + 8 * i)

/-- The words of the frame of a compute group at a physical address, as its core reads them (R379). -/
def State.groupFrame (s : State) (core pa i : Nat) : Word :=
  BitVec.ofNat 64 (leNat ((List.range 8).map fun j => s.coreByte core (pa + 8 * i + j)))

/-- A frame is read as words from a state `s1`, and BUSY is cleared at `a`. -/
def State.readsFrame (s s1 : State) (a : Nat) (word : Nat → Word) : Prop :=
  s1.run = s.run ∧ s.frameRead = (s1, .ok (a, (List.range 16).map word))

theorem State.readsFrame_core (s : State) (hk : s.run.kind ≠ .compute) : s.readsFrame s s.run.s[63].toNat s.coreFrame := by
  refine ⟨rfl, ?_⟩
  unfold State.frameRead
  dsimp only
  split
  · rename_i h; exact absurd h hk
  · rfl

theorem State.readsFrame_compute {s s1 : State} {pa : Nat} (hk : s.run.kind = .compute)
    (ht : s.translate s.run.core s.run.part s.run.ctx ((s.run.s[63]).toNat % 2 ^ 56) .wr (!s.isSup s.run) = (s1, .ok pa)) :
    s.readsFrame s1 pa (s1.groupFrame s.run.core pa) := by
  have hrun : s1.run = s.run := by
    have h := (State.served_translate s s.run.core s.run.part s.run.ctx ((s.run.s[63]).toNat % 2 ^ 56) .wr (!s.isSup s.run)).run
    rwa [ht] at h
  refine ⟨hrun, ?_⟩
  unfold State.frameRead
  simp only [hk, ht]
  rfl

/-! ## What a frame makes of the return -/

/-- The resume point's word that a frame names (R376). -/
abbrev frameRidx (word : Nat → Word) : Nat := ((word 1).extractLsb' 56 5).toNat
/-- The resume point's clause that a frame names (R376). -/
abbrev frameClause (word : Nat → Word) : Addr := (word 1).setWidth 56

/-- The group that goes on at the resume point of its frame (R399). -/
def Group.returned (g : Group) (word : Nat → Word) : Group :=
  { g.endFlags with
    em := (word 2).extractLsb' 32 32 &&& g.z
    mmode := (word 6).getLsbD 0
    s := g.s.set 63 (word 5)
    pc := frameClause word, clause := none, word := 0, inHandler := false
    run := if g.run == .stopping then .stopped 0 else g.run
    resume := if frameRidx word = 31 then none else some (frameRidx word)
    doneMask := if frameRidx word = 31 then 0 else (word 2).setWidth 32 }

/-- The return of a control or scheduler core from the frame at `a` (R399). -/
def State.coreReturned (s : State) (g : Group) (a : Nat) (word : Nat → Word) : State :=
  { s.charge 1 with
    run := g.returned word, dev := { (s.charge 1).dev with frames := Tbl.put (s.charge 1).dev.frames (a + 48) (word 6 &&& ~~~(2 : Word)) } }

/-- The return of a compute group from the frame at `a`: the write that clears BUSY is a release (R379, R399). -/
def State.groupWrites (s : State) (g : Group) (a : Nat) (word : Nat → Word) : State :=
  (((s.charge 1).drainBuf g.core).writeWords (a + 48) [word 6 &&& ~~~(2 : Word)]).setRun (g.returned word)
def State.groupReturned (s : State) (g : Group) (a : Nat) (word : Nat → Word) : State :=
  (if g.brkHalt then s.groupWrites g a word else (s.groupWrites g a word).unhalt g.teamKey).thaw g.teamKey

section
variable {s s1 : State} {a : Nat} {word : Nat → Word} (hf : s.readsFrame s1 a word)
include hf

/-- No busy frame (R399). -/
theorem State.trapReturn_idle (hb : (word 6).getLsbD 1 = false) : s.trapReturn = s1.faultExact 0x02 := by
  have hb' : (!(word 6).getLsbD 1) = true := by rw [hb]; rfl
  unfold State.trapReturn
  rw [hf.2]
  exact if_pos hb'

section
variable (hb : (word 6).getLsbD 1 = true)
include hb

/-- A RIDX that names no word (R399). -/
theorem State.trapReturn_badIndex (h1 : 16 ≤ frameRidx word) (h2 : frameRidx word ≤ 30) :
    s.trapReturn = s1.faultExact 0x03 (frameClause word).toNat := by
  have hb' : ¬ (!(word 6).getLsbD 1) = true := by rw [hb]; decide
  have hr : (decide (16 ≤ frameRidx word) && decide (frameRidx word ≤ 30)) = true := by simp only [h1, h2]; rfl
  unfold State.trapReturn
  rw [hf.2]
  exact (if_neg hb').trans (if_pos hr)

variable {s2 : State} (hr : frameRidx word < 16 ∨ frameRidx word = 31)
include hr

/-- Past the tests of BUSY and RIDX the header at CLAUSE is read. -/
theorem State.trapReturn_reads {r : State}
    (h : (match s1.codeWord (frameClause word) with
      | (s2, .error e) => if e.1 = cWAIT then s2.retry else s2.faultExact e.1 (frameClause word).toNat e.2
      | (s2, .ok h) =>
        if !headerOk h then s2.faultExact cILLCLS (frameClause word).toNat
        else (match s1.run.kind with
          | .compute => s2.groupReturned s1.run a word
          | _ => s2.coreReturned s1.run a word).endReturn s1.run) = r) : s.trapReturn = r := by
  have hb' : ¬ (!(word 6).getLsbD 1) = true := by rw [hb]; decide
  have hn : ¬ (decide (16 ≤ frameRidx word) && decide (frameRidx word ≤ 30)) = true := by
    rw [Bool.and_eq_true, decide_eq_true_eq, decide_eq_true_eq]; omega
  rw [← h]
  unfold State.trapReturn
  rw [hf.2]
  exact (if_neg hb').trans (if_neg hn)

/-- An engine owns the line of CLAUSE (R224). -/
theorem State.trapReturn_waits {i : Nat} (hc : s1.codeWord (frameClause word) = (s2, .error (cWAIT, i))) : s.trapReturn = s2.retry := by
  apply State.trapReturn_reads hf hb hr
  rw [hc]
  exact if_pos rfl

variable {h : Word} (hc : s1.codeWord (frameClause word) = (s2, .ok h))
include hc

/-- CLAUSE is no header (R399). -/
theorem State.trapReturn_noHeader (hd : decodeHeader h = none) : s.trapReturn = s2.faultExact 0x03 (frameClause word).toNat := by
  apply State.trapReturn_reads hf hb hr
  rw [hc]
  exact if_pos (by simp [headerOk, hd])

/-- The agent returns (R399). -/
theorem State.trapReturn_returns_core (hd : (decodeHeader h).isSome = true) (hk : s1.run.kind ≠ .compute) :
    s.trapReturn = (s2.coreReturned s1.run a word).endReturn s1.run := by
  apply State.trapReturn_reads hf hb hr
  rw [hc]
  refine (if_neg (by simp [headerOk, hd])).trans ?_
  split
  · rename_i h; exact absurd h hk
  · rfl
theorem State.trapReturn_returns_group (hd : (decodeHeader h).isSome = true) (hk : s1.run.kind = .compute) :
    s.trapReturn = (s2.groupReturned s1.run a word).endReturn s1.run := by
  apply State.trapReturn_reads hf hb hr
  rw [hc, hk]
  exact if_neg (by simp [headerOk, hd])

end
end

/-! ## The group after its return -/

theorem State.charge_only (s : State) (n : Nat) :
    s.charge n = { s with cores := (s.charge n).cores, agentCyc := (s.charge n).agentCyc } := by
  unfold State.charge
  split <;> rfl

/-- The return of a control or scheduler core writes the word of its frame that holds BUSY, and nothing in memory (R399). -/
theorem State.coreReturned_leaves (s : State) (g : Group) (a : Nat) (word : Nat → Word) :
    let t := s.coreReturned g a word
    t.mem = s.mem ∧ Tbl.get 0 t.dev.frames (a + 48) = word 6 &&& ~~~(2 : Word) ∧
      ∀ i, i ≠ 6 → Tbl.get 0 t.dev.frames (a + 8 * i) = Tbl.get 0 s.dev.frames (a + 8 * i) := by
  have hd : (s.charge 1).dev = s.dev := by rw [State.charge_only]
  have hm : (s.charge 1).mem = s.mem := by rw [State.charge_only]
  refine ⟨hm, Tbl.get_put_same .., fun i hi => ?_⟩
  unfold State.coreReturned
  rw [hd]
  exact Tbl.get_put_ne _ _ _ (by omega)

theorem State.thaw_only (s : State) (k : Nat) : s.thaw k = { s with teams := (s.thaw k).teams, matrix := (s.thaw k).matrix } := by
  unfold State.thaw
  split_ifs
  · rfl
  · split
    · rw [State.mxRefreshAll_matrix]; rfl
    · rfl

/-- The groups that go on with the end of a handler leave one that was not halted for it as it is. -/
theorem State.unhalt_run (s : State) (key : Nat) (h : s.run.brkHalt = false) : (s.unhalt key).run = s.run := by
  simp [State.unhalt, State.mapGroups, h]

theorem State.groupReturned_run (s : State) (g : Group) (a : Nat) (word : Nat → Word) : (s.groupReturned g a word).run = g.returned word := by
  unfold State.groupReturned
  rw [State.thaw_only]
  cases hb : g.brkHalt with
  | true => rfl
  | false => exact State.unhalt_run _ _ hb

/-- BUSY is cleared in memory (R399). -/
theorem State.groupReturned_word {s : State} (hm : s.memOk) (g : Group) (a : Nat) (word : Nat → Word) :
    Memory.word (s.groupReturned g a word).mem (a + 48) = word 6 &&& ~~~(2 : Word) := by
  have hs : s.Served ((s.charge 1).drainBuf g.core) := by
    refine State.Served.trans ?_ (State.served_drainBuf _ _)
    rw [State.charge_only]
    exact ⟨rfl, rfl, rfl, rfl, rfl, rfl, rfl, fun _ _ => rfl, id⟩
  have hmem : (s.groupReturned g a word).mem = (s.groupWrites g a word).mem := by
    unfold State.groupReturned
    rw [State.thaw_only]
    split_ifs <;> rfl
  rw [hmem]
  exact Memory.word_words_one (hs.memOk hm).1 _ _

/-- The registers that a return leaves as they are, and those that it takes from the frame (R399): `h` is the group `g` after it. -/
def Group.cameBack (g h : Group) (word : Nat → Word) : Prop :=
  ∃ p y l, h = { g.returned word with pend := p, yielded := y, lastIssue := l }

/-! ## The end of the clause that returns (R26, R51) -/

/-- The end of the clause of a return, but for the trap that it may bring. -/
def State.clauseLeft (s : State) (old : Group) : State :=
  match old.clause with
  | none => s
  | some c =>
    s.setRun { s.run with pend := none, yielded := false, lastIssue := if c.h.yld || old.yielded then s.turn else s.run.lastIssue }

theorem State.clauseLeft_only (s : State) (old : Group) : s.clauseLeft old = { s with run := (s.clauseLeft old).run } := by
  unfold State.clauseLeft
  split <;> rfl

theorem State.clauseLeft_run {s : State} {g : Group} {word : Nat → Word} (h : s.run = g.returned word) (old : Group) :
    g.cameBack (s.clauseLeft old).run word := by
  unfold State.clauseLeft Group.cameBack
  split
  · exact ⟨_, _, _, h⟩
  · rw [State.setRun_run, h]
    exact ⟨_, _, _, rfl⟩

/-- What came in the clause, and then its BRK bit, is taken where the return leads (R51, R369, R371) (log 75). -/
theorem State.endReturn_eq {s : State} {g : Group} {word : Nat → Word} (h : s.run = g.returned word) (old : Group) :
    s.endReturn old =
      let t := s.clauseLeft old
      match old.clause, old.pend with
      | none, _ => t
      | some _, some (.brk code) => t.takeTrap ⟨0x21, frameClause word, 31, 0, code, 0, frameClause word, frameRidx word⟩
      | some c, some (.watch n a i) =>
        t.takeTrap ⟨0x50, c.hdr + 8 + 8 * BitVec.ofNat 56 i, i, a, n, 0, frameClause word, frameRidx word⟩
      | some c, none =>
        if c.h.brk = true then t.takeTrap ⟨0x21, frameClause word, 31, 0, 0, 0, frameClause word, frameRidx word⟩ else t := by
  have hpc : s.run.pc = frameClause word := by rw [h]; rfl
  have hres : s.run.resume.getD 31 = frameRidx word := by
    rw [h]
    show (if frameRidx word = 31 then none else some (frameRidx word)).getD 31 = _
    split_ifs with h31
    · exact h31.symm
    · rfl
  unfold State.endReturn State.clauseLeft Group.endTrap
  dsimp only
  rw [hres, hpc]
  cases old.clause with
  | none => rfl
  | some c =>
    cases old.pend with
    | none => dsimp only; split_ifs <;> rfl
    | some p => cases p <;> rfl

theorem execPrackRet_eq (s : State) : exec .prackRet s = .next s.trapReturn := by
  show execPrackRet s = _
  rfl
theorem execTret_sup {s : State} (h : s.isSup s.run = true) : exec .tret s = .next s.trapReturn := by
  show execTret s = _
  exact if_pos h

end Sys2Proof.Machine

namespace Sys2Proof.Claims

open Sys2Proof.Machine

/-- Settles O24: a return by what the frame's words say, one lemma for each (`State.trapReturn_idle` and the lemmas after it); the group that
comes back is `Group.returned`, and the end of its clause is `State.endReturn_eq`. -/
theorem returnsFromTraps : Obligations.ReturnsFromTraps := by
  unfold Obligations.ReturnsFromTraps
  refine ⟨fun s s1 h hk => ?_, fun s s1 s2 pa h hm hk => ?_⟩
  · intro frame word ridx clause
    have hkind : s.run.kind ≠ .compute := by rcases hk with ⟨k, hk⟩ | ⟨k, hk⟩ <;> simp [hk]
    have hsup : s.isSup s.run = true := by rcases hk with ⟨k, hk⟩ | ⟨k, hk⟩ <;> simp [State.isSup, hk]
    have hf : s.readsFrame s frame word := s.readsFrame_core hkind
    have hx : exec .tret s = .next s.trapReturn := execTret_sup hsup
    have hs := State.served_codeWord s clause
    refine ⟨fun hb => ⟨_, hx, State.trapReturn_idle hf hb⟩, fun hb h1 h2 => ⟨_, hx, State.trapReturn_badIndex hf hb h1 h2⟩,
      fun hb hr hc hd => ⟨_, hx, State.trapReturn_noHeader hf hb hr hc hd⟩, fun hb hr hc hd => ⟨_, hx, ?_⟩,
      fun hb hr i hc => ⟨_, hx, (State.trapReturn_waits hf hb hr hc).trans ?_⟩⟩
    · rw [hc] at hs
      obtain ⟨hmem, hbusy, hframes⟩ := s1.coreReturned_leaves s.run frame word
      refine ⟨_, (State.trapReturn_returns_core hf hb hr hc hd hkind).trans (State.endReturn_eq rfl s.run), ?_⟩
      obtain ⟨p, y, l, hrun⟩ := State.clauseLeft_run (s := s1.coreReturned s.run frame word) rfl s.run
      rw [State.clauseLeft_only, hrun]
      exact ⟨rfl, rfl, rfl, rfl, rfl, rfl, rfl, rfl, rfl, rfl, rfl, rfl, hmem, hbusy,
        fun i _ hi => (hframes i hi).trans (by rw [hs.frames])⟩
    · rw [hc] at hs
      rw [State.retry, hs.run]
      rfl
  · intro g word ridx clause returns ht
    have hf : s.readsFrame s1 pa word := State.readsFrame_compute hk ht
    have hret {P : State → Prop} (h : P s.trapReturn) : returns P :=
      ⟨⟨_, execPrackRet_eq s, h⟩, fun hsup => ⟨_, execTret_sup hsup, h⟩⟩
    have hs1 := State.served_translate s g.core g.part g.ctx ((g.s[63]).toNat % 2 ^ 56) .wr (!s.isSup g)
    have hs2 := State.served_codeWord s1 clause
    rw [ht] at hs1
    refine ⟨fun hb => hret (State.trapReturn_idle hf hb), fun hb h1 h2 => hret (State.trapReturn_badIndex hf hb h1 h2),
      fun hb hr hc hd => hret ?_, fun hb hr i hc => hret ((State.trapReturn_waits hf hb hr hc).trans ?_)⟩
    · rw [hc] at hs2
      have hg : s1.run = g := hs1.run
      have hw := State.groupReturned_word (hs2.memOk (hs1.memOk hm)) g pa word
      have hx := (State.trapReturn_returns_group hf hb hr hc hd (hg ▸ hk)).trans
        (State.endReturn_eq (State.groupReturned_run s2 s1.run pa word) s1.run)
      rw [hg] at hx
      refine ⟨_, hx, ?_⟩
      obtain ⟨p, y, l, hrun⟩ := State.clauseLeft_run (State.groupReturned_run s2 g pa word) g
      rw [State.clauseLeft_only, hrun]
      exact ⟨rfl, rfl, rfl, rfl, rfl, rfl, rfl, rfl, rfl, rfl, rfl, rfl, rfl, fun _ => by simp [Group.returned], hw⟩
    · rw [hc] at hs2
      rw [State.retry, hs2.run, hs1.run]
      rfl

end Sys2Proof.Claims
end

section
/-! SUPPORT and CERTIFICATES. A page that a core translated last, the pieces of an access to it, and what stores put in a core's write-through buffer or in memory
(R194, R195, R204, R211, R212, R327, R330). -/

namespace Sys2Proof.Machine

open Sys2Proof.Claims

/-! ## What an access to memory touches -/

/-- An access leaves everything but the lines and translations of caches, the write-through buffer of its core, the lines, sharers and counters of
slices, and memory; the page that its core translated last stays the first of its cache (R204-R206, R211, R330). -/
structure State.Touched (s t : State) : Prop where
  only : t = { s with cores := t.cores, clusters := t.clusters, slices := t.slices, mem := t.mem }
  core : ∀ n, t.core n = { s.core n with buf := (t.core n).buf, tlb := (t.core n).tlb }
  cluster : ∀ k, t.cluster k = { s.cluster k with lines := (t.cluster k).lines }
  slice : ∀ n, t.slice n = { s.slice n with
    lines := (t.slice n).lines, sharers := (t.slice n).sharers, ctrs := (t.slice n).ctrs }
  other : ∀ n, n ≠ s.run.core → (t.core n).buf = (s.core n).buf
  page : (t.core s.run.core).tlb.head? = (s.core s.run.core).tlb.head?

theorem State.Touched.run {s t : State} (h : s.Touched t) : t.run = s.run := by rw [h.only]

theorem State.touched_refl (s : State) : s.Touched s :=
  ⟨rfl, fun _ => rfl, fun _ => rfl, fun _ => rfl, fun _ _ => rfl, rfl⟩

theorem State.Touched.trans {s t u : State} (h : s.Touched t) (k : t.Touched u) : s.Touched u where
  only := k.only.trans (by rw [h.only])
  core n := (k.core n).trans (by rw [h.core n])
  cluster n := (k.cluster n).trans (by rw [h.cluster n])
  slice n := (k.slice n).trans (by rw [h.slice n])
  other n hn := (k.other n (h.run ▸ hn)).trans (h.other n hn)
  page := (h.run ▸ k.page).trans h.page

theorem State.touched_setCore (s : State) (b : List BufEntry) {l : List TlbEntry} (hl : l.head? = (s.core s.run.core).tlb.head?) :
    s.Touched (s.setCore s.run.core { s.core s.run.core with buf := b, tlb := l }) where
  only := rfl
  core n := by
    by_cases hn : n = s.run.core
    · subst hn; rw [State.core_setCore]
    · rw [State.core_setCore_ne _ _ hn]
  cluster _ := rfl
  slice _ := rfl
  other n hn := by rw [State.core_setCore_ne _ _ hn]
  page := by rw [State.core_setCore]; exact hl

theorem State.touched_setCluster (s : State) (k : Nat) (ls : List CacheLine) : s.Touched (s.setCluster k { s.cluster k with lines := ls }) where
  only := rfl
  core _ := rfl
  cluster n := by
    by_cases hn : n = k
    · subst hn; rw [State.cluster_setCluster]
    · rw [State.cluster_setCluster_ne _ _ hn]
  slice _ := rfl
  other _ _ := rfl
  page := rfl

theorem State.touched_setSlice (s : State) (k : Nat) {q : Slice}
    (h : q = { s.slice k with lines := q.lines, sharers := q.sharers, ctrs := q.ctrs }) : s.Touched (s.setSlice k q) where
  only := rfl
  core _ := rfl
  cluster _ := rfl
  slice n := by
    by_cases hn : n = k
    · subst hn; rw [State.slice_setSlice]; exact h
    · rw [State.slice_setSlice_ne _ _ hn]
  other _ _ := rfl
  page := rfl

theorem State.touched_mem (s : State) (m : Memory) : s.Touched { s with mem := m } :=
  ⟨rfl, fun _ => rfl, fun _ => rfl, fun _ => rfl, fun _ _ => rfl, rfl⟩

/-- An access that changes no byte that an agent reads. -/
structure State.Looks (s t : State) : Prop where
  touched : s.Touched t
  mem : t.mem = s.mem
  bufs : s.SameBufs t

theorem State.looks_refl (s : State) : s.Looks s := ⟨s.touched_refl, rfl, s.sameBufs_refl⟩
theorem State.Looks.trans {s t u : State} (h : s.Looks t) (k : t.Looks u) : s.Looks u :=
  ⟨h.touched.trans k.touched, k.mem.trans h.mem, h.bufs.trans k.bufs⟩
theorem State.looks_foldl {α : Type} (f : State → α → State) (hf : ∀ (t : State) (x : α), t.Looks (f t x)) (xs : List α) (s : State) :
    s.Looks (xs.foldl f s) :=
  List.foldlRecOn xs f (motive := s.Looks) s.looks_refl fun _ h x _ => h.trans (hf _ x)

theorem State.coreByte_congr {s t : State} {n : Nat} (hb : (t.core n).buf = (s.core n).buf) (hm : t.mem = s.mem) (b : Nat) :
    t.coreByte n b = s.coreByte n b := by
  unfold State.coreByte
  rw [hb, hm]

/-! ## The page that a core translated last (R327, R330) -/

/-- Address `va` lies in the page that the running agent's core translated last, which allows the access; its byte is byte `pa` of device
memory. -/
def State.onPage (s : State) (acc : Access) (va pa : Nat) : Prop :=
  ∃ e, (s.core s.run.core).tlb.head? = some e ∧ e.asid = s.asid s.run.part s.run.ctx ∧ e.va ≤ va ∧ va < e.va + e.size ∧ va < 2 ^ 56 ∧
    pa = e.pa + (va - e.va) ∧ pa < 2 ^ 39 ∧ acc ≠ .ex ∧ (acc = .wr → e.w = true ∧ e.d = true) ∧ (e.s = true → s.isSup s.run = true)

theorem State.onPage_of_inPage {s : State} {acc : Access} {a : Word} {n pa : Nat} (h : inPage s acc a n pa) {k : Nat} (hk : k < n) :
    s.onPage acc (a.toNat + k) (pa + k) := by
  obtain ⟨e, rest, ht, has, h1, h2, h3, h4, h5, h6, h7, h8⟩ := h
  exact ⟨e, by rw [ht]; rfl, has, by omega, by omega, by omega, by omega, by omega, h6, h7, h8⟩

theorem inPage_of_touched {s t : State} {acc : Access} {a : Word} {n pa : Nat} (h : inPage s acc a n pa) (k : s.Touched t) :
    inPage t acc a n pa := by
  obtain ⟨e, rest, ht, has, hrest⟩ := h
  have hp := k.page
  rw [ht, List.head?_cons] at hp
  obtain ⟨rest', hr⟩ := List.head?_eq_some_iff.1 hp
  have hasid : t.asid t.run.part t.run.ctx = s.asid s.run.part s.run.ctx := by rw [k.only]; rfl
  have hsup : t.isSup t.run = s.isSup s.run := by rw [k.only]; rfl
  refine ⟨e, rest', by rw [k.run]; exact hr, has.trans hasid.symm, ?_⟩
  rw [hsup]
  exact hrest

theorem inPage_low {s : State} {acc : Access} {a : Word} {n pa : Nat} (h : inPage s acc a n pa) : pa + n ≤ 2 ^ 39 := by
  obtain ⟨_, _, -, -, -, -, -, -, hlow, -⟩ := h
  exact hlow

theorem region_dev {pa : Nat} (h : pa < 2 ^ 39) : region pa = .dev := by
  unfold region
  rw [if_pos (by omega), if_pos h]

/-- A translation through the newest entry of the core's cache (R330). -/
theorem State.translate_onPage {s : State} {acc : Access} {va pa : Nat} (h : s.onPage acc va pa) :
    ∃ l, l.head? = (s.core s.run.core).tlb.head? ∧ s.translate s.run.core s.run.part s.run.ctx va acc (!s.isSup s.run) =
      (s.setCore s.run.core { s.core s.run.core with tlb := l }, .ok pa) := by
  obtain ⟨e, ht, has, h1, h2, h3, hpa, h5, h6, h7, h8⟩ := h
  obtain ⟨rest, hr⟩ := List.head?_eq_some_iff.1 ht
  have hfind : tlbFind (s.core s.run.core).tlb (s.asid s.run.part s.run.ctx) va = some e := by
    rw [hr]
    exact List.find?_cons_of_pos (by simp [has, h1, h2])
  have hleaf : leafAllows e.w e.x e.s pa acc (!s.isSup s.run) = true := by
    unfold leafAllows
    cases acc with
    | ex => exact absurd rfl h6
    | rd => cases hs : e.s <;> simp [region_dev h5, hs, h8]
    | wr => cases hs : e.s <;> simp [region_dev h5, hs, h8, h7]
  have hdirty : (acc == .wr && !e.d) = false := by
    cases acc with
    | wr => simp [h7]
    | _ => rfl
  refine ⟨e :: (s.core s.run.core).tlb.filter (· != e), by rw [ht]; rfl, ?_⟩
  unfold State.translate State.cached
  simp only [hfind, ← hpa, hleaf, hdirty, Bool.not_true, Bool.false_eq_true, if_false]

theorem State.locate1_onPage {s : State} {acc : Access} {va : Word} {pa : Nat} (h : s.onPage acc va.toNat pa) (n : Nat) :
    ∃ t, s.locate1 va n acc = (t, .ok (.mem pa)) ∧ s.Looks t := by
  obtain ⟨l, hl, ht⟩ := State.translate_onPage h
  obtain ⟨e, -, -, -, -, h3, -, h5, -⟩ := h
  have hz : va.extractLsb' 56 8 = 0 := by
    apply BitVec.eq_of_toNat_eq
    rw [BitVec.extractLsb'_toNat, Nat.shiftRight_eq_div_pow, Nat.div_eq_of_lt h3]
    rfl
  refine ⟨_, ?_, s.touched_setCore _ hl, rfl, s.sameBufs_setCore rfl⟩
  unfold State.locate1
  simp only [hz, ht, State.placeOf, region_dev h5, bne_self_eq_false, Bool.false_eq_true, if_false]

/-- Pieces of device memory, of the given lengths, from `pa` on. -/
def devPieces (pa : Nat) : List Nat → List (Place × Nat)
  | [] => []
  | k :: ks => (.mem pa, k) :: devPieces (pa + k) ks

/-- An access to the page is located in one piece, or in two where it crosses a boundary of 4 KB; it uses its core's translation. -/
theorem State.locate_inPage {s : State} {acc : Access} {va : Word} {n pa : Nat} (h : inPage s acc va n pa) (hn : 0 < n) :
    ∃ t ks, s.locate va n acc = (t, .ok (devPieces pa ks)) ∧ ks.sum = n ∧ s.Looks t := by
  have ha := State.onPage_of_inPage h hn
  unfold State.locate
  dsimp only
  split_ifs with hf
  · obtain ⟨t, ht, k⟩ := State.locate1_onPage (va := va) (pa := pa) ha n
    refine ⟨t, [n], ?_, by simp, k⟩
    rw [ht]
    rfl
  · obtain ⟨t, ht, k⟩ := State.locate1_onPage (va := va) (pa := pa) ha 0
    have hfn : 4096 - va.toNat % 4096 < n := by omega
    generalize 4096 - va.toNat % 4096 = first at hfn ⊢
    have hva : (va + BitVec.ofNat 64 first).toNat = va.toNat + first := by
      obtain ⟨-, -, -, -, -, -, hmax, -⟩ := h
      rw [BitVec.toNat_add, BitVec.toNat_ofNat, Nat.add_mod_mod, Nat.mod_eq_of_lt (by omega)]
    have hb := State.onPage_of_inPage (inPage_of_touched h k.touched) hfn
    rw [← hva] at hb
    obtain ⟨u, hu, k2⟩ := State.locate1_onPage hb 0
    refine ⟨u, [first, n - first], ?_, by simp; omega, k.trans k2⟩
    rw [ht]
    dsimp only
    rw [hu]
    rfl

/-! ## Bytes of numbers -/

/-- Bit `j` of the number that bytes hold. -/
theorem leNat_testBit (bs : List Byte) (j : Nat) : (leNat bs).testBit j = (bs.getD (j / 8) 0).getLsbD (j % 8) := by
  induction bs generalizing j with
  | nil => simp [leNat]
  | cons b bs ih =>
    have hb : b.toNat < 2 ^ 8 := b.isLt
    have he : leNat (b :: bs) = 2 ^ 8 * leNat bs + b.toNat := by rw [leNat]; omega
    rw [he, Nat.testBit_two_pow_mul_add _ hb]
    split_ifs with h
    · rw [Nat.div_eq_of_lt h, Nat.mod_eq_of_lt h]; rfl
    · rw [ih, show j / 8 = (j - 8) / 8 + 1 by omega, show j % 8 = (j - 8) % 8 by omega]; rfl

/-- Byte `i` of a number's bytes. -/
theorem leBytes_getD (x n i : Nat) : (leBytes x n).getD i 0 = if i < n then BitVec.ofNat 8 (x / 256 ^ i) else 0 := by
  induction n generalizing x i with
  | zero => simp [leBytes]
  | succ n ih =>
    cases i with
    | zero => simp [leBytes]
    | succ i =>
      rw [leBytes, List.getD_cons_succ, ih, Nat.div_div_eq_div_mul, ← Nat.pow_succ']
      simp

/-! ## The write-through buffer (R211) -/

/-- The byte at a physical address that a buffer holds: from its newest entry that has it. -/
def bufByte (buf : List BufEntry) (b : Nat) : Option Byte :=
  (buf.reverse.find? fun e => e.sector == b / 32 * 32 && e.mask.getLsbD (b % 32)).map fun e => e.data.extractLsb' (8 * (b % 32)) 8

theorem State.coreByte_eq (s : State) (n b : Nat) : s.coreByte n b = (bufByte (s.core n).buf b).getD (Memory.get s.mem b) := by
  unfold State.coreByte bufByte
  cases (s.core n).buf.reverse.find? _ <;> rfl

theorem bufByte_append (xs : List BufEntry) (e : BufEntry) (b : Nat) :
    bufByte (xs ++ [e]) b =
      if e.sector = b / 32 * 32 ∧ e.mask.getLsbD (b % 32) = true then some (e.data.extractLsb' (8 * (b % 32)) 8) else bufByte xs b := by
  unfold bufByte
  rw [List.reverse_append, List.reverse_singleton, List.singleton_append, List.find?_cons]
  split_ifs with h
  · simp [h]
  · have hp : (e.sector == b / 32 * 32 && e.mask.getLsbD (b % 32)) = false := by simpa using h
    rw [hp]

/-- The newest entry of a sector `k`: only entries of other sectors stand behind it. -/
theorem bufByte_newest (pre post : List BufEntry) (e : BufEntry) (b k : Nat) (he : e.sector = k) (h : ∀ x ∈ post, x.sector ≠ k) :
    bufByte (pre ++ e :: post) b = if k = b / 32 * 32 then bufByte (pre ++ [e]) b else bufByte (pre ++ post) b := by
  unfold bufByte
  split_ifs with hs
  · have hn : (post.reverse.find? fun x => x.sector == b / 32 * 32 && x.mask.getLsbD (b % 32)) = none := by
      rw [List.find?_eq_none]
      intro x hx
      have := h x (List.mem_reverse.1 hx)
      simp [← hs, this]
    simp [List.find?_append, hn]
  · have hp : (e.sector == b / 32 * 32) = false := by simpa [he] using hs
    simp [List.find?_append, hp]

section
variable {data : List Byte} {off i : Nat} (hi : i < 32)
include hi

/-- The mask of an entry's bytes from `off` on. -/
theorem sectorMask_bit (n : Nat) :
    (BitVec.ofNat 32 ((2 ^ n - 1) * 2 ^ off)).getLsbD i = (decide (off ≤ i) && decide (i < off + n)) := by
  rw [BitVec.getLsbD_ofNat, Nat.testBit_mul_two_pow, Nat.testBit_two_pow_sub_one]
  by_cases h : off ≤ i
  · have : i - off < n ↔ i < off + n := by omega
    simp [hi, h, this]
  · simp [h]

/-- Bytes that merge with an entry's data: the new ones in their place, the old ones elsewhere. -/
theorem sectorData_byte (x : BitVec 256) :
    ((x &&& ~~~BitVec.ofNat 256 ((2 ^ (8 * data.length) - 1) * 2 ^ (8 * off))) ||| BitVec.ofNat 256 (leNat data * 2 ^ (8 * off))).extractLsb'
        (8 * i) 8 =
      if off ≤ i ∧ i < off + data.length then data.getD (i - off) 0 else x.extractLsb' (8 * i) 8 := by
  apply BitVec.eq_of_getLsbD_eq
  intro j hj
  have hlt : 8 * i + j < 256 := by omega
  simp only [BitVec.getLsbD_extractLsb', hj, decide_true, Bool.true_and, BitVec.getLsbD_or, BitVec.getLsbD_and, BitVec.getLsbD_not,
    BitVec.getLsbD_ofNat, hlt, Nat.testBit_mul_two_pow, Nat.testBit_two_pow_sub_one, leNat_testBit]
  by_cases h1 : off ≤ i
  · have h2 : (8 * i + j - 8 * off) / 8 = i - off ∧ (8 * i + j - 8 * off) % 8 = j := by omega
    have h3 : 8 * off ≤ 8 * i + j := by omega
    rw [h2.1, h2.2]
    by_cases h4 : i < off + data.length
    · have h5 : 8 * i + j - 8 * off < 8 * data.length := by omega
      simp [h1, h3, h4, h5]
    · have h5 : ¬ 8 * i + j - 8 * off < 8 * data.length := by omega
      have h6 : data.length ≤ i - off := by omega
      simp [h1, h3, h4, h5, h6, hj]
  · have h3 : ¬ 8 * off ≤ 8 * i + j := by omega
    simp [h1, h3, hj]

end

/-- The last place of a list at which a condition holds. -/
theorem exists_last_of_findIdx_reverse {α : Type} {p : α → Bool} {xs : List α} {j : Nat} (h : xs.reverse.findIdx? p = some j) :
    ∃ pre x post, xs = pre ++ x :: post ∧ pre.length = xs.length - 1 - j ∧ p x = true ∧ ∀ y ∈ post, p y = false := by
  obtain ⟨hj, hp, hn⟩ := List.findIdx?_eq_some_iff_getElem.1 h
  rw [List.length_reverse] at hj
  rw [List.getElem_reverse] at hp
  have hk : xs.length - 1 - j < xs.length := by omega
  refine ⟨xs.take (xs.length - 1 - j), xs[xs.length - 1 - j], xs.drop (xs.length - 1 - j + 1), ?_, by rw [List.length_take]; omega, hp, fun y hy => ?_⟩
  · rw [← List.drop_eq_getElem_cons hk, List.take_append_drop]
  · obtain ⟨m, hm, rfl⟩ := List.getElem_of_mem hy
    rw [List.length_drop] at hm
    rw [List.getElem_drop]
    have := hn (j - 1 - m) (by omega)
    rw [List.getElem_reverse] at this
    simp only [show xs.length - 1 - (j - 1 - m) = xs.length - 1 - j + 1 + m by omega] at this
    simpa using this

theorem modify_append_cons {α : Type} (f : α → α) (pre : List α) (x : α) (post : List α) :
    (pre ++ x :: post).modify pre.length f = pre ++ f x :: post := by
  induction pre with
  | nil => rfl
  | cons y pre ih => simp [ih]

/-- Bytes of one sector enter the buffer: they are read there, and every other byte as before; nothing else changes (R211). -/
theorem State.bufStore_only (s : State) (n pa : Nat) (data : List Byte) (part ctx grid : Nat) (h : Hint) :
    ∃ b, s.bufStore n pa data part ctx grid h = s.setCore n { s.core n with buf := b } := by
  unfold State.bufStore
  dsimp only
  split
  · split <;> exact ⟨_, rfl⟩
  · exact ⟨_, rfl⟩

theorem State.bufByte_bufStore (s : State) (n : Nat) {pa : Nat} {data : List Byte} (part ctx grid : Nat) (h : Hint)
    (hl : pa % 32 + data.length ≤ 32) (b : Nat) :
    bufByte ((s.bufStore n pa data part ctx grid h).core n).buf b =
      if pa ≤ b ∧ b < pa + data.length then some (data.getD (b - pa) 0) else bufByte (s.core n).buf b := by
  have hi : b % 32 < 32 := Nat.mod_lt _ (by decide)
  have hin : pa - pa % 32 = b / 32 * 32 → ((pa % 32 ≤ b % 32 ∧ b % 32 < pa % 32 + data.length) ↔ (pa ≤ b ∧ b < pa + data.length)) ∧
      b % 32 - pa % 32 = b - pa := by omega
  have hout : pa - pa % 32 ≠ b / 32 * 32 → ¬ (pa ≤ b ∧ b < pa + data.length) := by omega
  have fresh (e : BufEntry) (he : e.sector = pa - pa % 32) (hm : e.mask = BitVec.ofNat 32 ((2 ^ data.length - 1) * 2 ^ (pa % 32)))
      (hd : e.data = BitVec.ofNat 256 (leNat data * 2 ^ (8 * (pa % 32)))) :
      bufByte ((s.core n).buf ++ [e]) b =
        if pa ≤ b ∧ b < pa + data.length then some (data.getD (b - pa) 0) else bufByte (s.core n).buf b := by
    simp only [bufByte_append, he, hm, sectorMask_bit hi, Bool.and_eq_true, decide_eq_true_eq]
    by_cases hs : pa - pa % 32 = b / 32 * 32
    · obtain ⟨hr, hsub⟩ := hin hs
      have hbyte := sectorData_byte (data := data) (off := pa % 32) hi 0#256
      rw [BitVec.zero_and, BitVec.zero_or, ← hd] at hbyte
      simp only [hs, true_and, hr] at hbyte ⊢
      split_ifs with hc
      · rw [hbyte, if_pos hc, hsub]
      · rfl
    · rw [if_neg (fun hc => hs hc.1), if_neg (hout hs)]
  unfold State.bufStore
  dsimp only
  split
  · rename_i j hj
    obtain ⟨pre, e, post, hbuf, hpre, hp, hpost⟩ := exists_last_of_findIdx_reverse hj
    have he : e.sector = pa - pa % 32 := by simpa using hp
    have hnew : ∀ x ∈ post, x.sector ≠ pa - pa % 32 := fun x hx => by simpa using hpost x hx
    split
    · rw [State.core_setCore]
      dsimp only
      rw [← hpre, hbuf, modify_append_cons, bufByte_newest pre post e b _ he hnew]
      refine (bufByte_newest pre post _ b _ ?_ hnew).trans ?_
      · exact he
      by_cases hs : pa - pa % 32 = b / 32 * 32
      · obtain ⟨hr, hsub⟩ := hin hs
        simp only [bufByte_append, he, hs, true_and, BitVec.getLsbD_or, Bool.or_eq_true, sectorMask_bit hi, Bool.and_eq_true,
          decide_eq_true_eq, hr, sectorData_byte hi, hsub]
        by_cases hc : pa ≤ b ∧ b < pa + data.length <;> simp [hc]
      · rw [if_neg hs, if_neg hs, if_neg (hout hs)]
    · rw [State.core_setCore]
      exact fresh _ rfl rfl rfl
  · rw [State.core_setCore]
    exact fresh _ rfl rfl rfl

/-! ## What a compute group's store leaves in its core's buffer (R211, R241) -/

/-- From `old` to `new` the bytes `bs` are put from `pa` on, and every other byte is as before, at the places of which `P` holds. -/
def laid {α : Type} (P : Nat → Prop) (put : Byte → α) (old new : Nat → α) (pa : Nat) (bs : List Byte) : Prop :=
  ∀ b, P b → new b = if pa ≤ b ∧ b < pa + bs.length then put (bs.getD (b - pa) 0) else old b

theorem laid_nil {α : Type} (P : Nat → Prop) (put : Byte → α) {old new : Nat → α} (pa : Nat) (h : ∀ b, new b = old b) :
    laid P put old new pa [] := fun b _ => by
  rw [h, if_neg (by simp only [List.length_nil]; omega)]

/-- Bytes that follow one another. -/
theorem laid_append {α : Type} {P : Nat → Prop} {put : Byte → α} {old mid new : Nat → α} {pa pb : Nat} {xs ys : List Byte}
    (h : laid P put old mid pa xs) (k : laid P put mid new pb ys) (hp : ys = [] ∨ pb = pa + xs.length) : laid P put old new pa (xs ++ ys) := by
  intro b hb
  rw [k b hb, h b hb, List.length_append]
  rcases hp with rfl | rfl
  · rw [if_neg (by simp only [List.length_nil]; omega), List.append_nil, List.length_nil, Nat.add_zero]
  · by_cases h1 : pa + xs.length ≤ b ∧ b < pa + xs.length + ys.length
    · rw [if_pos h1, if_pos (by omega), List.getD_append_right _ _ _ _ (by omega), Nat.sub_sub]
    · rw [if_neg h1]
      by_cases h2 : pa ≤ b ∧ b < pa + xs.length
      · rw [if_pos h2, if_pos (by omega), List.getD_append _ _ _ _ (by omega)]
      · rw [if_neg h2, if_neg (by omega)]

/-- What holds of the store of bytes of one sector, and of bytes that follow one another, holds of a store that is split by sectors (R196). -/
theorem splitSectors_induction {R : State → State → Nat → List Byte → Prop} (f : State → Nat × List (Option Byte) → State)
    (hnil : ∀ s pa, R s s pa [])
    (happ : ∀ s t u pa pb xs ys, R s t pa xs → R t u pb ys → ys = [] ∨ pb = pa + xs.length → R s u pa (xs ++ ys))
    (hone : ∀ s pa bs, pa % 32 + bs.length ≤ 32 → R s (f s (pa, bs.map some)) pa bs)
    (n : Nat) (s : State) (pa : Nat) (bs : List Byte) (hn : bs.length < n) : R s ((splitSectors n pa (bs.map some)).foldl f s) pa bs := by
  induction n generalizing s pa bs with
  | zero => exact absurd hn (by omega)
  | succ n ih =>
    unfold splitSectors
    by_cases he : (bs.map some).isEmpty = true
    · have hb : bs = [] := by simpa using he
      rw [if_pos he, hb]
      exact hnil s pa
    · have hpos : 0 < bs.length := List.length_pos_iff.2 (by simpa using he)
      rw [if_neg he]
      dsimp only
      have hk : 0 < 32 - pa % 32 := by omega
      generalize hkk : 32 - pa % 32 = k at hk ⊢
      rw [List.foldl_cons, ← List.map_take, ← List.map_drop]
      have h1 := hone s pa (bs.take k) (by rw [List.length_take]; omega)
      have h2 := ih (f s (pa, (bs.take k).map some)) (pa + k) (bs.drop k) (by rw [List.length_drop]; omega)
      have h3 := happ _ _ _ _ _ _ _ h1 h2 (by
        by_cases hc : bs.length ≤ k
        · exact .inl (List.drop_of_length_le hc)
        · exact .inr (by rw [List.length_take]; omega))
      rwa [List.take_append_drop] at h3

/-- The bytes `bs` are stored from `pa` on through the write-through buffer of the running group's core, which reads every other byte as before. -/
structure State.Buffers (s t : State) (pa : Nat) (bs : List Byte) : Prop where
  touched : s.Touched t
  mem : t.mem = s.mem
  byte : laid (fun _ => True) some (bufByte (s.core s.run.core).buf) (bufByte (t.core s.run.core).buf) pa bs

theorem State.buffers_nil {s t : State} (h : s.Looks t) (pa : Nat) : s.Buffers t pa [] :=
  ⟨h.touched, h.mem, laid_nil _ _ pa fun b => by rw [h.bufs.buf]⟩

theorem State.Buffers.append {s t u : State} {pa pb : Nat} {xs ys : List Byte} (h : s.Buffers t pa xs) (k : t.Buffers u pb ys)
    (hp : ys = [] ∨ pb = pa + xs.length) : s.Buffers u pa (xs ++ ys) :=
  ⟨h.touched.trans k.touched, k.mem.trans h.mem, laid_append h.byte (h.touched.run ▸ k.byte) hp⟩

theorem State.buffers_bufStore (s : State) {pa : Nat} {data : List Byte} (part ctx grid : Nat) (h : Hint) (hl : pa % 32 + data.length ≤ 32) :
    s.Buffers (s.bufStore s.run.core pa data part ctx grid h) pa data := by
  obtain ⟨buf, he⟩ := s.bufStore_only s.run.core pa data part ctx grid h
  have ht : s.Touched (s.bufStore s.run.core pa data part ctx grid h) ∧ (s.bufStore s.run.core pa data part ctx grid h).mem = s.mem := by
    rw [he]
    exact ⟨s.touched_setCore buf rfl, rfl⟩
  exact ⟨ht.1, ht.2, fun b _ => State.bufByte_bufStore s _ part ctx grid h hl b⟩

theorem State.bufStores_eq_foldl (s : State) (core part ctx grid : Nat) (h : Hint) (xs : List (Nat × List (Option Byte))) :
    s.bufStores core part ctx grid h xs = xs.foldl (fun t x => t.bufStore core x.1 (x.2.map (·.getD 0)) part ctx grid h) s := by
  induction xs generalizing s with
  | nil => rfl
  | cons x xs ih => exact ih _

/-- The sectors of a store enter the buffer one by one. -/
theorem State.buffers_bufStores (n : Nat) (s : State) (pa : Nat) (bs : List Byte) (part ctx grid : Nat) (h : Hint) (hn : bs.length < n) :
    s.Buffers (s.bufStores s.run.core part ctx grid h (splitSectors n pa (bs.map some))) pa bs := by
  rw [State.bufStores_eq_foldl]
  refine splitSectors_induction (R := fun t u pa bs => t.run = s.run → t.Buffers u pa bs) _ (fun t pa _ => State.buffers_nil t.looks_refl pa)
    (fun t u v pa pb xs ys h1 h2 hp ht => (h1 ht).append (h2 ((h1 ht).touched.run.trans ht)) hp) (fun t pa bs hl ht => ?_) n s pa bs hn rfl
  have hdata : (bs.map some).map (·.getD 0) = bs := by simp
  dsimp only
  rw [hdata, ← ht]
  exact t.buffers_bufStore part ctx grid h hl

theorem State.looks_storeHint (s : State) (k pa n : Nat) (h : Hint) : s.Looks (s.storeHint k pa n h) := by
  refine State.looks_foldl _ (fun t x => ?_) _ s
  dsimp only
  split
  · exact ⟨t.touched_setCluster _ _, rfl, t.sameBufs_setCluster _ _⟩
  · exact t.looks_refl

/-- The pieces of a compute group's store enter the buffer (R241). -/
theorem State.buffers_writePieces {s : State} (hk : s.run.kind = .compute) (ks : List Nat) (pa : Nat) (bs : List Byte) (h : Hint)
    (hl : bs.length = ks.sum) : s.Buffers (s.writePieces bs h (devPieces pa ks)) pa bs := by
  induction ks generalizing s pa bs with
  | nil =>
    rw [List.length_eq_zero_iff.1 hl]
    exact State.buffers_nil s.looks_refl pa
  | cons k ks ih =>
    rw [List.sum_cons] at hl
    have h1 := s.looks_storeHint s.run.cluster pa (bs.take k).length h
    have h2 := State.buffers_bufStores ((bs.take k).length + 1) (s.storeHint s.run.cluster pa (bs.take k).length h) pa (bs.take k) s.run.part
      s.run.ctx s.run.grid h (Nat.lt_succ_self _)
    have h3 := (State.buffers_nil h1 pa).append h2 (.inr rfl)
    rw [List.nil_append, h1.touched.run] at h3
    have hw : s.writePlace (.mem pa) (bs.take k) h = (s.storeHint s.run.cluster pa (bs.take k).length h).bufStores s.run.core s.run.part s.run.ctx
        s.run.grid h (splitSectors ((bs.take k).length + 1) pa ((bs.take k).map some)) := by
      unfold State.writePlace
      exact if_pos hk
    rw [← hw] at h3
    have h4 := ih (s := s.writePlace (.mem pa) (bs.take k) h) (h3.touched.run ▸ hk) (pa + k) (bs.drop k) (by rw [List.length_drop]; omega)
    have h5 := h3.append h4 (.inr (by rw [List.length_take]; omega))
    rwa [List.take_append_drop] at h5

/-- Release notices reach slices alone (R220). -/
theorem State.looks_notices (s : State) (ord : MOrd) (sco : Scope) (ps : List (Place × Nat)) : s.Looks (s.notices ord sco ps) := by
  have one (t : State) (core line : Nat) : t.Looks (t.notice core line) := ⟨t.touched_setSlice _ rfl, rfl, ⟨fun _ => rfl⟩⟩
  unfold State.notices
  split
  · refine State.looks_foldl _ (fun t x => ?_) _ s
    split
    · split
      · exact State.looks_foldl _ (fun u i => one u _ _) _ t
      · exact t.looks_refl
    · exact t.looks_refl
  · exact s.looks_refl

/-- One lane's store of a compute group to the page (R241). -/
theorem State.storeGlobal_inPage {s : State} (hk : s.run.kind = .compute) {a : Word} {bs : List Byte} {pa : Nat} (h : Hint) (ord : MOrd)
    (sco : Scope) (hp : inPage s .wr a bs.length pa) (hn : 0 < bs.length) :
    ∃ t, s.storeGlobal a bs h ord sco = (t, .ok 0) ∧ s.Buffers t pa bs := by
  obtain ⟨t, ks, hl, hsum, hlook⟩ := State.locate_inPage hp hn
  have hno := hlook.trans (t.looks_notices ord sco (devPieces pa ks))
  have hw := State.buffers_writePieces (s := t.notices ord sco (devPieces pa ks)) (hno.touched.run ▸ hk) ks pa bs h hsum.symm
  refine ⟨_, ?_, (State.buffers_nil hno pa).append hw (.inr rfl)⟩
  unfold State.storeGlobal
  rw [hl]

/-! ## Lanes in ascending order (R212, R235) -/

section
variable {α : Type} (c : Nat → Prop) [DecidablePred c] (v : Nat → α)

theorem foldl_unwritten (ls : List Nat) (y : α) (h : ∀ k ∈ ls, ¬ c k) : ls.foldl (fun y k => if c k then v k else y) y = y :=
  List.foldlRecOn ls _ (motive := (· = y)) rfl fun z hz k hk => by rw [if_neg (h k hk)]; exact hz

/-- The last of the lanes that write gives the value. -/
theorem foldl_last_writer {ls : List Nat} (hs : ls.Pairwise (· < ·)) (y : α) {l : Nat} (hl : l ∈ ls) (hc : c l)
    (hmax : ∀ k ∈ ls, l < k → ¬ c k) : ls.foldl (fun y k => if c k then v k else y) y = v l := by
  induction ls generalizing y with
  | nil => cases hl
  | cons x xs ih =>
    rw [List.foldl_cons]
    rcases List.mem_cons.1 hl with rfl | hl
    · rw [if_pos hc]
      exact foldl_unwritten c v xs _ fun k hk => hmax k (List.mem_cons_of_mem _ hk) (List.rel_of_pairwise_cons hs hk)
    · exact ih hs.of_cons _ hl fun k hk => hmax k (List.mem_cons_of_mem _ hk)

end

theorem activeLanes_pairwise (em : Lane) : (activeLanes em).Pairwise (· < ·) := List.pairwise_lt_range.filter _

/-- The lanes of a store, each to the page: none fails, and each byte is the last one's that writes it (R212, R235). -/
theorem State.runLanes_store {s : State} (hk : s.run.kind = .compute) {addr : Nat → Word} {data : Nat → List Byte} {pa : Nat → Nat} {n : Nat}
    (h : Hint) (ord : MOrd) (sco : Scope) (hd : ∀ l, (data l).length = n) (hn : 0 < n) (ls : List Nat)
    (hp : ∀ l ∈ ls, inPage s .wr (addr l) n (pa l)) :
    ∃ t xs, runLanes (fun t l => t.storeGlobal (addr l) (data l) h ord sco) s ls = (t, xs, none) ∧ s.Touched t ∧ t.mem = s.mem ∧
      ∀ b, bufByte (t.core s.run.core).buf b = ls.foldl (fun y l => if pa l ≤ b ∧ b < pa l + n then some ((data l).getD (b - pa l) 0) else y)
        (bufByte (s.core s.run.core).buf b) := by
  induction ls generalizing s with
  | nil => exact ⟨s, [], rfl, s.touched_refl, rfl, fun _ => rfl⟩
  | cons l ls ih =>
    obtain ⟨t, ht, hb⟩ := State.storeGlobal_inPage hk h ord sco (hd l ▸ hp l List.mem_cons_self) (hd l ▸ hn)
    obtain ⟨u, xs, hu, k, m, hbyte⟩ := ih (s := t) (hb.touched.run ▸ hk) fun j hj =>
      inPage_of_touched (hp j (List.mem_cons_of_mem _ hj)) hb.touched
    refine ⟨u, (l, 0) :: xs, ?_, hb.touched.trans k, m.trans hb.mem, fun b => ?_⟩
    · rw [runLanes, ht]
      dsimp only
      rw [hu]
    · have hbb := hb.byte b trivial
      rw [hd l] at hbb
      rw [List.foldl_cons, ← hbb, ← hb.touched.run]
      exact hbyte b

/-! ## The end of an access -/

theorem State.watch_eq (s : State) (wr rd : Bool) (n : Nat) (as : List Nat) : ∃ p, s.watch wr rd n as = s.setRun { s.run with pend := p } := by
  unfold State.watch
  dsimp only
  split
  · exact ⟨s.run.pend, rfl⟩
  · split
    · exact ⟨_, rfl⟩
    · exact ⟨s.run.pend, rfl⟩

theorem State.emptyFence_eq (s : State) (em : Lane) (ord : MOrd) (sco : Scope) :
    s.emptyFence em ord sco = s.setRun { s.run with relFence := s.run.relFence || (em == 0 && ord.releases && sco == .core) } := by
  unfold State.emptyFence State.fenced
  by_cases he : em = 0
  · have hx : (em == 0 && ord.releases && sco == .core) = (ord.releases && sco == .core) := by rw [he]; rfl
    rw [if_pos he, hx]
    cases ord.releases && sco == .core with
    | true => rw [Bool.or_true]; rfl
    | false => rw [Bool.or_false]; rfl
  · have hx : (em == 0) = false := by simpa using he
    rw [if_neg he, hx, Bool.false_and, Bool.false_and, Bool.or_false]
    rfl

theorem State.charge_core (s : State) (n k : Nat) : (s.charge n).core k = { s.core k with cyc := ((s.charge n).core k).cyc } := by
  unfold State.charge
  split
  · by_cases hk : k = s.run.core
    · subst hk; rw [State.core_setCore]
    · rw [State.core_setCore_ne _ _ hk]
  · rfl

/-- The end of an instruction changes the group and counts cycles. -/
theorem State.retire_only (s : State) (n : Nat) :
    s.retire n = { s with
      run := { s.run with word := s.run.word + 1 }, cores := (s.retire n).cores, agentCyc := (s.retire n).agentCyc } := by
  have hc := State.charge_only s n
  unfold State.retire
  dsimp only
  rw [State.charge_run]
  generalize s.charge n = t at hc
  rw [hc]

/-- An access ends on a state that it touched: the cycles of its agent are counted, and it goes on with the group `g`. -/
theorem State.retire_touched {s u : State} {g0 : Group} (h : (s.setRun g0).Touched u) (g : Group) (n : Nat) :
    let t := (u.setRun g).retire n
    cachesOnly s { t with mem := s.mem } ∧ t.mem = u.mem ∧ t.spad = s.spad ∧ t.run = { g with word := g.word + 1 } ∧
      ∀ k, (t.core k).buf = (u.core k).buf := by
  intro t
  have hcore (k : Nat) : t.core k = { u.core k with cyc := (t.core k).cyc } := State.charge_core (u.setRun g) n k
  have ht : t = { u with run := { g with word := g.word + 1 }, cores := t.cores, agentCyc := t.agentCyc } := State.retire_only (u.setRun g) n
  clear_value t
  have hcluster (k : Nat) : t.cluster k = u.cluster k := by rw [ht]; rfl
  have hslice (k : Nat) : t.slice k = u.slice k := by rw [ht]; rfl
  have hctx (p x : Nat) : t.ctx? p x = s.ctx? p x := by rw [ht, h.only]; rfl
  refine ⟨⟨?_, fun p x => ?_, fun k => ?_, fun k => ?_, fun k => ?_⟩, by rw [ht], by rw [ht, h.only]; rfl, by rw [ht], fun k => by rw [hcore]⟩
  · rw [ht, h.only]
    rfl
  · exact congrArg _ (hctx p x)
  · show t.core k = { s.core k with
      buf := (t.core k).buf, tlb := (t.core k).tlb, tags := (t.core k).tags, misses := (t.core k).misses
      lost := (t.core k).lost, cyc := (t.core k).cyc, ctrs := (t.core k).ctrs }
    rw [hcore, h.core k]
    rfl
  · show t.cluster k = { s.cluster k with lines := (t.cluster k).lines, tlb := (t.cluster k).tlb }
    rw [hcluster, h.cluster k]
    rfl
  · show t.slice k = { s.slice k with lines := (t.slice k).lines, sharers := (t.slice k).sharers, ctrs := (t.slice k).ctrs }
    rw [hslice, h.slice k]
    rfl

/-! ## The bytes that a store names (R234) -/

theorem leBytes_byte (x n : Nat) {j : Nat} (hj : j < n) (i : Nat) : ((leBytes x n).getD j 0).getLsbD i = (decide (i < 8) && x.testBit (8 * j + i)) := by
  rw [leBytes_getD, if_pos hj, BitVec.getLsbD_ofNat, show 256 ^ j = 2 ^ (8 * j) by rw [pow_mul]; rfl, Nat.testBit_div_two_pow, Nat.add_comm i]

theorem leBytes_word (x : Word) (n : Nat) {j : Nat} (hj : j < n) : (leBytes x.toNat n).getD j 0 = x.extractLsb' (8 * j) 8 := by
  apply BitVec.eq_of_getLsbD_eq
  intro i hi
  rw [leBytes_byte _ _ hj, BitVec.getLsbD_extractLsb', BitVec.testBit_toNat]

theorem Group.storeData_succ (g : Group) (d : RegNo) (n t : Nat) :
    g.storeData d (n + 1) t = 2 ^ (32 * n) * (lane (g.reg (d.toNat + n)) t).toNat + g.storeData d n t := by
  simp only [Group.storeData, List.range_succ, List.map_append, List.sum_append, List.map_cons, List.map_nil, List.sum_cons, List.sum_nil]
  rw [Nat.mul_comm (2 ^ (32 * n))]
  omega

theorem Group.storeData_lt (g : Group) (d : RegNo) (n t : Nat) : g.storeData d n t < 2 ^ (32 * n) := by
  induction n with
  | zero => exact Nat.zero_lt_one
  | succ n ih =>
    have hl := (lane (g.reg (d.toNat + n)) t).isLt
    rw [g.storeData_succ, show 32 * (n + 1) = 32 * n + 32 by omega, Nat.pow_add]
    calc 2 ^ (32 * n) * (lane (g.reg (d.toNat + n)) t).toNat + g.storeData d n t
        < 2 ^ (32 * n) * (lane (g.reg (d.toNat + n)) t).toNat + 2 ^ (32 * n) := by omega
      _ = 2 ^ (32 * n) * ((lane (g.reg (d.toNat + n)) t).toNat + 1) := by rw [Nat.mul_add, Nat.mul_one]
      _ ≤ 2 ^ (32 * n) * 2 ^ 32 := Nat.mul_le_mul_left _ hl

/-- Bit `i` of a lane's data: register by register (R234). -/
theorem Group.storeData_testBit (g : Group) (d : RegNo) (n t i : Nat) (h : i < 32 * n) :
    (g.storeData d n t).testBit i = (lane (g.reg (d.toNat + i / 32)) t).getLsbD (i % 32) := by
  induction n with
  | zero => omega
  | succ n ih =>
    rw [g.storeData_succ, Nat.testBit_two_pow_mul_add _ (g.storeData_lt d n t)]
    split_ifs with hi
    · exact ih hi
    · rw [show i / 32 = n by omega, show i % 32 = i - 32 * n by omega, BitVec.testBit_toNat]

theorem Sz.bytes_le (sz : Sz) : 0 < sz.bytes ∧ sz.bytes ≤ 4 * sz.regs := by cases sz <;> decide

/-- Byte `j` of a lane's data (R234). -/
theorem Group.storeBytes_getD (g : Group) (d : RegNo) (sz : Sz) (l : Nat) {j : Nat} (hj : j < sz.bytes) :
    (leBytes (g.storeData d sz.regs l) sz.bytes).getD j 0 = dataByte g d l j := by
  have hle := (Sz.bytes_le sz).2
  apply BitVec.eq_of_getLsbD_eq
  intro i hi
  rw [leBytes_byte _ _ hj, g.storeData_testBit _ _ _ _ (by omega), dataByte, BitVec.getLsbD_extractLsb',
    show (8 * j + i) / 32 = j / 4 by omega, show (8 * j + i) % 32 = 8 * (j % 4) + i by omega]

/-! ## ST and SST of a compute group (R241, R242) -/

/-- What a compute group's store that ended leaves to every agent: memory and scratchpad, and what other cores read (R211). -/
theorem State.stored_rest {s u : State} {g0 : Group} (h : (s.setRun g0).Touched u) (hm : u.mem = s.mem) (hc : g0.core = s.run.core) (g : Group)
    (n : Nat) :
    let t := (u.setRun g).retire n
    t.mem = s.mem ∧ t.spad = s.spad ∧ cachesOnly s t ∧ (∀ k b, k ≠ s.run.core → t.coreByte k b = s.coreByte k b) ∧
      t.run = { g with word := g.word + 1 } ∧ (t.core s.run.core).buf = (u.core s.run.core).buf := by
  obtain ⟨hcaches, hmem, hspad, hrun, hbuf⟩ := State.retire_touched h g n
  have hms := hmem.trans hm
  rw [← hms] at hcaches
  exact ⟨hms, hspad, hcaches, fun k b hk => State.coreByte_congr ((hbuf k).trans (h.other k (hc ▸ hk))) hms b, hrun, hbuf _⟩

/-- ST of lanes that write to the page: what it answers, and the bytes that its core then holds. -/
theorem execSt_stores {s : State} {sz : Sz} {hint : Hint} {ord : MOrd} {sco : Scope} {d : RegNo} {base : Base} {off : BitVec 16} {pa : Nat → Nat}
    (hk : s.run.kind = .compute) (hr : Ready s (.st sz hint ord sco d base off))
    (hp : ∀ l, l ∈ activeLanes (s.run.em &&& ~~~s.run.took) → inPage s .wr (s.run.addr true base (off.signExtend 64) l) sz.bytes (pa l)) :
    ∃ u p, (s.setRun { s.run with took := 0 }).Touched u ∧ u.mem = s.mem ∧
      exec (.st sz hint ord sco d base off) s = .next ((u.setRun { s.run with
        took := 0, pend := p, relFence := s.run.relFence || (s.run.em == 0 && ord.releases && sco == .core) }).retire (s.run.memCyc sz)) ∧
      ∀ b, bufByte (u.core s.run.core).buf b = (activeLanes (s.run.em &&& ~~~s.run.took)).foldl
        (fun y l => if pa l ≤ b ∧ b < pa l + sz.bytes then some (dataByte s.run d l (b - pa l)) else y) (bufByte (s.core s.run.core).buf b) := by
  obtain ⟨u, xs, hu, ht, hm, hb⟩ := State.runLanes_store (s := s.setRun { s.run with took := 0 }) hk
    (addr := s.run.addr true base (off.signExtend 64)) (data := fun l => leBytes (s.run.storeData d sz.regs l) sz.bytes) hint ord sco
    (fun l => leBytes_length _ _) (Sz.bytes_le sz).1 (activeLanes (s.run.em &&& ~~~s.run.took)) hp
  obtain ⟨p, hw⟩ := u.watch_eq true false sz.bytes ((activeLanes s.run.em).map fun l => (s.run.addr true base (off.signExtend 64) l).toNat)
  refine ⟨u, p, ht, hm, ?_, fun b => (hb b).trans ?_⟩
  · show execSt sz hint ord sco d base off s = _
    unfold execSt
    rw [State.checked_ok hr.2]
    dsimp only
    unfold State.stLane
    rw [hu]
    dsimp only
    rw [hw, State.emptyFence_eq, State.setRun_run, ht.run]
    rfl
  · refine congrArg (fun f => (activeLanes _).foldl f _) ?_
    funext y l
    split_ifs with hc
    · rw [s.run.storeBytes_getD d sz l (by omega)]
    · rfl

/-- SST of a compute group to the page: what it answers, and the bytes that its core then holds. -/
theorem execSst_stores {s : State} {sz : Sz} {hint : Hint} {ord : MOrd} {sco : Scope} {r : SReg} {a : SPos} {off : BitVec 16} {pa : Nat}
    (hk : s.run.kind = .compute) (hp : inPage s .wr (s.run.pos a + off.signExtend 64) sz.bytes pa) :
    ∃ u p, s.Touched u ∧ u.mem = s.mem ∧ exec (.sst sz hint ord sco r a off) s = .next ((u.setRun { s.run with pend := p }).retire 1) ∧
      ∀ b, bufByte (u.core s.run.core).buf b =
        if pa ≤ b ∧ b < pa + sz.bytes then some ((s.run.pos (.s r)).extractLsb' (8 * (b - pa)) 8) else bufByte (s.core s.run.core).buf b := by
  have hl : (leBytes (s.run.pos (.s r)).toNat sz.bytes).length = sz.bytes := leBytes_length _ _
  obtain ⟨u, hu, hb⟩ := State.storeGlobal_inPage hk (bs := leBytes (s.run.pos (.s r)).toNat sz.bytes) hint ord sco (hl.symm ▸ hp)
    (hl.symm ▸ (Sz.bytes_le sz).1)
  obtain ⟨p, hw⟩ := u.watch_eq true false sz.bytes [(s.run.pos a + off.signExtend 64).toNat]
  refine ⟨u, p, hb.touched, hb.mem, ?_, fun b => (hb.byte b trivial).trans ?_⟩
  · show execSst sz hint ord sco r a off s = _
    unfold execSst
    dsimp only
    rw [hu]
    dsimp only
    rw [hw, hb.touched.run]
  · rw [hl]
    split_ifs with hc
    · rw [leBytes_word _ _ (by omega)]
    · rfl

/-! ## SST of a control or scheduler core: it performs in memory (R211, R242, log 33) -/

/-- A byte that no log's header holds (R260). -/
def State.offLogs (s : State) (b : Nat) : Prop := ∀ k c, (k, c) ∈ s.ctxs → c.logs = true → b < c.logBase ∨ c.logBase + 80 ≤ b

/-- The bytes `bs` are stored in memory from `pa` on, and every other byte but those of log headers is as before. -/
structure State.Performs (s t : State) (pa : Nat) (bs : List Byte) : Prop where
  touched : s.Touched t
  memOk : s.memOk → t.memOk
  byte : laid s.offLogs id (Memory.get s.mem) (Memory.get t.mem) pa bs

theorem State.performs_nil {s t : State} (h : s.Looks t) (pa : Nat) : s.Performs t pa [] :=
  ⟨h.touched, fun hm => ⟨h.mem ▸ hm.1, by rw [h.touched.only]; exact hm.2⟩, laid_nil _ _ pa fun b => by rw [h.mem]⟩

theorem State.Performs.append {s t u : State} {pa pb : Nat} {xs ys : List Byte} (h : s.Performs t pa xs) (k : t.Performs u pb ys)
    (hp : ys = [] ∨ pb = pa + xs.length) : s.Performs u pa (xs ++ ys) := by
  have hoff : t.offLogs = s.offLogs := by unfold State.offLogs; rw [h.touched.only]
  exact ⟨h.touched.trans k.touched, fun hm => k.memOk (h.memOk hm), laid_append h.byte (hoff ▸ k.byte) hp⟩

/-- The device keeps the header of a log that a sector holds, and nothing else (R260). -/
theorem State.keepHeaders_mem (s : State) (a : Nat) :
    ∃ m, s.keepHeaders a = { s with mem := m } ∧ ∀ b, s.offLogs b → Memory.get m b = Memory.get s.mem b := by
  unfold State.keepHeaders
  cases hx : s.ctxs.find? _ with
  | none => exact ⟨s.mem, rfl, fun _ _ => rfl⟩
  | some x =>
    have hlog : x.2.logs = true := by
      have := List.find?_some hx
      simp only [Bool.and_eq_true] at this
      exact this.1
    refine ⟨_, rfl, fun b hb => Memory.get_words_out s.mem _ ?_⟩
    rw [Ctx.header_length]
    exact hb x.1 x.2 (List.mem_of_find?_eq_some hx) hlog

/-- Bytes of a sector that no log captures perform (R238). -/
theorem State.performs_performSector {s : State} (hm : s.memOk) {grid : Nat} (hg : s.grid? grid = none) (pa : Nat) (bs : List Byte) (part ctx : Nat) :
    s.Performs (s.performSector pa (bs.map some) true part ctx grid) pa bs := by
  have hcap : s.captures (pa / 32 * 32) part ctx grid = false := by
    unfold State.captures
    split
    · rfl
    · rw [hg]; simp
  have he : s.performSector pa (bs.map some) true part ctx grid =
      { s with mem := Memory.writeMask s.mem pa (bs.map some) }.keepHeaders (pa / 32 * 32) := by
    unfold State.performSector
    exact if_neg (by rw [hcap]; decide)
  obtain ⟨m, hkeep, hget⟩ := State.keepHeaders_mem { s with mem := Memory.writeMask s.mem pa (bs.map some) } (pa / 32 * 32)
  refine ⟨?_, fun h => (State.served_performSector s pa _ true part ctx grid).memOk h, fun b hb => ?_⟩
  · rw [he, hkeep]
    exact s.touched_mem _
  · rw [he, hkeep]
    refine (hget b hb).trans ?_
    dsimp only
    split_ifs with hc
    · obtain ⟨i, rfl⟩ := Nat.exists_eq_add_of_le hc.1
      have hi : i < (bs.map some).length := by rw [List.length_map]; omega
      rw [Memory.get_writeMask_in hm.1 pa _ i hi, Nat.add_sub_cancel_left, List.getElem_map, List.getD_eq_getElem _ _ (by omega)]
      rfl
    · exact Memory.get_writeMask_out _ _ (by rw [List.length_map]; omega)

theorem State.Touched.grid {s t : State} (h : s.Touched t) (k : Nat) : t.grid? k = s.grid? k := by rw [h.only]; rfl

theorem State.performs_perform {s : State} (hm : s.memOk) {grid : Nat} (hg : s.grid? grid = none) (pa : Nat) (bs : List Byte) (part ctx : Nat) :
    s.Performs (s.perform pa (bs.map some) true part ctx grid) pa bs := by
  unfold State.perform
  exact splitSectors_induction (R := fun t u pa bs => t.memOk → t.grid? grid = none → t.Performs u pa bs) _
    (fun t pa _ _ => State.performs_nil t.looks_refl pa)
    (fun t u v pa pb xs ys h1 h2 hp hm hg => (h1 hm hg).append (h2 ((h1 hm hg).memOk hm) (((h1 hm hg).touched.grid grid).trans hg)) hp)
    (fun t pa bs _ hm hg => State.performs_performSector hm hg pa bs part ctx) _ s pa bs (by rw [List.length_map]; omega) hm hg

theorem State.looks_reachBytes (s : State) (pa n part ctx : Nat) (h : Hint) : s.Looks (s.reachBytes pa n part ctx h) :=
  State.looks_foldl _ (fun t _ => ⟨t.touched_setSlice _ rfl, rfl, ⟨fun _ => rfl⟩⟩) _ s

theorem region_ne_host {pa : Nat} (h : pa ≤ 2 ^ 39) : (region pa == .host) = false := by
  unfold region
  rw [if_pos (by omega)]
  split_ifs <;> rfl

/-- The pieces of a store of a core without a write-through buffer perform (R211, R242). -/
theorem State.performs_writePieces {s : State} (hk : s.run.kind ≠ .compute) (hm : s.memOk) (hg : s.grid? s.run.grid = none) (ks : List Nat) (pa : Nat)
    (bs : List Byte) (h : Hint) (hl : bs.length = ks.sum) (hpa : pa + ks.sum ≤ 2 ^ 39) : s.Performs (s.writePieces bs h (devPieces pa ks)) pa bs := by
  induction ks generalizing s pa bs with
  | nil =>
    rw [List.length_eq_zero_iff.1 hl]
    exact State.performs_nil s.looks_refl pa
  | cons k ks ih =>
    rw [List.sum_cons] at hl hpa
    have h1 := State.performs_perform hm hg pa (bs.take k) s.run.part s.run.ctx
    have h2 := h1.append (State.performs_nil (State.looks_reachBytes _ pa (bs.take k).length s.run.part s.run.ctx h) pa) (.inl rfl)
    rw [List.append_nil] at h2
    have hw : s.writePlace (.mem pa) (bs.take k) h = (s.perform pa ((bs.take k).map some) true s.run.part s.run.ctx s.run.grid).reachBytes pa
        (bs.take k).length s.run.part s.run.ctx h := by
      unfold State.writePlace
      dsimp only
      rw [if_neg hk, region_ne_host (by omega)]
      rfl
    rw [← hw] at h2
    have hrun := h2.touched.run
    have h4 := ih (s := s.writePlace (.mem pa) (bs.take k) h) (hrun ▸ hk) (h2.memOk hm) (((h2.touched.grid _).trans (by rw [hrun, hg])))
      (pa + k) (bs.drop k) (by rw [List.length_drop]; omega) (by omega)
    have h5 := h2.append h4 (.inr (by rw [List.length_take]; omega))
    rwa [List.take_append_drop] at h5

/-- SST of a control or scheduler core to the page: what it answers, and the bytes of memory. -/
theorem execSst_performs {s : State} {sz : Sz} {hint : Hint} {ord : MOrd} {sco : Scope} {r : SReg} {a : SPos} {off : BitVec 16} {pa : Nat}
    (hm : s.memOk) (hk : s.run.kind ≠ .compute) (hg : s.grid? s.run.grid = none)
    (hp : inPage s .wr (s.run.pos a + off.signExtend 64) sz.bytes pa) :
    ∃ u, exec (.sst sz hint ord sco r a off) s = .next ((u.setRun s.run).retire 1) ∧
      s.Performs u pa (leBytes (s.run.pos (.s r)).toNat sz.bytes) := by
  obtain ⟨t, ks, hl, hsum, hlook⟩ := State.locate_inPage hp (Sz.bytes_le sz).1
  have hno := hlook.trans (t.looks_notices ord sco (devPieces pa ks))
  have hrun := hno.touched.run
  have hlow : pa + ks.sum ≤ 2 ^ 39 := by
    rw [hsum]
    exact inPage_low hp
  have h0 := State.performs_nil hno pa
  have hw := State.performs_writePieces (hrun ▸ hk) (h0.memOk hm) ((hno.touched.grid _).trans (by rw [hrun, hg])) ks pa
    (leBytes (s.run.pos (.s r)).toNat sz.bytes) hint (by rw [leBytes_length, hsum]) hlow
  have hput := h0.append hw (.inr rfl)
  refine ⟨_, ?_, hput⟩
  have hstore : s.storeGlobal (s.run.pos a + off.signExtend 64) (leBytes (s.run.pos (.s r)).toNat sz.bytes) hint ord sco =
      ((t.notices ord sco (devPieces pa ks)).writePieces (leBytes (s.run.pos (.s r)).toNat sz.bytes) hint (devPieces pa ks), .ok 0) := by
    unfold State.storeGlobal
    rw [leBytes_length, hl]
  show execSst sz hint ord sco r a off s = _
  unfold execSst
  dsimp only
  rw [hstore]
  dsimp only
  generalize (t.notices ord sco (devPieces pa ks)).writePieces _ hint (devPieces pa ks) = u at hput ⊢
  have hwatch : u.watch true false sz.bytes [(s.run.pos a + off.signExtend 64).toNat] = u.setRun s.run := by
    unfold State.watch
    rw [← hput.touched.run]
    exact if_pos (by simp [hput.touched.run, hk])
  rw [hwatch]

end Sys2Proof.Machine

namespace Sys2Proof.Claims

open Sys2Proof.Machine

/-- Settles O28: an access to the page is located in pieces of device memory (`State.locate_inPage`); a compute group's pieces enter its core's
buffer lane by lane (`execSt_stores`, `execSst_stores`), and those of a core without a buffer perform (`execSst_performs`). -/
theorem storesEnterTheBufferOrPerform : Obligations.StoresEnterTheBufferOrPerform := by
  unfold Obligations.StoresEnterTheBufferOrPerform
  refine ⟨fun s sz hint ord sco d base off r a pa hk => ?_, fun s sz hint ord sco off r a pa hm hk hgrid hwf hp => ?_⟩
  · intro n covers rest lanes
    refine ⟨fun hr hp => ?_, fun hwf hp => ?_⟩
    · obtain ⟨u, p, ht, hum, hx, hb⟩ := execSt_stores hk hr fun l hl => by
        obtain ⟨h1, h2⟩ := (mem_activeLanes _ _).1 hl
        exact hp l h1 h2
      obtain ⟨h1, h2, h3, h4, hrun, hbuf⟩ := State.stored_rest ht hum rfl { s.run with
        took := 0, pend := p, relFence := s.run.relFence || (s.run.em == 0 && ord.releases && sco == .core) } (s.run.memCyc sz)
      rw [← hbuf] at hb
      refine ⟨_, hx, ⟨h1, h2, h3, h4, ?_⟩, ?_, ?_, fun l b hw => ?_, fun b hw => ?_⟩
      · rw [hrun]
      · rw [hrun]
      · unfold fenceBehind; rw [hrun]
      · obtain ⟨hl, hbit, hc, hmax⟩ := hw
        rw [State.coreByte_eq, hb, foldl_last_writer _ _ (activeLanes_pairwise _) _ ((mem_activeLanes _ _).2 ⟨hl, hbit⟩) hc fun k hk hlt =>
          hmax k hlt ((mem_activeLanes _ _).1 hk).1 ((mem_activeLanes _ _).1 hk).2]
        rfl
      · rw [State.coreByte_eq, hb, foldl_unwritten _ _ _ _ fun k hk => hw k ((mem_activeLanes _ _).1 hk).1 ((mem_activeLanes _ _).1 hk).2, h1]
        exact (s.coreByte_eq _ _).symm
    · obtain ⟨u, p, ht, hum, hx, hb⟩ := execSst_stores (hint := hint) (ord := ord) (sco := sco) (r := r) hk hp
      obtain ⟨h1, h2, h3, h4, hrun, hbuf⟩ := State.stored_rest (g0 := s.run) ht hum rfl { s.run with pend := p } 1
      rw [← hbuf] at hb
      refine ⟨_, hx, ⟨h1, h2, h3, h4, ?_⟩, ?_, ?_, fun b => ?_⟩
      · rw [hrun]
      · rw [hrun]
      · rw [hrun]
      · rw [State.coreByte_eq, hb, h1, s.coreByte_eq]
        split_ifs with hc
        · rfl
        · rfl
  · obtain ⟨u, hx, hput⟩ := execSst_performs hm hk hgrid hp
    obtain ⟨hcaches, hmem, hspad, hrun, -⟩ := State.retire_touched (g0 := s.run) hput.touched s.run 1
    refine ⟨_, hx, fun b hb => ?_, hspad, hcaches, hrun⟩
    rw [hmem, hput.byte b hb, leBytes_length]
    split_ifs with hc
    · exact leBytes_word _ _ (by omega)
    · rfl

end Sys2Proof.Claims
end

section
/-! SUPPORT and CERTIFICATES. A table may hold an entry behind another of the same number: why the flush of a grid need not complete as O44 states
(R229, R263). -/

namespace Sys2Proof.Machine

open Sys2Proof.Claims

/-- Core 0 stands twice in the table. Its first entry has an empty write-through buffer; the entry behind it holds a write of the context to slice 0,
which the flush of the grid's one cell would overtake. -/
def shadowedHold : State where
  groups := [(0, { wait := .flushx })]
  grids := [(0, {})]
  cores := [(0, {}), (0, { buf := [{ sector := 0, mask := 1, data := 0, part := 0, ctx := 0, grid := 0, held := 1 }] })]
  slices := [(0, { cells := [{ loc := 0, fmt := .f32, acc := ⟨0, 0⟩, base := 0, grid := 0 }] })]

theorem shadowedHold_group : shadowedHold.group? 0 = some { wait := .flushx } := rfl

theorem shadowedHold_core (n : Nat) : shadowedHold.core n = {} := by
  unfold State.core shadowedHold
  by_cases hn : 0 = n <;> simp [Tbl.get, hn]

/-- No command, no matrix request and no first entry of a core is in the way. -/
theorem nothingWaits_shadowedHold : nothingWaits shadowedHold := by
  refine ⟨fun e c line he => ?_, fun m x hm => ?_, fun n b hb => ?_⟩
  · cases he
  · cases hm
  · rw [shadowedHold_core] at hb
    cases hb

theorem shadowedHold_sleeps : exec (.flushxComplete 0) shadowedHold = .next shadowedHold := by
  have hhold : shadowedHold.roundNext 0 = false := by decide
  show execFlushxComplete 0 shadowedHold = .next shadowedHold
  unfold execFlushxComplete
  simp [shadowedHold_group, hhold]

end Sys2Proof.Machine

namespace Sys2Proof.Claims

open Sys2Proof Sys2Proof.Machine

/-- Refutes O44: `nothingWaits` asks that no write is held in the buffer that `core n` finds, the first entry of number `n`, and the flush looks at
every entry of the table. In `shadowedHold` a second entry of core 0 holds a write that goes before the flush (R263), so FLUSHX_COMPLETE leaves the
group asleep where the statement says that it goes on. No run puts a number twice into a table. -/
theorem not_waitsEndAndLoadsDeliver : ¬ Obligations.WaitsEndAndLoadsDeliver := by
  unfold Obligations.WaitsEndAndLoadsDeliver
  intro h
  obtain ⟨-, -, -, -, -, -, -, hcell, -⟩ := h.1 shadowedHold 0 { wait := .flushx } ⟨rfl, rfl⟩ rfl rfl
  obtain ⟨t, ht, hgo, -⟩ := hcell 0 _ _ {} rfl rfl rfl rfl rfl (fun c hc => by cases hc) nothingWaits_shadowedHold
    (fun k c hc => by cases hc) (.inl rfl)
  rw [shadowedHold_sleeps] at ht
  cases ht
  exact absurd (congrArg (Option.map Group.wait) hgo) (by simp [shadowedHold_group])

end Sys2Proof.Claims
end

section
/-! SUPPORT and CERTIFICATES. The register checks: when an operand passes, and that every instruction with vector operands starts with them
(R90). -/

namespace Sys2Proof.Machine

/-! ## When the checks pass -/

/-- The lanes in which an operand is checked (R90). -/
theorem mem_checkedLanes (g : Group) (o : VOp) (l : Nat) :
    (l ∈ if o.always then List.range 32 else activeLanes g.em) ↔ l < 32 ∧ (o.always = true ∨ g.em.getLsbD l = true) := by
  cases o.always <;> simp

/-- One operand passes where, in each lane that is checked, its index is below its bound and its registers lie within the budget. -/
theorem Group.checkOp_none (g : Group) (k : BitVec 2) (o : VOp) :
    g.checkOp k o = none ↔ ∀ l, l < 32 → (o.always = true ∨ g.em.getLsbD l = true) →
      (o.ix = true → g.ixIndex k l < g.ixBound k l) ∧ g.opReg k o.ix o.r l + o.n ≤ g.budget := by
  have lane (l : Nat) : (if o.ix && decide (g.ixBound k l ≤ g.ixIndex k l) then some cIXBND
      else if g.budget < g.opReg k o.ix o.r l + o.n then some cREGBND else none) = none ↔
      (o.ix = true → g.ixIndex k l < g.ixBound k l) ∧ g.opReg k o.ix o.r l + o.n ≤ g.budget := by
    cases o.ix
    · simp
    · simp only [Bool.true_and, decide_eq_true_eq, forall_const]
      split_ifs <;> simp <;> omega
  unfold Group.checkOp
  simp only [List.findSome?_eq_none_iff, mem_checkedLanes, lane, and_imp]

theorem regFault_none (g : Group) (i : Instr) : regFault g i = none ↔ ∀ o, o ∈ vops i → g.checkOp (ixnOf i) o = none := by
  unfold regFault
  exact List.findSome?_eq_none_iff

/-! ## What a failed check gives -/

theorem Group.checkOp_cause {g : Group} {k : BitVec 2} {o : VOp} {c : Nat} (h : g.checkOp k o = some c) : c = cIXBND ∨ c = cREGBND := by
  obtain ⟨l, -, hl⟩ := List.exists_of_findSome?_eq_some h
  split_ifs at hl
  · exact .inl (Option.some.inj hl).symm
  · exact .inr (Option.some.inj hl).symm

theorem regFault_cause {g : Group} {i : Instr} {c : Nat} (h : regFault g i = some c) : c = cIXBND ∨ c = cREGBND := by
  obtain ⟨o, -, ho⟩ := List.exists_of_findSome?_eq_some h
  exact Group.checkOp_cause ho

/-- An instruction without vector operands passes. -/
theorem regFault_of_no_vops (g : Group) {i : Instr} (h : vops i = []) : regFault g i = none := by
  unfold regFault
  rw [h]
  rfl

/-- Where a check fails, the meaning is the exact fault (R90). -/
theorem State.checked_fault {s : State} {i : Instr} {c : Nat} (h : regFault s.run i = some c) (k : State → State) :
    s.checked i k = .next (s.faultExact c) := by
  unfold State.checked
  rw [h]

/-- Every instruction that has a vector operand starts with the register checks. -/
theorem exec_checked (i : Instr) (s : State) : vops i = [] ∨ ∃ k, exec i s = s.checked i k := by
  cases i
  case emset op b nr => rw [exec]; exact .inr ⟨_, rfl⟩
  case srd sel d nr =>
    cases d with
    | sca r => exact .inl rfl
    | vec wide r => rw [exec, execSrd]; exact .inr ⟨_, rfl⟩
  case bdv | vote | smovLane => rw [exec]; exact .inr ⟨_, rfl⟩
  case vadd | vsub | vmul | vmad | vdot | vlog | vshf | vcmp => rw [exec]; exact .inr ⟨_, rfl⟩
  case vsel | vmin | vuni | vbit | vmov | vmovi | vnrw | vidx => rw [exec]; exact .inr ⟨_, rfl⟩
  case fadd | fsub | fmul | ffma | fdiv | fmin | fcmp | fcls | frcp | frsq | fsqt | fex2 | flg2 | ftrg => rw [exec]; exact .inr ⟨_, rfl⟩
  case fcvt | icvt | dadd | dmul | dfma | scvn | scvw => rw [exec]; exact .inr ⟨_, rfl⟩
  case kadd | krnd | kscn | kmovGet | kmovSet | ixset | ixadd => rw [exec]; exact .inr ⟨_, rfl⟩
  case shfl | slide | bcst | gred | gscn | perm => rw [exec]; exact .inr ⟨_, rfl⟩
  case ld => rw [exec, execLd]; exact .inr ⟨_, rfl⟩
  case lds => rw [exec, execLds]; exact .inr ⟨_, rfl⟩
  case st | sts | atom | atmf | prf | cmnt | fqput | fqget | mlda => rw [exec]; exact .inr ⟨_, rfl⟩
  all_goals exact .inl rfl

end Sys2Proof.Machine

namespace Sys2Proof.Claims

open Sys2Proof.Machine

/-- Settles O26: the checks are those of each operand in each lane (`Group.checkOp_none`), and an instruction with a vector operand starts with
them (`exec_checked`). -/
theorem registerChecks : Obligations.RegisterChecks := by
  unfold Obligations.RegisterChecks
  refine ⟨fun g i => ?_, fun s i c h => ?_⟩
  · rw [regFault_none]
    simp only [Group.checkOp_none]
  · refine ⟨regFault_cause h, ?_⟩
    rcases exec_checked i s with hv | ⟨k, hk⟩
    · rw [regFault_of_no_vops _ hv] at h
      cases h
    · rw [hk, State.checked_fault h]

end Sys2Proof.Claims
end

section
/-! SUPPORT and CERTIFICATES. Index registers in the active lanes, and the sticky flags that FSR names (R98, R99, R166, R169). -/

namespace Sys2Proof.Machine

open Sys2Proof.Claims

/-- An update of an index register: the active lanes take the new index and bound, and nothing else changes (R98, R99). -/
theorem State.ixDone_step (s : State) (k : BitVec 2) (f : Nat → Lane) :
    let t := s.ixDone k f
    (∀ l, l < 32 → lane t.run.ix[k.toNat] l = if s.run.em.getLsbD l then f l else lane s.run.ix[k.toNat] l) ∧
    t.run = { s.run with ix := s.run.ix.set k.toNat t.run.ix[k.toNat], word := s.run.word + 1 } ∧ s.onlyGroup t s.run.cyc := by
  obtain ⟨honly, hrun⟩ := s.done_only
    { s.run with ix := s.run.ix.set k.toNat (mergeLanes s.run.em (mkLanes f) s.run.ix[k.toNat]) } s.run.cyc
  have hix : (s.ixDone k f).run.ix[k.toNat] = mergeLanes s.run.em (mkLanes f) s.run.ix[k.toNat] := by
    unfold State.ixDone
    simp only [hrun, Vector.getElem_set_self]
  refine ⟨fun l hl => ?_, ?_, honly⟩
  · rw [hix, lane_mergeLanes _ _ _ hl, lane_mkLanes _ hl]
  · rw [hix]
    exact hrun

/-- The six sticky flags of R169: the bits that FSR can write. -/
theorem fsrBits_bit (i : Nat) : fsrBits.getLsbD i = decide (i < 6) := by
  show (BitVec.ofNat 32 (2 ^ 6 - 1)).getLsbD i = _
  rw [BitVec.getLsbD_ofNat, Nat.testBit_two_pow_sub_one]
  by_cases h : i < 6
  · simp [h, show i < 32 by omega]
  · simp [h]

theorem setWidth_fsrBits (x : Word) {i : Nat} (h : i < 32) : (x.setWidth 32 &&& fsrBits).getLsbD i = (decide (i < 6) && x.getLsbD i) := by
  rw [BitVec.getLsbD_and, BitVec.getLsbD_setWidth, fsrBits_bit]
  simp [h, Bool.and_comm]

end Sys2Proof.Machine

namespace Sys2Proof.Claims

open Sys2Proof.Machine

/-- Settles O10: IXSET and IXADD update one index register (`State.ixDone_step`), and FSR changes the bits that its operand names among the six
flags (`setWidth_fsrBits`). -/
theorem indexRegistersAndFlags : Obligations.IndexRegistersAndFlags := by
  unfold Obligations.IndexRegistersAndFlags
  refine ⟨fun s k a b wrap nr => ⟨fun h => ?_, fun h => ?_⟩, fun s d b nr => ⟨?_, ?_, ?_, ?_⟩⟩
  · refine runs_checked (by rw [exec, execIxset]) h ?_
    obtain ⟨hlanes, hrest⟩ := s.ixDone_step k fun t => (s.run.op32 b t).setWidth 16 ++ (lane (s.run.reg a.toNat) t).setWidth 16
    refine ⟨fun l hl => ?_, hrest⟩
    rw [hlanes l hl, BitVec.ofNat_toNat, BitVec.ofNat_toNat]
  · refine runs_checked (by rw [exec, execIxadd]) h ?_
    obtain ⟨hlanes, hrest⟩ := s.ixDone_step k fun t =>
      let n := s.run.ixIndex k t + (s.run.op32 b t).toNat % 2 ^ 16
      let bound := s.run.ixBound k t
      BitVec.ofNat 16 bound ++ BitVec.ofNat 16 (if !wrap then n % 2 ^ 16 else if bound = 0 then 0 else n % bound)
    refine ⟨fun l hl => ?_, hrest⟩
    rw [hlanes l hl]
    cases wrap <;> rfl
  · exact ⟨_, rfl, s.done_setPos (.s d) _ 1⟩
  · exact ⟨_, rfl, s.done_becomes _ 1⟩
  · refine ⟨_, rfl, s.done_becomes _ 1, fun i hi => ?_⟩
    show (s.run.fsr &&& ~~~((s.run.pos b).setWidth 32 &&& fsrBits)).getLsbD i = _
    rw [BitVec.getLsbD_and, BitVec.getLsbD_not, setWidth_fsrBits _ hi]
    simp [hi]
  · refine ⟨_, rfl, s.done_becomes _ 1, fun i hi => ?_⟩
    show (s.run.fsr ||| ((s.run.pos b).setWidth 32 &&& fsrBits)).getLsbD i = _
    rw [BitVec.getLsbD_or, setWidth_fsrBits _ hi]

end Sys2Proof.Claims
end

section
/-! SUPPORT and CERTIFICATES. Operations on the bits of elements as bit vectors, and the completion of an instruction that writes whole lanes
(R94-R97, R108-R110, R182). -/

namespace Sys2Proof.Machine

open Sys2Proof.Claims

/-! ## Truth tables (R108) -/

theorem lutBits_lt (lut : BitVec 8) (a b c n : Nat) : lutBits lut a b c n < 2 ^ n := by
  induction n with
  | zero => exact Nat.one_pos
  | succ n ih =>
    have hp : 2 ^ (n + 1) = 2 ^ n + 2 ^ n := by rw [Nat.pow_succ]; omega
    unfold lutBits
    split_ifs <;> omega

/-- Bit `i` is the table's bit for the three operands' bits. -/
theorem lutBits_testBit (lut : BitVec 8) (a b c : Nat) {n i : Nat} (hi : i < n) : (lutBits lut a b c n).testBit i =
    lut.getLsbD (4 * (a.testBit i).toNat + 2 * (b.testBit i).toNat + (c.testBit i).toNat) := by
  induction n with
  | zero => exact absurd hi (Nat.not_lt_zero i)
  | succ n ih =>
    have hlt := lutBits_lt lut a b c n
    have hsum (p : Bool) : lutBits lut a b c n + (if p then 2 ^ n else 0) = 2 ^ n * p.toNat + lutBits lut a b c n := by
      cases p <;> simp [Nat.add_comm]
    rw [lutBits, hsum, Nat.testBit_two_pow_mul_add _ hlt]
    split_ifs with h
    · exact ih h
    · obtain rfl : i = n := by omega
      rw [Nat.sub_self]
      generalize lut.getLsbD _ = p
      cases p <;> rfl

/-! ## Shifts (R109) -/

theorem ediv_two_pow_of_far {w n : Nat} (hn : w ≤ n) {x : Int} (hlo : -2 ^ w ≤ x) (hhi : x < 2 ^ w) : x / 2 ^ n = x / 2 ^ w := by
  have hp : (2 : Int) ^ w ≤ 2 ^ n := pow_le_pow_right₀ (by decide) hn
  have hw : (0 : Int) < 2 ^ w := Int.pow_pos (by decide)
  by_cases hx : 0 ≤ x
  · rw [Int.ediv_eq_zero_of_lt hx hhi, Int.ediv_eq_zero_of_lt hx (by omega)]
  · have far {p : Int} (h : 2 ^ w ≤ p) : x / p = -1 := by
      rw [Int.ediv_eq_iff_of_pos (by omega)]
      omega
    rw [far hp, far (Int.le_refl _)]

/-- What leaves a rotation at the top enters at the bottom, where it meets no bit. -/
theorem rotated_add_eq_or {w k y : Nat} (hk : k < w) (hy : y < 2 ^ w) :
    y * 2 ^ k % 2 ^ w + y / 2 ^ (w - k) = (y * 2 ^ k % 2 ^ w) ||| y / 2 ^ (w - k) := by
  have h1 : y / 2 ^ (w - k) < 2 ^ k := by
    rw [Nat.div_lt_iff_lt_mul (Nat.two_pow_pos _), ← Nat.pow_add]
    rwa [show k + (w - k) = w by omega]
  have h2 : y * 2 ^ k % 2 ^ w = 2 ^ k * (y % 2 ^ (w - k)) := by
    rw [← Nat.mul_mod_mul_left, ← Nat.pow_add, Nat.mul_comm]
    congr 2
    omega
  rw [h2, Nat.two_pow_add_eq_or_of_lt h1]

/-- A shift of an element's bits is the shift of the bit vector. -/
theorem shiftBits_eq (op : ShiftOp) {w : Nat} (hw : 0 < w) (x n : Nat) : shiftBits op w x n = (shifted op (BitVec.ofNat w x) n).toNat := by
  cases op with
  | shl =>
    rw [shiftBits, shifted, BitVec.toNat_shiftLeft, BitVec.toNat_ofNat, Nat.shiftLeft_eq]
    split_ifs with h
    · rfl
    · obtain ⟨k, rfl⟩ := Nat.exists_eq_add_of_le (Nat.le_of_not_lt h)
      rw [Nat.pow_add, ← Nat.mul_assoc, Nat.mul_right_comm, Nat.mul_mod_left]
  | shr =>
    rw [shiftBits, shifted, BitVec.toNat_ushiftRight, BitVec.toNat_ofNat, Nat.shiftRight_eq_div_pow]
    split_ifs with h
    · rfl
    · have hlt := Nat.mod_lt x (Nat.two_pow_pos w)
      have hp : 2 ^ w ≤ 2 ^ n := Nat.pow_le_pow_right (by decide) (Nat.le_of_not_lt h)
      exact (Nat.div_eq_of_lt (by omega)).symm
  | sra =>
    have hread : readInt true w (x % 2 ^ w) = (BitVec.ofNat w x).toInt := by
      rw [readInt_signed hw]
      congr 1
      exact BitVec.eq_of_toNat_eq (by simp)
    rw [shiftBits, shifted, hread, BitVec.sshiftRight, Int.shiftRight_eq_div_pow, wrapInt_ofInt]
    generalize BitVec.ofNat w x = y
    have hlo := BitVec.le_toInt y
    have hhi := BitVec.toInt_lt (x := y)
    have hh : (2 : Int) ^ w = 2 * 2 ^ (w - 1) := by rw [← Int.pow_succ']; congr 1; omega
    by_cases h : n < w
    · rw [Nat.min_eq_left (Nat.le_of_lt h)]
      norm_cast
    · rw [Nat.min_eq_right (Nat.le_of_not_lt h)]
      congr 2
      push_cast
      exact (ediv_two_pow_of_far (Nat.le_of_not_lt h) (by omega) (by omega)).symm
  | rol =>
    have hk := Nat.mod_lt n hw
    have hx := Nat.mod_lt x (Nat.two_pow_pos w)
    rw [shiftBits, shifted, BitVec.toNat_rotateLeft, BitVec.toNat_ofNat, Nat.shiftLeft_eq, Nat.shiftRight_eq_div_pow]
    exact rotated_add_eq_or hk hx

theorem clampInt_below {ty : Ty} {x : Int} (h : x < least ty) : clampInt (elSigned ty) (elW ty) x = (least ty, true) := if_pos h

theorem clampInt_above {ty : Ty} {x : Int} (h : greatest ty < x) : clampInt (elSigned ty) (elW ty) x = (greatest ty, true) := by
  have hle := least_le_greatest ty
  exact (if_neg (show ¬ x < least ty by omega)).trans (if_pos h)

/-- A product with a power of two past the width leaves the range on the side of its sign, as the one with the width's power does. -/
theorem fit_far (ty : Ty) {n : Nat} (hn : elW ty ≤ n) (x : Int) : fit ty true (x * 2 ^ elW ty) = fit ty true (x * 2 ^ n) := by
  obtain ⟨hlo, hhi⟩ : -2 ^ elW ty < least ty ∧ greatest ty < 2 ^ elW ty := by cases ty <;> decide
  have hp : (2 : Int) ^ elW ty ≤ 2 ^ n := pow_le_pow_right₀ (by decide) hn
  have hw : (0 : Int) < 2 ^ elW ty := Int.pow_pos (by decide)
  have same {y z : Int} (h : clampInt (elSigned ty) (elW ty) y = clampInt (elSigned ty) (elW ty) z) : fit ty true y = fit ty true z := by
    simp only [fit, if_true, h]
  rcases Int.lt_trichotomy x 0 with hx | rfl | hx
  · exact same ((clampInt_below (by nlinarith)).trans (clampInt_below (by nlinarith)).symm)
  · rw [Int.zero_mul, Int.zero_mul]
  · exact same ((clampInt_above (by nlinarith)).trans (clampInt_above (by nlinarith)).symm)

/-! ## Bit fields (R110) -/

/-- A field of an element as the bit vector of its own width. -/
theorem wrapInt_readInt (signed : Bool) (w : Nat) {l : Nat} (hl : 0 < l) (z : Nat) :
    wrapInt w (readInt signed l z) = (if signed then (BitVec.ofNat l z).signExtend w else (BitVec.ofNat l z).setWidth w).toNat := by
  rw [wrapInt_ofInt]
  cases signed
  · rw [readInt_unsigned, BitVec.ofInt_natCast]
    simp
  · rw [readInt_signed hl]
    rfl

/-- A bit field of an element is that of the bit vector. -/
theorem extField_eq (signed : Bool) {w : Nat} (x pos len : Nat) :
    extField signed w x pos len = (field signed (BitVec.ofNat w x) pos len).toNat := by
  unfold extField field
  by_cases h : w ≤ pos ∨ len = 0
  · simp [h]
  · rw [if_neg (by simpa using h), if_neg h]
    dsimp only
    have hl : 0 < min len (w - pos) ∧ pos + min len (w - pos) ≤ w := by omega
    generalize min len (w - pos) = l at hl
    rw [wrapInt_readInt signed w hl.1]
    congr 1
    have hbit (j : Nat) (hj : j < l) : (BitVec.ofNat l (x % 2 ^ w / 2 ^ pos)).getLsbD j = x.testBit (pos + j) := by
      rw [BitVec.getLsbD_ofNat, Nat.testBit_div_two_pow, Nat.testBit_mod_two_pow]
      have hw : j + pos < w := by omega
      simp [hj, hw, Nat.add_comm pos]
    have hmsb : (BitVec.ofNat l (x % 2 ^ w / 2 ^ pos)).msb = x.testBit (pos + l - 1) := by
      rw [BitVec.msb_eq_getLsbD_last, hbit _ (by omega)]
      congr 1
      omega
    have hy (j : Nat) (hj : w - l ≤ j) (hw : j < w) : (BitVec.ofNat w x <<< (w - pos - l)).getLsbD j = x.testBit (pos + l + j - w) := by
      rw [BitVec.getLsbD_shiftLeft, BitVec.getLsbD_ofNat]
      have hlt : pos + l + j - w < w := by omega
      simp [hw, hlt, show ¬ j < w - pos - l by omega, show j - (w - pos - l) = pos + l + j - w by omega]
    apply BitVec.eq_of_getLsbD_eq
    intro i hi
    cases signed
    · simp only [Bool.false_eq_true, if_false, BitVec.getLsbD_setWidth, BitVec.getLsbD_ushiftRight, hi, decide_true, Bool.true_and]
      by_cases hil : i < l
      · rw [hbit i hil, hy _ (by omega) (by omega)]
        congr 1
        omega
      · rw [BitVec.getLsbD_of_ge _ _ (by omega), BitVec.getLsbD_of_ge _ _ (by omega)]
    · simp only [if_true, BitVec.getLsbD_signExtend, BitVec.getLsbD_sshiftRight, hi, decide_true, Bool.true_and, hmsb,
        BitVec.msb_eq_getLsbD_last (_ <<< _)]
      rw [hy (w - 1) (by omega) (by omega), decide_eq_false (show ¬ w ≤ i by omega), Bool.not_false, Bool.true_and]
      by_cases hil : i < l
      · rw [if_pos hil, if_pos (by omega), hbit i hil, hy _ (by omega) (by omega)]
        congr 1
        omega
      · rw [if_neg hil, if_neg (by omega)]
        congr 1
        omega

/-- An element with a bit field replaced is the bit vector with it. -/
theorem insField_eq {w : Nat} (x c pos len : Nat) :
    insField w x c pos len = (inserted (BitVec.ofNat w x) (BitVec.ofNat w c) pos len).toNat := by
  unfold insField inserted
  by_cases h : w ≤ pos ∨ len = 0
  · rw [if_pos (by simpa using h), if_pos h, BitVec.toNat_ofNat]
  · rw [if_neg (by simpa using h), if_neg h]
    dsimp only
    have hl : 0 < min len (w - pos) ∧ pos + min len (w - pos) ≤ w := by omega
    generalize min len (w - pos) = l at hl
    have hmask (i : Nat) (hi : i < w) :
        ((BitVec.allOnes w >>> (w - l)) <<< pos).getLsbD i = (decide (pos ≤ i) && decide (i < pos + l)) := by
      by_cases h1 : pos ≤ i
      · by_cases h2 : i < pos + l
        · simp [hi, h1, h2, show ¬ i < pos by omega, show w - l + (i - pos) < w by omega]
        · simp [hi, h1, h2, show ¬ i < pos by omega, show ¬ w - l + (i - pos) < w by omega]
      · simp [hi, h1, show i < pos by omega]
    generalize (BitVec.allOnes w >>> (w - l)) <<< pos = mask at hmask
    have hx : x % 2 ^ l < 2 ^ l := Nat.mod_lt _ (Nat.two_pow_pos _)
    have hc : c % 2 ^ w % 2 ^ pos < 2 ^ pos := Nat.mod_lt _ (Nat.two_pow_pos _)
    have hlow : x % 2 ^ l * 2 ^ pos + c % 2 ^ w % 2 ^ pos < 2 ^ (pos + l) := by
      rw [Nat.pow_add]
      calc x % 2 ^ l * 2 ^ pos + c % 2 ^ w % 2 ^ pos < x % 2 ^ l * 2 ^ pos + 2 ^ pos := by omega
        _ = 2 ^ pos * (x % 2 ^ l + 1) := by rw [Nat.mul_add, Nat.mul_comm, Nat.mul_one]
        _ ≤ 2 ^ pos * 2 ^ l := Nat.mul_le_mul_left _ hx
    apply Nat.eq_of_testBit_eq
    intro i
    rw [Nat.add_assoc, Nat.mul_comm (_ / _), Nat.testBit_two_pow_mul_add _ hlow, Nat.mul_comm (_ % _), Nat.testBit_two_pow_mul_add _ hc,
      BitVec.testBit_toNat]
    by_cases hi : i < w
    · rw [BitVec.getLsbD_or, BitVec.getLsbD_and, BitVec.getLsbD_and, BitVec.getLsbD_not, BitVec.getLsbD_shiftLeft, BitVec.getLsbD_ofNat,
        BitVec.getLsbD_ofNat, hmask i hi]
      by_cases h1 : i < pos + l
      · by_cases h2 : i < pos
        · simp [hi, h1, h2, show ¬ pos ≤ i by omega]
        · have hin : i - pos < l ∧ i - pos < w := by omega
          simp [hi, h1, h2, show pos ≤ i by omega, hin]
      · rw [if_neg h1, Nat.testBit_div_two_pow, Nat.testBit_mod_two_pow]
        simp [hi, h1, show i - (pos + l) + (pos + l) = i by omega]
    · rw [BitVec.getLsbD_of_ge _ _ (Nat.le_of_not_lt hi), if_neg (by omega), Nat.testBit_div_two_pow, Nat.testBit_mod_two_pow]
      simp [show i - (pos + l) + (pos + l) = i by omega, hi]

/-! ## Whole lanes -/

/-- The writes of the lane values `f` to a register, or to a pair. -/
def Group.putNat (g : Group) (wide : Bool) (d : RegNo) (m : VMode) (f : Nat → Nat) : List (Nat × VReg) :=
  if wide then g.put64 d m fun l => BitVec.ofNat 64 (f l) else g.put32 d m fun l => BitVec.ofNat 32 (f l)

/-- An instruction that writes a whole lane, reduced to the lane's width, and raises no flag. -/
theorem State.vecDone_putNat (s : State) (i : Instr) (wide : Bool) (d : RegNo) (m : VMode) (f : Nat → Nat) (cyc : Nat)
    (P : Nat → Nat → Prop) (hP : ∀ l, l < 32 → s.run.em.getLsbD l = true → P l (f l % 2 ^ (if wide then 64 else 32))) :
    let t := s.vecDone i (s.run.putNat wide d m f) 0 cyc
    s.vecStep t wide m d P ∧ s.raises t satFlag False := by
  have hmod (w x : Nat) : BitVec.ofNat w (x % 2 ^ w) = BitVec.ofNat w x := BitVec.eq_of_toNat_eq (by simp)
  have hflag : ((activeLanes s.run.em).any fun _ => false) = false := by simp
  cases wide with
  | true =>
    have h := s.lanesDone_whole i .s64 d m (fun l => f l % 2 ^ 64) cyc P (fun l => Nat.mod_lt _ (Nat.two_pow_pos _)) hP
    unfold State.lanesDone at h
    simp only [Ty.isPair, if_true, Bool.false_eq_true, if_false, hmod, hflag] at h
    exact h
  | false =>
    have h := s.lanesDone_whole i .b32 d m (fun l => f l % 2 ^ 32) cyc P (fun l => Nat.mod_lt _ (Nat.two_pow_pos _)) hP
    unfold State.lanesDone at h
    simp only [Ty.isPair, Bool.false_eq_true, if_false, hmod, hflag] at h
    exact h

/-- The mapping form of VMOV: the registers are those of an instruction that writes whole lanes, and each write is a share (R94). -/
theorem State.mapBook_booked (s : State) (ws : List (Nat × VReg)) (cyc : Nat) (g : Group) :
    State.booked s.run.core s { s with cores := s.mapBook ws cyc, run := g } := by
  obtain ⟨-, hother, hcore, -⟩ := State.booked_trans (State.booked_hits s ws _ rfl) (State.booked_setCore (c :=
    { (ws.foldl (fun t x => (t.writeResult x.1 x.2 true).1) s).core s.run.core with
      cyc := ((ws.foldl (fun t x => (t.writeResult x.1 x.2 true).1) s).core s.run.core).cyc + BitVec.ofNat 64 cyc }) rfl)
  exact ⟨rfl, hother, hcore, fun _ _ => rfl⟩

/-- What a vector instruction did shows in the group and in what is booked. -/
theorem State.vecStep_of_run {s t u : State} {wide : Bool} {m : VMode} {d : RegNo} {P : Nat → Nat → Prop} (h : s.vecStep u wide m d P)
    (hb : State.booked s.run.core s t) (hr : t.run = u.run) : s.vecStep t wide m d P := by
  obtain ⟨-, hrun, hlanes⟩ := h
  refine ⟨hb, hr ▸ hrun, ?_⟩
  unfold State.lanesWritten State.destBits at hlanes ⊢
  rw [hr]
  exact hlanes

/-! ## The instructions -/

section
variable {s : State} {ty : Ty} {wide ins : Bool} {d a : RegNo} {b c : Opnd} {m : VMode}

theorem vlog_runs {lut : BitVec 8} (h : Ready s (.vlog wide d a b c lut m)) : Runs (.vlog wide d a b c lut m) s fun t =>
    let ty : Ty := if wide then .s64 else .b32
    s.vecStep t wide m d (fun l x => ∀ i, i < elW ty →
      x.testBit i = lut.getLsbD (4 * ((s.run.aN ty a m l).testBit i).toNat + 2 * ((s.run.oN ty b l).testBit i).toNat
        + ((s.run.oN ty c l).testBit i).toNat)) ∧ s.raises t satFlag False := by
  refine runs_checked (by rw [exec, execVlog]) h ?_
  cases wide
  all_goals
    exact s.lanesDone_whole _ _ d m _ s.run.cyc _ (fun l => lutBits_lt ..) fun l _ _ i hi => lutBits_testBit lut _ _ _ hi

theorem vshf_runs {op : ShiftOp} {uni sat : Bool} (h : Ready s (.vshf ty op uni sat d a b m)) : Runs (.vshf ty op uni sat d a b m) s fun t =>
    let n := fun l e => if uni then s.run.oN ty b l % 256 else elBits ty (s.run.oN ty b l) e
    let v := fun l e => elA s ty a m l e * 2 ^ n l e
    s.vecStep t ty.isPair m d (fun l x =>
      if sat then fits ty true (v l) x else isBits ty (fun e => shifted op (bitsA s ty a m l e) (n l e)) x) ∧
    s.raises t satFlag (saturates s ty sat v) := by
  refine runs_checked (by rw [exec, execVshf]) h ?_
  cases sat with
  | true =>
    have hfit (n : Nat) (x : Int) : (fit ty true (if n < elW ty then x * 2 ^ n else x * 2 ^ elW ty)) = fit ty true (x * 2 ^ n) := by
      split_ifs with h
      · rfl
      · exact fit_far ty (Nat.le_of_not_lt h) x
    simp only [if_true, hfit]
    exact s.lanesDone_fits _ ty true d m _ s.run.cyc
  | false =>
    have hno (v : Nat → Nat → Int) : saturates s ty false v = False := by simp [saturates]
    simp only [Bool.false_eq_true, if_false, shiftBits_eq op (elW_pos ty), hno]
    exact s.lanesDone_bits _ ty d m _ s.run.cyc _ (fun _ _ _ => BitVec.isLt _) fun _ _ _ _ h => h

/-- The types of a bit field have one element in a lane. -/
theorem elems_scalar (h : ty.isScalar = true) : ty.elems = 1 := by
  cases ty <;> simp_all [Ty.isScalar, Ty.elems]

theorem vbit_runs (h : Ready s (.vbit ty ins d a b c m)) : Runs (.vbit ty ins d a b c m) s fun t =>
    let pos := fun l => s.run.oN ty b l % 256
    let len := fun l => s.run.oN ty b l / 256 % 256
    s.vecStep t ty.isPair m d (fun l x => isBits ty (fun e =>
      if ins then inserted (bitsA s ty a m l e) (bitsB s ty c l e) (pos l) (len l)
      else field (elSigned ty) (bitsA s ty a m l e) (pos l) (len l)) x) ∧ s.raises t satFlag False := by
  have hone : ty.elems = 1 := by
    have hwf := h.1
    simp only [Instr.wf, Bool.and_eq_true] at hwf
    exact elems_scalar hwf.1.1.1
  refine runs_checked (by rw [exec, execVbit]) h ?_
  have hw : elW ty = if ty.isPair then 64 else 32 := by rw [← elW_elems, hone, Nat.mul_one]
  have hfirst (x : Nat) : BitVec.ofNat (elW ty) (elBits ty x 0) = BitVec.ofNat (elW ty) x := by
    apply BitVec.eq_of_toNat_eq
    simp [elBits]
  have hbits (y : BitVec (elW ty)) : elBits ty y.toNat 0 = y.toNat := by
    simp [elBits, Nat.mod_eq_of_lt y.isLt]
  simp only [extField_eq, insField_eq, ← apply_ite BitVec.toNat]
  refine s.lanesDone_whole _ ty d m _ s.run.cyc _ (fun l => hw ▸ BitVec.isLt _) fun l _ _ e he => ?_
  obtain rfl : e = 0 := by omega
  simp only [hbits, bitsA, bitsB, hfirst]

theorem vmov_runs {src : Opnd} : Ready s (.vmov wide d src m) → Runs (.vmov wide d src m) s fun t =>
    s.vecStep t wide m d (fun l x => x = match src with
      | .v a => s.run.aN (if wide then .s64 else .b32) a m l
      | .s p => if wide then (s.run.pos p).toNat else ((s.run.pos p).setWidth 32).toNat) ∧ s.raises t satFlag False := by
  intro h
  refine runs_checked (by rw [exec, execVmov]) h ?_
  have hpair : (if wide then Ty.s64 else .b32).isPair = wide := by cases wide <;> rfl
  cases src with
  | v a =>
    have hlane (l : Nat) : s.run.aN (if wide then .s64 else .b32) a m l % 2 ^ (if wide then 64 else 32) = s.run.aN _ a m l :=
      Nat.mod_eq_of_lt (by simpa only [hpair] using s.run.aN_lt (if wide then Ty.s64 else .b32) a m l)
    obtain ⟨hstep, hraise⟩ := s.vecDone_putNat (.vmov wide d (.v a) m) wide d m (s.run.aN (if wide then .s64 else .b32) a m) s.run.cyc
      (fun l x => x = s.run.aN _ a m l) fun l _ _ => hlane l
    dsimp only
    by_cases hmap : (s.run.em == 0xFFFFFFFF && !m.ia && !m.id) = true
    · rw [if_pos hmap]
      refine ⟨State.vecStep_of_run hstep (s.mapBook_booked _ _ _) ?_, False.elim, fun _ => rfl⟩
      have hfsr : s.run.fsr ||| 0 = s.run.fsr := BitVec.or_zero
      rw [(State.vecDone_spec ..).2, hfsr]
      rfl
    · rw [if_neg hmap]
      exact ⟨hstep, hraise⟩
  | s p =>
    refine s.vecDone_putNat _ wide d m _ s.run.cyc _ fun l _ _ => ?_
    cases wide
    · exact Nat.mod_eq_of_lt ((s.run.pos p).setWidth 32).isLt
    · exact Nat.mod_eq_of_lt (s.run.pos p).isLt

theorem vmovi_runs {imm : BitVec 32} (h : Ready s (.vmovi ty d imm)) : Runs (.vmovi ty d imm) s fun t =>
    s.vecStep t ty.isPair {} d (fun _ x => x = if ty = .s64 then (imm.signExtend 64).toNat else imm.toNat) ∧ s.raises t satFlag False := by
  refine runs_checked (by rw [exec, execVmovi]) h ?_
  have hws : (if ty.isPair then s.run.put64 d {} fun _ => if ty = .s64 then imm.signExtend 64 else imm.setWidth 64
      else s.run.put32 d {} fun _ => imm) = s.run.putNat ty.isPair d {} fun _ => if ty = .s64 then (imm.signExtend 64).toNat else imm.toNat := by
    unfold Group.putNat
    cases ty <;> simp [Ty.isPair]
  have hlt : (if ty = .s64 then (imm.signExtend 64).toNat else imm.toNat) < 2 ^ (if ty.isPair then 64 else 32) := by
    have h64 := (imm.signExtend 64).isLt
    have h32 := imm.isLt
    cases ty <;> simp only [Ty.isPair, reduceCtorEq, if_true, if_false, Bool.false_eq_true] <;> omega
  dsimp only
  rw [hws]
  exact s.vecDone_putNat _ ty.isPair d {} _ s.run.cyc _ fun _ _ _ => Nat.mod_eq_of_lt hlt

theorem vidx_runs {mode : IdxMode} {nr : Bool} : Ready s (.vidx wide mode d nr) → Runs (.vidx wide mode d nr) s fun t =>
    s.vecStep t wide {} d (fun l x => x = (match mode with
      | .lane => l
      | .group => 32 * s.run.num + l
      | .grid => (s.run.team * s.teamGroups + s.run.num) * 32 + l) % 2 ^ (if wide then 64 else 32)) ∧ s.raises t satFlag False := by
  intro h
  refine runs_checked (by rw [exec, execVidx]) h ?_
  exact s.vecDone_putNat _ wide d {} _ s.run.cyc _ fun _ _ _ => rfl

theorem srd_vec_runs {sel : Sel} {nr : Bool} (h : Ready s (.srd sel (.vec wide d) nr)) : Runs (.srd sel (.vec wide d) nr) s fun t =>
    s.vecStep t wide {} d (fun l x => x = (if sel = .lane then l else (s.selector sel).toNat) % 2 ^ (if wide then 64 else 32)) ∧
    s.raises t satFlag False := by
  refine runs_checked (by rw [exec, execSrd]) h ?_
  have hval (l : Nat) : (if sel = .lane then BitVec.ofNat 64 l else s.selector sel) =
      BitVec.ofNat 64 (if sel = .lane then l else (s.selector sel).toNat) := by
    split_ifs
    · rfl
    · exact ((BitVec.ofNat_toNat 64 _).trans (BitVec.setWidth_eq _)).symm
  simp only [hval, BitVec.setWidth_ofNat_of_le (show 32 ≤ 64 by decide)]
  exact s.vecDone_putNat _ wide d {} _ 1 _ fun _ _ _ => rfl

end

end Sys2Proof.Machine

namespace Sys2Proof.Claims

open Sys2Proof.Machine

/-- Settles O5: each instruction gives every active lane the value of its operands' lanes (`State.lanesDone_step`), truth tables, shifts and fields of
elements being those of bit vectors (`lutBits_testBit`, `shiftBits_eq`, `extField_eq`, `insField_eq`). -/
theorem vectorLogicShiftsAndMoves : Obligations.VectorLogicShiftsAndMoves := by
  unfold Obligations.VectorLogicShiftsAndMoves
  exact ⟨fun s ty wide uni sat ins op d a b c lut m => ⟨vlog_runs, vshf_runs, vbit_runs⟩,
    fun s wide nr ty d src imm mode sel m => ⟨vmov_runs, vmovi_runs, vidx_runs, srd_vec_runs⟩⟩

end Sys2Proof.Claims
end

section
/-! SUPPORT and CERTIFICATES. A table of groups may hold a group under a number that is not its own: why ECAN need not leave its group as O39 states
(R52, R301). -/

namespace Sys2Proof.Machine

open Sys2Proof.Claims

/-- A command of group 1, queued at engine 0 under id 0. -/
def strayCmd : Cmd where
  id := 0
  op := .gath
  a := 0
  b := 0
  c := 0
  ev := false
  tag := 0
  gid := 1
  part := 0
  ctx := 0
  grid := 0
  team := 0
  core := 0
  cluster := 0
  stream := 0
  prio := 0
  seta := 15
  setb := 15

/-- Under number 1 the table holds a group whose own number is 0, that of the running group, at another word of its clause. -/
def strayGroup : State where
  active := true
  groups := [(1, { gid := 0, word := 1 })]
  engines := [(0, { cmds := [strayCmd] })]

/-- ECAN finds the command by its id. -/
theorem strayGroup_finds : (strayGroup.engine 0).cmds.find? (fun c => c.id == 0) = some strayCmd := rfl

/-- The command ends, and counting down the flags of its issuer puts the group that stands under number 1 in the place of the running one. -/
theorem strayGroup_ecan : ∃ t, exec (.ecan 0 (.s 0) 0) strayGroup = .next t ∧ t.run.word = 1 := ⟨_, rfl, rfl⟩

end Sys2Proof.Machine

namespace Sys2Proof.Claims

open Sys2Proof.Machine

/-- Refutes O39: the end of a command counts down the flags of the group that the table holds under its issuer's number, and stores that group under
its own number. In `strayGroup` the table holds, under number 1, a group numbered 0, so that ECAN, which ends a queued command of group 1, puts it in
the place of the running group 0, which the statement has wait for its answer at its own word (R52, R301). No run stores a group under a
number that is not its own. -/
theorem not_engineCommandsPostAndCancel : ¬ Obligations.EngineCommandsPostAndCancel := by
  unfold Obligations.EngineCommandsPostAndCancel
  intro h
  obtain ⟨-, hown, -⟩ := h.2 strayGroup 0 (.s 0) 0 0 0
  obtain ⟨hqueued, -⟩ := hown strayCmd strayGroup_finds rfl rfl
  obtain ⟨t, ht, hwaits, -⟩ := hqueued rfl
  obtain ⟨u, hu, hword⟩ := strayGroup_ecan
  rw [hu] at ht
  cases ht
  have hstays : t.run.word = strayGroup.run.word := by rw [hwaits]
  exact absurd (hword.symm.trans hstays) Nat.one_ne_zero

end Sys2Proof.Claims
end

section
/-! SUPPORT and CERTIFICATES. What a load looks up and what it reads: the lines, tags and translations of caches, the bytes of a page, the lanes'
values, and the operation that stays outstanding (R83-R86, R204-R206, R211, R233-R235, R240, R242, R263). -/

namespace Sys2Proof.Machine

open Sys2Proof.Claims

/-! ## What a look-up touches -/

/-- A core but for its victim tags and the counts of its misses (R206, R361, R363). -/
def Core.lookedUp (c d : Core) : Prop := d = { c with tags := d.tags, misses := d.misses, lost := d.lost, ctrs := d.ctrs }

theorem Core.lookedUp_refl (c : Core) : c.lookedUp c := rfl

theorem Core.lookedUp_count {c d : Core} (h : c.lookedUp d) (ev part ctx k : Nat) : c.lookedUp (d.count ev part ctx k) := by
  unfold Core.lookedUp at h
  rw [h]
  rfl

theorem Core.lookedUp_misses {c d : Core} (h : c.lookedUp d) (n : Nat) : c.lookedUp { d with misses := n } := by
  unfold Core.lookedUp at h
  rw [h]
  rfl

theorem Core.lookedUp_lost {c d : Core} (h : c.lookedUp d) (tags : List VictimTag) (n : Nat) : c.lookedUp { d with tags := tags, lost := n } := by
  unfold Core.lookedUp at h
  rw [h]
  rfl

/-- A look-up leaves everything but the lines and sharers of caches and slices, the tags and translations of cores, the counters of both, and the
capture bits of lines that leave their slice; the page that the running agent's core translated last stays the first of its cache
(R204-R206, R263, R330). -/
structure State.Reads (s t : State) : Prop where
  only : t = { s with cores := t.cores, clusters := t.clusters, slices := t.slices, ctxs := t.ctxs }
  ctx : ∀ p x, (t.ctx? p x).map (fun c => { c with captured := [] }) = (s.ctx? p x).map fun c => { c with captured := [] }
  core : ∀ n, t.core n = { s.core n with
    tlb := (t.core n).tlb, tags := (t.core n).tags, misses := (t.core n).misses, lost := (t.core n).lost, ctrs := (t.core n).ctrs }
  cluster : ∀ k, t.cluster k = { s.cluster k with lines := (t.cluster k).lines }
  slice : ∀ n, t.slice n = { s.slice n with lines := (t.slice n).lines, sharers := (t.slice n).sharers, ctrs := (t.slice n).ctrs }
  page : (t.core s.run.core).tlb.head? = (s.core s.run.core).tlb.head?

theorem State.reads_refl (s : State) : s.Reads s := ⟨rfl, fun _ _ => rfl, fun _ => rfl, fun _ => rfl, fun _ => rfl, rfl⟩

theorem State.Reads.run {s t : State} (h : s.Reads t) : t.run = s.run := by rw [h.only]

theorem State.Reads.trans {s t u : State} (h : s.Reads t) (k : t.Reads u) : s.Reads u where
  only := k.only.trans (by rw [h.only])
  ctx p x := (k.ctx p x).trans (h.ctx p x)
  core n := (k.core n).trans (by rw [h.core n])
  cluster n := (k.cluster n).trans (by rw [h.cluster n])
  slice n := (k.slice n).trans (by rw [h.slice n])
  page := (h.run ▸ k.page).trans h.page

theorem State.reads_foldl {α : Type} (f : State → α → State) (hf : ∀ (t : State) (x : α), t.Reads (f t x)) (xs : List α) (s : State) :
    s.Reads (xs.foldl f s) :=
  List.foldlRecOn xs f (motive := s.Reads) s.reads_refl fun _ h x _ => h.trans (hf _ x)

/-- Locating an access is a look-up. -/
theorem State.Looks.reads {s t : State} (h : s.Looks t) : s.Reads t where
  only := by
    rw [h.touched.only, h.mem]
  ctx p x := by rw [h.touched.only]; rfl
  core n := by
    rw [h.touched.core n, h.bufs.buf n]
  cluster := h.touched.cluster
  slice := h.touched.slice
  page := h.touched.page

theorem State.reads_setCluster (s : State) (k : Nat) (ls : List CacheLine) : s.Reads (s.setCluster k { s.cluster k with lines := ls }) :=
  State.Looks.reads ⟨s.touched_setCluster k ls, rfl, s.sameBufs_setCluster k _⟩

theorem State.reads_setSlice (s : State) (k : Nat) {q : Slice}
    (h : q = { s.slice k with lines := q.lines, sharers := q.sharers, ctrs := q.ctrs }) : s.Reads (s.setSlice k q) :=
  State.Looks.reads ⟨s.touched_setSlice k h, rfl, ⟨fun _ => rfl⟩⟩

theorem State.reads_setCore (s : State) (n : Nat) {c : Core} (h : (s.core n).lookedUp c) : s.Reads (s.setCore n c) where
  only := rfl
  ctx _ _ := rfl
  core k := by
    by_cases hk : k = n
    · subst hk; rw [State.core_setCore, (h : c = _)]
    · rw [State.core_setCore_ne _ _ hk]
  cluster _ := rfl
  slice _ := rfl
  page := by
    by_cases hk : s.run.core = n
    · rw [hk, State.core_setCore, (h : c = _)]
    · rw [State.core_setCore_ne _ _ hk]

/-- A line that leaves its home slice takes its capture bits with it (R263). -/
theorem State.reads_forgetLine (s : State) (line : Nat) : s.Reads (s.forgetLine line) where
  only := rfl
  ctx p x := by
    unfold State.ctx? State.forgetLine
    rw [Tbl.find_map (fun c : Ctx => { c with captured := c.captured.filter fun a => a / 128 * 128 != line }), Option.map_map]
    rfl
  core _ := rfl
  cluster _ := rfl
  slice _ := rfl
  page := rfl

/-! ## The look-ups of a load (R204-R206) -/

theorem State.reads_reachSlice (s : State) (line : Nat) (need : BitVec 4) (part ctx : Nat) (h : Hint) :
    s.Reads (s.reachSlice line need part ctx h) := s.reads_setSlice _ rfl

theorem State.reads_touchSlice (s : State) (line : Nat) (need : BitVec 4) (part ctx : Nat) (h : Hint) :
    s.Reads (s.touchSlice line need part ctx h) := by
  have h1 := s.reads_reachSlice line need part ctx h
  unfold State.touchSlice
  dsimp only
  split_ifs
  · exact h1
  · exact h1.trans (State.reads_setSlice _ _ rfl)
  · split
    · exact h1.trans ((State.reads_setSlice _ _ rfl).trans (State.reads_forgetLine _ _))
    · exact h1.trans (State.reads_setSlice _ _ rfl)

theorem State.reads_reachBytes (s : State) (pa n part ctx : Nat) (h : Hint) : s.Reads (s.reachBytes pa n part ctx h) :=
  State.reads_foldl _ (fun t _ => t.reads_reachSlice ..) _ s

theorem State.reads_victimTag (s : State) (l : CacheLine) (by' : Nat) : s.Reads (s.victimTag l by') := by
  unfold State.victimTag
  split_ifs
  · exact s.reads_refl
  · exact s.reads_setCore _ rfl

theorem State.reads_clusterFill (s : State) (g : Group) (line : Nat) (need : BitVec 4) (h : Hint) (core : Nat) :
    s.Reads (s.clusterFill g line need h core) := by
  unfold State.clusterFill
  dsimp only
  split_ifs
  · exact s.reads_setCluster _ _
  · split
    · exact (s.reads_setCluster _ _).trans ((State.reads_victimTag _ _ _).trans (State.reads_setCore _ _ rfl))
    · exact s.reads_setCluster _ _

theorem State.reads_loadMiss (s : State) (g : Group) (line : Nat) : s.Reads (s.loadMiss g line) := by
  have other (y : Core) (p : Prop) [Decidable p] (h : (s.core g.core).lookedUp y) :
      (s.core g.core).lookedUp (if p then y else y.count 0x09 g.part g.ctx 1) := by
    by_cases hp : p
    · rw [if_pos hp]; exact h
    · rw [if_neg hp]; exact Core.lookedUp_count h ..
  have hmiss := Core.lookedUp_misses (Core.lookedUp_count (Core.lookedUp_refl (s.core g.core)) 0x07 g.part g.ctx 1) ((s.core g.core).misses + 1)
  unfold State.loadMiss
  refine s.reads_setCore _ ?_
  dsimp only
  split
  · exact other _ _ (Core.lookedUp_lost (Core.lookedUp_count hmiss ..) ..)
  · exact hmiss

theorem State.reads_touchLine (s : State) (g : Group) (line : Nat) (need : BitVec 4) (h : Hint) : s.Reads (s.touchLine g line need h) := by
  have hmiss := s.reads_loadMiss g line
  unfold State.touchLine
  dsimp only
  split_ifs
  · exact s.reads_setCluster _ _
  · exact hmiss.trans (State.reads_touchSlice ..)
  · exact hmiss.trans ((State.reads_clusterFill ..).trans (State.reads_touchSlice ..))

/-- What a load of bytes looks up. -/
theorem State.reads_readTouch (s : State) (pa n : Nat) (h : Hint) : s.Reads (s.readTouch pa n h) := by
  unfold State.readTouch
  split
  · exact State.reads_foldl _ (fun t _ => t.reads_touchLine ..) _ s
  · exact s.reads_reachBytes ..

/-! ## What a look-up keeps -/

theorem State.desc_eq (s : State) (p x : Nat) : s.desc p x = ((s.ctx? p x).map Ctx.desc).getD (Vector.replicate 16 0) := by
  unfold State.desc
  cases s.ctx? p x <;> rfl

theorem State.Reads.desc {s t : State} (h : s.Reads t) (p x : Nat) : t.desc p x = s.desc p x := by
  have hc := congrArg (Option.map Ctx.desc) (h.ctx p x)
  rw [Option.map_map, Option.map_map] at hc
  rw [t.desc_eq, s.desc_eq]
  exact congrArg (fun o : Option (Vector Word 16) => o.getD (Vector.replicate 16 0)) hc

theorem State.Reads.byte {s t : State} (h : s.Reads t) (n b : Nat) : t.coreByte n b = s.coreByte n b :=
  State.coreByte_congr (by rw [h.core n]) (by rw [h.only]) b

theorem State.Reads.byteOf {s t : State} (h : s.Reads t) (b : Nat) : byteOf t b = byteOf s b := by
  unfold Claims.byteOf
  rw [h.run, h.byte]
  congr 1
  rw [h.only]

theorem inPage_of_reads {s t : State} {acc : Access} {a : Word} {n pa : Nat} (h : inPage s acc a n pa) (k : s.Reads t) : inPage t acc a n pa := by
  obtain ⟨e, rest, ht, has, hrest⟩ := h
  have hp := k.page
  rw [ht, List.head?_cons] at hp
  obtain ⟨rest', hr⟩ := List.head?_eq_some_iff.1 hp
  have hasid : t.asid t.run.part t.run.ctx = s.asid s.run.part s.run.ctx := by unfold State.asid; rw [k.desc, k.run]
  have hsup : t.isSup t.run = s.isSup s.run := by unfold State.isSup; rw [k.desc, k.run]
  refine ⟨e, rest', by rw [k.run]; exact hr, has.trans hasid.symm, ?_⟩
  rw [hsup]
  exact hrest

/-! ## The bytes that a load reads (R211, R234) -/

theorem Memory.read_eq_map (m : Memory) (a n : Nat) : Memory.read m a n = (List.range n).map fun i => Memory.get m (a + i) := by
  refine List.ext_getElem (by simp) fun i h1 h2 => ?_
  rw [Memory.read_get _ _ _ _ (by simpa using h1), List.getElem_map, List.getElem_range]

theorem State.readPieces_dev (s : State) (ks : List Nat) (pa : Nat) :
    s.readPieces (devPieces pa ks) = (s, (List.range ks.sum).map fun i => byteOf s (pa + i)) := by
  induction ks generalizing pa with
  | nil => rfl
  | cons k ks ih =>
    have hfirst : s.readPlace (.mem pa) k = (s, (List.range k).map fun i => byteOf s (pa + i)) := by
      unfold byteOf
      show (s, if s.run.kind = .compute then _ else _) = _
      split_ifs
      · rfl
      · rw [Memory.read_eq_map]
    rw [devPieces, State.readPieces, hfirst, ih, List.sum_cons, List.range_add, List.map_append, List.map_map]
    simp only [Function.comp_def, Nat.add_assoc]

/-- No piece of an access is empty. -/
theorem State.locate_pieces_pos {s t : State} {va : Word} {n : Nat} {acc : Access} {ps : List (Place × Nat)}
    (h : s.locate va n acc = (t, .ok ps)) (hn : 0 < n) : ∀ p ∈ ps, 0 < p.2 := by
  unfold State.locate at h
  dsimp only at h
  split_ifs at h with hf
  · split at h
    · cases h
    · cases h
      simpa using hn
  · split at h
    · cases h
    · split at h
      · cases h
      · cases h
        simp
        omega

/-- Pieces below the end of device memory lie in device memory. -/
theorem devPieces_plain {ks : List Nat} {pa : Nat} (hpos : ∀ p ∈ devPieces pa ks, 0 < p.2) (hlow : pa + ks.sum ≤ 2 ^ 39) :
    ∀ p ∈ devPieces pa ks, ∃ a, p.1 = .mem a ∧ region a = .dev := by
  induction ks generalizing pa with
  | nil => simp [devPieces]
  | cons k ks ih =>
    rw [devPieces, List.forall_mem_cons] at hpos ⊢
    rw [List.sum_cons] at hlow
    obtain ⟨hk, hrest⟩ := hpos
    dsimp only at hk
    exact ⟨⟨pa, rfl, region_dev (by omega)⟩, ih hrest (by omega)⟩

/-- A load from the page reads the bytes that its agent reads there, and is a look-up (R211, R240). -/
theorem State.loadGlobal_inPage {s : State} {a : Word} {n pa : Nat} (hp : inPage s .rd a n pa) (hn : 0 < n) (inv : Bool) (h : Hint) :
    ∃ t, s.loadGlobal a n inv h = (t, .ok (leNat ((List.range n).map fun i => byteOf s (pa + i)))) ∧ s.Reads t := by
  obtain ⟨t, ks, hl, hsum, hlook⟩ := State.locate_inPage hp hn
  have hplain := devPieces_plain (State.locate_pieces_pos hl hn) (hsum ▸ inPage_low hp)
  have hread := hlook.reads
  obtain ⟨u, hu, hlookups⟩ : ∃ u, s.loadGlobal a n inv h = (u, .ok (leNat ((List.range n).map fun i => byteOf t (pa + i)))) ∧ t.Reads u := by
    unfold State.loadGlobal
    rw [hl]
    dsimp only
    rw [if_neg, State.readPieces_dev, hsum]
    · refine ⟨_, rfl, State.reads_foldl _ (fun t p => ?_) _ _⟩
      split
      · exact t.reads_readTouch ..
      · exact t.reads_refl
    · simp only [Bool.and_eq_true, Bool.not_eq_true', List.all_eq_false, not_and, not_exists]
      intro _ p hp
      obtain ⟨b, hb, hdev⟩ := hplain p hp
      simp [hb, hdev]
  simp only [hread.byteOf] at hu
  exact ⟨u, hu, hread.trans hlookups⟩

/-- The lanes of a load from the page: none fails, and each has its value (R235, R240). -/
theorem State.runLanes_load {s : State} {addr : Nat → Word} {n : Nat} {pa : Nat → Nat} (hn : 0 < n) (inv : Bool) (h : Hint) (ls : List Nat)
    (hp : ∀ l ∈ ls, inPage s .rd (addr l) n (pa l)) :
    ∃ t, runLanes (fun t l => t.loadGlobal (addr l) n inv h) s ls =
      (t, ls.map fun l => (l, leNat ((List.range n).map fun i => byteOf s (pa l + i))), none) ∧ s.Reads t := by
  induction ls generalizing s with
  | nil => exact ⟨s, rfl, s.reads_refl⟩
  | cons l ls ih =>
    obtain ⟨hl, hls⟩ := List.forall_mem_cons.1 hp
    obtain ⟨t, ht, hread⟩ := State.loadGlobal_inPage hl hn inv h
    obtain ⟨u, hu, hmore⟩ := ih fun j hj => inPage_of_reads (hls j hj) hread
    refine ⟨u, ?_, hread.trans hmore⟩
    rw [runLanes, ht]
    dsimp only
    rw [hu]
    simp only [hread.byteOf, List.map_cons]

/-! ## The extension of what is read (R234) -/

theorem Sz.bytes_of_sx {sx : Bool} {sz : Sz} (h : sxOk sx sz = true) (hx : sx = true) : sz.bytes = 1 ∨ sz.bytes = 2 := by
  subst hx
  cases sz <;> simp_all [sxOk, Sz.bytes]

theorem Instr.sxOk_of_ld {sz : Sz} {hint : Hint} {inv sx prm : Bool} {ord : MOrd} {sco : Scope} {d : RegNo} {base : Base} {off : BitVec 16}
    (h : (Instr.ld sz hint inv sx prm ord sco d base off).wf = true) : sxOk sx sz = true := by
  simp only [Instr.wf, Bool.and_eq_true] at h
  tauto

theorem Instr.sxOk_of_sld {sz : Sz} {sx : Bool} {hint : Hint} {ord : MOrd} {sco : Scope} {prm : Bool} {d : SReg} {a : SPos} {off : BitVec 16}
    (h : (Instr.sld sz sx hint ord sco prm d a off).wf = true) : sxOk sx sz = true := by
  simp only [Instr.wf, Bool.and_eq_true] at h
  tauto

/-- A value of 1 or 2 bytes that is extended by sign, and any value that is extended with zeros, is extended as R234 says. -/
theorem extend_eq_loaded {sx : Bool} {n w x : Nat} (hx : x < 2 ^ (8 * n)) (hn : sx = true → 0 < n ∧ 8 * n ≤ w) :
    extend sx n w x = loaded sx n w x := by
  cases sx with
  | false => simp [extend, loaded]
  | true =>
    obtain ⟨hpos, hle⟩ := hn rfl
    have hp : 2 ^ (8 * n) ≤ 2 ^ w := Nat.pow_le_pow_right (by decide) hle
    have hhalf : 2 ^ (8 * n) = 2 * 2 ^ (8 * n - 1) := by rw [← Nat.pow_succ']; congr 1; omega
    have htop : x.testBit (8 * n - 1) = true ↔ 2 ^ (8 * n - 1) ≤ x := by
      have hq : x / 2 ^ (8 * n - 1) < 2 := by rw [Nat.div_lt_iff_lt_mul (Nat.two_pow_pos _)]; omega
      rw [Nat.testBit_eq_decide_div_mod_eq, decide_eq_true_eq, Nat.mod_eq_of_lt hq, ← Nat.one_le_div_iff (Nat.two_pow_pos _)]
      omega
    have hw : (0 : Int) < 2 ^ w := Int.pow_pos (by decide)
    have hcast : ((2 ^ w : Nat) : Int) = 2 ^ w ∧ ((2 ^ (8 * n) : Nat) : Int) = 2 ^ (8 * n) := by simp
    simp only [extend, loaded, if_true, true_and, htop, readInt, Nat.mod_eq_of_lt hx, Bool.true_and, decide_eq_true_eq, wrapInt]
    split_ifs with hneg
    · rw [← Int.add_emod_right, Int.emod_eq_of_lt (by omega) (by omega)]
      omega
    · rw [Int.emod_eq_of_lt (by omega) (by omega)]
      omega

theorem leNat_lt (bs : List Byte) : leNat bs < 2 ^ (8 * bs.length) := by
  induction bs with
  | nil => exact Nat.one_pos
  | cons b bs ih =>
    have hb := b.isLt
    rw [leNat, List.length_cons, Nat.mul_succ, Nat.pow_add]
    omega

/-- The bytes of an access of a size that its word may extend so, extended (R234). -/
theorem extend_leNat {sx : Bool} {sz : Sz} {w : Nat} (h : sxOk sx sz = true) (hw : 16 ≤ w) {bs : List Byte} (hbs : bs.length = sz.bytes) :
    extend sx sz.bytes w (leNat bs) = loaded sx sz.bytes w (leNat bs) := by
  refine extend_eq_loaded (hbs ▸ leNat_lt bs) fun hx => ?_
  have hsize := Sz.bytes_of_sx h hx
  omega

/-- The lanes' values in the registers that a load will write (R234). -/
theorem lanesHold_packRegs (k : Nat) (ls : List Nat) (v : Nat → Nat) {l : Nat} (hl : l ∈ ls) (h32 : l < 32) :
    lanesHold (packRegs k (ls.map fun l => (l, v l))) l (v l) := by
  have hval : laneVal (ls.map fun l => (l, v l)) l = v l := by
    have hfind : (ls.map fun l => (l, v l)).find? (·.1 == l) = some (l, v l) := by
      rw [List.find?_map]
      induction ls with
      | nil => cases hl
      | cons k ks ih =>
        by_cases hk : k = l
        · simp [hk]
        · simpa [List.find?_cons, hk] using ih ((List.mem_cons.1 hl).resolve_left (Ne.symm hk))
    rw [laneVal, hfind]
    rfl
  intro j hj
  simp only [packRegs, List.getElem_map, List.getElem_range, lane_mkLanes _ h32, hval]

theorem packRegs_length (k : Nat) (xs : List (Nat × Nat)) : (packRegs k xs).length = k := by simp [packRegs]

/-! ## The operation that stays outstanding (R52, R53) -/

theorem flagNames_nodup (a b : BitVec 4) : (flagNames a b).Nodup := by
  unfold flagNames
  refine List.nodup_append.2 ⟨by split <;> simp, by split <;> simp, fun x hx y hy hxy => ?_⟩
  obtain ⟨-, hx⟩ := List.mem_ite_nil_right.1 hx
  obtain ⟨hb, hy⟩ := List.mem_ite_nil_right.1 hy
  rw [List.mem_singleton] at hx hy
  have hab : b = a := BitVec.eq_of_toNat_eq (hy.symm.trans (hxy.symm.trans hx))
  simp [hab] at hb

theorem mem_flagNames_iff (a b : BitVec 4) {n : Nat} (h : n < 12) : n ∈ flagNames a b ↔ a.toNat = n ∨ b.toNat = n := by
  refine ⟨fun hn => ?_, mem_flagNames h⟩
  unfold flagNames at hn
  rcases List.mem_append.1 hn with hn | hn
  · exact .inl (List.mem_singleton.1 (List.mem_ite_nil_right.1 hn).2).symm
  · exact .inr (List.mem_singleton.1 (List.mem_ite_nil_right.1 hn).2).symm

theorem vmod_get {α : Type} {m : Nat} (v : Vector α m) (k : Nat) (f : α → α) {n : Nat} (h : n < m) :
    (vmod v k f)[n] = if k = n then f v[n] else v[n] := by
  by_cases hk : k = n
  · subst hk
    simp [vmod, h]
  · rw [if_neg hk]
    unfold vmod
    split
    · exact Vector.getElem_set_ne _ _ hk
    · rfl

/-- Updates of distinct places. -/
theorem foldl_vmod_get {α : Type} {m : Nat} (f : α → α) {ks : List Nat} (hk : ks.Nodup) (v : Vector α m) {n : Nat} (h : n < m) :
    (ks.foldl (fun v k => vmod v k f) v)[n] = if n ∈ ks then f v[n] else v[n] := by
  induction ks generalizing v with
  | nil => simp
  | cons k ks ih =>
    obtain ⟨hnew, hrest⟩ := List.nodup_cons.1 hk
    rw [List.foldl_cons, ih hrest, vmod_get v k f h]
    by_cases hn : k = n
    · subst hn; simp [hnew]
    · simp [hn, Ne.symm hn]

/-- An operation counts once on each flag that it names (R52). -/
theorem Group.countOp_flag (g : Group) (a b : BitVec 4) {n : Nat} (h : n < 12) :
    (g.countOp a b).cf[n] = if a.toNat = n ∨ b.toNat = n then ⟨true, g.cf[n].count + 1⟩ else g.cf[n] := by
  unfold Group.countOp
  rw [foldl_vmod_get _ (flagNames_nodup a b) _ h]
  simp only [mem_flagNames_iff a b h]

/-- A load issues behind its look-ups (R52, R53). -/
theorem State.issueLoad_issued {s u : State} (h : s.Reads u) (p : Option Pend) (f : Bool) (dst : LoadDst) (keys : List ReuseKey) (cyc : Nat) :
    let t := (u.setRun { s.run with pend := p, relFence := f }).issueLoad dst none keys cyc
    issued s t ⟨s.nextId, dst, s.run.sets.1, s.run.sets.2, none, keys, s.run.wordAddr⟩ ∧
      cachesOnly s t ∧ sameBytes s t ∧ t.run.relFence = f := by
  intro t
  have hid : u.nextId = s.nextId := by rw [h.only]
  have hcharge := State.charge_only (u.setRun { s.run with pend := p, relFence := f }) cyc
  have hrun : t.run = { s.run with
      loads := s.run.loads ++ [⟨s.nextId, dst, s.run.sets.1, s.run.sets.2, none, keys, s.run.wordAddr⟩]
      cf := (s.run.countOp s.run.sets.1 s.run.sets.2).cf, doneMask := 0, word := s.run.word + 1, pend := p, relFence := f } := by
    rw [← hid]
    rfl
  have hcore (n : Nat) : t.core n = { u.core n with cyc := (t.core n).cyc } := State.charge_core (u.setRun _) cyc n
  have hu : t = { u with run := t.run, cores := t.cores, agentCyc := t.agentCyc, nextId := u.nextId + 1 } := by
    have hend : t = { (u.setRun { s.run with pend := p, relFence := f }).charge cyc with run := t.run, nextId := u.nextId + 1 } := rfl
    rw [hcharge] at hend
    rw [hend]
    rfl
  clear_value t
  have hcluster (k : Nat) : t.cluster k = u.cluster k := by rw [hu]; rfl
  have hslice (k : Nat) : t.slice k = u.slice k := by rw [hu]; rfl
  have ht : t = { s with
      run := t.run, cores := t.cores, agentCyc := t.agentCyc
      clusters := u.clusters, slices := u.slices, ctxs := u.ctxs, nextId := s.nextId + 1 } := by
    rw [hu, hid, h.only]
  have hbuf (n : Nat) : (t.core n).buf = (s.core n).buf := by rw [hcore, h.core n]
  refine ⟨⟨?_, rfl, rfl, fun n hn => ?_⟩, ⟨?_, fun p x => ?_, fun n => ?_, fun k => ?_, fun n => ?_⟩, ⟨?_, ?_, fun n b => ?_⟩, ?_⟩
  · rw [hrun]
  · rw [hrun]
    exact s.run.countOp_flag _ _ hn
  · rw [ht]
  · rw [← h.ctx p x, ht]
    rfl
  · rw [hcore, h.core n]
  · show t.cluster k = { s.cluster k with lines := (t.cluster k).lines, tlb := (t.cluster k).tlb }
    rw [hcluster, h.cluster k]
  · show t.slice n = { s.slice n with lines := (t.slice n).lines, sharers := (t.slice n).sharers, ctrs := (t.slice n).ctrs }
    rw [hslice, h.slice n]
  · rw [ht]
  · rw [ht]
  · exact State.coreByte_congr (hbuf n) (by rw [ht]) b
  · rw [hrun]

/-! ## A load that the reuse table answers (R83-R86) -/

/-- Writes that share leave the registers that they name, and the rest of the group (R75). -/
theorem State.shared_run (s : State) (ws : List (Nat × VReg)) :
    (ws.foldl (fun t x => (t.writeResult x.1 x.2 true).1) s).run = { s.run with v := setRegs s.run.v ws } := by
  induction ws generalizing s with
  | nil => rfl
  | cons w ws ih =>
    rw [List.foldl_cons, ih, (State.booked_writeResult s w.1 w.2 true).2]
    rfl

/-- Consecutive registers from `d` on, written in order. -/
theorem setRegs_consecutive (v : Vector VReg 256) (d : Nat) (res : List VReg) {i : Nat} (h : i < 256) :
    (setRegs v (res.zipIdx.map fun x => (d + x.2, x.1)))[i] = if d ≤ i ∧ i < d + res.length then res.getD (i - d) 0 else v[i] := by
  rw [setRegs_get _ _ _ h, List.foldl_map]
  suffices H : ∀ k y, (res.zipIdx k).foldl (fun (y : VReg) x => if d + x.2 = i then x.1 else y) y =
      if d + k ≤ i ∧ i < d + k + res.length then res.getD (i - (d + k)) 0 else y from H 0 _
  induction res with
  | nil =>
    intro k y
    rw [List.zipIdx_nil, List.foldl_nil, if_neg (by simp)]
  | cons x xs ih =>
    intro k y
    rw [List.zipIdx_cons, List.foldl_cons, ih, List.length_cons]
    by_cases h1 : d + (k + 1) ≤ i ∧ i < d + (k + 1) + xs.length
    · rw [if_pos h1, if_pos (by omega), show i - (d + k) = i - (d + (k + 1)) + 1 by omega, List.getD_cons_succ]
    · rw [if_neg h1]
      by_cases h2 : d + k = i
      · rw [if_pos h2, if_pos (by omega), show i - (d + k) = 0 by omega, List.getD_cons_zero]
      · rw [if_neg h2, if_neg (by omega)]

theorem State.shareLoad_spec (s : State) (keys : List ReuseKey) (d : RegNo) (res : List VReg) :
    let t := s.shareLoad keys d res
    State.booked s.run.core s t ∧ t.run = { s.run with v := t.run.v, word := s.run.word + 1 } ∧
      ∀ i, i < 256 → t.run.reg i = if d.toNat ≤ i ∧ i < d.toNat + res.length then res.getD (i - d.toNat) 0 else s.run.reg i := by
  intro t
  let ws := res.zipIdx.map fun x => (d.toNat + x.2, x.1)
  let s1 := ws.foldl (fun t x => (t.writeResult x.1 x.2 true).1) s
  have hshared : s1.run = { s.run with v := setRegs s.run.v ws } := s.shared_run ws
  have hbooked : State.booked s.run.core s s1 := s.booked_hits ws _ rfl
  obtain ⟨c, ht, hc⟩ : ∃ c, t = (s1.setCore s.run.core c).setRun { s1.run with word := s.run.word + 1 } ∧
      c.bare = (s1.core s.run.core).bare := ⟨_, rfl, rfl⟩
  clear_value t s1
  have hrun : t.run = { s.run with v := setRegs s.run.v ws, word := s.run.word + 1 } := by
    rw [ht, hshared]
    rfl
  refine ⟨?_, by rw [hrun], fun i hi => ?_⟩
  · rw [ht]
    exact State.booked_trans hbooked (State.booked_trans (State.booked_setCore hc) (State.booked_setRun ..))
  · rw [Group.reg_lt _ hi, Group.reg_lt _ hi, hrun]
    exact setRegs_consecutive _ _ _ hi

end Sys2Proof.Machine

namespace Sys2Proof.Claims

open Sys2Proof.Machine

/-- Settles O27: the lanes' accesses are look-ups that answer the bytes of their page (`State.runLanes_load`, `State.loadGlobal_inPage`), so the
load that issues behind them carries those bytes extended (`State.issueLoad_issued`, `extend_leNat`); a load that the reuse table answers shares
its results (`State.shareLoad_spec`). -/
theorem loadsReadMemory : Obligations.LoadsReadMemory := by
  unfold Obligations.LoadsReadMemory
  intro s sz hint inv sx prm ord sco d base off r a pa
  dsimp only
  have hpos : 0 < sz.bytes := (Sz.bytes_le sz).1
  generalize hkeys : (if inv = true then s.loadKeys (.ld sz hint inv sx prm ord sco d base off) d sz.regs s.run.grid else []) = keys
  refine ⟨fun hr _ hmiss hp => ?_, fun res hr hhit => ?_, fun hwf hp => ?_⟩
  · refine runs_checked (by rw [exec, execLd]) hr ?_
    obtain ⟨u, hu, hreads⟩ := State.runLanes_load hpos inv hint (activeLanes s.run.em)
      fun l hl => hp l ((mem_activeLanes _ _).1 hl).1 ((mem_activeLanes _ _).1 hl).2
    obtain ⟨p, hwatch⟩ := State.watch_eq u false true sz.bytes
      ((activeLanes s.run.em).map fun l => (s.run.addr true base (off.signExtend 64) l).toNat)
    simp only [hkeys, hmiss, hu]
    rw [hwatch, State.emptyFence_eq, hreads.run, List.map_map]
    have hend := fun vals => State.issueLoad_issued hreads p (s.run.relFence || (s.run.em == 0 && ord.releases && sco == .core))
      (.vec d s.run.em vals) keys (s.run.memCyc sz)
    refine ⟨_, _, (hend _).1, packRegs_length _ _, fun l h32 hl => ?_, (hend _).2⟩
    rw [← extend_leNat (Instr.sxOk_of_ld hr.1) (by decide) (by simp)]
    exact lanesHold_packRegs _ _ _ ((mem_activeLanes _ _).2 ⟨h32, hl⟩) h32
  · refine runs_checked (by rw [exec, execLd]) hr ?_
    simp only [hkeys, hhit]
    exact State.shareLoad_spec ..
  · obtain ⟨u, hu, hreads⟩ := State.loadGlobal_inPage hp hpos false hint
    obtain ⟨p, hwatch⟩ := State.watch_eq u false true sz.bytes [(s.run.pos a + off.signExtend 64).toNat]
    refine ⟨_, by rw [exec, execSld, hu], ?_⟩
    dsimp only
    rw [hwatch, hreads.run, ← extend_leNat (Instr.sxOk_of_sld hwf) (by decide) (by simp)]
    exact State.issueLoad_issued hreads p s.run.relFence ..

end Sys2Proof.Claims
end

section
/-! SUPPORT and CERTIFICATES. Integer arithmetic of vector elements, exact and reduced once through Fit (R103, R106, R107). -/

namespace Sys2Proof.Machine

open Sys2Proof.Claims

/-- A lane of a type with one element is that element. -/
theorem mapLane_one {ty : Ty} (h : ty.elems = 1) (f : Nat → Nat × Bool) : mapLane ty f = f 0 := by
  simp [mapLane, h, mapEls]

/-- A sum carried from a start, element by element. -/
theorem foldl_add_eq_sum (f : Nat → Int) (xs : List Nat) (x : Int) : xs.foldl (fun x e => x + f e) x = x + (xs.map f).sum := by
  induction xs generalizing x with
  | nil => simp
  | cons e xs ih => rw [List.foldl_cons, ih, List.map_cons, List.sum_cons, Int.add_assoc]

/-- A type of packed elements takes one register. -/
theorem isPair_of_packed {ty : Ty} (h : ty.isPackedInt = true) : ty.isPair = false := by
  revert h
  cases ty <;> decide

section
variable {s : State} {ty : Ty} {sat hi : Bool} {d a : RegNo} {b c : Opnd} {m : VMode}

theorem vadd_runs (h : Ready s (.vadd ty sat d a b m)) : Runs (.vadd ty sat d a b m) s fun t =>
    let v := fun l e => elA s ty a m l e + elB s ty b l e
    s.vecStep t ty.isPair m d (fun l x => fits ty sat (v l) x) ∧ s.raises t satFlag (saturates s ty sat v) :=
  runs_checked (by rw [exec, execVadd]) h (s.lanesDone_fits _ ty sat d m _ s.run.cyc)

theorem vsub_runs (h : Ready s (.vsub ty sat d a b m)) : Runs (.vsub ty sat d a b m) s fun t =>
    let v := fun l e => elA s ty a m l e - elB s ty b l e
    s.vecStep t ty.isPair m d (fun l x => fits ty sat (v l) x) ∧ s.raises t satFlag (saturates s ty sat v) :=
  runs_checked (by rw [exec, execVsub]) h (s.lanesDone_fits _ ty sat d m _ s.run.cyc)

theorem vmul_runs (h : Ready s (.vmul ty hi sat d a b m)) : Runs (.vmul ty hi sat d a b m) s fun t =>
    let v := fun l e => if hi then elA s ty a m l e * elB s ty b l e / 2 ^ elW ty else elA s ty a m l e * elB s ty b l e
    s.vecStep t ty.isPair m d (fun l x => fits ty sat (v l) x) ∧ s.raises t satFlag (saturates s ty sat v) :=
  runs_checked (by rw [exec, execVmul]) h (s.lanesDone_fits _ ty sat d m _ _)

theorem vmad_runs (h : Ready s (.vmad ty sat d a b c m)) : Runs (.vmad ty sat d a b c m) s fun t =>
    let v := fun l e => elA s ty a m l e * elB s ty b l e + elB s ty c l e
    s.vecStep t ty.isPair m d (fun l x => fits ty sat (v l) x) ∧ s.raises t satFlag (saturates s ty sat v) :=
  runs_checked (by rw [exec, execVmad]) h (s.lanesDone_fits _ ty sat d m _ _)

theorem vdot_runs (h : Ready s (.vdot ty sat d a b c m)) : Runs (.vdot ty sat d a b c m) s fun t =>
    let acc : Ty := if elSigned ty then .s32 else .n32
    let v := fun l (_ : Nat) => elB s acc c l 0 + ((List.range ty.elems).map fun e => elA s ty a m l e * elB s ty b l e).sum
    s.vecStep t false m d (fun l x => fits acc sat (v l) x) ∧ s.raises t satFlag (saturates s acc sat v) := by
  have hpacked : ty.isPair = false := by
    have hwf := h.1
    simp only [Instr.wf, Bool.and_eq_true] at hwf
    exact isPair_of_packed hwf.1
  refine runs_checked (by rw [exec, execVdot]) h ?_
  dsimp only
  generalize hacc : (if elSigned ty then Ty.s32 else Ty.n32) = acc
  obtain ⟨hone, hword⟩ : acc.elems = 1 ∧ acc.isPair = false := by
    subst hacc
    split_ifs <;> decide
  have hsum (l : Nat) : fit acc sat ((List.range ty.elems).foldl
        (fun x e => x + el ty (s.run.a32 a m l).toNat e * el ty (s.run.op32 b l).toNat e) (el acc (s.run.op32 c l).toNat 0)) =
      mapLane acc fun _ => fit acc sat
        (elB s acc c l 0 + ((List.range ty.elems).map fun e => elA s ty a m l e * elB s ty b l e).sum) := by
    rw [mapLane_one hone, foldl_add_eq_sum]
    simp [elA, elB, Group.aN, Group.oN, hpacked, hword]
  simp only [hsum]
  have hdone := s.lanesDone_fits (.vdot ty sat d a b c m) acc sat d m
    (fun l _ => elB s acc c l 0 + ((List.range ty.elems).map fun e => elA s ty a m l e * elB s ty b l e).sum) s.run.cyc
  rwa [hword] at hdone

end

end Sys2Proof.Machine

namespace Sys2Proof.Claims

open Sys2Proof.Machine

/-- Settles O4: each instruction puts Fit of its exact result into every element (`State.lanesDone_fits`); VDOT gives a lane of one element, the
exact sum that its loop over the products carries (`foldl_add_eq_sum`). -/
theorem vectorArithmetic : Obligations.VectorArithmetic := by
  unfold Obligations.VectorArithmetic
  exact ⟨fun s ty sat hi d a b c m => ⟨vadd_runs, vsub_runs, vmul_runs, vmad_runs⟩, fun s ty sat d a b c m => vdot_runs⟩

end Sys2Proof.Claims
end

section
/-! SUPPORT and CERTIFICATES. Compares, selections and bounds of vector elements (R111-R113). -/

namespace Sys2Proof.Machine

open Sys2Proof.Claims

/-- The completion of a compare with a mask destination: all that it does (R111). -/
theorem State.maskDone_step (s : State) (k : BitVec 3) (p : Nat → Bool) :
    s.maskStep (s.maskDone k p 0 s.run.cyc) k (fun l => p l = true) ∧ s.raises (s.maskDone k p 0 s.run.cyc) satFlag False := by
  have hfsr : s.run.fsr ||| 0 = s.run.fsr := BitVec.or_zero
  obtain ⟨honly, hrun⟩ := s.done_only { s.run with
    m := s.run.m.set k.toNat (mkMask fun t => if s.run.em.getLsbD t then p t else s.run.m[k.toNat].getLsbD t), fsr := s.run.fsr ||| 0 } s.run.cyc
  have hmask : (s.maskDone k p 0 s.run.cyc).run.m[k.toNat] =
      mkMask fun t => if s.run.em.getLsbD t then p t else s.run.m[k.toNat].getLsbD t := by
    unfold State.maskDone
    simp only [hrun, Vector.getElem_set_self]
  refine ⟨⟨fun l hl he => ?_, fun l hl he => ?_, ?_, honly⟩, False.elim, fun _ => hfsr⟩
  · rw [hmask, mkMask_bit, decide_eq_true hl, Bool.true_and, if_pos he]
  · rw [hmask, mkMask_bit, decide_eq_true hl, Bool.true_and, if_neg (Bool.eq_false_iff.mp he)]
  · rw [hmask]
    exact hrun

/-- What a condition of VCMP says of two numbers (R111). -/
theorem icond_iff (c : ICond) (x y : Int) : icond c x y = true ↔ match c with
    | .eq => x = y
    | .ne => x ≠ y
    | .lt => x < y
    | .le => x ≤ y
    | .gt => y < x
    | .ge => y ≤ x := by
  cases c <;> simp [icond]

theorem elMask_lt (ty : Ty) (p : Bool) : (elMask ty p).1 < 2 ^ elW ty := by
  have hp := Nat.two_pow_pos (elW ty)
  unfold elMask
  split_ifs <;> omega

/-- An elementwise instruction whose elements are reduced modulo 2^w, which raises no flag. -/
theorem State.lanesDone_wraps (s : State) (i : Instr) (ty : Ty) (d : RegNo) (m : VMode) (v : Nat → Nat → Int) (cyc : Nat) :
    let t := s.lanesDone i ty d m (fun l => mapLane ty fun e => Machine.fit ty false (v l e)) cyc
    s.vecStep t ty.isPair m d (fun l x => Claims.fits ty false (v l) x) ∧ s.raises t satFlag False := by
  have hnone : saturates s ty false v = False := by simp [saturates]
  exact hnone ▸ s.lanesDone_fits i ty false d m v cyc

section
variable {s : State} {ty : Ty} {cond : ICond} {d a : RegNo} {b c : Opnd} {m : VMode}

theorem vcmp_mask_runs {k : BitVec 3} {any : Bool} (h : Ready s (.vcmp ty cond (.mask k any) a b m)) :
    Runs (.vcmp ty cond (.mask k any) a b m) s fun t =>
      s.maskStep t k (fun l =>
        if any then ∃ e, e < ty.elems ∧ icond cond (elA s ty a m l e) (elB s ty b l e) = true
        else ∀ e, e < ty.elems → icond cond (elA s ty a m l e) (elB s ty b l e) = true) ∧ s.raises t satFlag False := by
  refine runs_checked (by rw [exec, execVcmp]) h ?_
  cases any with
  | false =>
    have hall := s.maskDone_step k fun l => (List.range ty.elems).all fun e => icond cond (elA s ty a m l e) (elB s ty b l e)
    simp only [List.all_eq_true, List.mem_range] at hall
    exact hall
  | true =>
    have hany := s.maskDone_step k fun l => (List.range ty.elems).any fun e => icond cond (elA s ty a m l e) (elB s ty b l e)
    simp only [List.any_eq_true, List.mem_range] at hany
    exact hany

theorem vcmp_vec_runs (h : Ready s (.vcmp ty cond (.vec d) a b m)) : Runs (.vcmp ty cond (.vec d) a b m) s fun t =>
    s.vecStep t ty.isPair m d (fun l x => ∀ e, e < ty.elems →
      (icond cond (elA s ty a m l e) (elB s ty b l e) = true → elBits ty x e = 2 ^ elW ty - 1) ∧
      (¬ icond cond (elA s ty a m l e) (elB s ty b l e) = true → elBits ty x e = 0)) ∧ s.raises t satFlag False := by
  refine runs_checked (by rw [exec, execVcmp]) h ?_
  refine s.lanesDone_bits _ ty d m _ s.run.cyc _ (fun l e _ => elMask_lt ty _) fun l x _ _ hx e he => ?_
  rw [hx e he]
  exact ⟨fun hc => if_pos hc, fun hc => if_neg hc⟩

theorem vsel_lanes_runs {p : SPos} (h : Ready s (.vsel ty d a b (.s p) m)) : Runs (.vsel ty d a b (.s p) m) s fun t =>
    s.vecStep t ty.isPair m d (fun l x => x = if (s.run.pos p).getLsbD l then s.run.aN ty a m l else s.run.oN ty b l) ∧
    s.raises t satFlag False := by
  refine runs_checked (by rw [exec, execVsel]) h ?_
  refine s.lanesDone_whole _ ty d m _ s.run.cyc _ (fun l => ?_) fun _ _ _ => rfl
  cases (s.run.pos p).getLsbD l
  · exact s.run.oN_lt ty b l
  · exact s.run.aN_lt ty a m l

theorem vsel_elements_runs {r : RegNo} (h : Ready s (.vsel ty d a b (.v r) m)) : Runs (.vsel ty d a b (.v r) m) s fun t =>
    s.vecStep t ty.isPair m d (fun l x => isBits ty (fun e =>
      if bitsB s ty (.v r) l e ≠ 0 then bitsA s ty a m l e else bitsB s ty b l e) x) ∧ s.raises t satFlag False := by
  refine runs_checked (by rw [exec, execVsel]) h ?_
  have hbits (x e : Nat) : (BitVec.ofNat (elW ty) (elBits ty x e)).toNat = elBits ty x e := by
    simp [Nat.mod_eq_of_lt (elBits_lt ty x e)]
  have hval (l e : Nat) : (if elBits ty (s.run.oN ty (.v r) l) e != 0 then elBits ty (s.run.aN ty a m l) e else elBits ty (s.run.oN ty b l) e) =
      (if bitsB s ty (.v r) l e ≠ 0 then bitsA s ty a m l e else bitsB s ty b l e).toNat := by
    rw [apply_ite BitVec.toNat]
    simp only [bitsA, bitsB, hbits, ne_eq, ← BitVec.toNat_inj, BitVec.ofNat_eq_ofNat, BitVec.toNat_zero, bne_iff_ne]
  simp only [hval]
  exact s.lanesDone_bits _ ty d m _ s.run.cyc _ (fun _ _ _ => BitVec.isLt _) fun _ _ _ _ hx => hx

theorem vmin_runs (op : MinOp) : Ready s (.vmin ty op d a b c m) → Runs (.vmin ty op d a b c m) s fun t =>
    s.vecStep t ty.isPair m d (fun l x => fits ty false (fun e => match op with
      | .min => min (elA s ty a m l e) (elB s ty b l e)
      | .max => max (elA s ty a m l e) (elB s ty b l e)
      | .adf => ((elA s ty a m l e - elB s ty b l e).natAbs : Int)
      | .clmp => max (elB s ty b l e) (min (elA s ty a m l e) (elB s ty c l e))) x) ∧ s.raises t satFlag False := by
  intro h
  refine runs_checked (by rw [exec, execVmin]) h ?_
  have hadf (x y : Int) : (if x < y then y - x else x - y) = ((x - y).natAbs : Int) := by split_ifs <;> omega
  simp only [hadf]
  exact s.lanesDone_wraps _ ty d m _ s.run.cyc

end

end Sys2Proof.Machine

namespace Sys2Proof.Claims

open Sys2Proof.Machine

/-- Settles O6: a compare sets bits of a mask (`State.maskDone_step`) or whole elements by its condition (`icond_iff`), and a selection or a bound
gives the active lanes a lane, an element's bits, or Fit of a number. -/
theorem vectorComparesAndSelects : Obligations.VectorComparesAndSelects := by
  unfold Obligations.VectorComparesAndSelects
  refine ⟨fun s ty cond k any d a b m => ?_, fun s ty d a r b c p m => ⟨vsel_lanes_runs, vsel_elements_runs, vmin_runs⟩⟩
  have hmask := @vcmp_mask_runs s ty cond a b m k any
  have hvec := @vcmp_vec_runs s ty cond d a b m
  simp only [icond_iff] at hmask hvec
  exact ⟨hmask, hvec⟩

end Sys2Proof.Claims
end

section
/-! SUPPORT and CERTIFICATES. Reductions and scans over the active lanes (R120). -/

namespace Sys2Proof.Machine

open Sys2Proof.Claims

/-! ## The exact reduction -/

/-- A loop over bits of numbers is the loop over bit vectors. -/
theorem foldl_wrapInt {w : Nat} {f : BitVec w → BitVec w → BitVec w} {g : Nat → Nat → Nat}
    (h : ∀ x y, (f x y).toNat = g x.toNat y.toNat) (xs : List Int) (x : BitVec w) :
    xs.foldl (fun acc y => (g (wrapInt w acc) (wrapInt w y) : Int)) (x.toNat : Int) = ((xs.map (BitVec.ofInt w)).foldl f x).toNat := by
  induction xs generalizing x with
  | nil => rfl
  | cons y ys ih =>
    have hstep : (g (wrapInt w (x.toNat : Int)) (wrapInt w y) : Int) = ((f x (BitVec.ofInt w y)).toNat : Int) := by
      rw [h, wrapInt_ofInt, wrapInt_ofInt, BitVec.ofInt_natCast, BitVec.ofNat_toNat, BitVec.setWidth_eq]
    rw [List.foldl_cons, hstep, ih, List.map_cons, List.foldl_cons]

/-- The steps of a reduction from its identity give the reduction of the list (R120). -/
theorem foldl_redStep (ty : Ty) (op : RedOp) (xs : List Int) : xs.foldl (redStep ty op) (redInit ty op) = reduced ty op xs := by
  cases op with
  | add => exact List.sum_eq_foldl.symm
  | min => rfl
  | max => rfl
  | and =>
    have hall : redInit ty .and = ((BitVec.allOnes (elW ty)).toNat : Int) := by
      rw [BitVec.toNat_allOnes, Nat.cast_sub Nat.one_le_two_pow]
      simp [redInit]
    rw [hall]
    exact foldl_wrapInt (fun _ _ => BitVec.toNat_and ..) xs _
  | or => exact foldl_wrapInt (fun _ _ => BitVec.toNat_or ..) xs 0
  | xor => exact foldl_wrapInt (fun _ _ => BitVec.toNat_xor ..) xs 0

theorem Group.reduce_eq (s : State) (ty : Ty) (op : RedOp) (a : RegNo) (e : Nat) (ls : List Nat) :
    s.run.reduce ty op a e ls = reduced ty op (ls.map fun k => elA s ty a {} k e) := by
  rw [← foldl_redStep, List.foldl_map]
  rfl

/-! ## A scalar destination -/

/-- The lane of a type whose elements are Fit of numbers. -/
theorem mapLane_fits (ty : Ty) (sat : Bool) (v : Nat → Int) : fits ty sat v (mapLane ty fun e => fit ty sat (v e)).1 := by
  intro e he
  rw [elBits_mapLane ty _ e he fun _ _ => fit_lt ..]
  exact fit_isFit ..

/-- It raises SAT where an element saturates. -/
theorem mapLane_fit_flag (ty : Ty) (sat : Bool) (v : Nat → Int) :
    (mapLane ty fun e => fit ty sat (v e)).2 = true ↔ ∃ e, e < ty.elems ∧ sat = true ∧ outside ty (v e) := by
  simp only [mapLane, mapEls_flag, fit_flag]

/-- The lane bits `x` as a scalar: the pair, or the 32 bits extended as the type says (R120). -/
def redWord (ty : Ty) (x : Nat) : Word := if ty = .s32 then sext64 32 x else BitVec.ofNat 64 x

theorem redWord_s32 {x : Nat} (hx : x < 2 ^ 32) : redWord .s32 x = (BitVec.ofNat 32 x).signExtend 64 := by
  have h := scaResult_32 (BitVec.ofNat 32 x)
  rwa [BitVec.toNat_ofNat, Nat.mod_eq_of_lt hx] at h

theorem setWidth_signExtend_32 (x : BitVec 32) : (x.signExtend 64).setWidth 32 = x := by
  apply BitVec.eq_of_getLsbD_eq
  intro i hi
  simp [BitVec.getElem_signExtend, hi, show i < 64 by omega]

theorem redWord_low {ty : Ty} {x : Nat} (hx : x < 2 ^ (if ty.isPair then 64 else 32)) :
    (redWord ty x).toNat % 2 ^ (if ty.isPair then 64 else 32) = x := by
  by_cases h : ty = .s32
  · subst h
    have hx : x < 2 ^ 32 := hx
    show _ % 2 ^ 32 = x
    rw [redWord_s32 hx, ← BitVec.toNat_setWidth, setWidth_signExtend_32, BitVec.toNat_ofNat, Nat.mod_eq_of_lt hx]
  · rw [redWord, if_neg h, BitVec.toNat_ofNat]
    split_ifs at hx ⊢ <;> omega

theorem redWord_extended {ty : Ty} {x : Nat} (hp : ty.isPair = false) (hx : x < 2 ^ 32) : redWord ty x =
    if ty = .s32 then ((redWord ty x).setWidth 32).signExtend 64 else ((redWord ty x).setWidth 32).setWidth 64 := by
  split_ifs with h
  · subst h
    rw [redWord_s32 hx, setWidth_signExtend_32]
  · rw [redWord, if_neg h]
    apply BitVec.eq_of_toNat_eq
    simp only [BitVec.toNat_setWidth, BitVec.toNat_ofNat]
    omega

/-- The completion of a reduction to scalar register `sd`. -/
def State.redDone (s : State) (sd : SReg) (x : Word) (sat : Bool) : State :=
  s.done { s.run.setS sd x with fsr := s.run.fsr ||| (if sat then fSAT else 0) } s.run.cyc

theorem State.redDone_step (s : State) (sd : SReg) (x : Word) (sat : Bool) :
    let t := s.redDone sd x sat
    t.run.s[sd.toNat] = x ∧ t.run = { s.run with s := s.run.s.set sd.toNat x, fsr := t.run.fsr, word := s.run.word + 1 } ∧
    s.raises t satFlag (sat = true) ∧ s.onlyGroup t s.run.cyc := by
  obtain ⟨honly, hrun⟩ := s.done_only { s.run.setS sd x with fsr := s.run.fsr ||| (if sat then fSAT else 0) } s.run.cyc
  have hs : (s.redDone sd x sat).run.s[sd.toNat] = x := Vector.getElem_set_self ..
  refine ⟨hs, hrun, ⟨fun h => ?_, fun h => ?_⟩, honly⟩
  · subst h
    rfl
  · obtain rfl : sat = false := Bool.eq_false_iff.mpr h
    exact BitVec.or_zero

/-- Element `e` reduced over the active lanes. -/
def activeReduced (s : State) (ty : Ty) (op : RedOp) (a : RegNo) (e : Nat) : Int :=
  reduced ty op ((activeLanes s.run.em).map fun k => elA s ty a {} k e)

theorem execGred_sca_eq (s : State) (ty : Ty) (op : RedOp) (sat nr : Bool) (a : RegNo) (sd : SReg) :
    exec (.gred ty op sat (.s sd) a nr) s = s.checked (.gred ty op sat (.s sd) a nr) fun s =>
      let r := mapLane ty fun e => fit ty sat (activeReduced s ty op a e)
      if s.run.em = 0 then s.done s.run s.run.cyc else s.redDone sd (redWord ty r.1) r.2 := by
  rw [exec, execGred]
  simp only [Group.reduce_eq]
  rfl

section
variable {s : State} {ty : Ty} {op : RedOp} {sat excl nr : Bool} {d a : RegNo} {sd : SReg}

theorem gred_vec_runs (h : Ready s (.gred ty op sat (.v d) a nr)) : Runs (.gred ty op sat (.v d) a nr) s fun t =>
    s.vecStep t ty.isPair {} d (fun _ x => fits ty sat (activeReduced s ty op a) x) ∧
    s.raises t satFlag (saturates s ty sat fun _ => activeReduced s ty op a) := by
  refine runs_checked (by rw [exec, execGred]) h ?_
  simp only [Group.reduce_eq]
  exact s.lanesDone_fits _ ty sat d {} _ s.run.cyc

theorem gscn_runs (h : Ready s (.gscn ty op sat excl d a nr)) : Runs (.gscn ty op sat excl d a nr) s fun t =>
    let v := fun l e => reduced ty op (((activeLanes s.run.em).filter fun k => if excl then k < l else k ≤ l).map fun k => elA s ty a {} k e)
    s.vecStep t ty.isPair {} d (fun l x => fits ty sat (v l) x) ∧ s.raises t satFlag (saturates s ty sat v) := by
  refine runs_checked (by rw [exec, execGscn]) h ?_
  simp only [Group.reduce_eq]
  exact s.lanesDone_fits _ ty sat d {} _ s.run.cyc

theorem gred_sca_runs (h : Ready s (.gred ty op sat (.s sd) a nr)) : Runs (.gred ty op sat (.s sd) a nr) s fun t =>
    (s.run.em = 0 → t.run = { s.run with word := s.run.word + 1 }) ∧
    (s.run.em ≠ 0 → fits ty sat (activeReduced s ty op a) (t.run.s[sd.toNat].toNat % 2 ^ (if ty.isPair then 64 else 32)) ∧
      (ty.isPair = false → t.run.s[sd.toNat] =
        if ty = .s32 then (t.run.s[sd.toNat].setWidth 32).signExtend 64 else (t.run.s[sd.toNat].setWidth 32).setWidth 64)) ∧
    t.run = { s.run with s := s.run.s.set sd.toNat t.run.s[sd.toNat], fsr := t.run.fsr, word := s.run.word + 1 } ∧
    s.raises t satFlag (saturates s ty sat fun _ => activeReduced s ty op a) ∧ s.onlyGroup t s.run.cyc := by
  refine runs_checked (execGred_sca_eq ..) h ?_
  have hbits := mapLane_fits ty sat (activeReduced s ty op a)
  have hflag := mapLane_fit_flag ty sat (activeReduced s ty op a)
  have hlt : (mapLane ty fun e => fit ty sat (activeReduced s ty op a e)).1 < 2 ^ (if ty.isPair then 64 else 32) :=
    mapLane_lt ty _ fun _ _ => fit_lt ..
  generalize (mapLane ty fun e => fit ty sat (activeReduced s ty op a e)) = r at hbits hflag hlt
  dsimp only
  by_cases hem : s.run.em = 0
  · have hnone : ¬ (saturates s ty sat fun _ => activeReduced s ty op a) := by
      rintro ⟨l, e, -, hl, -⟩
      simp [hem] at hl
    obtain ⟨honly, hrun⟩ := s.done_only s.run s.run.cyc
    rw [if_pos hem]
    refine ⟨fun _ => hrun, fun hne => absurd hem hne, ?_, ⟨fun hs => absurd hs hnone, fun _ => by rw [hrun]⟩, honly⟩
    rw [hrun, Vector.set_getElem_self]
  · have hsome : (saturates s ty sat fun _ => activeReduced s ty op a) ↔ r.2 = true := by
      obtain ⟨l, hl, hb⟩ := lane_of_ne_zero hem
      rw [hflag]
      exact ⟨fun ⟨_, e, _, _, he⟩ => ⟨e, he⟩, fun ⟨e, he⟩ => ⟨l, e, hl, hb, he⟩⟩
    obtain ⟨hs, hrest⟩ := s.redDone_step sd (redWord ty r.1) r.2
    rw [if_neg hem, hsome, hs]
    refine ⟨fun h0 => absurd h0 hem, fun _ => ⟨?_, fun hp => ?_⟩, hrest⟩
    · rwa [redWord_low hlt]
    · exact redWord_extended hp (by simpa [hp] using hlt)

end

end Sys2Proof.Machine

namespace Sys2Proof.Claims

open Sys2Proof.Machine

/-- Settles O9: the loop of a reduction is the reduction of the list (`foldl_redStep`), whose Fit goes to the active lanes, or to a scalar
extended as the type says (`redWord_extended`). -/
theorem reductionsAndScans : Obligations.ReductionsAndScans := by
  unfold Obligations.ReductionsAndScans
  exact fun s ty op sat excl nr d a sd => ⟨gred_vec_runs, gred_sca_runs, gscn_runs⟩

end Sys2Proof.Claims
end

section
/-! SUPPORT and CERTIFICATES. Lanes that move across lanes, elements that slide, and table look-ups (R116-R119, R121). -/

namespace Sys2Proof.Machine

open Sys2Proof.Claims

/-- An instruction that moves lanes or pairs, and raises no flag: all that it does (R116). -/
theorem State.lanesDone_moved (s : State) (i : Instr) (wide : Bool) (d : RegNo) (f : Nat → Nat) (cyc : Nat) (P : Nat → Nat → Prop)
    (hlt : ∀ l, f l < 2 ^ (if wide then 64 else 32)) (hP : ∀ l, l < 32 → s.run.em.getLsbD l = true → P l (f l)) :
    let t := s.lanesDone i (moveTy wide) d {} (fun l => (f l, false)) cyc
    s.vecStep t wide {} d P ∧ s.raises t satFlag False := by
  cases wide
  · exact s.lanesDone_whole i .b32 d {} f cyc P hlt hP
  · exact s.lanesDone_whole i .s64 d {} f cyc P hlt hP

theorem Group.srcLane_lt (g : Group) (wide : Bool) (a : RegNo) (j : Nat) : g.srcLane wide a j < 2 ^ (if wide then 64 else 32) := by
  cases wide
  · exact (lane (g.reg a.toNat) j).isLt
  · exact (g.lane64 a.toNat j).isLt

theorem Group.oN_moveTy (g : Group) (wide : Bool) (o : Opnd) (l : Nat) :
    g.oN (moveTy wide) o l = if wide then (g.op64 o l).toNat else (g.op32 o l).toNat := by cases wide <;> rfl

/-- The lane that SHFL names, as a number (R117). -/
def Group.shflIndex (g : Group) (mode : ShflMode) (b : Opnd) (l : Nat) : Int :=
  match mode with
  | .idx => ((g.op32 b l).toNat : Int)
  | .xor => ((l ^^^ (g.op32 b l).toNat : Nat) : Int)
  | .up => (l : Int) - (g.op32 b l).toNat
  | .dn => (l : Int) + (g.op32 b l).toNat

/-- Lane `j` of A, or where there is none the fill, or the lane of the index modulo 32 (R117). -/
def Group.laneOrFill (g : Group) (wide : Bool) (a : RegNo) (fill : Option Opnd) (l : Nat) (j : Int) : Nat :=
  if 0 ≤ j ∧ j ≤ 31 then g.srcLane wide a j.toNat
  else match fill with
    | some c => g.oN (moveTy wide) c l
    | none => g.srcLane wide a (j % 32).toNat

theorem Group.laneOrFill_lt (g : Group) (wide : Bool) (a : RegNo) (fill : Option Opnd) (l : Nat) (j : Int) :
    g.laneOrFill wide a fill l j < 2 ^ (if wide then 64 else 32) := by
  unfold Group.laneOrFill
  by_cases hj : 0 ≤ j ∧ j ≤ 31
  · rw [if_pos hj]
    exact g.srcLane_lt ..
  · rw [if_neg hj]
    cases fill with
    | none => exact g.srcLane_lt ..
    | some c =>
      cases wide
      · exact g.oN_lt .b32 c l
      · exact g.oN_lt .s64 c l

theorem Group.laneOrFill_outside (g : Group) (wide : Bool) (a : RegNo) (fill : Option Opnd) (l : Nat) {j : Int}
    (hj : ¬ (0 ≤ j ∧ j ≤ 31)) : match fill with
      | none => g.laneOrFill wide a fill l j = g.srcLane wide a (j % 32).toNat
      | some c => g.laneOrFill wide a fill l j = if wide then (g.op64 c l).toNat else (g.op32 c l).toNat := by
  cases fill with
  | none => exact if_neg hj
  | some c => exact (if_neg hj).trans (g.oN_moveTy wide c l)

theorem execShfl_eq (wide : Bool) (mode : ShflMode) (d a : RegNo) (b : Opnd) (fill : Option Opnd) (nr : Bool) (s : State) :
    exec (.shfl wide mode d a b fill nr) s = s.checked (.shfl wide mode d a b fill nr) fun s =>
      s.lanesDone (.shfl wide mode d a b fill nr) (moveTy wide) d {}
        (fun l => (s.run.laneOrFill wide a fill l (s.run.shflIndex mode b l), false)) s.run.cyc := by
  rw [exec, execShfl]
  rfl

/-- The head of the active lanes is the first that is active. -/
theorem activeLanes_head {em : Lane} {l : Nat} (hl : l < 32) (h : em.getLsbD l = true) :
    em.getLsbD ((activeLanes em).headD 0) = true ∧ ∀ j, j < (activeLanes em).headD 0 → em.getLsbD j = false := by
  have hfind : (activeLanes em).head? = (List.range 32).find? fun t => em.getLsbD t := List.head?_filter ..
  rw [List.headD_eq_head?_getD, hfind]
  cases hf : (List.range 32).find? fun t => em.getLsbD t with
  | none => exact absurd h (by simpa using List.find?_eq_none.mp hf l (List.mem_range.mpr hl))
  | some f =>
    obtain ⟨hbit, -, hbelow⟩ := List.find?_range_eq_some.mp hf
    exact ⟨hbit, fun j hj => by simpa using hbelow j hj⟩

/-! ## Elements of a register cut into pieces (R118, R121) -/

/-- A piece of a register's bits. -/
theorem piece_eq {n : Nat} (x : BitVec n) (w i : Nat) : x.toNat / 2 ^ (w * i) % 2 ^ w = (x.extractLsb' (w * i) w).toNat := by
  rw [BitVec.extractLsb'_toNat, Nat.shiftRight_eq_div_pow]

theorem Group.slideEl_lt (g : Group) {wide : Bool} {gran : Gran} (hw : wide = true → gran = .w) (a : RegNo) (i : Nat) :
    g.slideEl wide (granW wide gran) a i < 2 ^ granW wide gran := by
  cases wide with
  | false => exact Nat.mod_lt _ (Nat.two_pow_pos _)
  | true =>
    rw [hw rfl]
    exact (g.lane64 a.toNat i).isLt

theorem Group.slideNext_lt (g : Group) {wide : Bool} {gran : Gran} (hw : wide = true → gran = .w) (b : Opnd) (i : Nat) :
    g.slideNext wide (granW wide gran) b i < 2 ^ granW wide gran := by
  cases b with
  | v r => exact g.slideEl_lt hw r i
  | s p => exact Nat.mod_lt _ (Nat.two_pow_pos _)

/-- The elements of a register or pair, as pieces of its bits. -/
theorem Group.slideEl_eq (g : Group) (wide : Bool) (w : Nat) (a : RegNo) : g.slideEl wide w a = fun i =>
    if wide then (g.lane64 a.toNat i).toNat else ((g.reg a.toNat).extractLsb' (w * i) w).toNat := by
  funext i
  rw [Group.slideEl, piece_eq]

theorem Group.slideNext_eq (g : Group) (wide : Bool) (w : Nat) (b : Opnd) : g.slideNext wide w b = fun i => match b with
    | .v r => if wide then (g.lane64 r.toNat i).toNat else ((g.reg r.toNat).extractLsb' (w * i) w).toNat
    | .s p => (g.pos p).toNat % 2 ^ w := by
  funext i
  cases b with
  | v r => exact congrFun (g.slideEl_eq wide w r) i
  | s p => rfl

/-- Element `i` of `n` elements of A that slide up or down by `k`, with those of a neighbour behind them (R118). -/
def slid (up : Bool) (n k : Nat) (ofA ofB : Nat → Nat) (i : Nat) : Nat :=
  if up then (if k ≤ i then ofA (i - k) else ofB (n + i - k)) else (if i + k < n then ofA (i + k) else ofB (i + k - n))

theorem slid_lt {ofA ofB : Nat → Nat} {b : Nat} (up : Bool) (n k i : Nat) (hA : ∀ i, ofA i < b) (hB : ∀ i, ofB i < b) :
    slid up n k ofA ofB i < b := by
  unfold slid
  split_ifs
  · exact hA _
  · exact hB _
  · exact hA _
  · exact hB _

/-- The pieces of one lane fill it. -/
theorem granW_mul {wide : Bool} {gran : Gran} (hw : wide = true → gran = .w) :
    granW wide gran * (if wide then 1 else 32 / granW wide gran) = if wide then 64 else 32 := by
  cases wide with
  | false => cases gran <;> rfl
  | true => rw [hw rfl]; rfl

/-- A lane of pieces is its elements, with no flag. -/
theorem mapEls_noFlag (w : Nat) (f : Nat → Nat) (n : Nat) :
    mapEls w (fun e => (f e, false)) n = ((mapEls w (fun e => (f e, false)) n).1, false) := by
  refine Prod.ext rfl (Bool.eq_false_iff.mpr fun h => ?_)
  obtain ⟨_, _, he⟩ := (mapEls_flag ..).mp h
  exact Bool.noConfusion he

/-- An instruction that gives every active lane `n` pieces of `w` bits, and raises no flag. -/
theorem State.lanesDone_pieces (s : State) (i : Instr) (wide : Bool) (d : RegNo) {w n : Nat} (f : Nat → Nat → Nat) (cyc : Nat)
    (P : Nat → Nat → Prop) (hw : w * n = if wide then 64 else 32) (hlt : ∀ l e, f l e < 2 ^ w)
    (hP : ∀ l x, (∀ e, e < n → x / 2 ^ (w * e) % 2 ^ w = f l e) → P l x) :
    let t := s.lanesDone i (moveTy wide) d {} (fun l => mapEls w (fun e => (f l e, false)) n) cyc
    s.vecStep t wide {} d P ∧ s.raises t satFlag False := by
  rw [funext fun l => mapEls_noFlag w (f l) n]
  refine s.lanesDone_moved i wide d _ cyc P (fun l => ?_) fun l _ _ => hP l _ fun e he => mapEls_el w _ n e he fun e _ => hlt l e
  rw [← hw]
  exact mapEls_lt w _ n fun e _ => hlt l e

theorem Group.permByte_lt (g : Group) (a b : RegNo) (i : Nat) : g.permByte a b i < 2 ^ 8 := by
  unfold Group.permByte
  split_ifs <;> exact Nat.mod_lt _ (by decide)

/-! ## The instructions -/

section
variable {s : State} {wide up nr : Bool} {d a c : RegNo} {b : Opnd}

theorem shfl_runs {mode : ShflMode} {fill : Option Opnd} : Ready s (.shfl wide mode d a b fill nr) →
    Runs (.shfl wide mode d a b fill nr) s fun t =>
      let j := s.run.shflIndex mode b
      s.vecStep t wide {} d (fun l x =>
        (0 ≤ j l ∧ j l ≤ 31 → x = s.run.srcLane wide a (j l).toNat) ∧
        (¬ (0 ≤ j l ∧ j l ≤ 31) → match fill with
          | none => x = s.run.srcLane wide a (j l % 32).toNat
          | some c => x = if wide then (s.run.op64 c l).toNat else (s.run.op32 c l).toNat)) ∧ s.raises t satFlag False := by
  intro h
  refine runs_checked (execShfl_eq ..) h ?_
  exact s.lanesDone_moved _ wide d _ s.run.cyc _ (fun l => s.run.laneOrFill_lt ..)
    fun l _ _ => ⟨fun hin => if_pos hin, s.run.laneOrFill_outside wide a fill l⟩

theorem bcst_runs {sel : BcstSel} : Ready s (.bcst wide d a sel nr) → Runs (.bcst wide d a sel nr) s fun t =>
    s.vecStep t wide {} d (fun _ x => match sel with
      | .lane k => x = s.run.srcLane wide a k.toNat
      | .sca p => x = s.run.srcLane wide a ((s.run.pos p).toNat % 32)
      | .first => ∃ f, s.run.em.getLsbD f = true ∧ (∀ j, j < f → s.run.em.getLsbD j = false) ∧ x = s.run.srcLane wide a f) ∧
    s.raises t satFlag False := by
  intro h
  refine runs_checked (by rw [exec, execBcst]) h ?_
  refine s.lanesDone_moved _ wide d _ s.run.cyc _ (fun _ => s.run.srcLane_lt ..) fun l hl he => ?_
  cases sel with
  | lane k => rfl
  | sca p => rfl
  | first =>
    obtain ⟨hfirst, hbelow⟩ := activeLanes_head hl he
    exact ⟨_, hfirst, hbelow, rfl⟩

theorem slide_runs {g : Gran} {k : BitVec 5} (h : Ready s (.slide wide up g d a b k nr)) : Runs (.slide wide up g d a b k nr) s fun t =>
    let w := granW wide g
    let n := if wide then 32 else 1024 / w
    let per := if wide then 1 else 32 / w
    s.vecStep t wide {} d (fun l x => ∀ e, e < per →
      x / 2 ^ (w * e) % 2 ^ w = slid up n k.toNat (s.run.slideEl wide w a) (s.run.slideNext wide w b) (per * l + e)) ∧
    s.raises t satFlag False := by
  have hw : wide = true → g = .w := by
    have hwf := h.1
    simp only [Instr.wf, Bool.or_eq_true, Bool.not_eq_true', Bool.and_eq_true, beq_iff_eq] at hwf
    rintro rfl
    rcases hwf with hwf | ⟨⟨⟨hg, -⟩, -⟩, -⟩
    · exact Bool.noConfusion hwf
    · exact hg
  refine runs_checked (by rw [exec, execSlide]) h ?_
  exact s.lanesDone_pieces _ wide d (fun l e => slid up _ k.toNat _ _ (_ * l + e)) s.run.cyc _ (granW_mul hw)
    (fun l e => slid_lt up _ _ _ (s.run.slideEl_lt hw a) (s.run.slideNext_lt hw b)) fun l x hx => hx

theorem perm_lanes_runs {zero : Bool} {b : RegNo} (h : Ready s (.perm false zero d a b c nr)) : Runs (.perm false zero d a b c nr) s fun t =>
    s.vecStep t false {} d (fun l x =>
      let j := (lane (s.run.reg c.toNat) l).toNat
      (64 ≤ j → zero = true → x = 0) ∧
      ((j < 64 ∨ zero = false) → x = if j % 64 < 32 then (lane (s.run.reg a.toNat) (j % 64)).toNat
        else (lane (s.run.reg b.toNat) (j % 64 - 32)).toNat)) ∧ s.raises t satFlag False := by
  refine runs_checked (by rw [exec, execPerm]) h ?_
  refine s.lanesDone_moved _ false d _ s.run.cyc _ (fun l => ?_) fun l _ _ => ⟨fun hfar hz => if_pos ⟨hfar, hz⟩, fun hin => if_neg ?_⟩
  · show _ < 2 ^ 32
    split_ifs
    · decide
    · exact (lane (s.run.reg a.toNat) _).isLt
    · exact (lane (s.run.reg b.toNat) _).isLt
  · rintro ⟨hfar, hz⟩
    rcases hin with hin | hin
    · omega
    · simp [hz] at hin

theorem perm_bytes_runs {b : RegNo} (h : Ready s (.perm true false d a b c nr)) : Runs (.perm true false d a b c nr) s fun t =>
    s.vecStep t false {} d (fun l x => ∀ e, e < 4 →
      let j := ((lane (s.run.reg c.toNat) l).extractLsb' (8 * e) 8).toNat
      x / 2 ^ (8 * e) % 256 = if j < 128 then ((s.run.reg a.toNat).extractLsb' (8 * j) 8).toNat
        else ((s.run.reg b.toNat).extractLsb' (8 * (j - 128)) 8).toNat) ∧ s.raises t satFlag False := by
  refine runs_checked (by rw [exec, execPerm]) h ?_
  refine s.lanesDone_pieces _ false d _ s.run.cyc _ rfl (fun l e => s.run.permByte_lt ..) fun l x hx e he => ?_
  dsimp only
  rw [← piece_eq, ← piece_eq, ← piece_eq]
  exact hx e he

end

end Sys2Proof.Machine

namespace Sys2Proof.Claims

open Sys2Proof.Machine

/-- Settles O8: each instruction gives every active lane a lane that its operand names (`State.lanesDone_moved`), or the pieces that slide or come
from a table (`piece_eq`, `mapEls_el`). -/
theorem lanesMoveAndPermute : Obligations.LanesMoveAndPermute := by
  unfold Obligations.LanesMoveAndPermute
  refine ⟨fun s wide nr mode d a b fill sel => ⟨shfl_runs, bcst_runs⟩, fun s wide up nr g d a b k h => ?_,
    fun s zero nr d a b c => ⟨perm_lanes_runs, perm_bytes_runs⟩⟩
  have hslide := slide_runs h
  simp only [Group.slideEl_eq, Group.slideNext_eq] at hslide
  exact hslide

end Sys2Proof.Claims
end

section
/-! SUPPORT and CERTIFICATES. Operations on one element: counts, bits and bytes in reverse, and narrowing with rounding (R114, R115). -/

namespace Sys2Proof.Machine

open Sys2Proof.Claims

/-! ## Counts (R114) -/

theorem ofNat_bit {w i : Nat} (x : Nat) (h : i < w) : (BitVec.ofNat w x).getLsbD i = x.testBit i := by
  rw [BitVec.getLsbD_ofNat, decide_eq_true h, Bool.true_and]

theorem countOnes_le (x n : Nat) : countOnes x n ≤ n := by
  induction n with
  | zero => exact Nat.le_refl 0
  | succ n ih =>
    unfold countOnes
    split_ifs <;> omega

theorem leadZeros_le (x n : Nat) : leadZeros x n ≤ n := by
  induction n with
  | zero => exact Nat.le_refl 0
  | succ n ih =>
    unfold leadZeros
    split_ifs <;> omega

theorem trailZeros_le (x i n : Nat) : trailZeros x i n ≤ n := by
  induction n generalizing i with
  | zero => exact Nat.le_refl 0
  | succ n ih =>
    have := ih (i + 1)
    unfold trailZeros
    split_ifs <;> omega

theorem countOnes_eq_filter (x n : Nat) : countOnes x n = ((List.range n).filter fun i => x.testBit i).length := by
  induction n with
  | zero => rfl
  | succ n ih =>
    rw [countOnes, ih, List.range_succ, List.filter_append, List.length_append]
    cases h : x.testBit n <;> simp [h]

/-- A search over `n + 1` numbers looks at 0, and then at the successors of `n` numbers. -/
theorem find_range_succ (p : Nat → Bool) (n : Nat) : ((List.range (n + 1)).find? p).getD (n + 1) =
    if p 0 then 0 else 1 + ((List.range n).find? fun i => p (i + 1)).getD n := by
  rw [List.range_succ_eq_map, List.find?_cons, List.find?_map]
  cases p 0 with
  | true => rfl
  | false =>
    show (Option.map Nat.succ ((List.range n).find? fun i => p (i + 1))).getD (n + 1) = _
    cases (List.range n).find? fun i => p (i + 1) with
    | none => exact Nat.add_comm n 1
    | some i => exact Nat.add_comm i 1

theorem leadZeros_eq_find (x n : Nat) : leadZeros x n = ((List.range n).find? fun i => x.testBit (n - 1 - i)).getD n := by
  induction n with
  | zero => rfl
  | succ n ih =>
    have hshift (i : Nat) : n + 1 - 1 - (i + 1) = n - 1 - i := by omega
    rw [find_range_succ, leadZeros, ih]
    simp only [hshift]
    rfl

theorem trailZeros_eq_find (x i n : Nat) : trailZeros x i n = ((List.range n).find? fun j => x.testBit (i + j)).getD n := by
  induction n generalizing i with
  | zero => rfl
  | succ n ih =>
    have hshift (j : Nat) : i + 1 + j = i + (j + 1) := by omega
    rw [find_range_succ, trailZeros, ih]
    simp only [hshift]
    rfl

theorem countOnes_eq (w x : Nat) : countOnes x w = ones (BitVec.ofNat w x) := by
  rw [countOnes_eq_filter, ones]
  exact congrArg List.length (List.filter_congr fun i hi => (ofNat_bit x (List.mem_range.mp hi)).symm)

theorem leadZeros_eq (w x : Nat) : leadZeros x w = zerosAbove (BitVec.ofNat w x) := by
  rw [leadZeros_eq_find, zerosAbove, List.find?_congr fun i hi => ?_]
  have hi := List.mem_range.mp hi
  rw [ofNat_bit x (by omega)]

theorem trailZeros_eq (w x : Nat) : trailZeros x 0 w = zerosBelow (BitVec.ofNat w x) := by
  rw [trailZeros_eq_find, zerosBelow, List.find?_congr fun i hi => ?_]
  rw [Nat.zero_add, ofNat_bit x (List.mem_range.mp hi)]

/-! ## Bits and bytes in reverse order (R114) -/

theorem revBits_lt (x n : Nat) : revBits x n < 2 ^ n := by
  induction n generalizing x with
  | zero => exact Nat.one_pos
  | succ n ih =>
    have := ih (x / 2)
    have hp : 2 ^ (n + 1) = 2 ^ n + 2 ^ n := by rw [Nat.pow_succ]; omega
    unfold revBits
    split_ifs <;> omega

theorem revBits_testBit (x : Nat) {n i : Nat} (hi : i < n) : (revBits x n).testBit i = x.testBit (n - 1 - i) := by
  induction n generalizing x with
  | zero => exact absurd hi (Nat.not_lt_zero i)
  | succ n ih =>
    have hsum : revBits x (n + 1) = 2 ^ n * (x.testBit 0).toNat + revBits (x / 2) n := by
      rw [revBits]
      cases x.testBit 0 <;> simp
    rw [hsum, Nat.testBit_two_pow_mul_add _ (revBits_lt ..)]
    split_ifs with h
    · rw [ih _ h, Nat.testBit_div_two]
      congr 1
      omega
    · obtain rfl : i = n := by omega
      rw [Nat.sub_self, Nat.add_sub_cancel, Nat.sub_self]
      cases x.testBit 0 <;> rfl

theorem revBits_eq (w x : Nat) : revBits x w = (BitVec.ofNat w x).reverse.toNat := by
  apply Nat.eq_of_testBit_eq
  intro i
  rw [BitVec.testBit_toNat, BitVec.getLsbD_reverse, BitVec.getMsbD]
  by_cases hi : i < w
  · rw [revBits_testBit x hi, ofNat_bit x (by omega), decide_eq_true hi, Bool.true_and]
  · rw [decide_eq_false hi, Bool.false_and]
    exact Nat.testBit_eq_false_of_lt ((revBits_lt x w).trans_le (Nat.pow_le_pow_right (by decide) (Nat.le_of_not_lt hi)))

theorem mapEls_congr {w n : Nat} {f g : Nat → Nat × Bool} (h : ∀ e, e < n → f e = g e) : mapEls w f n = mapEls w g n := by
  induction n with
  | zero => rfl
  | succ n ih => rw [mapEls, mapEls, ih fun e he => h e (by omega), h n (by omega)]

/-- The bytes in reverse order, as pieces of 8 bits. -/
theorem swapBytes_eq (x n : Nat) : swapBytes x n = (mapEls 8 (fun j => (x / 2 ^ (8 * (n - 1 - j)) % 256, false)) n).1 := by
  induction n generalizing x with
  | zero => rfl
  | succ n ih =>
    have hbyte (j : Nat) (hj : j < n) : x / 256 / 2 ^ (8 * (n - 1 - j)) % 256 = x / 2 ^ (8 * (n + 1 - 1 - j)) % 256 := by
      rw [Nat.div_div_eq_div_mul, show 256 = 2 ^ 8 from rfl, ← Nat.pow_add]
      congr 3
      omega
    rw [swapBytes, ih, mapEls_congr fun j hj => by rw [hbyte j hj], mapEls]
    simp [Nat.add_comm]

theorem swapBytes_lt (x n : Nat) : swapBytes x n < 2 ^ (8 * n) := by
  rw [swapBytes_eq]
  exact mapEls_lt 8 _ n fun _ _ => Nat.mod_lt _ (by decide)

theorem swapBytes_byte (x : Nat) {n j : Nat} (hj : j < n) : swapBytes x n / 2 ^ (8 * j) % 256 = x / 2 ^ (8 * (n - 1 - j)) % 256 := by
  rw [swapBytes_eq]
  exact mapEls_el 8 _ n j hj fun _ _ => Nat.mod_lt _ (by decide)

/-! ## Narrowing (R115) -/

/-- `y` is the quotient of `x` and 2^n, rounded as a mode says (R115). -/
def roundsTo (rm : Rm) (n : Nat) (x y : Int) : Prop :=
  let q := 2 ^ n * y - x
  match rm with
  | .rtz => (0 ≤ x → -(2 ^ n) < q ∧ q ≤ 0) ∧ (x < 0 → 0 ≤ q ∧ q < 2 ^ n)
  | .rup => 0 ≤ q ∧ q < 2 ^ n
  | .rdn => -(2 ^ n) < q ∧ q ≤ 0
  | .rna => 2 * q.natAbs ≤ 2 ^ n ∧ (2 * q.natAbs = 2 ^ n → (0 ≤ x → 0 < q) ∧ (x < 0 → q < 0))
  | _ => 2 * q.natAbs ≤ 2 ^ n ∧ (2 * q.natAbs = 2 ^ n → y % 2 = 0)

/-- The floor of the quotient falls short by the remainder, and the next number passes by what the remainder leaves: each mode takes the one
that it names. -/
theorem roundShift_roundsTo {rm : Rm} (hrm : rm = .rne ∨ rm = .rtz ∨ rm = .rup ∨ rm = .rdn ∨ rm = .rna) (x : Int) (n : Nat) :
    roundsTo rm n x (roundShift rm x n) := by
  have hp : ((2 ^ n : Nat) : Int) = 2 ^ n := by push_cast; rfl
  have hr0 := Int.emod_nonneg x (show (2 : Int) ^ n ≠ 0 by positivity)
  have hr1 := Int.emod_lt_of_pos x (show (0 : Int) < 2 ^ n by positivity)
  have hdown : 2 ^ n * (x / 2 ^ n) - x = -(x % 2 ^ n) := by rw [Int.emod_def]; omega
  have hup : 2 ^ n * (x / 2 ^ n + 1) - x = 2 ^ n - x % 2 ^ n := by rw [Int.emod_def, Int.mul_add, Int.mul_one]; omega
  have hrest : x - x / 2 ^ n * 2 ^ n = x % 2 ^ n := by rw [Int.emod_def, Int.mul_comm]
  unfold roundShift roundsTo
  simp only [hrest, Bool.and_eq_true, decide_eq_true_eq, bne_iff_ne]
  generalize x % 2 ^ n = r at *
  rcases hrm with rfl | rfl | rfl | rfl | rfl <;> dsimp only
  case inr.inr.inr.inl =>
    rw [hdown]
    omega
  all_goals
    split_ifs <;> simp only [hdown, hup] <;> omega

/-- What VNRW narrows: the lane of A, or the pair for TY 1 and 2 (R115). -/
def narrowSrc (s : State) (ty : Ty) (a : RegNo) (m : VMode) (l : Nat) : Int :=
  let r := s.run.opReg m.ixn m.ia a l
  if ty = .s32 ∨ ty = .n32 then readInt (elSigned ty) 64 (s.run.lane64 r l).toNat
  else readInt (elSigned ty) 32 (lane (s.run.reg r) l).toNat

/-- It, divided and rounded. -/
def narrowed (s : State) (ty : Ty) (rm : Rm) (a : RegNo) (b : Opnd) (m : VMode) (l : Nat) : Int :=
  roundShift rm (narrowSrc s ty a m l) ((s.run.op32 b l).toNat % 64)

theorem execVnrw_eq (ty : Ty) (rm : Rm) (sat : Bool) (d a : RegNo) (b : Opnd) (e : BitVec 3) (m : VMode) (s : State) :
    exec (.vnrw ty rm sat d a b e m) s = s.checked (.vnrw ty rm sat d a b e m) fun s =>
      s.lanesDone (.vnrw ty rm sat d a b e m) ty d m (fun l =>
        (putEl ty (lane (s.run.reg (s.run.opReg m.ixn m.id d l)) l).toNat e.toNat (fit ty sat (narrowed s ty rm a b m l)).1,
          (fit ty sat (narrowed s ty rm a b m l)).2)) s.run.cyc := by
  rw [exec, execVnrw]
  rfl

theorem putEl_el (ty : Ty) (old new : Nat) {e k : Nat} (hk : k < ty.elems) :
    elBits ty (putEl ty old e new) k = if k = e then new % 2 ^ elW ty else elBits ty old k := by
  refine elBits_mapLane ty _ k hk fun j _ => ?_
  dsimp only
  split_ifs
  · exact Nat.mod_lt _ (Nat.two_pow_pos _)
  · exact elBits_lt ..

theorem putEl_lt (ty : Ty) (old e new : Nat) : putEl ty old e new < 2 ^ (if ty.isPair then 64 else 32) := by
  refine mapLane_lt ty _ fun j _ => ?_
  dsimp only
  split_ifs
  · exact Nat.mod_lt _ (Nat.two_pow_pos _)
  · exact elBits_lt ..

/-! ## The instructions -/

section
variable {s : State} {ty : Ty} {sat : Bool} {d a : RegNo} {b : Opnd} {m : VMode}

theorem vuni_abs_runs (h : Ready s (.vuni ty .abs sat d a m)) : Runs (.vuni ty .abs sat d a m) s fun t =>
    s.vecStep t ty.isPair m d (fun l x => fits ty sat (fun e => ((elA s ty a m l e).natAbs : Int)) x) ∧
    s.raises t satFlag (saturates s ty sat fun l e => ((elA s ty a m l e).natAbs : Int)) := by
  refine runs_checked (by rw [exec, execVuni]) h ?_
  have habs (x : Int) : (if x < 0 then -x else x) = (x.natAbs : Int) := by split_ifs <;> omega
  simp only [habs]
  exact s.lanesDone_fits _ ty sat d m _ s.run.cyc

theorem vuni_neg_runs (h : Ready s (.vuni ty .neg sat d a m)) : Runs (.vuni ty .neg sat d a m) s fun t =>
    s.vecStep t ty.isPair m d (fun l x => fits ty sat (fun e => - elA s ty a m l e) x) ∧
    s.raises t satFlag (saturates s ty sat fun l e => - elA s ty a m l e) := by
  refine runs_checked (by rw [exec, execVuni]) h ?_
  exact s.lanesDone_fits _ ty sat d m _ s.run.cyc

/-- A count of at most `w` fits an element of `w` bits. -/
theorem lt_two_pow_of_le {n w : Nat} (h : n ≤ w) : n < 2 ^ w := h.trans_lt Nat.lt_two_pow_self

theorem bitsA_toNat (s : State) (ty : Ty) (a : RegNo) (m : VMode) (l e : Nat) : (bitsA s ty a m l e).toNat = elBits ty (s.run.aN ty a m l) e := by
  rw [bitsA, BitVec.toNat_ofNat, Nat.mod_eq_of_lt (elBits_lt ..)]

theorem vuni_bits_runs (op : UniOp) : op ≠ .abs → op ≠ .neg → Ready s (.vuni ty op sat d a m) → Runs (.vuni ty op sat d a m) s fun t =>
    s.vecStep t ty.isPair m d (fun l x => match op with
      | .not => isBits ty (fun e => ~~~ bitsA s ty a m l e) x
      | .pop => ∀ e, e < ty.elems → elBits ty x e = ones (bitsA s ty a m l e)
      | .clz => ∀ e, e < ty.elems → elBits ty x e = zerosAbove (bitsA s ty a m l e)
      | .ctz => ∀ e, e < ty.elems → elBits ty x e = zerosBelow (bitsA s ty a m l e)
      | .brev => isBits ty (fun e => (bitsA s ty a m l e).reverse) x
      | .bswp => ∀ e j, e < ty.elems → j < elW ty / 8 →
          elBits ty x e / 2 ^ (8 * j) % 256 = elBits ty (s.run.aN ty a m l) e / 2 ^ (8 * (elW ty / 8 - 1 - j)) % 256
      | _ => False) ∧ s.raises t satFlag False := by
  intro habs hneg h
  refine runs_checked (by rw [exec, execVuni]) h ?_
  cases op with
  | abs => exact absurd rfl habs
  | neg => exact absurd rfl hneg
  | not =>
    refine s.lanesDone_bits _ ty d m _ s.run.cyc _ (fun l e _ => ?_) fun l x _ _ hx e he => ?_
    · have := Nat.two_pow_pos (elW ty)
      omega
    · rw [hx e he, BitVec.toNat_not, bitsA_toNat]
  | pop =>
    exact s.lanesDone_bits _ ty d m _ s.run.cyc _ (fun l e _ => lt_two_pow_of_le (countOnes_le ..))
      fun l x _ _ hx e he => (hx e he).trans (countOnes_eq ..)
  | clz =>
    exact s.lanesDone_bits _ ty d m _ s.run.cyc _ (fun l e _ => lt_two_pow_of_le (leadZeros_le ..))
      fun l x _ _ hx e he => (hx e he).trans (leadZeros_eq ..)
  | ctz =>
    exact s.lanesDone_bits _ ty d m _ s.run.cyc _ (fun l e _ => lt_two_pow_of_le (trailZeros_le ..))
      fun l x _ _ hx e he => (hx e he).trans (trailZeros_eq ..)
  | brev =>
    exact s.lanesDone_bits _ ty d m _ s.run.cyc _ (fun l e _ => revBits_lt ..) fun l x _ _ hx e he => (hx e he).trans (revBits_eq ..)
  | bswp =>
    refine s.lanesDone_bits _ ty d m _ s.run.cyc _ (fun l e _ => ?_) fun l x _ _ hx e j he hj => ?_
    · exact (swapBytes_lt ..).trans_le (Nat.pow_le_pow_right (by decide) (Nat.mul_div_le ..))
    · rw [hx e he, swapBytes_byte _ hj]

theorem vnrw_runs {rm : Rm} {el : BitVec 3} (h : Ready s (.vnrw ty rm sat d a b el m)) : Runs (.vnrw ty rm sat d a b el m) s fun t =>
    ∃ y : Nat → Int,
      (∀ l, roundsTo rm ((s.run.op32 b l).toNat % 64) (narrowSrc s ty a m l) (y l)) ∧
      s.vecStep t false m d (fun l x => isFit ty sat (y l) (elBits ty x el.toNat) ∧
        ∀ e, e < ty.elems → e ≠ el.toNat →
          elBits ty x e = elBits ty (lane (s.run.reg (s.run.opReg m.ixn m.id d l)) l).toNat e) ∧
      s.raises t satFlag (∃ l, l < 32 ∧ s.run.em.getLsbD l = true ∧ sat = true ∧ outside ty (y l)) := by
  obtain ⟨hpair, hrm, hel⟩ : ty.isPair = false ∧ (rm = .rne ∨ rm = .rtz ∨ rm = .rup ∨ rm = .rdn ∨ rm = .rna) ∧ el.toNat < ty.elems := by
    have hwf := h.1
    simp only [Instr.wf, Bool.and_eq_true, Bool.or_eq_true, beq_iff_eq, decide_eq_true_eq, Bool.not_eq_true', or_assoc] at hwf
    obtain ⟨⟨⟨⟨⟨⟨-, hpair⟩, -⟩, hrm⟩, hel⟩, -⟩, -⟩ := hwf
    exact ⟨hpair, hrm, hel⟩
  refine runs_checked (execVnrw_eq ..) h ⟨narrowed s ty rm a b m, fun l => roundShift_roundsTo hrm _ _, ?_⟩
  simp only [← fit_flag]
  rw [← hpair]
  refine s.lanesDone_step _ ty d m _ s.run.cyc _ (fun l => putEl_lt ..) fun l _ _ => ⟨?_, fun e he hne => ?_⟩
  · rw [putEl_el ty _ _ hel, if_pos rfl, Nat.mod_eq_of_lt (fit_lt ..)]
    exact fit_isFit ..
  · rw [putEl_el ty _ _ he, if_neg hne]

end

end Sys2Proof.Machine

namespace Sys2Proof.Claims

open Sys2Proof.Machine

/-- Settles O7: the counts and the reverse orders of an element are those of its bit vector (`countOnes_eq`, `leadZeros_eq`, `trailZeros_eq`,
`revBits_eq`, `swapBytes_byte`), and VNRW puts Fit of the rounded quotient (`roundShift_roundsTo`) into one element (`putEl_el`). -/
theorem vectorUnaryAndNarrowing : Obligations.VectorUnaryAndNarrowing := by
  unfold Obligations.VectorUnaryAndNarrowing
  exact ⟨fun s ty sat d a m => ⟨vuni_abs_runs, vuni_neg_runs, vuni_bits_runs⟩, fun s ty rm sat d a b el m => vnrw_runs⟩

end Sys2Proof.Claims
end

section
/-! SUPPORT and CERTIFICATES. Scalar logic, shifts, bit fields, counts and moves (R109, R110, R178-R180). -/

namespace Sys2Proof.Machine

open Sys2Proof.Claims

/-! ## Operands of the type's width (R178) -/

theorem scaW_cases (ty : Ty) : Ty.scaW ty = 32 ∨ Ty.scaW ty = 64 := by cases ty <;> decide

/-- An operand's low bits, as its bit vector has them. -/
theorem ofNat_mod_scaW (ty : Ty) (x : Word) : BitVec.ofNat (Ty.scaW ty) (x.toNat % 2 ^ Ty.scaW ty) = x.setWidth (Ty.scaW ty) := by
  apply BitVec.eq_of_toNat_eq
  simp

/-- The two low bytes of an operand are those of the type's width. -/
theorem setWidth_scaW_bytes (ty : Ty) (y : Word) : (y.setWidth (Ty.scaW ty)).toNat % 256 = y.toNat % 256 ∧
    (y.setWidth (Ty.scaW ty)).toNat / 256 % 256 = y.toNat / 256 % 256 := by
  rw [BitVec.toNat_setWidth]
  rcases scaW_cases ty with h | h <;> rw [h] <;> omega

/-- A scalar instruction whose result is an operation by the type: all that it does (R178). -/
theorem State.scalar_byType {ty : Ty} (hty : ty.isScalar = true) (s : State) (d : SPos) (x y : Word) {r : Nat}
    (f : Bool → (w : Nat) → BitVec w → BitVec w → BitVec w)
    (hf : r = (f (Ty.scaSigned ty) (Ty.scaW ty) (x.setWidth _) (y.setWidth _)).toNat) :
    s.scalarStep (s.scalar d (scaResult ty r)) d (byType ty f x y) :=
  scaResult_byType hty x y r f hf ▸ s.scalar_step d _

/-- A count of at most `w`, as a bit vector of `w` bits. -/
theorem toNat_ofNat_count {n w : Nat} (h : n ≤ w) : (BitVec.ofNat w n).toNat = n := by
  rw [BitVec.toNat_ofNat, Nat.mod_eq_of_lt (lt_two_pow_of_le h)]

section
variable {s : State} {ty : Ty} {d a : SPos} {b : SOp} (hty : ty.isScalar = true)
include hty

theorem sshf_runs (op : ShiftOp) : Runs (.sshf ty op d a b) s fun t => s.scalarStep t d
    (byType ty (fun _ _ x y => shifted op x (y.toNat % 256)) (s.run.pos a) (s.run.sop ty b)) := by
  refine ⟨_, rfl, s.scalar_byType hty d _ _ _ ?_⟩
  rw [shiftBits_eq op (by cases ty <;> decide), BitVec.ofNat_toNat, (setWidth_scaW_bytes ty _).1]

theorem sbit_ext_runs : Runs (.sbit ty .ext d a b) s fun t => s.scalarStep t d
    (byType ty (fun _ _ x y => field (ty == .s32 || ty == .s64) x (y.toNat % 256) (y.toNat / 256 % 256)) (s.run.pos a) (s.run.sop ty b)) := by
  refine ⟨_, rfl, s.scalar_byType hty d _ _ _ ?_⟩
  obtain ⟨hpos, hlen⟩ := setWidth_scaW_bytes ty (s.run.sop ty b)
  rw [hpos, hlen, ← ofNat_mod_scaW]
  exact extField_eq ..

theorem sbit_pop_runs : Runs (.sbit ty .pop d a b) s fun t => s.scalarStep t d
    (byType ty (fun _ w x _ => BitVec.ofNat w (ones x)) (s.run.pos a) (s.run.sop ty b)) := by
  refine ⟨_, rfl, s.scalar_byType hty d _ _ _ ?_⟩
  rw [← ofNat_mod_scaW, ← countOnes_eq, toNat_ofNat_count (countOnes_le ..)]

theorem sbit_clz_runs : Runs (.sbit ty .clz d a b) s fun t => s.scalarStep t d
    (byType ty (fun _ w x _ => BitVec.ofNat w (zerosAbove x)) (s.run.pos a) (s.run.sop ty b)) := by
  refine ⟨_, rfl, s.scalar_byType hty d _ _ _ ?_⟩
  rw [← ofNat_mod_scaW, ← leadZeros_eq, toNat_ofNat_count (leadZeros_le ..)]

theorem sbit_ctz_runs : Runs (.sbit ty .ctz d a b) s fun t => s.scalarStep t d
    (byType ty (fun _ w x _ => BitVec.ofNat w (zerosBelow x)) (s.run.pos a) (s.run.sop ty b)) := by
  refine ⟨_, rfl, s.scalar_byType hty d _ _ _ ?_⟩
  rw [← ofNat_mod_scaW, ← trailZeros_eq, toNat_ofNat_count (trailZeros_le ..)]

end

/-- An immediate in the upper half keeps the lower one. -/
theorem smovi_hi_runs (s : State) (d : SPos) (imm : BitVec 32) :
    Runs (.smovi .hi false d imm) s fun t => s.scalarStep t d (imm ++ (s.run.pos d).extractLsb' 0 32) := by
  have hlow : (s.run.pos d).extractLsb' 0 32 = (s.run.pos d).setWidth 32 := BitVec.eq_of_toNat_eq (by simp)
  rw [hlow]
  exact ⟨_, rfl, s.scalar_step d _⟩

/-- A lane, or the lanes of a pair, go to a scalar register (R180). -/
theorem smovLane_runs {s : State} {wide : Bool} {r : SReg} {a : RegNo} {k : BitVec 5} {nr : Bool} (h : Ready s (.smovLane wide r a k nr)) :
    Runs (.smovLane wide r a k nr) s fun t => s.scalarStep t (.s r)
      (if wide then s.run.lane64 a.toNat k.toNat else (lane (s.run.reg a.toNat) k.toNat).setWidth 64) :=
  runs_checked (by rw [exec, execSmovLane]) h (s.scalar_step (.s r) _)

end Sys2Proof.Machine

namespace Sys2Proof.Claims

open Sys2Proof.Machine

/-- Settles O2: each instruction writes one position (`State.scalar_step`); shifts, fields and counts are those of bit vectors of the type's
width (`State.scalar_byType`). -/
theorem scalarLogicShiftsAndMoves : Obligations.ScalarLogicShiftsAndMoves := by
  unfold Obligations.ScalarLogicShiftsAndMoves
  refine ⟨fun s ty d a b hty => ⟨?_, ?_, ?_, ?_, sshf_runs hty, sbit_ext_runs hty, sbit_pop_runs hty, sbit_clz_runs hty, sbit_ctz_runs hty⟩,
    fun s d b nr imm => ⟨?_, ?_, ?_, smovi_hi_runs s d imm, ?_, fun r a k => smovLane_runs, fun r a k => smovLane_runs⟩⟩
  all_goals exact ⟨_, rfl, s.scalar_step d _⟩

end Sys2Proof.Claims
end

section
/-! SUPPORT and CERTIFICATES. RoundTo by the exact value: a value is rounded in one way however it is written, and on the grid of its spacing it
goes to the neighbour that the mode names (R128-R132). -/

namespace Sys2Proof.Machine

open Sys2Proof.Claims

/-! ## Powers of two and quotients -/

theorem pow2_eq_zpow (e : Int) : pow2 e = (2 : ℚ) ^ e := by
  unfold pow2
  split_ifs with h
  · obtain ⟨n, rfl⟩ := Int.eq_ofNat_of_zero_le h
    simp
  · obtain ⟨n, hn⟩ := Int.eq_ofNat_of_zero_le (show 0 ≤ -e by omega)
    obtain rfl : e = -n := by omega
    simp

theorem pow2_pos (e : Int) : 0 < pow2 e := by
  rw [pow2_eq_zpow]
  positivity

theorem pow2_add (a b : Int) : pow2 (a + b) = pow2 a * pow2 b := by
  simp only [pow2_eq_zpow]
  exact zpow_add₀ (by decide) a b

theorem pow2_sub (a b : Int) : pow2 (a - b) = pow2 a / pow2 b := by
  simp only [pow2_eq_zpow]
  exact zpow_sub₀ (by decide) a b

theorem pow2_natCast (n : Nat) : pow2 n = ((2 ^ n : Nat) : ℚ) := by simp [pow2_eq_zpow]

theorem pow2_le_pow2 {a b : Int} : pow2 a ≤ pow2 b ↔ a ≤ b := by
  simp only [pow2_eq_zpow]
  exact zpow_le_zpow_iff_right₀ (by decide)

theorem pow2_lt_pow2 {a b : Int} : pow2 a < pow2 b ↔ a < b := by
  simp only [pow2_eq_zpow]
  exact zpow_lt_zpow_iff_right₀ (by decide)

theorem scaleQ_pos (n e) {d : Nat} (hd : 0 < d) : 0 < (scaleQ n d e).2 := by
  unfold scaleQ
  split_ifs
  · exact hd
  · exact Nat.mul_pos hd (Nat.two_pow_pos _)

theorem scaleQ_value (n d : Nat) (e : Int) : ((scaleQ n d e).1 : ℚ) / (scaleQ n d e).2 = n / d * pow2 e := by
  unfold scaleQ pow2
  split_ifs
  · push_cast
    ring
  · push_cast
    rw [mul_one_div, div_div]

/-- The power of two at or below a positive value. -/
theorem log_eq_of_between {x : ℚ} {l : Int} (hlo : pow2 l ≤ x) (hhi : x < pow2 (l + 1)) : Int.log 2 x = l := by
  have hx : 0 < x := (pow2_pos l).trans_le hlo
  rw [pow2_eq_zpow] at hlo hhi
  have h1 := (Int.zpow_le_iff_le_log (b := 2) (by decide) hx).1 hlo
  have h2 := (Int.lt_zpow_iff_log_lt (b := 2) (by decide) hx).1 hhi
  omega

theorem pow2_log_le {x : ℚ} (hx : 0 < x) : pow2 (Int.log 2 x) ≤ x := by
  rw [pow2_eq_zpow]
  exact Int.zpow_log_le_self (b := 2) (by decide) hx

theorem lt_pow2_log (x : ℚ) : x < pow2 (Int.log 2 x + 1) := by
  rw [pow2_eq_zpow]
  exact Int.lt_zpow_succ_log_self (b := 2) (by decide) x

theorem log2Q_eq {n d : Nat} (hn : 0 < n) (hd : 0 < d) : log2Q n d = Int.log 2 ((n : ℚ) / d) := by
  have hlog {k : Nat} (hk : 0 < k) : pow2 (Nat.log2 k) ≤ k ∧ (k : ℚ) < pow2 (Nat.log2 k + 1) := by
    have hlo := Nat.log2_self_le (Nat.pos_iff_ne_zero.1 hk)
    have hhi := Nat.lt_log2_self (n := k)
    have hsucc : ((Nat.log2 k : Nat) : Int) + 1 = ((Nat.log2 k + 1 : Nat) : Int) := rfl
    rw [hsucc, pow2_natCast, pow2_natCast]
    exact ⟨by exact_mod_cast hlo, by exact_mod_cast hhi⟩
  obtain ⟨hn1, hn2⟩ := hlog hn
  obtain ⟨hd1, hd2⟩ := hlog hd
  have hd0 : (0 : ℚ) < d := by exact_mod_cast hd
  have hlow : pow2 ((Nat.log2 n : Int) - Nat.log2 d - 1) ≤ n / d := by
    rw [le_div_iff₀ hd0, sub_sub, pow2_sub, div_mul_eq_mul_div, div_le_iff₀ (pow2_pos _)]
    exact mul_le_mul hn1 hd2.le hd0.le (by positivity)
  have hhigh : (n : ℚ) / d < pow2 ((Nat.log2 n : Int) - Nat.log2 d + 1) := by
    rw [div_lt_iff₀ hd0, show (Nat.log2 n : Int) - Nat.log2 d + 1 = Nat.log2 n + 1 - Nat.log2 d by omega, pow2_sub, div_mul_eq_mul_div,
      lt_div_iff₀ (pow2_pos _)]
    exact mul_lt_mul hn2 hd1 (pow2_pos _) (pow2_pos _).le
  have htest : n * (scaleQ 1 1 ((Nat.log2 n : Int) - Nat.log2 d)).2 < d * (scaleQ 1 1 ((Nat.log2 n : Int) - Nat.log2 d)).1 ↔
      (n : ℚ) / d < pow2 ((Nat.log2 n : Int) - Nat.log2 d) := by
    have hp : (0 : ℚ) < (scaleQ 1 1 ((Nat.log2 n : Int) - Nat.log2 d)).2 := by exact_mod_cast scaleQ_pos _ _ Nat.one_pos
    have hv := scaleQ_value 1 1 ((Nat.log2 n : Int) - Nat.log2 d)
    rw [Nat.cast_one, div_one, one_mul] at hv
    rw [← hv, div_lt_div_iff₀ hd0 hp, mul_comm ((scaleQ 1 1 _).1 : ℚ)]
    exact_mod_cast Iff.rfl
  unfold log2Q
  simp only [htest]
  split_ifs with h
  · exact (log_eq_of_between hlow (by rwa [sub_add_cancel])).symm
  · exact (log_eq_of_between (not_lt.1 h) hhigh).symm

/-! ## One rounding of a magnitude -/

/-- The exponent of the spacing of a format's numbers about a magnitude (R128). -/
def Fmt.ulp (q : Fmt) (x : ℚ) : Int := max (Int.log 2 x - q.f) (1 - (q.bias : Int) - q.f)

/-- Whether the number above is taken, where the part `g` of a spacing lies beyond the number `k` below (R128, R132). -/
def takesUpper (rm : Rm) (s : Bool) (w k : Nat) (g : ℚ) : Bool :=
  match rm with
  | .rne => 1 / 2 < g || (g == 1 / 2 && k % 2 == 1)
  | .rtz => false
  | .rup => g != 0 && !s
  | .rdn => g != 0 && s
  | .rna => 1 / 2 ≤ g
  | .rsr => 2 ^ 16 ≤ ⌊g * 2 ^ 16⌋₊ + w
  | .dyn => false

/-- A magnitude in spacings, rounded to a number of them. -/
def roundNat (rm : Rm) (s : Bool) (w : Nat) (z : ℚ) : Nat := if takesUpper rm s w ⌊z⌋₊ (z - ⌊z⌋₊) then ⌊z⌋₊ + 1 else ⌊z⌋₊

/-- The encoding of `m` spacings, 2^`u` each, with the flags of a result that does not overflow (R128, R130). -/
def Fmt.pack (q : Fmt) (s : Bool) (m : Nat) (u : Int) (exact : Bool) : Nat × Nat :=
  if m < 2 ^ q.f then (q.signBit s + m, if exact then 0 else NX ||| UF)
  else
    let c := if m = 2 ^ (q.f + 1) then (2 ^ q.f, u + 1) else (m, u)
    (q.signBit s + (c.2 + q.f + q.bias).toNat * 2 ^ q.f + (c.1 - 2 ^ q.f), if exact then 0 else NX)

/-- RoundTo of a magnitude with a sign. -/
def Fmt.roundMag (q : Fmt) (rm : Rm) (sat : Bool) (w : Nat) (s : Bool) (x : ℚ) : Nat × Nat :=
  if x = 0 then (q.signBit s, 0)
  else
    let z := x / pow2 (q.ulp x)
    let m := roundNat rm s w z
    if q.maxM * pow2 q.maxE < m * pow2 (q.ulp x) then q.overflow rm sat s else q.pack s m (q.ulp x) (z == ⌊z⌋₊)

/-- The quotient and the remainder of a division are the floor and the rest of the exact quotient. -/
theorem div_floor_rest (n d : Nat) (hd : 0 < d) : ⌊(n : ℚ) / d⌋₊ = n / d ∧ (n : ℚ) / d - (n / d : Nat) = (n % d : Nat) / d := by
  have hd0 : (d : ℚ) ≠ 0 := by exact_mod_cast hd.ne'
  refine ⟨Nat.floor_div_eq_div n d, ?_⟩
  rw [eq_div_iff hd0, sub_mul, div_mul_cancel₀ _ hd0, sub_eq_iff_eq_add]
  exact_mod_cast (Nat.mod_add_div' n d).symm

theorem roundUp_eq (rm : Rm) (s : Bool) (w k r : Nat) {d : Nat} (hd : 0 < d) : roundUp rm s k r d w = takesUpper rm s w k (r / d) := by
  have hd0 : (0 : ℚ) < d := by exact_mod_cast hd
  have hhalf : (1 / 2 : ℚ) < r / d ↔ d < 2 * r := by
    rw [div_lt_div_iff₀ (by decide) hd0, one_mul, mul_comm]
    exact_mod_cast Iff.rfl
  have htie : (r : ℚ) / d = 1 / 2 ↔ 2 * r = d := by
    rw [div_eq_div_iff hd0.ne' (by decide), one_mul, mul_comm]
    exact_mod_cast Iff.rfl
  have hzero : (r : ℚ) / d = 0 ↔ r = 0 := by simp [hd0.ne']
  cases rm with
  | rne => simp only [roundUp, takesUpper, hhalf, htie, beq_eq_decide]
  | rtz => rfl
  | rup => simp only [roundUp, takesUpper, bne, hzero, beq_eq_decide]
  | rdn => simp only [roundUp, takesUpper, bne, hzero, beq_eq_decide]
  | rna =>
    have hle : (1 / 2 : ℚ) ≤ r / d ↔ d ≤ 2 * r := by
      rw [le_iff_lt_or_eq, hhalf, eq_comm, htie]
      omega
    simp only [roundUp, takesUpper, hle]
  | rsr =>
    have hfloor : ⌊(r : ℚ) / d * 2 ^ 16⌋₊ = r * 2 ^ 16 / d := by
      rw [div_mul_eq_mul_div, ← Nat.floor_div_eq_div (K := ℚ)]
      push_cast
      rfl
    simp only [roundUp, takesUpper, hfloor]
  | dyn => rfl

theorem log2Q_ulp (q : Fmt) {n d : Nat} (hn : 0 < n) (hd : 0 < d) (e : Int) :
    max (log2Q n d + e - q.f) (1 - (q.bias : Int) - q.f) = q.ulp (n / d * pow2 e) := by
  have hx : (0 : ℚ) < n / d := div_pos (by exact_mod_cast hn) (by exact_mod_cast hd)
  have hlog : log2Q n d + e = Int.log 2 ((n : ℚ) / d * pow2 e) := by
    rw [log2Q_eq hn hd]
    refine (log_eq_of_between ?_ ?_).symm
    · rw [pow2_add]
      exact mul_le_mul_of_nonneg_right (pow2_log_le hx) (pow2_pos e).le
    · rw [add_right_comm, pow2_add]
      exact mul_lt_mul_of_pos_right (lt_pow2_log _) (pow2_pos e)
  rw [hlog, Fmt.ulp]

/-- The test for an overflow compares with the largest finite value (R129). -/
theorem Fmt.overflows_iff (q : Fmt) (m : Nat) (u : Int) :
    q.maxM * (scaleQ m 1 (u - q.maxE)).2 < (scaleQ m 1 (u - q.maxE)).1 ↔ (q.maxM : ℚ) * pow2 q.maxE < m * pow2 u := by
  have hp : (0 : ℚ) < (scaleQ m 1 (u - q.maxE)).2 := by exact_mod_cast scaleQ_pos m (u - q.maxE) Nat.one_pos
  have hv := scaleQ_value m 1 (u - q.maxE)
  rw [Nat.cast_one, div_one, pow2_sub, mul_div_assoc', div_eq_div_iff hp.ne' (pow2_pos _).ne'] at hv
  have hcast : q.maxM * (scaleQ m 1 (u - q.maxE)).2 < (scaleQ m 1 (u - q.maxE)).1 ↔
      (q.maxM : ℚ) * (scaleQ m 1 (u - q.maxE)).2 < (scaleQ m 1 (u - q.maxE)).1 := by exact_mod_cast Iff.rfl
  rw [hcast, ← mul_lt_mul_iff_of_pos_right (pow2_pos q.maxE), hv, mul_right_comm, mul_lt_mul_iff_of_pos_right hp]

/-- RoundTo of a quotient of naturals and a power of two depends on the value alone. -/
theorem Fmt.round_eq (q : Fmt) (rm : Rm) (sat : Bool) (w : Nat) (s : Bool) (n : Nat) {d : Nat} (hd : 0 < d) (e : Int) :
    q.round rm sat w s n d e = q.roundMag rm sat w s (n / d * pow2 e) := by
  unfold Fmt.round Fmt.roundMag
  by_cases hn : n = 0
  · simp [hn]
  have hx : (n : ℚ) / d * pow2 e ≠ 0 :=
    (mul_pos (div_pos (by exact_mod_cast Nat.pos_of_ne_zero hn) (by exact_mod_cast hd)) (pow2_pos e)).ne'
  rw [if_neg hn, if_neg hx]
  dsimp only
  rw [log2Q_ulp q (Nat.pos_of_ne_zero hn) hd]
  generalize q.ulp ((n : ℚ) / d * pow2 e) = u
  have hz : (n : ℚ) / d * pow2 e / pow2 u = ((scaleQ n d (e - u)).1 : ℚ) / (scaleQ n d (e - u)).2 := by
    rw [scaleQ_value, pow2_sub, mul_div_assoc]
  have hp := scaleQ_pos n (e - u) hd
  generalize scaleQ n d (e - u) = p at hz hp
  obtain ⟨hfloor, hrest⟩ := div_floor_rest p.1 p.2 hp
  have hexact : (p.1 : ℚ) / p.2 = (p.1 / p.2 : Nat) ↔ p.1 % p.2 = 0 := by
    rw [← sub_eq_zero, hrest]
    simp [hp.ne']
  simp only [hz, roundNat, hfloor, hrest, ← roundUp_eq rm s w _ _ hp, q.overflows_iff, Fmt.pack, beq_iff_eq, hexact]

/-! ## What an encoding reads as (R122-R124) -/

theorem fmtOf_widths (ty : Ty) : 1 < (fmtOf ty).k ∧ 0 < (fmtOf ty).f := by cases ty <;> decide

/-- The exponent of the spacing of subnormal numbers. -/
def Fmt.minE (q : Fmt) : Int := 1 - (q.bias : Int) - q.f

/-- An exponent field and a fraction that stand for a normal number (R123, R124). -/
def Fmt.normal (q : Fmt) (x fr : Nat) : Prop :=
  0 < x ∧ fr < 2 ^ q.f ∧ if q.inf then x < 2 ^ q.k - 1 else x < 2 ^ q.k ∧ (x = 2 ^ q.k - 1 → fr ≠ 2 ^ q.f - 1)

theorem Fmt.signBit_eq (q : Fmt) (s : Bool) : q.signBit s = 2 ^ q.f * (2 ^ q.k * s.toNat) := by
  cases s
  · rfl
  · rw [Fmt.signBit, if_pos rfl, Bool.toNat_true, Nat.mul_one, Nat.add_comm, Nat.pow_add]

/-- The fields of an encoding. -/
theorem Fmt.fields (q : Fmt) (s : Bool) {x fr : Nat} (hx : x < 2 ^ q.k) (hfr : fr < 2 ^ q.f) :
    let y := q.signBit s + x * 2 ^ q.f + fr
    y.testBit (q.k + q.f) = s ∧ y / 2 ^ q.f % 2 ^ q.k = x ∧ y % 2 ^ q.f = fr := by
  have hy : q.signBit s + x * 2 ^ q.f + fr = 2 ^ q.f * (2 ^ q.k * s.toNat + x) + fr := by
    rw [q.signBit_eq, Nat.mul_add, Nat.mul_comm x]
  rw [hy]
  refine ⟨?_, ?_, ?_⟩
  · rw [Nat.testBit_two_pow_mul_add _ hfr, if_neg (by omega), Nat.testBit_two_pow_mul_add _ hx, if_neg (by omega),
      show q.k + q.f - q.f - q.k = 0 by omega]
    cases s <;> rfl
  · rw [Nat.mul_add_div (Nat.two_pow_pos _), Nat.div_eq_of_lt hfr, Nat.add_zero, Nat.mul_add_mod, Nat.mod_eq_of_lt hx]
  · rw [Nat.mul_add_mod, Nat.mod_eq_of_lt hfr]

/-- An encoding is made of its fields. -/
theorem Fmt.of_fields (q : Fmt) {y : Nat} (hy : y < 2 ^ q.bits) :
    y = q.signBit (y.testBit (q.k + q.f)) + y / 2 ^ q.f % 2 ^ q.k * 2 ^ q.f + y % 2 ^ q.f := by
  have hlow := Nat.div_add_mod y (2 ^ q.f)
  have hhigh := Nat.div_add_mod (y / 2 ^ q.f) (2 ^ q.k)
  have htop : y / 2 ^ q.f / 2 ^ q.k = (y.testBit (q.k + q.f)).toNat := by
    rw [Nat.div_div_eq_div_mul, ← Nat.pow_add, Nat.add_comm q.f, Nat.toNat_testBit, Nat.mod_eq_of_lt]
    rw [Nat.div_lt_iff_lt_mul (Nat.two_pow_pos _), ← Nat.pow_succ', Nat.succ_eq_add_one]
    rwa [Fmt.bits, Nat.add_assoc, Nat.add_comm] at hy
  rw [htop] at hhigh
  rw [q.signBit_eq, Nat.mul_comm _ (2 ^ q.f), ← Nat.mul_add, hhigh, hlow]

theorem Fmt.read_subnormal (q : Fmt) (hk : 0 < q.k) (s : Bool) {m : Nat} (hm : m < 2 ^ q.f) : q.read (q.signBit s + m) = .fin s m q.minE := by
  have h := q.fields s (Nat.two_pow_pos q.k) hm
  rw [Nat.zero_mul, Nat.add_zero] at h
  obtain ⟨hs, he, hfr⟩ := h
  have hmax : (0 == 2 ^ q.k - 1) = false := by
    have := Nat.one_lt_two_pow hk.ne'
    simp
    omega
  unfold Fmt.read
  simp only [hs, he, hfr, hmax, Bool.and_false, Bool.false_and, Bool.false_eq_true, if_false, if_true, Fmt.minE]

theorem Fmt.read_normal (q : Fmt) (s : Bool) {x fr : Nat} (h : q.normal x fr) :
    q.read (q.signBit s + x * 2 ^ q.f + fr) = .fin s (2 ^ q.f + fr) ((x : Int) - q.bias - q.f) := by
  obtain ⟨hpos, hfr, hmax⟩ := h
  have hx : x < 2 ^ q.k := by split_ifs at hmax <;> omega
  obtain ⟨hs, he, hf⟩ := q.fields s hx hfr
  unfold Fmt.read
  simp only [hs, he, hf]
  cases hi : q.inf with
  | true =>
    rw [hi, if_pos rfl] at hmax
    rw [if_neg (by simpa using hmax.ne), if_neg (by simp), if_neg hpos.ne']
  | false =>
    rw [hi, if_neg (by decide)] at hmax
    rw [if_neg (by simp), if_neg (by simpa using hmax.2), if_neg hpos.ne']

/-- The finite encodings: subnormal ones and normal ones. -/
theorem Fmt.of_read_fin (q : Fmt) {y : Nat} (hy : y < 2 ^ q.bits) {s : Bool} {m : Nat} {e : Int} (h : q.read y = .fin s m e) :
    m < 2 ^ q.f ∧ e = q.minE ∧ y = q.signBit s + m ∨
      ∃ x fr, q.normal x fr ∧ m = 2 ^ q.f + fr ∧ e = (x : Int) - q.bias - q.f ∧ y = q.signBit s + x * 2 ^ q.f + fr := by
  have hof := q.of_fields hy
  have hx : y / 2 ^ q.f % 2 ^ q.k < 2 ^ q.k := Nat.mod_lt _ (Nat.two_pow_pos _)
  have hfr : y % 2 ^ q.f < 2 ^ q.f := Nat.mod_lt _ (Nat.two_pow_pos _)
  unfold Fmt.read at h
  dsimp only at h
  generalize y / 2 ^ q.f % 2 ^ q.k = x at *
  generalize y % 2 ^ q.f = fr at *
  split_ifs at h with h1 h2 h3 h4 <;> obtain ⟨rfl, rfl, rfl⟩ := FVal.fin.inj h
  · refine .inl ⟨hfr, rfl, ?_⟩
    rwa [h4, Nat.zero_mul, Nat.add_zero] at hof
  · refine .inr ⟨x, fr, ⟨Nat.pos_of_ne_zero h4, hfr, ?_⟩, rfl, rfl, hof⟩
    cases hi : q.inf with
    | true =>
      have hne : x ≠ 2 ^ q.k - 1 := by simpa [hi] using h1
      rw [if_pos rfl]
      omega
    | false => exact ⟨hx, by simpa [hi] using h3⟩

/-- The exponent field of the largest finite number. -/
def Fmt.top (q : Fmt) : Nat := if q.inf then 2 ^ q.k - 2 else 2 ^ q.k - 1

theorem Fmt.maxE_top (q : Fmt) (hk : 0 < q.k) : q.maxE = (q.top : Int) - q.bias - q.f := by
  have hp : 2 ≤ 2 ^ q.k := Nat.one_lt_two_pow hk.ne'
  have hcast : ((2 ^ q.k : Nat) : Int) = 2 ^ q.k := by simp
  unfold Fmt.maxE Fmt.top
  split_ifs <;> omega

theorem Fmt.normal_top (q : Fmt) (hk : 0 < q.k) {x fr : Nat} (hpos : 0 < x) (hfr : fr < 2 ^ q.f) :
    q.normal x fr ↔ x < q.top ∨ x = q.top ∧ 2 ^ q.f + fr ≤ q.maxM := by
  have hp : 2 ≤ 2 ^ q.k := Nat.one_lt_two_pow hk.ne'
  have hf : 2 ^ (q.f + 1) = 2 * 2 ^ q.f := Nat.pow_succ'
  unfold Fmt.normal Fmt.top Fmt.maxM
  split_ifs <;> omega

/-- The normal numbers are those up to the largest finite value (R123). -/
theorem Fmt.normal_iff (q : Fmt) (hk : 0 < q.k) (hf : 0 < q.f) {x fr : Nat} (hpos : 0 < x) (hfr : fr < 2 ^ q.f) :
    q.normal x fr ↔ ((2 ^ q.f + fr : Nat) : ℚ) * pow2 ((x : Int) - q.bias - q.f) ≤ q.maxM * pow2 q.maxE := by
  have hM : 2 ^ q.f ≤ q.maxM ∧ q.maxM < 2 * 2 ^ q.f ∧ 2 * 2 ^ q.f ≤ q.maxM + 2 := by
    have hf1 : 2 ≤ 2 ^ q.f := Nat.one_lt_two_pow hf.ne'
    have hsucc : 2 ^ (q.f + 1) = 2 * 2 ^ q.f := Nat.pow_succ'
    unfold Fmt.maxM
    split_ifs <;> omega
  rw [q.normal_top hk hpos hfr, q.maxE_top hk]
  rcases Nat.le_total x q.top with hle | hge
  · obtain ⟨j, hj⟩ := Nat.exists_eq_add_of_le hle
    have hpow : pow2 ((q.top : Int) - q.bias - q.f) = pow2 ((x : Int) - q.bias - q.f) * (2 ^ j : Nat) := by
      rw [← pow2_natCast, ← pow2_add, hj]
      congr 1
      omega
    have hnat : ((2 ^ q.f + fr : Nat) : ℚ) * pow2 ((x : Int) - q.bias - q.f) ≤ q.maxM * pow2 ((q.top : Int) - q.bias - q.f) ↔
        2 ^ q.f + fr ≤ q.maxM * 2 ^ j := by
      rw [hpow, ← mul_assoc, mul_right_comm, mul_le_mul_iff_of_pos_right (pow2_pos _)]
      exact_mod_cast Iff.rfl
    rw [hnat]
    cases j with
    | zero => omega
    | succ j =>
      have hbig : q.maxM * 2 ≤ q.maxM * 2 ^ (j + 1) := by
        have := Nat.one_le_two_pow (n := j)
        rw [Nat.pow_succ']
        exact Nat.mul_le_mul_left _ (by omega)
      omega
  · obtain ⟨j, hj⟩ := Nat.exists_eq_add_of_le hge
    have hpow : pow2 ((x : Int) - q.bias - q.f) = pow2 ((q.top : Int) - q.bias - q.f) * (2 ^ j : Nat) := by
      rw [← pow2_natCast, ← pow2_add, hj]
      congr 1
      omega
    have hnat : ((2 ^ q.f + fr : Nat) : ℚ) * pow2 ((x : Int) - q.bias - q.f) ≤ q.maxM * pow2 ((q.top : Int) - q.bias - q.f) ↔
        (2 ^ q.f + fr) * 2 ^ j ≤ q.maxM := by
      rw [hpow, mul_comm (pow2 _), ← mul_assoc, mul_le_mul_iff_of_pos_right (pow2_pos _)]
      exact_mod_cast Iff.rfl
    rw [hnat]
    cases j with
    | zero => omega
    | succ j =>
      have hbig : (2 ^ q.f + fr) * 2 ≤ (2 ^ q.f + fr) * 2 ^ (j + 1) := by
        have := Nat.one_le_two_pow (n := j)
        rw [Nat.pow_succ']
        exact Nat.mul_le_mul_left _ (by omega)
      omega

/-! ## What RoundTo delivers (R128, R130) -/

/-- Numbers of spacings that the format holds are packed as they are (R128). -/
theorem Fmt.pack_normal {q : Fmt} {m : Nat} {u : Int} (hmin : q.minE ≤ u) (hlo : 2 ^ q.f ≤ m) (hhi : m < 2 ^ (q.f + 1)) (s exact : Bool) :
    ∃ x : Nat, 0 < x ∧ u = (x : Int) - q.bias - q.f ∧
      q.pack s m u exact = (q.signBit s + x * 2 ^ q.f + (m - 2 ^ q.f), if exact then 0 else NX) := by
  unfold Fmt.minE at hmin
  refine ⟨(u + q.f + q.bias).toNat, by omega, by omega, ?_⟩
  unfold Fmt.pack
  rw [if_neg (show ¬ m < 2 ^ q.f by omega), if_neg (show ¬ m = 2 ^ (q.f + 1) by omega)]

section
variable {q : Fmt} {s : Bool} {m : Nat} {u : Int} (hk : 0 < q.k) (hf : 0 < q.f) (hmin : q.minE ≤ u)
include hk hf hmin

/-- The encoding of `m` spacings has their value and their sign, and the flags tell whether it is exact and whether it is tiny (R128, R130). -/
theorem Fmt.pack_spec (hm : m ≤ 2 ^ (q.f + 1)) (hsub : m < 2 ^ q.f → u = q.minE) (hfit : (m : ℚ) * pow2 u ≤ q.maxM * pow2 q.maxE)
    (exact : Bool) :
    valueOf (q.read (q.pack s m u exact).1) = (if s then -1 else 1) * m * pow2 u ∧ (q.read (q.pack s m u exact).1).sign = s ∧
      (q.pack s m u exact).2 = if exact then 0 else if m < 2 ^ q.f then NX ||| UF else NX := by
  have hp : 2 ^ (q.f + 1) = 2 * 2 ^ q.f := Nat.pow_succ'
  have hp1 := Nat.two_pow_pos q.f
  by_cases hlow : m < 2 ^ q.f
  · unfold Fmt.pack
    rw [if_pos hlow, q.read_subnormal hk s hlow, ← hsub hlow, if_pos hlow]
    exact ⟨rfl, rfl, rfl⟩
  · rw [if_neg hlow]
    by_cases htop : m = 2 ^ (q.f + 1)
    · have hstep : q.pack s m u exact = q.pack s (2 ^ q.f) (u + 1) exact := by
        unfold Fmt.pack
        rw [if_neg hlow, if_pos htop, if_neg (Nat.lt_irrefl _), if_neg (show ¬ 2 ^ q.f = 2 ^ (q.f + 1) by omega)]
      have hval : ((2 ^ q.f + 0 : Nat) : ℚ) * pow2 (u + 1) = m * pow2 u := by
        rw [htop, pow2_add, show pow2 1 = 2 from rfl, hp]
        push_cast
        ring
      obtain ⟨x, hx, hu, hpack⟩ := Fmt.pack_normal (show q.minE ≤ u + 1 by omega) (Nat.le_refl _) (show 2 ^ q.f < 2 ^ (q.f + 1) by omega) s exact
      rw [hstep, hpack, Nat.sub_self]
      rw [← hval, hu] at hfit
      rw [q.read_normal s ((q.normal_iff hk hf hx (Nat.two_pow_pos _)).2 hfit), ← hu]
      exact ⟨by rw [valueOf, mul_assoc, hval, mul_assoc], rfl, rfl⟩
    · obtain ⟨x, hx, hu, hpack⟩ := Fmt.pack_normal hmin (Nat.le_of_not_lt hlow) (show m < 2 ^ (q.f + 1) by omega) s exact
      have hm2 : 2 ^ q.f + (m - 2 ^ q.f) = m := by omega
      rw [hpack]
      rw [← hm2, hu] at hfit
      rw [q.read_normal s ((q.normal_iff hk hf hx (by omega)).2 hfit), ← hu, hm2]
      exact ⟨rfl, rfl, rfl⟩

end

/-- The spacing about a magnitude (R128). -/
theorem Fmt.ulp_eq (q : Fmt) {x : ℚ} {u : Int} (hx : 0 < x) (hmin : q.minE ≤ u)
    (h : pow2 (u + q.f) ≤ x ∧ x < pow2 (u + q.f + 1) ∨ u = q.minE ∧ x < pow2 (u + q.f)) : q.ulp x = u := by
  unfold Fmt.ulp
  rw [show (1 - (q.bias : Int) - q.f) = q.minE from rfl]
  rcases h with ⟨hlo, hhi⟩ | ⟨hu, hhi⟩
  · rw [log_eq_of_between hlo hhi]
    omega
  · rw [pow2_eq_zpow] at hhi
    have hlog := (Int.lt_zpow_iff_log_lt (b := 2) (by decide) hx).1 hhi
    omega

theorem takesUpper_zero (rm : Rm) (s : Bool) {w : Nat} (hw : w < 2 ^ 16) (k : Nat) : takesUpper rm s w k 0 = false := by
  cases rm with
  | rsr => simpa [takesUpper] using hw
  | _ => simp [takesUpper]

/-- A number of spacings is its own rounding, in every mode (R128). -/
theorem roundNat_natCast (rm : Rm) (s : Bool) {w : Nat} (hw : w < 2 ^ 16) (m : Nat) : roundNat rm s w m = m := by
  simp [roundNat, takesUpper_zero rm s hw]

/-- A rounded number of spacings is one of the two neighbours. -/
theorem roundNat_neighbour (rm : Rm) (s : Bool) (w : Nat) (z : ℚ) : roundNat rm s w z = ⌊z⌋₊ ∨ roundNat rm s w z = ⌊z⌋₊ + 1 := by
  unfold roundNat
  split_ifs
  · exact .inr rfl
  · exact .inl rfl

/-- A rounding is exact where the value is a number of spacings. -/
theorem roundNat_exact (rm : Rm) (s : Bool) {w : Nat} (hw : w < 2 ^ 16) (z : ℚ) : (roundNat rm s w z : ℚ) = z ↔ z = ⌊z⌋₊ := by
  constructor
  · intro h
    rw [← h, Nat.floor_natCast]
  · intro h
    rw [h, roundNat_natCast rm s hw]

/-- The rounded number of spacings of a magnitude at most fills the format's fraction, and is below it only among subnormal numbers. -/
theorem Fmt.roundNat_grid (q : Fmt) (rm : Rm) (s : Bool) (w : Nat) {x : ℚ} {u : Int} (hx : 0 < x)
    (h : pow2 (u + q.f) ≤ x ∧ x < pow2 (u + q.f + 1) ∨ u = q.minE ∧ x < pow2 (u + q.f)) :
    roundNat rm s w (x / pow2 u) ≤ 2 ^ (q.f + 1) ∧ (roundNat rm s w (x / pow2 u) < 2 ^ q.f → u = q.minE) := by
  have hpow (k : Nat) : pow2 (u + k) = (2 ^ k : Nat) * pow2 u := by rw [pow2_add, pow2_natCast, mul_comm]
  have hz : 0 ≤ x / pow2 u := (div_pos hx (pow2_pos u)).le
  have hfloor (k : Nat) : ⌊x / pow2 u⌋₊ < 2 ^ k ↔ x < pow2 (u + k) := by rw [Nat.floor_lt hz, div_lt_iff₀ (pow2_pos u), hpow]
  have hp : 2 ^ (q.f + 1) = 2 * 2 ^ q.f := Nat.pow_succ'
  have hnear := roundNat_neighbour rm s w (x / pow2 u)
  rw [add_assoc, ← Nat.cast_succ, ← hfloor, ← hfloor, ← not_lt, ← hfloor, Nat.succ_eq_add_one] at h
  omega

/-- A finite encoding stands for a number of spacings that the format holds, and packing that number gives it back. -/
theorem Fmt.read_grid {q : Fmt} (hk : 1 < q.k) (hf : 0 < q.f) {x : Nat} (hx : x < 2 ^ q.bits) {s : Bool} {m : Nat} {e : Int}
    (h : q.read x = .fin s m e) :
    (m ≠ 0 → q.ulp (m * pow2 e) = e) ∧ (m : ℚ) * pow2 e ≤ q.maxM * pow2 q.maxE ∧ q.pack s m e true = (x, 0) := by
  have hpos (h : m ≠ 0) : 0 < (m : ℚ) * pow2 e := mul_pos (by exact_mod_cast Nat.pos_of_ne_zero h) (pow2_pos e)
  have hval (k : Nat) : pow2 (e + k) = (2 ^ k : Nat) * pow2 e := by rw [pow2_add, pow2_natCast, mul_comm]
  have hlt {a b : Nat} (h : a < b) : (a : ℚ) * pow2 e < b * pow2 e := mul_lt_mul_of_pos_right (by exact_mod_cast h) (pow2_pos e)
  have hle {a b : Nat} (h : a ≤ b) : (a : ℚ) * pow2 e ≤ b * pow2 e := mul_le_mul_of_nonneg_right (by exact_mod_cast h) (pow2_pos e).le
  rcases q.of_read_fin hx h with ⟨hm, he, rfl⟩ | ⟨f, fr, hnormal, hm, he, rfl⟩
  · have hp : 2 ^ 2 ≤ 2 ^ q.k := Nat.pow_le_pow_right (by decide) hk
    have hnormal : q.normal 1 0 := ⟨Nat.one_pos, Nat.two_pow_pos _, by split_ifs <;> omega⟩
    have hleast := (q.normal_iff (Nat.zero_lt_of_lt hk) hf Nat.one_pos (Nat.two_pow_pos _)).1 hnormal
    rw [Nat.cast_one, show (1 : Int) - q.bias - q.f = e from he.symm] at hleast
    refine ⟨fun h0 => q.ulp_eq (hpos h0) he.ge (.inr ⟨he, ?_⟩), (hle (by omega)).trans hleast, if_pos hm⟩
    rw [hval]
    exact hlt hm
  · have ⟨hf0, hfr, _⟩ := hnormal
    have hmin : q.minE ≤ e := by unfold Fmt.minE; omega
    refine ⟨fun h0 => q.ulp_eq (hpos h0) hmin (.inl ⟨?_, ?_⟩), ?_, ?_⟩
    · rw [hval]
      exact hle (by omega)
    · rw [add_assoc, ← Nat.cast_succ, hval, Nat.succ_eq_add_one, Nat.pow_succ]
      exact hlt (by omega)
    · rw [hm, he]
      exact (q.normal_iff (Nat.zero_lt_of_lt hk) hf hf0 hfr).1 hnormal
    · obtain ⟨f', -, he', hpack⟩ := Fmt.pack_normal hmin (show 2 ^ q.f ≤ m by omega) (by rw [Nat.pow_succ]; omega) s true
      obtain rfl : f' = f := by omega
      rw [hpack, hm, Nat.add_sub_cancel_left]
      rfl

/-- RoundTo of a value that the format holds (R128). -/
theorem Fmt.round_of_read {q : Fmt} (hk : 1 < q.k) (hf : 0 < q.f) (rm : Rm) (sat : Bool) {w x : Nat} (hw : w < 2 ^ 16) (hx : x < 2 ^ q.bits)
    {s : Bool} {m : Nat} {e : Int} (h : q.read x = .fin s m e) : q.round rm sat w s m 1 e = (x, 0) := by
  rw [q.round_eq rm sat w s m Nat.one_pos e, Nat.cast_one, div_one]
  obtain ⟨hulp, hfit, hpack⟩ := Fmt.read_grid hk hf hx h
  unfold Fmt.roundMag
  by_cases hm : m = 0
  · rw [hm, Nat.cast_zero, zero_mul, if_pos rfl, ← hpack, hm]
    exact (if_pos (Nat.two_pow_pos _)).symm
  · have hx0 : (m : ℚ) * pow2 e ≠ 0 := mul_ne_zero (by exact_mod_cast hm) (pow2_pos e).ne'
    rw [if_neg hx0, hulp hm, mul_div_cancel_right₀ _ (pow2_pos e).ne']
    dsimp only
    rw [roundNat_natCast rm s hw, if_neg (not_lt.2 hfit), Nat.floor_natCast, beq_self_eq_true, hpack]

/-! ## The neighbour that a mode names (R128, R132) -/

theorem floor_eq_natFloor {z : ℚ} (hz : 0 ≤ z) : z.floor = (⌊z⌋₊ : Int) := (Int.natCast_floor_eq_floor hz).symm

/-- The integer of spacings that a mode names is the rounded magnitude with its sign. -/
theorem isRounded_iff {rm : Rm} (hrm : rm ≠ .dyn) {w : Nat} (hw : w < 2 ^ 16) (s : Bool) {z : ℚ} (hz : 0 ≤ z) (y : Int) :
    isRounded rm w ((if s then -1 else 1) * z) y ↔ y = (if s then -1 else 1) * (roundNat rm s w z : Int) := by
  generalize hv : (if s then -1 else 1) * z = v
  have habs : (if v < 0 then -v else v) = z := by
    subst hv
    cases s
    · simp [hz]
    · rcases hz.eq_or_lt with rfl | hpos <;> simp [*]
  have hneg (h : z ≠ 0) : v < 0 ↔ s = true := by
    have hpos := lt_of_le_of_ne hz h.symm
    subst hv
    cases s
    · simp [hz]
    · simp [hpos]
  unfold isRounded roundNat
  simp only [habs, floor_eq_natFloor hz]
  have hg0 : 0 ≤ z - ⌊z⌋₊ := sub_nonneg.2 (Nat.floor_le hz)
  have hg1 : z - ⌊z⌋₊ < 1 := by linarith [Nat.lt_floor_add_one z]
  have hk0 : z = 0 → ⌊z⌋₊ = 0 := by rintro rfl; simp
  have hz0 : z = 0 → z - ⌊z⌋₊ = 0 := by rintro rfl; simp
  generalize ⌊z⌋₊ = k at *
  push_cast
  generalize hgd : z - (k : ℚ) = g at *
  by_cases hg : g = 0
  · subst hg
    simp only [if_true, takesUpper_zero rm s hw, Bool.false_eq_true, if_false]
    by_cases hz' : z = 0
    · rw [hk0 hz']
      cases s <;> simp
    · simp only [hneg hz']
      cases s <;> simp
  · rw [if_neg hg]
    simp only [hneg (fun h => hg (hz0 h))]
    have hup (p : Bool) : (if s = true then -1 else 1) * (if p = true then (k : Int) + 1 else k) =
        if p then (if s then -((k : Int) + 1) else k + 1) else if s then -(k : Int) else k := by
      cases p <;> cases s <;> simp
    rw [hup]
    cases rm with
    | rne =>
      simp only [takesUpper, Bool.or_eq_true, Bool.and_eq_true, decide_eq_true_eq, beq_iff_eq]
      rcases lt_trichotomy g (1 / 2) with h | h | h
      · simp only [h, h.ne, h.not_gt]
        simp
      · simp only [h, lt_irrefl, false_implies, true_implies, true_and, false_or]
        split_ifs <;> omega
      · simp only [h, h.ne', h.not_gt]
        simp
    | rtz => simp [takesUpper]
    | rup => cases s <;> simp [takesUpper, hg]
    | rdn => cases s <;> simp [takesUpper, hg]
    | rna =>
      simp only [takesUpper, decide_eq_true_eq]
      rcases lt_or_ge g (1 / 2) with h | h
      · rw [if_pos h, if_neg (not_le.2 h)]
      · rw [if_neg (not_lt.2 h), if_pos h]
    | rsr =>
      have hsum : (65536 : Int) ≤ (g * 2 ^ 16).floor + w ↔ 2 ^ 16 ≤ ⌊g * 2 ^ 16⌋₊ + w := by
        rw [floor_eq_natFloor (mul_nonneg hg0 (by norm_num))]
        omega
      simp only [takesUpper, decide_eq_true_eq, hsum]
    | dyn => exact absurd rfl hrm

/-- RoundTo of a value in a grid whose neighbour does not overflow: that neighbour, its sign, and the flags (R128, R130). -/
theorem Fmt.round_neighbour {q : Fmt} (hk : 0 < q.k) (hf : 0 < q.f) {rm : Rm} (hrm : rm ≠ .dyn) (sat : Bool) {w : Nat} (hw : w < 2 ^ 16)
    (s : Bool) {n d : Nat} (hn : 0 < n) (hd : 0 < d) {e u : Int} {x : ℚ} (hx : (n : ℚ) / d * pow2 e = x) (hmin : q.minE ≤ u)
    (hgrid : pow2 (u + q.f) ≤ x ∧ x < pow2 (u + q.f + 1) ∨ u = q.minE ∧ x < pow2 (u + q.f)) {y : Int}
    (hy : isRounded rm w ((if s then -1 else 1) * (x / pow2 u)) y) (hfit : (y.natAbs : ℚ) * pow2 u ≤ q.maxM * pow2 q.maxE) :
    let r := q.round rm sat w s n d e
    valueOf (q.read r.1) = y * pow2 u ∧ (q.read r.1).sign = s ∧
      r.2 = if (y.natAbs : ℚ) * pow2 u = x then 0 else if y.natAbs < 2 ^ q.f then NX ||| UF else NX := by
  have hpos : 0 < x := hx ▸ mul_pos (div_pos (by exact_mod_cast hn) (by exact_mod_cast hd)) (pow2_pos e)
  rw [isRounded_iff hrm hw s (div_pos hpos (pow2_pos u)).le] at hy
  obtain ⟨hle, hsub⟩ := q.roundNat_grid rm s w hpos hgrid
  have hexact := roundNat_exact rm s hw (x / pow2 u)
  have hr : q.round rm sat w s n d e = if q.maxM * pow2 q.maxE < roundNat rm s w (x / pow2 u) * pow2 u then q.overflow rm sat s
      else q.pack s (roundNat rm s w (x / pow2 u)) u (x / pow2 u == ⌊x / pow2 u⌋₊) := by
    rw [q.round_eq rm sat w s n hd e, hx, Fmt.roundMag, if_neg hpos.ne', q.ulp_eq hpos hmin hgrid]
  generalize roundNat rm s w (x / pow2 u) = m at *
  have hcast : (if s then -1 else 1) * (m : ℚ) = y := by
    subst hy
    cases s <;> simp
  obtain rfl : y.natAbs = m := by
    subst hy
    cases s <;> simp
  obtain ⟨hval, hsign, hflags⟩ := Fmt.pack_spec (s := s) hk hf hmin hle hsub hfit (x / pow2 u == ⌊x / pow2 u⌋₊)
  rw [eq_div_iff (pow2_pos u).ne'] at hexact
  rw [hr, if_neg (not_lt.2 hfit)]
  dsimp only
  rw [hval, hsign, hflags]
  simp only [beq_iff_eq, hexact, hcast, and_true]

end Sys2Proof.Machine

namespace Sys2Proof.Claims

open Sys2Proof.Machine

/-- Settles O11: a value that the format holds is a number of spacings, which every mode leaves (`Fmt.round_of_read`), and in the grid of another
value's spacing the mode names one neighbour (`isRounded_iff`), whose encoding has its value (`Fmt.round_neighbour`). -/
theorem roundingIsExact : Obligations.RoundingIsExact := by
  unfold Obligations.RoundingIsExact
  refine ⟨fun ty rm sat w x s m e _ hw hx h => ?_, fun ty rm sat w n d e u s y _ hrm hw hn hd => ?_⟩
  · obtain ⟨hk, hf⟩ := fmtOf_widths ty
    exact Fmt.round_of_read hk hf rm sat hw hx h
  · obtain ⟨hk, hf⟩ := fmtOf_widths ty
    exact fun hmin hgrid hy hfit => Fmt.round_neighbour (Nat.zero_lt_of_lt hk) hf hrm sat hw s hn hd rfl hmin hgrid hy hfit

end Sys2Proof.Claims
end

section
/-! SUPPORT and CERTIFICATES. The completion of a floating-point instruction, and conversions: where elements go, and their one rounding
(R136-R138, R142, R143, R155-R159). -/

namespace Sys2Proof.Machine

open Sys2Proof.Claims

/-! ## Completion (R142, R143) -/

/-- A lane of floating-point elements is the lane of their low bits. -/
theorem mapF_fst (w : Nat) (f : Nat → Nat × Nat) (n : Nat) : (mapF w f n).1 = (mapEls w (fun e => ((f e).1 % 2 ^ w, false)) n).1 := by
  induction n with
  | zero => rfl
  | succ n ih => rw [mapF, mapEls, ih]

theorem mapF_flags (w : Nat) (f : Nat → Nat × Nat) (n i : Nat) : (mapF w f n).2.testBit i = true ↔ ∃ e, e < n ∧ (f e).2.testBit i = true := by
  induction n with
  | zero => simp [mapF]
  | succ n ih =>
    rw [mapF, Nat.testBit_or, Bool.or_eq_true, ih]
    constructor
    · rintro (⟨e, he, h⟩ | h)
      · exact ⟨e, by omega, h⟩
      · exact ⟨n, by omega, h⟩
    · rintro ⟨e, he, h⟩
      by_cases hn : e = n
      · exact .inr (hn ▸ h)
      · exact .inl ⟨e, by omega, h⟩

theorem laneF_lt (ty : Ty) (f : Nat → Nat × Nat) : (laneF ty f).1 < 2 ^ (if ty.isPair then 64 else 32) := by
  rw [laneF, mapF_fst]
  exact mapLane_lt ty (fun e => ((f e).1 % 2 ^ elW ty, false)) fun _ _ => Nat.mod_lt _ (Nat.two_pow_pos _)

theorem elBits_laneF (ty : Ty) (f : Nat → Nat × Nat) {e : Nat} (he : e < ty.elems) : elBits ty (laneF ty f).1 e = (f e).1 % 2 ^ elW ty := by
  rw [laneF, mapF_fst]
  exact elBits_mapLane ty (fun e => ((f e).1 % 2 ^ elW ty, false)) e he fun _ _ => Nat.mod_lt _ (Nat.two_pow_pos _)

theorem testBit_foldl_or {α : Type} (f : α → Nat) (xs : List α) (n i : Nat) :
    (xs.foldl (fun n x => n ||| f x) n).testBit i = true ↔ n.testBit i = true ∨ ∃ x ∈ xs, (f x).testBit i = true := by
  induction xs generalizing n with
  | nil => simp
  | cons x xs ih => rw [List.foldl_cons, ih, Nat.testBit_or, Bool.or_eq_true, List.exists_mem_cons_iff, or_assoc]

theorem Group.flagsOf_bit (g : Group) (f : Nat → Nat × Nat) {i : Nat} (hi : i < 32) :
    (g.flagsOf f).getLsbD i = true ↔ ∃ l, l < 32 ∧ g.em.getLsbD l = true ∧ (f l).2.testBit i = true := by
  rw [Group.flagsOf, BitVec.getLsbD_ofNat, decide_eq_true hi, Bool.true_and, testBit_foldl_or]
  simp only [Nat.zero_testBit, Bool.false_eq_true, false_or, mem_activeLanes, and_assoc]

/-- What is written to the lanes shows in the registers. -/
theorem State.lanesWritten_of_v {s t u : State} {pair : Bool} {m : VMode} {d : RegNo} {P : Nat → Nat → Prop} (h : s.lanesWritten u pair m d P)
    (hv : t.run.v = u.run.v) : s.lanesWritten t pair m d P := by
  have hreg (r : Nat) : t.run.reg r = u.run.reg r := by unfold Group.reg; rw [hv]
  unfold State.lanesWritten State.destBits Group.lane64 at *
  simpa only [hreg] using h

/-- An instruction that gives every active lane a floating-point value: all that it does (R142, R143). -/
theorem State.floatDone_step (s : State) (i : Instr) (ty : Ty) (d : RegNo) (m : VMode) (rm : Rm) (f : Nat → Nat × Nat) (cyc : Nat)
    {P : Nat → Nat → Prop} {n : Nat} {fl : Nat → Nat → Nat} (hlt : ∀ l, (f l).1 < 2 ^ (if ty.isPair then 64 else 32))
    (hP : ∀ l, l < 32 → s.run.em.getLsbD l = true → P l (f l).1)
    (hfl : ∀ l i, l < 32 → s.run.em.getLsbD l = true → ((f l).2.testBit i = true ↔ ∃ e, e < n ∧ (fl l e).testBit i = true)) :
    s.floatStep (s.floatDone i ty d m rm f cyc) ty.isPair m d rm P ∧ s.flagged (s.floatDone i ty d m rm f cyc) n fl := by
  obtain ⟨⟨-, -, hlanes⟩, -⟩ := s.lanesDone_step i ty d m (fun l => ((f l).1, false)) cyc P hlt hP
  obtain ⟨hbook, hrun⟩ := s.vecDone_spec i
    (if ty.isPair then s.run.put64 d m fun l => BitVec.ofNat 64 (f l).1 else s.run.put32 d m fun l => BitVec.ofNat 32 (f l).1)
    (s.run.flagsOf f) cyc
  have hdrew (g : Group) : g.drew rm = { g with srSeq := if rm = .rsr then g.srSeq + 1 else g.srSeq } := by
    unfold Group.drew
    split_ifs <;> rfl
  have ht : s.floatDone i ty d m rm f cyc = (s.vecDone i
    (if ty.isPair then s.run.put64 d m fun l => BitVec.ofNat 64 (f l).1 else s.run.put32 d m fun l => BitVec.ofNat 32 (f l).1)
    (s.run.flagsOf f) cyc).setRun { s.run with
      v := (s.lanesDone i ty d m (fun l => ((f l).1, false)) cyc).run.v, fsr := s.run.fsr ||| s.run.flagsOf f, word := s.run.word + 1
      srSeq := if rm = .rsr then s.run.srSeq + 1 else s.run.srSeq } := by
    unfold State.floatDone
    dsimp only
    rw [hdrew, hrun]
    rfl
  rw [ht]
  refine ⟨⟨State.booked_trans hbook (State.booked_setRun ..), rfl, State.lanesWritten_of_v hlanes rfl⟩, fun j hj => ?_⟩
  rw [State.setRun_run, BitVec.getLsbD_or, Bool.or_eq_true, s.run.flagsOf_bit f hj]
  refine or_congr_right ⟨?_, ?_⟩
  · rintro ⟨l, hl, he, hb⟩
    obtain ⟨e, hn, h⟩ := (hfl l j hl he).1 hb
    exact ⟨l, e, hl, he, hn, h⟩
  · rintro ⟨l, e, hl, he, hn, h⟩
    exact ⟨l, hl, he, (hfl l j hl he).2 ⟨e, hn, h⟩⟩

/-- An elementwise floating-point instruction (R142). -/
theorem State.floatDone_elementwise (s : State) (i : Instr) (ty : Ty) (d : RegNo) (m : VMode) (rm : Rm) (f : Nat → Nat → Nat × Nat) (cyc : Nat) :
    elementwise s (s.floatDone i ty d m rm (fun l => laneF ty (f l)) cyc) ty m d rm f :=
  s.floatDone_step i ty d m rm _ cyc (fun l => laneF_lt ty (f l)) (fun l _ _ _ he => elBits_laneF ty (f l) he) fun _ _ _ _ => mapF_flags ..

/-! ## Placement (R155) -/

/-- The number of elements that a conversion converts, and the source and the destination element of the `i`-th. -/
def convCount (dst src : Ty) : Nat := min src.elems dst.elems
def convSrc (dst src : Ty) (el : BitVec 3) (i : Nat) : Nat := if convCount dst src < src.elems then el.toNat * convCount dst src + i else i
def convDst (dst src : Ty) (el : BitVec 3) (i : Nat) : Nat := if convCount dst src < dst.elems then el.toNat * convCount dst src + i else i

section
variable {dst src : Ty} {el : BitVec 3} (h : elOk src dst el.toNat = true)
include h

/-- The elements that the selector names lie in their lane. -/
theorem convCount_fits : el.toNat * convCount dst src + convCount dst src ≤ max src.elems dst.elems := by
  have hlt : el.toNat + 1 ≤ max src.elems dst.elems / convCount dst src := by
    unfold elOk at h
    exact of_decide_eq_true h
  rw [← Nat.succ_mul]
  exact (Nat.mul_le_mul_right _ hlt).trans (Nat.div_mul_le_self _ _)

theorem convDst_lt {i : Nat} (hi : i < convCount dst src) : convDst dst src el i < dst.elems := by
  have hfit := convCount_fits h
  unfold convDst
  unfold convCount at *
  split_ifs <;> omega

omit h in
/-- A destination element that is written takes the source element of its conversion. -/
theorem placeEl_convDst {i : Nat} (hi : i < convCount dst src) :
    placeEl src.elems dst.elems el.toNat (convDst dst src el i) = some (convSrc dst src el i) := by
  unfold placeEl convDst convSrc
  dsimp only
  rw [show min src.elems dst.elems = convCount dst src from rfl]
  by_cases hd : convCount dst src < dst.elems
  · have hs : ¬ convCount dst src < src.elems := by unfold convCount at *; omega
    rw [if_pos hd, if_pos hd, if_neg hs, if_pos (by omega), Nat.add_sub_cancel_left]
  · rw [if_neg hd, if_neg hd]

omit h in
/-- The other destination elements are not written. -/
theorem placeEl_none {k : Nat} (hk : k < dst.elems) (hno : ∀ i, i < convCount dst src → k ≠ convDst dst src el i) :
    placeEl src.elems dst.elems el.toNat k = none := by
  unfold placeEl
  unfold convDst at hno
  dsimp only
  rw [show min src.elems dst.elems = convCount dst src from rfl]
  by_cases hd : convCount dst src < dst.elems
  · simp only [if_pos hd] at hno ⊢
    rw [if_neg]
    rintro ⟨h1, h2⟩
    exact hno (k - el.toNat * convCount dst src) (by omega) (by omega)
  · simp only [if_neg hd] at hno
    exact absurd rfl (hno k (by omega))

end

/-- The lane bits `x` hold the elements `f` where a conversion writes, and elsewhere those of the destination before it. -/
def State.convLane (s : State) (dst src : Ty) (d : RegNo) (el : BitVec 3) (f : Nat → Nat → Nat × Nat) (l x : Nat) : Prop :=
  (∀ i, i < convCount dst src → elBits dst x (convDst dst src el i) = (f l (convDst dst src el i)).1 % 2 ^ elW dst) ∧
  ∀ k, k < dst.elems → (∀ i, i < convCount dst src → k ≠ convDst dst src el i) → elBits dst x k = elBits dst (s.run.aN dst d {} l) k

/-- A conversion gives each destination element that is written what `conv` says of its source element, and keeps the other elements. -/
def Converts (s t : State) (dst src : Ty) (r : Rm) (d a : RegNo) (el : BitVec 3) (conv : Nat → Nat → Nat → Nat × Nat → Prop) : Prop :=
  ∃ f : Nat → Nat → Nat × Nat,
    s.floatStep t dst.isPair {} d r (s.convLane dst src d el f) ∧
    (∀ l i, i < convCount dst src →
      conv (s.sr l (convDst dst src el i)) l (elBits src (s.run.aN src a {} l) (convSrc dst src el i)) (f l (convDst dst src el i))) ∧
    s.flagged t dst.elems fun l k => if ∃ i, i < convCount dst src ∧ k = convDst dst src el i then (f l k).2 else 0

/-- The element that a conversion puts at a place of a lane, and its flags. -/
def State.converted (s : State) (dst src : Ty) (r : Rm) (d a : RegNo) (el : BitVec 3) (conv : Rm → Nat → Nat → Nat → Nat × Nat) (l k : Nat) :
    Nat × Nat :=
  match placeEl src.elems dst.elems el.toNat k with
  | none => (elBits dst (s.run.aN dst d {} l) k, 0)
  | some k' => conv r (s.sr l k) l (elBits src (s.run.aN src a {} l) k')

theorem State.convDone_converts {s : State} {dst src : Ty} {rm : Rm} {d a : RegNo} {el : BitVec 3} (h : elOk src dst el.toNat = true) {i : Instr}
    {conv : Rm → Nat → Nat → Nat → Nat × Nat} {cyc : Nat} {p : Nat → Nat → Nat → Nat × Nat → Prop}
    (hp : ∀ l k x, p (s.sr l k) l x (conv (s.run.rmOf rm) (s.sr l k) l x)) :
    Converts s (s.convDone i dst src rm d a el conv cyc) dst src (s.run.rmOf rm) d a el p := by
  have hkept {l k : Nat} (hk : k < dst.elems) (hno : ∀ i, i < convCount dst src → k ≠ convDst dst src el i) :
      s.converted dst src (s.run.rmOf rm) d a el conv l k = (elBits dst (s.run.aN dst d {} l) k, 0) := by
    unfold State.converted
    rw [placeEl_none hk hno]
  have hput {l j : Nat} (hj : j < convCount dst src) : s.converted dst src (s.run.rmOf rm) d a el conv l (convDst dst src el j) =
      conv (s.run.rmOf rm) (s.sr l (convDst dst src el j)) l (elBits src (s.run.aN src a {} l) (convSrc dst src el j)) := by
    unfold State.converted
    rw [placeEl_convDst hj]
  obtain ⟨hfloat, hflags⟩ := s.floatDone_step i dst d {} (s.run.rmOf rm)
    (fun l => laneF dst (s.converted dst src (s.run.rmOf rm) d a el conv l)) cyc
    (P := s.convLane dst src d el (s.converted dst src (s.run.rmOf rm) d a el conv)) (n := dst.elems)
    (fl := fun l k => if ∃ i, i < convCount dst src ∧ k = convDst dst src el i then
      (s.converted dst src (s.run.rmOf rm) d a el conv l k).2 else 0)
    (fun l => laneF_lt ..)
    (fun l _ _ => ⟨fun j hj => elBits_laneF dst _ (convDst_lt h hj), fun k hk hno => by
      rw [elBits_laneF dst _ hk, hkept hk hno]
      exact Nat.mod_eq_of_lt (elBits_lt ..)⟩)
    (fun l j _ _ => by
      rw [laneF, mapF_flags]
      refine exists_congr fun k => and_congr_right fun hk => ?_
      split_ifs with hw
      · rfl
      · rw [hkept hk fun i hi he => hw ⟨i, hi, he⟩])
  exact ⟨_, hfloat, fun l j hj => hput hj ▸ hp .., hflags⟩

/-! ## One rounding of the exact value (R136-R138, R156-R159) -/

/-- RoundTo of an exact value, by its magnitude. -/
theorem rounded_eq (q : Fmt) (rm : Rm) (sat : Bool) (w : Nat) (x : ℚ) (zero : Bool) :
    rounded q rm sat w x zero = if x = 0 then (q.signBit zero, 0) else q.roundMag rm sat w (x < 0) |x| := by
  have habs : (x.num.natAbs : ℚ) / x.den * pow2 0 = |x| := by
    rw [show pow2 0 = 1 from rfl, mul_one, Nat.cast_natAbs, Int.cast_abs]
    rw [show (x.den : ℚ) = |(x.den : ℚ)| from (abs_of_nonneg (by positivity)).symm, ← abs_div, Rat.num_div_den]
  rw [rounded, q.round_eq rm sat w _ _ x.den_pos 0, habs]

/-- RoundTo of a quotient with a sign is the rounding of its value, a zero keeping the sign. -/
theorem Fmt.round_rounded (q : Fmt) (rm : Rm) (sat : Bool) (w : Nat) (s : Bool) (n : Nat) {d : Nat} (hd : 0 < d) (e : Int) {x : ℚ}
    (hx : (if s then -1 else 1) * (n / d * pow2 e) = x) : q.round rm sat w s n d e = rounded q rm sat w x s := by
  have hd0 : (0 : ℚ) < d := by exact_mod_cast hd
  rw [q.round_eq rm sat w s n hd e, rounded_eq]
  have hy : 0 ≤ (n : ℚ) / d * pow2 e := mul_nonneg (by positivity) (pow2_pos e).le
  generalize (n : ℚ) / d * pow2 e = y at hx hy
  subst hx
  rcases hy.eq_or_lt with rfl | hpos
  · simp [Fmt.roundMag]
  · cases s
    · simp [hpos.ne', hpos.not_gt, abs_of_pos hpos]
    · simp [hpos, hpos.ne', abs_of_pos hpos]

theorem convNan_eq (src dst : Fmt) (s : Bool) (frac : Nat) : convNan src dst s frac = nanIn src dst s frac := by
  unfold convNan nanIn Fmt.nan
  cases hs : src.inf <;> cases hd : dst.inf
  case true.true =>
    simp only [Bool.not_true, Bool.false_eq_true, if_true, if_false]
    split_ifs <;> rfl
  all_goals rfl

/-- FCVT of an element (R156). -/
theorem convFloat_eq (src dst : Fmt) (rm : Rm) (sat : Bool) (w x : Nat) :
    convFloat src dst rm sat w x = convertedTo src dst rm sat w (src.read x) (valueOf (src.read x)) := by
  unfold convFloat convertedTo
  cases src.read x with
  | nan s quiet frac => simp only [convNan_eq]
  | inf s => rfl
  | fin s m e => exact dst.round_rounded rm sat w s m Nat.one_pos e (by rw [valueOf, Nat.cast_one, div_one, mul_assoc])

/-- An integer as a floating-point number (R157). -/
theorem convOfInt_eq (dst : Fmt) (rm : Rm) (sat : Bool) (w : Nat) (x : Int) : convOfInt dst rm sat w x = rounded dst rm sat w x false := by
  rw [convOfInt, rounded]
  by_cases hx : x = 0
  · simp [hx, Fmt.round]
  · simp [hx]

/-- A rounding to an integer is that of the magnitude (R137). -/
theorem roundInt_eq (rm : Rm) (w : Nat) (s : Bool) (n : Nat) (e : Int) :
    (roundInt rm w s n e).1 = (if s then -1 else 1) * (roundNat rm s w (n * pow2 e) : Int) ∧
      ((roundInt rm w s n e).2 = true ↔ ¬ (n : ℚ) * pow2 e = ⌊(n : ℚ) * pow2 e⌋₊) := by
  have hz := scaleQ_value n 1 e
  have hp := scaleQ_pos n e Nat.one_pos
  rw [Nat.cast_one, div_one] at hz
  unfold roundInt roundNat
  dsimp only
  rw [← hz]
  generalize scaleQ n 1 e = p at hp
  obtain ⟨hfloor, hrest⟩ := div_floor_rest p.1 p.2 hp
  rw [hfloor, hrest, ← roundUp_eq rm s w _ _ hp]
  refine ⟨?_, ?_⟩
  · cases s <;> split_ifs <;> simp
  · rw [← sub_eq_zero (a := (p.1 : ℚ) / p.2), hrest]
    simp [hp.ne']

/-- The least and the greatest number of an integer of `n` bits. -/
def intLeast (signed : Bool) (n : Nat) : Int := if signed then -(2 ^ (n - 1)) else 0
def intGreatest (signed : Bool) (n : Nat) : Int := if signed then 2 ^ (n - 1) - 1 else 2 ^ n - 1

/-- A NaN and an infinity as integers (R137). -/
theorem convToInt_nan {src : Fmt} {x : Nat} {s quiet : Bool} {f : Nat} (h : src.read x = .nan s quiet f) (signed : Bool) (n : Nat) (rm : Rm) (w : Nat) :
    convToInt src signed n rm w x = (0, IV) := by
  unfold convToInt
  rw [h]

theorem convToInt_inf {src : Fmt} {x : Nat} {z : Bool} (h : src.read x = .inf z) (signed : Bool) (n : Nat) (rm : Rm) (w : Nat) :
    convToInt src signed n rm w x = (((if z then intLeast signed n else intGreatest signed n) % 2 ^ n).toNat, IV) := by
  unfold convToInt
  rw [h]
  rfl

/-- A finite number as an integer: rounded by the mode, and cut to the range (R137). -/
theorem convToInt_fin {src : Fmt} {x : Nat} {z : Bool} {m : Nat} {e : Int} (h : src.read x = .fin z m e) (signed : Bool) (n : Nat) (rm : Rm)
    {w : Nat} (hw : w < 2 ^ 16) :
    ∃ k, (rm ≠ .dyn → isRounded rm w (valueOf (.fin z m e)) k) ∧ convToInt src signed n rm w x =
      if intGreatest signed n < k then ((intGreatest signed n % 2 ^ n).toNat, IV)
      else if k < intLeast signed n then ((intLeast signed n % 2 ^ n).toNat, IV)
      else ((k % 2 ^ n).toNat, if valueOf (.fin z m e) = (k : Rat) then 0 else NX) := by
  obtain ⟨hint, hflag⟩ := roundInt_eq rm w z m e
  have hval : valueOf (.fin z m e) = (if z then -1 else 1) * ((m : ℚ) * pow2 e) := by rw [valueOf, mul_assoc]
  have hexact : valueOf (.fin z m e) = ((roundInt rm w z m e).1 : ℚ) ↔ ¬ (roundInt rm w z m e).2 = true := by
    rw [hflag, not_not, ← roundNat_exact rm z hw, hval, hint]
    cases z <;> simp [eq_comm]
  refine ⟨(roundInt rm w z m e).1, fun hrm => ?_, ?_⟩
  · rw [hval, isRounded_iff hrm hw z (mul_nonneg (by positivity) (pow2_pos e).le)]
    exact hint
  · simp only [hexact]
    unfold convToInt
    rw [h]
    simp only [ite_not]
    rfl

/-! ## Conversions with a scale (R138, R158, R159) -/

/-- A scale that is a positive normal FP32 number. -/
theorem posNormal_some {x : Nat} {m : Nat} {e : Int} (h : fmtF32.read x = .fin false m e) (hm : 2 ^ 23 ≤ m) : posNormal x = some (m, e) := by
  unfold posNormal
  rw [h]
  exact if_pos hm

theorem posNormal_none {x : Nat} (h : ¬ ∃ m e, fmtF32.read x = .fin false m e ∧ 2 ^ 23 ≤ m) : posNormal x = none := by
  unfold posNormal
  split
  · rename_i m e hx
    exact if_neg fun hm => h ⟨m, e, hx, hm⟩
  · rfl

theorem scaleNarrow_eq (dst : Fmt) (rm : Rm) (sat : Bool) (w x : Nat) {scale m : Nat} {e : Int} (h : fmtF32.read scale = .fin false m e)
    (hm : 2 ^ 23 ≤ m) :
    scaleNarrow dst rm sat w x scale = convertedTo fmtF32 dst rm sat w (fmtF32.read x) (valueOf (fmtF32.read x) / valueOf (fmtF32.read scale)) := by
  have hm0 : 0 < m := Nat.lt_of_lt_of_le (by decide) hm
  unfold scaleNarrow convertedTo
  rw [posNormal_some h hm, h]
  cases fmtF32.read x with
  | nan s quiet frac => simp only [convNan_eq]
  | inf s => rfl
  | fin s k f =>
    refine dst.round_rounded rm sat w s k hm0 (f - e) ?_
    have hm1 : (m : ℚ) ≠ 0 := by exact_mod_cast hm0.ne'
    have he := (pow2_pos e).ne'
    rw [valueOf, valueOf, pow2_sub]
    simp only [Bool.false_eq_true, if_false]
    field_simp

theorem scaleWiden_eq (src : Fmt) (rm : Rm) (sat : Bool) (w x : Nat) {scale m : Nat} {e : Int} (h : fmtF32.read scale = .fin false m e)
    (hm : 2 ^ 23 ≤ m) :
    scaleWiden src rm sat w x scale = convertedTo src fmtF32 rm sat w (src.read x) (valueOf (src.read x) * valueOf (fmtF32.read scale)) := by
  unfold scaleWiden convertedTo
  rw [posNormal_some h hm, h]
  cases src.read x with
  | nan s quiet frac => simp only [convNan_eq]
  | inf s => rfl
  | fin s k f =>
    refine fmtF32.round_rounded rm sat w s (k * m) Nat.one_pos (f + e) ?_
    rw [valueOf, valueOf, pow2_add]
    simp only [Bool.false_eq_true, if_false]
    push_cast
    ring

theorem scale_invalid {scale : Nat} (h : ¬ ∃ m e, fmtF32.read scale = .fin false m e ∧ 2 ^ 23 ≤ m) (dst : Fmt) (rm : Rm) (sat : Bool) (w x : Nat) :
    scaleNarrow dst rm sat w x scale = (dst.cnan, IV) ∧ scaleWiden dst rm sat w x scale = (fmtF32.cnan, IV) := by
  unfold scaleNarrow scaleWiden
  rw [posNormal_none h]
  exact ⟨rfl, rfl⟩

/-! ## The instructions -/

theorem State.sr_lt (s : State) (l e : Nat) : s.sr l e < 2 ^ 16 := Nat.mod_lt _ (by decide)

section
variable {s : State} {dst src : Ty} {n4 e5m2 : Bool} {rm : Rm} {sat nr : Bool} {d a : RegNo} {b : Opnd} {el : BitVec 3}

theorem fcvt_runs (h : Ready s (.fcvt dst src rm sat d a el nr)) : Runs (.fcvt dst src rm sat d a el nr) s fun t =>
    Converts s t dst src (s.run.rmOf rm) d a el fun w _ x y =>
      y = convertedTo (fmtOf src) (fmtOf dst) (s.run.rmOf rm) sat w ((fmtOf src).read x) (valueOf ((fmtOf src).read x)) := by
  have hel : elOk src dst el.toNat = true := by
    have hwf := h.1
    simp only [Instr.wf, Bool.and_eq_true] at hwf
    exact hwf.2
  exact runs_checked (by rw [exec, execFcvt]) h (State.convDone_converts hel fun _ _ _ => convFloat_eq ..)

theorem icvt_elOk (h : Ready s (.icvt dst src n4 rm sat d a el nr)) : elOk src dst el.toNat = true := by
  have hwf := h.1
  simp only [Instr.wf, Bool.and_eq_true] at hwf
  tauto

theorem icvt_float_runs (h : Ready s (.icvt dst src n4 rm sat d a el nr)) (hf : dst.isFloat = true) :
    Runs (.icvt dst src n4 rm sat d a el nr) s fun t => Converts s t dst src (s.run.rmOf rm) d a el fun w _ x y =>
      y = rounded (fmtOf dst) (s.run.rmOf rm) sat w (readInt (elSigned src && !(n4 && src == .s4x8)) (elW src) x : Int) false := by
  refine runs_checked (by rw [exec, execIcvt]) h (State.convDone_converts (icvt_elOk h) fun _ _ _ => ?_)
  rw [if_pos hf]
  exact convOfInt_eq ..

theorem icvt_int_runs (h : Ready s (.icvt dst src n4 rm sat d a el nr)) (hf : dst.isFloat = false) :
    Runs (.icvt dst src n4 rm sat d a el nr) s fun t => Converts s t dst src (s.run.rmOf rm) d a el fun w _ x y =>
      let signed := elSigned dst && !(n4 && dst == .s4x8)
      let lo := intLeast signed (elW dst)
      let hi := intGreatest signed (elW dst)
      match (fmtOf src).read x with
      | .nan .. => y = (0, IV)
      | .inf z => y = (((if z then lo else hi) % 2 ^ elW dst).toNat, IV)
      | .fin z m e => ∃ k, (s.run.rmOf rm ≠ .dyn → isRounded (s.run.rmOf rm) w (valueOf (.fin z m e)) k) ∧
        y = if hi < k then ((hi % 2 ^ elW dst).toNat, IV) else if k < lo then ((lo % 2 ^ elW dst).toNat, IV)
          else ((k % 2 ^ elW dst).toNat, if valueOf (.fin z m e) = (k : Rat) then 0 else NX) := by
  refine runs_checked (by rw [exec, execIcvt]) h (State.convDone_converts (icvt_elOk h) fun l k x => ?_)
  rw [if_neg (by rw [hf]; decide)]
  dsimp only
  split
  · rename_i hx
    exact convToInt_nan hx ..
  · rename_i hx
    exact convToInt_inf hx ..
  · rename_i hx
    exact convToInt_fin hx _ _ _ (s.sr_lt l k)

theorem scvn_runs (h : Ready s (.scvn e5m2 rm sat d a b el nr)) : Runs (.scvn e5m2 rm sat d a b el nr) s fun t =>
    Converts s t (byteTy e5m2) .f32 (s.run.rmOf rm) d a el fun w l x y =>
      let scale := fmtF32.read (s.run.op32 b l).toNat
      ((∃ m e, scale = .fin false m e ∧ 2 ^ 23 ≤ m) →
        y = convertedTo fmtF32 (fmtOf (byteTy e5m2)) (s.run.rmOf rm) sat w (fmtF32.read x) (valueOf (fmtF32.read x) / valueOf scale)) ∧
      ((¬ ∃ m e, scale = .fin false m e ∧ 2 ^ 23 ≤ m) → y = ((fmtOf (byteTy e5m2)).cnan, IV)) := by
  have hel : elOk .f32 (byteTy e5m2) el.toNat = true := by
    cases e5m2 <;> exact h.1
  refine runs_checked (by rw [exec, execScvn]) h (State.convDone_converts hel fun _ _ _ => ?_)
  exact ⟨fun ⟨_, _, hs, hm⟩ => scaleNarrow_eq _ _ _ _ _ hs hm, fun hn => (scale_invalid hn ..).1⟩

theorem scvw_runs (h : Ready s (.scvw e5m2 rm sat d a b el nr)) : Runs (.scvw e5m2 rm sat d a b el nr) s fun t =>
    Converts s t .f32 (byteTy e5m2) (s.run.rmOf rm) d a el fun w l x y =>
      let scale := fmtF32.read (s.run.op32 b l).toNat
      ((∃ m e, scale = .fin false m e ∧ 2 ^ 23 ≤ m) →
        y = convertedTo (fmtOf (byteTy e5m2)) fmtF32 (s.run.rmOf rm) sat w ((fmtOf (byteTy e5m2)).read x)
          (valueOf ((fmtOf (byteTy e5m2)).read x) * valueOf scale)) ∧
      ((¬ ∃ m e, scale = .fin false m e ∧ 2 ^ 23 ≤ m) → y = (fmtF32.cnan, IV)) := by
  have hel : elOk (byteTy e5m2) .f32 el.toNat = true := by
    cases e5m2 <;> exact h.1
  refine runs_checked (by rw [exec, execScvw]) h (State.convDone_converts hel fun _ _ _ => ?_)
  exact ⟨fun ⟨_, _, hs, hm⟩ => scaleWiden_eq _ _ _ _ _ hs hm, fun hn => (scale_invalid hn ..).2⟩

end

end Sys2Proof.Machine

namespace Sys2Proof.Claims

open Sys2Proof.Machine

/-- Settles O15: a conversion writes the elements that its placement names (`State.convDone_converts`), each the one rounding of an exact value
(`Fmt.round_rounded`, `roundInt_eq`), also where a scale divides or multiplies it (`scaleNarrow_eq`, `scaleWiden_eq`). -/
theorem conversionsRoundOnce : Obligations.ConversionsRoundOnce := by
  unfold Obligations.ConversionsRoundOnce
  exact fun s dst src n4 e5m2 rm sat nr d a b el => ⟨fcvt_runs, icvt_float_runs, icvt_int_runs, scvn_runs, scvw_runs⟩

end Sys2Proof.Claims
end

section
/-! SUPPORT and CERTIFICATES. The exact accumulators: sums of elements, one rounding, running sums, and moves (R126, R127, R160-R165). -/

namespace Sys2Proof.Machine

open Sys2Proof.Claims

/-! ## ExactAdd of a list of values (R126, R127) -/

/-- A value that an accumulator's unit divides. -/
def FVal.inUnits (x : FVal) : Prop := ∀ s m e, x = .fin s m e → -149 ≤ e

theorem Fmt.minE_le_of_read (q : Fmt) {x : Nat} {s : Bool} {m : Nat} {e : Int} (h : q.read x = .fin s m e) : q.minE ≤ e := by
  unfold Fmt.read at h
  dsimp only at h
  unfold Fmt.minE
  split_ifs at h <;> obtain ⟨-, -, rfl⟩ := FVal.fin.inj h <;> omega

/-- The elements of the types that KADD and KSCN take are in units (R162, R164). -/
theorem inUnits_read {ty : Ty} (h : ty.isF3 = true) (x : Nat) : ((fmtOf ty).read x).inUnits := by
  have hmin : -149 ≤ (fmtOf ty).minE := by
    revert h
    cases ty <;> decide
  exact fun s m e hx => hmin.trans ((fmtOf ty).minE_le_of_read hx)

/-- A finite value in units is a whole number of them. -/
theorem floor_inUnits (s : Bool) (m : Nat) {e : Int} (he : -149 ≤ e) : (valueOf (.fin s m e) * pow2 149).floor = finInt s m e (-149) := by
  obtain ⟨n, hn⟩ := Int.eq_ofNat_of_zero_le (show 0 ≤ e + 149 by omega)
  have hval : valueOf (.fin s m e) * pow2 149 = (finInt s m e (-149) : Int) := by
    rw [valueOf, mul_assoc, ← pow2_add, hn, pow2_natCast, finInt, show e - -149 = n by omega]
    cases s <;> simp
  rw [hval]
  exact Rat.floor_intCast _

/-- The status bits that values set (R126). -/
def statusOf (xs : List FVal) : BitVec 3 :=
  (if xs.any FVal.isNan then 1 else 0) ||| (if xs.contains (.inf false) then 2 else 0) ||| (if xs.contains (.inf true) then 4 else 0)

theorem added_eq (w : WAcc) (xs : List FVal) :
    added w xs = ⟨w.val + BitVec.ofInt 384 ((xs.map fun x => (valueOf x * pow2 149).floor).sum), w.st ||| statusOf xs⟩ := by
  simp only [added, statusOf, BitVec.or_assoc]

theorem statusOf_append (xs ys : List FVal) : statusOf (xs ++ ys) = statusOf xs ||| statusOf ys := by
  have hbits : ∀ a b c d e f : Bool, ((if a || d then 1 else 0) ||| (if b || e then 2 else 0) ||| (if c || f then 4 else 0) : BitVec 3) =
      ((if a then 1 else 0) ||| (if b then 2 else 0) ||| (if c then 4 else 0)) |||
        ((if d then 1 else 0) ||| (if e then 2 else 0) ||| (if f then 4 else 0)) := by decide
  unfold statusOf
  rw [List.any_append, List.contains_append, List.contains_append]
  exact hbits ..

@[simp] theorem added_nil (w : WAcc) : added w [] = w := by
  rw [added_eq]
  simp [statusOf]

/-- Sums of lists follow one another. -/
theorem added_append (w : WAcc) (xs ys : List FVal) : added (added w xs) ys = added w (xs ++ ys) := by
  rw [added_eq, added_eq, added_eq, statusOf_append, List.map_append, List.sum_append, BitVec.ofInt_add, BitVec.add_assoc, BitVec.or_assoc]

/-- The flag that a list of values raises (R127). -/
def snanFlag (xs : List FVal) : Nat := if xs.any FVal.isSnan then IV else 0

theorem snanFlag_append (xs ys : List FVal) : snanFlag (xs ++ ys) = snanFlag xs ||| snanFlag ys := by
  unfold snanFlag
  rw [List.any_append]
  cases xs.any FVal.isSnan <;> cases ys.any FVal.isSnan <;> rfl

/-- ExactAdd of one value (R126). -/
theorem WAcc.add_eq (w : WAcc) {x : FVal} (h : x.inUnits) : w.add x = (added w [x], snanFlag [x]) := by
  have hzero : (0 : ℚ).floor = 0 := rfl
  rw [added_eq]
  cases x with
  | nan s quiet f => cases quiet <;> simp [WAcc.add, snanFlag, FVal.isSnan, statusOf, FVal.isNan, valueOf, hzero]
  | inf s => cases s <;> simp [WAcc.add, snanFlag, FVal.isSnan, statusOf, FVal.isNan, valueOf, hzero]
  | fin s m e => simp [WAcc.add, snanFlag, FVal.isSnan, statusOf, FVal.isNan, floor_inUnits s m (h s m e rfl)]

theorem WAcc.addEls_eq {read : Nat → FVal} (h : ∀ e, (read e).inUnits) (es : List Nat) (w : WAcc) (fl : Nat) :
    w.addEls fl read es = (added w (es.map read), fl ||| snanFlag (es.map read)) := by
  unfold WAcc.addEls
  induction es generalizing w fl with
  | nil => simp [snanFlag]
  | cons e es ih =>
    have hcons : (e :: es).map read = [read e] ++ es.map read := rfl
    rw [List.foldl_cons, hcons, snanFlag_append, ← added_append, ← Nat.or_assoc, w.add_eq (h e)]
    exact ih ..

/-- The elements of lanes, in order. -/
def laneElems (ty : Ty) (x : Nat → Nat → FVal) (ls : List Nat) : List FVal := ls.flatMap fun l => (List.range ty.elems).map (x l)

theorem foldl_addEls {ty : Ty} {x : Nat → Nat → FVal} (h : ∀ l e, (x l e).inUnits) (ls : List Nat) (p : WAcc × Nat) :
    ls.foldl (fun p l => p.1.addEls p.2 (x l) (List.range ty.elems)) p = (added p.1 (laneElems ty x ls), p.2 ||| snanFlag (laneElems ty x ls)) := by
  induction ls generalizing p with
  | nil => simp [laneElems, snanFlag]
  | cons l ls ih =>
    rw [List.foldl_cons, ih, WAcc.addEls_eq (h l), added_append, Nat.or_assoc, ← snanFlag_append]
    rfl

/-- The elements of operand A are in units. -/
theorem fltA_inUnits (s : State) {ty : Ty} (h : ty.isF3 = true) (a : RegNo) (l e : Nat) : (fltA s ty a {} l e).inUnits := inUnits_read h _

/-! ## RoundW (R127) -/

/-- A whole number by its sign and its magnitude. -/
theorem signed_natAbs (x e : Int) : (if decide (x < 0) = true then -1 else 1) * ((x.natAbs : ℚ) / (1 : Nat) * pow2 e) = x * pow2 e := by
  rw [Nat.cast_one, div_one, ← mul_assoc]
  congr 1
  rw [Nat.cast_natAbs, Int.cast_abs]
  split_ifs with h <;> simp only [decide_eq_true_eq] at h
  · rw [abs_of_neg (by exact_mod_cast h), neg_one_mul, neg_neg]
  · rw [abs_of_nonneg (by exact_mod_cast not_lt.1 h), one_mul]

theorem WAcc.round_eq (a : WAcc) (q : Fmt) (rm : Rm) (sat : Bool) (w : Nat) : a.round q rm sat w = roundW q rm sat w a := by
  have hround (x : Int) : q.round rm sat w (decide (x < 0)) x.natAbs 1 (-149) = rounded q rm sat w ((x : ℚ) * pow2 (-149)) false := by
    rw [q.round_rounded rm sat w _ _ Nat.one_pos _ (signed_natAbs x (-149))]
    by_cases hx : x = 0
    · simp [hx]
    · have hne : (x : ℚ) * pow2 (-149) ≠ 0 := mul_ne_zero (by exact_mod_cast hx) (pow2_pos _).ne'
      rw [rounded, rounded, if_neg hne, if_neg hne]
  unfold WAcc.round roundW Fmt.invalid
  simp only [hround]

/-! ## KADD and KRND (R162, R163) -/

theorem Group.clrWa_eq (g : Group) (clr : Bool) (k : BitVec 2) :
    g.clrWa clr k = { g with wa := if clr then g.wa.set k.toNat ⟨0, 0⟩ else g.wa } := by
  cases clr <;> rfl

theorem Group.drew_eq (g : Group) (rm : Rm) : g.drew rm = { g with srSeq := if rm = .rsr then g.srSeq + 1 else g.srSeq } := by
  unfold Group.drew
  split_ifs <;> rfl

/-- An elementwise instruction that changes accumulators too. -/
theorem elementwise_setWa {s u : State} {ty : Ty} {m : VMode} {d : RegNo} {rm : Rm} {f : Nat → Nat → Nat × Nat} (h : elementwise s u ty m d rm f)
    {g : Group} (hg : g = { u.run with wa := g.wa }) : elementwise s { u with run := { g with wa := s.run.wa } } ty m d rm f := by
  have hwa : u.run.wa = s.run.wa := by rw [h.1.2.1]
  rw [hg, ← hwa]
  exact h

section
variable {s : State} {ty : Ty} {rm : Rm} {sat clr excl nr : Bool} {k : BitVec 2} {d a : RegNo} {sd : SReg}

theorem kadd_runs (h : Ready s (.kadd ty k a nr)) : Runs (.kadd ty k a nr) s fun t =>
    becomes s t { s.run with
      wa := s.run.wa.set k.toNat (added s.run.wa[k.toNat] (laneElems ty (fltA s ty a {}) (activeLanes s.run.em)))
      fsr := s.run.fsr ||| (if (laneElems ty (fltA s ty a {}) (activeLanes s.run.em)).any FVal.isSnan then 1 else 0) } s.run.cyc := by
  refine runs_checked (by rw [exec, execKadd]) h ?_
  have hsum := foldl_addEls (ty := ty) (fltA_inUnits s h.1 a) (activeLanes s.run.em) (s.run.wa[k.toNat], 0)
  rw [Nat.zero_or] at hsum
  dsimp only
  rw [show s.run.fa ty a {} = fltA s ty a {} from rfl, hsum]
  refine (congrArg (fun g => becomes s _ g s.run.cyc) ?_).mp (s.done_becomes _ s.run.cyc)
  unfold snanFlag
  split_ifs <;> rfl

theorem krnd_vec_runs (h : Ready s (.krnd ty rm sat clr k (.v d) nr)) : Runs (.krnd ty rm sat clr k (.v d) nr) s fun t =>
    t.run.wa = (if clr then s.run.wa.set k.toNat ⟨0, 0⟩ else s.run.wa) ∧
    elementwise s { t with run := { t.run with wa := s.run.wa } } ty {} d (s.run.rmOf rm)
      fun l e => roundW (fmtOf ty) (s.run.rmOf rm) sat (s.sr l e) s.run.wa[k.toNat] := by
  refine runs_checked (by rw [exec, execKrnd]) h ?_
  simp only [WAcc.round_eq]
  have hstep := s.floatDone_elementwise (.krnd ty rm sat clr k (.v d) nr) ty d {} (s.run.rmOf rm)
    (fun l e => roundW (fmtOf ty) (s.run.rmOf rm) sat (s.sr l e) s.run.wa[k.toNat]) s.run.cyc
  generalize s.floatDone _ _ _ _ _ _ _ = u at hstep ⊢
  have hwa : u.run.wa = s.run.wa := by rw [hstep.1.2.1]
  refine ⟨?_, elementwise_setWa hstep ?_⟩
  · rw [Group.clrWa_eq, hwa]
  · rw [Group.clrWa_eq]

theorem krndScalar_eq (hty : ty.isF4 = true) (x : Nat) :
    krndScalar ty x = BitVec.ofNat 64 (if ty = .f16x2 ∨ ty = .bf16x2 then x % 2 ^ 16 * 2 ^ 16 + x % 2 ^ 16 else x) := by
  have helems : ty.elems = 2 ↔ ty = .f16x2 ∨ ty = .bf16x2 := by
    revert hty
    cases ty <;> decide
  unfold krndScalar
  simp only [helems]

theorem krnd_sca_runs (h : Ready s (.krnd ty rm sat clr k (.s sd) nr)) : Runs (.krnd ty rm sat clr k (.s sd) nr) s fun t =>
    let y := roundW (fmtOf ty) (s.run.rmOf rm) sat (s.sr 0 0) s.run.wa[k.toNat]
    let both := if ty = .f16x2 ∨ ty = .bf16x2 then y.1 % 2 ^ 16 * 2 ^ 16 + y.1 % 2 ^ 16 else y.1
    becomes s t { s.run with
      s := if s.run.em = 0 then s.run.s else s.run.s.set sd.toNat (BitVec.ofNat 64 both)
      fsr := if s.run.em = 0 then s.run.fsr else s.run.fsr ||| BitVec.ofNat 32 y.2
      wa := if clr then s.run.wa.set k.toNat ⟨0, 0⟩ else s.run.wa
      srSeq := if s.run.rmOf rm = .rsr then s.run.srSeq + 1 else s.run.srSeq } 1 := by
  obtain ⟨hty, -⟩ := Bool.and_eq_true_iff.1 h.1
  refine runs_checked (by rw [exec, execKrnd]) h ?_
  dsimp only
  rw [WAcc.round_eq, krndScalar_eq hty, Group.clrWa_eq, Group.drew_eq]
  refine (congrArg (fun g => becomes s _ g 1) ?_).mp (s.done_becomes _ 1)
  by_cases hem : s.run.em = 0
  · simp only [if_pos hem]
  · simp only [if_neg hem]
    rfl

end

/-! ## KSCN (R164) -/

/-- One element of a running sum: the sum before the lane and the lane's elements up to it, rounded once, and its flags. -/
def scanEl (q : Fmt) (r : Rm) (sat excl : Bool) (w' : Nat → Nat) (read : Nat → FVal) (w : WAcc) (e : Nat) : Nat × Nat :=
  let y := roundW q r sat (w' e) (added w ((List.range (if excl then e else e + 1)).map read))
  (y.1, y.2 ||| if (read e).isSnan then IV else 0)

theorem scanEl_added (q : Fmt) (r : Rm) (sat excl : Bool) (w' : Nat → Nat) (read : Nat → FVal) (w : WAcc) (xs : List FVal) (e : Nat) :
    scanEl q r sat excl w' read (added w xs) e =
      let y := roundW q r sat (w' e) (added w (xs ++ (List.range (if excl then e else e + 1)).map read))
      (y.1, y.2 ||| if (read e).isSnan then IV else 0) := by
  rw [scanEl, added_append]

theorem scanLane_eq (q : Fmt) (w' : Nat → Nat) (ty : Ty) (r : Rm) (sat excl : Bool) {read : Nat → FVal} (h : ∀ e, (read e).inUnits) (w : WAcc) :
    scanLane q w' ty r sat excl read w = (added w ((List.range ty.elems).map read), laneF ty (scanEl q r sat excl w' read w)) := by
  unfold scanLane laneF
  induction ty.elems with
  | zero => simp [mapF]
  | succ n ih =>
    have hsum : ((added w ((List.range n).map read)).add (read n)) =
        (added w ((List.range (n + 1)).map read), if (read n).isSnan then IV else 0) := by
      rw [WAcc.add_eq _ (h n), added_append, List.range_succ, List.map_append, List.map_singleton]
      simp [snanFlag]
    have hel : roundW q r sat (w' n) (if excl then added w ((List.range n).map read) else added w ((List.range (n + 1)).map read)) =
        roundW q r sat (w' n) (added w ((List.range (if excl then n else n + 1)).map read)) := by
      split_ifs <;> rfl
    rw [List.range_succ, List.foldl_append, ih, List.foldl_cons, List.foldl_nil]
    dsimp only
    rw [hsum]
    dsimp only
    rw [WAcc.round_eq, hel, ← List.range_succ, mapF, Nat.or_assoc, Nat.or_comm (if (read n).isSnan = true then IV else 0)]
    rfl

theorem filter_lt_cons_of_lt {l k : Nat} (h : l < k) (ls : List Nat) : (l :: ls).filter (· < k) = l :: ls.filter (· < k) :=
  List.filter_cons_of_pos (by simpa using h)

/-- Lanes in ascending order: none is below the first. -/
theorem filter_lt_head {l : Nat} {ls : List Nat} (h : (l :: ls).Pairwise (· < ·)) : (l :: ls).filter (· < l) = [] := by
  rw [List.filter_eq_nil_iff]
  rintro k (_ | ⟨_, hk⟩)
  · simp
  · simpa using (List.rel_of_pairwise_cons h hk).le

/-- The lanes of a running sum, one after the other. -/
def scanStep (f : Nat → WAcc → WAcc × Nat × Nat) (p : WAcc × Tbl (Nat × Nat)) (l : Nat) : WAcc × Tbl (Nat × Nat) :=
  ((f l p.1).1, (l, (f l p.1).2) :: p.2)

section
variable {ty : Ty} {x : Nat → Nat → FVal} {f : Nat → WAcc → WAcc × Nat × Nat} {g : Nat → WAcc → Nat × Nat}
  (hf : ∀ l w, f l w = (added w ((List.range ty.elems).map (x l)), g l w))
include hf

theorem scan_sum (ls : List Nat) (p : WAcc × Tbl (Nat × Nat)) : (ls.foldl (scanStep f) p).1 = added p.1 (laneElems ty x ls) := by
  induction ls generalizing p with
  | nil => simp [laneElems]
  | cons l ls ih =>
    rw [List.foldl_cons, ih, scanStep, hf, added_append]
    rfl

omit hf in
theorem scan_get_other {ls : List Nat} {l : Nat} (h : l ∉ ls) (p : WAcc × Tbl (Nat × Nat)) :
    Tbl.get (0, 0) (ls.foldl (scanStep f) p).2 l = Tbl.get (0, 0) p.2 l := by
  induction ls generalizing p with
  | nil => rfl
  | cons k ls ih =>
    obtain ⟨hk, hls⟩ := not_or.1 (List.mem_cons.not.1 h)
    rw [List.foldl_cons, ih hls]
    exact if_neg (Ne.symm hk)

/-- What a lane gets: its own part of the running sum, after the lanes before it. -/
theorem scan_get {ls : List Nat} (hasc : ls.Pairwise (· < ·)) {l : Nat} (hl : l ∈ ls) (p : WAcc × Tbl (Nat × Nat)) :
    Tbl.get (0, 0) (ls.foldl (scanStep f) p).2 l = g l (added p.1 (laneElems ty x (ls.filter (· < l)))) := by
  induction ls generalizing p with
  | nil => cases hl
  | cons k ls ih =>
    have hlt (j : Nat) (hj : j ∈ ls) : k < j := List.rel_of_pairwise_cons hasc hj
    rw [List.foldl_cons]
    by_cases hk : l = k
    · subst hk
      rw [scan_get_other fun hm => (hlt _ hm).false, filter_lt_head hasc]
      refine (if_pos rfl).trans ?_
      rw [hf]
      simp [laneElems]
    · have hm := (List.mem_cons.1 hl).resolve_left hk
      rw [ih hasc.of_cons hm, filter_lt_cons_of_lt (hlt _ hm), scanStep, hf, added_append]
      rfl

end

theorem kscn_runs {s : State} {ty : Ty} {rm : Rm} {sat excl nr : Bool} {k : BitVec 2} {d a : RegNo} (h : Ready s (.kscn ty rm sat excl k d a nr)) :
    Runs (.kscn ty rm sat excl k d a nr) s fun t =>
      t.run.wa = s.run.wa.set k.toNat (added s.run.wa[k.toNat] (laneElems ty (fltA s ty a {}) (activeLanes s.run.em))) ∧
      elementwise s { t with run := { t.run with wa := s.run.wa } } ty {} d (s.run.rmOf rm) fun l =>
        scanEl (fmtOf ty) (s.run.rmOf rm) sat excl (s.sr l) (fltA s ty a {} l)
          (added s.run.wa[k.toNat] (laneElems ty (fltA s ty a {}) ((activeLanes s.run.em).filter (· < l)))) := by
  set y : Nat → Nat → Nat × Nat := fun l => scanEl (fmtOf ty) (s.run.rmOf rm) sat excl (s.sr l) (fltA s ty a {} l)
    (added s.run.wa[k.toNat] (laneElems ty (fltA s ty a {}) ((activeLanes s.run.em).filter (· < l))))
  have hf (l : Nat) (w : WAcc) := scanLane_eq (fmtOf ty) (s.sr l) ty (s.run.rmOf rm) sat excl (fltA_inUnits s h.1 a l) w
  refine runs_checked (by rw [exec, execKscn]) h ?_
  dsimp only
  rw [show (activeLanes s.run.em).foldl (fun (p : WAcc × Tbl (Nat × Nat)) l =>
      ((scanLane (fmtOf ty) (s.sr l) ty (s.run.rmOf rm) sat excl (s.run.fa ty a {} l) p.1).1,
        (l, (scanLane (fmtOf ty) (s.sr l) ty (s.run.rmOf rm) sat excl (s.run.fa ty a {} l) p.1).2) :: p.2)) (s.run.wa[k.toNat], []) =
    (activeLanes s.run.em).foldl (scanStep fun l w => scanLane (fmtOf ty) (s.sr l) ty (s.run.rmOf rm) sat excl (fltA s ty a {} l) w)
      (s.run.wa[k.toNat], []) from rfl, scan_sum hf]
  have hget {l : Nat} (hl : l ∈ activeLanes s.run.em) := scan_get hf (activeLanes_pairwise s.run.em) hl (s.run.wa[k.toNat], [])
  have hnone {l : Nat} (hl : l ∉ activeLanes s.run.em) := scan_get_other
    (f := fun l w => scanLane (fmtOf ty) (s.sr l) ty (s.run.rmOf rm) sat excl (fltA s ty a {} l) w) hl (s.run.wa[k.toNat], [])
  generalize (activeLanes s.run.em).foldl _ _ = scan at hget hnone ⊢
  have hstep := s.floatDone_step (.kscn ty rm sat excl k d a nr) ty d {} (s.run.rmOf rm) (fun l => Tbl.get (0, 0) scan.2 l) s.run.cyc
    (P := fun l x => ∀ e, e < ty.elems → elBits ty x e = (y l e).1 % 2 ^ elW ty) (n := ty.elems) (fl := fun l e => (y l e).2)
    (fun l => ?_) (fun l hl he e hE => ?_) fun l i hl he => ?_
  · generalize s.floatDone _ _ _ _ _ _ _ = u at hstep ⊢
    have hwa : u.run.wa = s.run.wa := by rw [hstep.1.2.1]
    refine ⟨?_, elementwise_setWa hstep rfl⟩
    dsimp only
    rw [Group.setWa, hwa]
  · by_cases hl : l ∈ activeLanes s.run.em
    · rw [hget hl]
      exact laneF_lt ..
    · rw [hnone hl]
      exact Nat.two_pow_pos _
  · rw [hget (mem_activeLanes _ _ |>.2 ⟨hl, he⟩)]
    exact elBits_laneF ty _ hE
  · rw [hget (mem_activeLanes _ _ |>.2 ⟨hl, he⟩)]
    exact mapF_flags ..

/-! ## KMOV (R165) -/

theorem WAcc.image_lane (w : WAcc) {l : Nat} (hl : l < 12) : (w.image l).toNat = (w.val.extractLsb' (32 * l) 32).toNat := by
  rw [WAcc.image, if_pos hl]

theorem WAcc.ofImage_lane (v : VReg) {l : Nat} (hl : l < 12) : (WAcc.ofImage v).val.extractLsb' (32 * l) 32 = lane v l := by
  ext i hi
  simp [WAcc.ofImage, lane]
  omega

theorem WAcc.ofImage_st (v : VReg) : (WAcc.ofImage v).st = (lane v 12).setWidth 3 := by
  ext i hi
  simp [WAcc.ofImage, lane]
  omega

section
variable {s : State} {k j : BitVec 2} {d a : RegNo} {nr : Bool}

theorem kmovGet_runs (h : Ready s (.kmovGet k d nr)) : Runs (.kmovGet k d nr) s fun t =>
    s.vecStep t false {} d (fun l x =>
      (l < 12 → x = (s.run.wa[k.toNat].val.extractLsb' (32 * l) 32).toNat) ∧ (l = 12 → x = s.run.wa[k.toNat].st.toNat) ∧ (12 < l → x = 0)) ∧
    s.raises t satFlag False := by
  refine runs_checked (by rw [exec, execKmovGet]) h ?_
  have hput : s.run.put32 d {} s.run.wa[k.toNat].image = s.run.putNat false d {} fun l => (s.run.wa[k.toNat].image l).toNat := by
    simp [Group.putNat]
  rw [hput]
  refine s.vecDone_putNat _ false d {} _ _ _ fun l _ _ => ?_
  rw [show 2 ^ (if false = true then 64 else 32) = 2 ^ 32 from rfl, Nat.mod_eq_of_lt (s.run.wa[k.toNat].image l).isLt]
  refine ⟨WAcc.image_lane _, ?_, fun h12 => ?_⟩
  · rintro rfl
    simp [WAcc.image]
    omega
  · rw [WAcc.image, if_neg (by omega), if_neg (by omega)]
    rfl

theorem kmovSet_runs (h : Ready s (.kmovSet k a nr)) : Runs (.kmovSet k a nr) s fun t =>
    (∀ l, l < 12 → t.run.wa[k.toNat].val.extractLsb' (32 * l) 32 = lane (s.run.reg a.toNat) l) ∧
    t.run.wa[k.toNat].st = (lane (s.run.reg a.toNat) 12).setWidth 3 ∧
    becomes s t { s.run with wa := s.run.wa.set k.toNat t.run.wa[k.toNat] } 13 := by
  refine runs_checked (by rw [exec, execKmovSet]) h ?_
  obtain ⟨honly, hrun⟩ := s.done_only (s.run.setWa k (WAcc.ofImage (s.run.reg a.toNat))) 13
  have hwa : (s.done (s.run.setWa k (WAcc.ofImage (s.run.reg a.toNat))) 13).run.wa[k.toNat] = WAcc.ofImage (s.run.reg a.toNat) := by
    rw [hrun]
    exact Vector.getElem_set_self ..
  rw [hwa]
  exact ⟨fun l hl => WAcc.ofImage_lane _ hl, WAcc.ofImage_st _, hrun, honly⟩

theorem kmovCpy_runs : Runs (.kmovCpy k j nr) s fun t => becomes s t { s.run with wa := s.run.wa.set k.toNat s.run.wa[j.toNat] } 1 :=
  ⟨_, rfl, s.done_becomes (s.run.setWa k s.run.wa[j.toNat]) 1⟩

theorem kmovAdd_runs : Runs (.kmovAdd k j nr) s fun t => becomes s t { s.run with
    wa := s.run.wa.set k.toNat ⟨s.run.wa[k.toNat].val + s.run.wa[j.toNat].val, s.run.wa[k.toNat].st ||| s.run.wa[j.toNat].st⟩ } 1 :=
  ⟨_, rfl, s.done_becomes (s.run.setWa k ⟨s.run.wa[k.toNat].val + s.run.wa[j.toNat].val, s.run.wa[k.toNat].st ||| s.run.wa[j.toNat].st⟩) 1⟩

end

end Sys2Proof.Machine

namespace Sys2Proof.Claims

open Sys2Proof.Machine

/-- Settles O17: the sums of the lists of values follow one another, and each result is one RoundW of such a sum. -/
theorem exactAccumulation : Obligations.ExactAccumulation := by
  refine ⟨fun s ty rm sat clr excl nr k d a sd => ⟨kadd_runs, krnd_vec_runs, krnd_sca_runs, fun h => ?_⟩,
    fun s k j d a nr => ⟨kmovGet_runs, kmovSet_runs, kmovCpy_runs, kmovAdd_runs⟩⟩
  obtain ⟨t, ht, hwa, hstep⟩ := kscn_runs h
  exact ⟨t, ht, hwa, (congrArg (elementwise s _ ty {} d _) (funext fun l => funext fun e => scanEl_added ..)).mp hstep⟩

end Sys2Proof.Claims
end

section
/-! SUPPORT and CERTIFICATES. Atomics: read-modify-writes lane by lane in global memory and in scratchpad, the operation that stays
outstanding, and the cells of exact atomics (R126, R199, R229, R234, R235, R243-R246). -/

namespace Sys2Proof.Machine

open Sys2Proof.Claims

/-! ## Writes to memory -/

theorem Memory.writeMask_some (m : Memory) (a : Nat) (bs : List Byte) : Memory.writeMask m a (bs.map some) = Memory.write m a bs := by
  induction bs generalizing m a with
  | nil => rfl
  | cons b bs ih => exact ih ..

theorem Memory.write_append (m : Memory) (a : Nat) (xs ys : List Byte) :
    Memory.write (Memory.write m a xs) (a + xs.length) ys = Memory.write m a (xs ++ ys) := by
  induction xs generalizing m a with
  | nil => rfl
  | cons x xs ih =>
    rw [List.length_cons, ← Nat.add_assoc, Nat.add_right_comm]
    exact ih ..

/-- A write of bytes sets them one by one. -/
theorem Memory.write_eq_foldl (m : Memory) (a : Nat) (bs : List Byte) :
    Memory.write m a bs = (((List.range bs.length).map (a + ·)).zip bs).foldl (fun m x => Memory.set m x.1 x.2) m := by
  induction bs generalizing m a with
  | nil => rfl
  | cons b bs ih =>
    rw [Memory.write, ih, List.length_cons, List.range_succ_eq_map, List.map_cons, List.map_map, List.zip_cons_cons, List.foldl_cons]
    simp only [Function.comp_def, Nat.add_zero, Nat.add_right_comm a, Nat.succ_eq_add_one, ← Nat.add_assoc]

/-! ## A write that no log captures, away from log headers (R238, R260) -/

/-- The running group's grid neither logs its writes nor records its atomics. -/
def State.plainGrid (s : State) : Prop := ∀ x, s.grid? s.run.grid = some x → x.log = false ∧ x.recAtom = false

theorem State.captures_plain {s : State} (h : s.plainGrid) (sector part ctx : Nat) : s.captures sector part ctx s.run.grid = false := by
  have hlog : (s.grid? s.run.grid).elim false (·.log) = false := by
    cases hx : s.grid? s.run.grid with
    | none => rfl
    | some x => exact (h x hx).1
  unfold State.captures
  rw [hlog]
  split
  · rfl
  · rw [Bool.and_false, Bool.false_and, Bool.false_and]

theorem State.recordAtomic_plain {s : State} (h : s.plainGrid) (pa l : Nat) : s.recordAtomic pa l = s := by
  unfold State.recordAtomic
  dsimp only
  split
  · next x c hx hc => rw [(h x hx).2]; rfl
  · rfl

theorem State.keepHeaders_off {s : State} {pb n : Nat} (hoff : offHeaders s pb n) (hn : 0 < n) (m : Memory) :
    ({ s with mem := m } : State).keepHeaders (pb / 32 * 32) = { s with mem := m } := by
  unfold State.keepHeaders
  dsimp only
  rw [List.find?_eq_none.2 fun x hx => ?_]
  rw [Bool.and_eq_true, decide_eq_true_eq, not_and]
  intro hlog
  have := hoff x.1 x.2 hx hlog
  omega

theorem State.performSector_plain {s : State} (h : s.plainGrid) {pb : Nat} {bs : List Byte} (hoff : offHeaders s pb bs.length) (hn : bs ≠ [])
    (part ctx : Nat) : s.performSector pb (bs.map some) true part ctx s.run.grid = { s with mem := Memory.write s.mem pb bs } := by
  unfold State.performSector
  dsimp only
  rw [State.captures_plain h, if_neg (by decide), Memory.writeMask_some, State.keepHeaders_off hoff (List.length_pos_iff.2 hn)]

theorem offHeaders_append {s : State} {pa : Nat} {xs ys : List Byte} (h : offHeaders s pa (xs ++ ys).length) :
    offHeaders s pa xs.length ∧ offHeaders s (pa + xs.length) ys.length := by
  rw [List.length_append] at h
  refine ⟨fun k c hc hlog => ?_, fun k c hc hlog => ?_⟩ <;> have := h k c hc hlog <;> omega

theorem State.performSectors_plain {s : State} (h : s.plainGrid) (n pa : Nat) (bs : List Byte) (hoff : offHeaders s pa bs.length) (part ctx : Nat)
    (hn : bs.length < n) : (splitSectors n pa (bs.map some)).foldl (fun t x => t.performSector x.1 x.2 true part ctx s.run.grid) s =
      { s with mem := Memory.write s.mem pa bs } := by
  induction n generalizing s pa bs with
  | zero => omega
  | succ n ih =>
    unfold splitSectors
    by_cases hb : bs = []
    · subst hb
      rfl
    · have hpos := List.length_pos_iff.2 hb
      rw [if_neg (by simpa using hb)]
      dsimp only
      generalize hk : 32 - pa % 32 = k
      rw [List.foldl_cons, ← List.map_take, ← List.map_drop]
      rw [← List.take_append_drop k bs] at hoff
      obtain ⟨hfirst, hrest⟩ := offHeaders_append hoff
      have htake : bs.take k ≠ [] := List.length_pos_iff.1 (by rw [List.length_take]; omega)
      rw [State.performSector_plain h hfirst htake]
      by_cases hlast : bs.length ≤ k
      · rw [List.drop_of_length_le hlast, List.take_of_length_le hlast]
        cases n <;> rfl
      · have hlen : (bs.take k).length = k := by rw [List.length_take]; omega
        rw [hlen] at hrest
        have hmore := ih (s := { s with mem := Memory.write s.mem pa (bs.take k) }) h (pa + k) (bs.drop k) hrest
          (by rw [List.length_drop]; omega)
        have hall := Memory.write_append s.mem pa (bs.take k) (bs.drop k)
        rw [hlen, List.take_append_drop] at hall
        rw [← hall]
        exact hmore

/-- Bytes that perform are in memory, whatever sectors they lie in. -/
theorem State.perform_plain {s : State} (h : s.plainGrid) {pa : Nat} {bs : List Byte} (hoff : offHeaders s pa bs.length) (part ctx : Nat) :
    s.perform pa (bs.map some) true part ctx s.run.grid = { s with mem := Memory.write s.mem pa bs } :=
  State.performSectors_plain h _ pa bs hoff part ctx (by rw [List.length_map]; omega)

/-! ## What a read-modify-write leaves (R204, R263) -/

/-- Memory changes, and beyond it what a look-up changes; the contexts' logs stay where they are. -/
structure State.Swept (s t : State) : Prop where
  reads : s.Reads { t with mem := s.mem }
  headers : ∀ pa n, offHeaders s pa n → offHeaders t pa n

theorem State.swept_refl (s : State) : s.Swept s := ⟨s.reads_refl, fun _ _ h => h⟩

theorem State.Swept.run {s t : State} (h : s.Swept t) : t.run = s.run := h.reads.run

theorem State.Swept.trans {s t u : State} (h : s.Swept t) (k : t.Swept u) : s.Swept u where
  reads := by
    obtain ⟨honly, hctx, hcore, hcluster, hslice, hpage⟩ := k.reads
    have hmem : ({ t with mem := s.mem } : State).Reads { u with mem := s.mem } :=
      ⟨congrArg (fun v : State => { v with mem := s.mem }) honly, hctx, hcore, hcluster, hslice, hpage⟩
    exact h.reads.trans hmem
  headers pa n ho := k.headers pa n (h.headers pa n ho)

theorem State.Swept.plainGrid {s t : State} (h : s.Swept t) (k : s.plainGrid) : t.plainGrid := by
  have hgrid (g : Nat) : t.grid? g = s.grid? g := by
    have := congrArg State.grids h.reads.only
    exact congrArg (fun x => Tbl.find x g) this
  intro x hx
  rw [h.run, hgrid] at hx
  exact k x hx

theorem State.Looks.swept {s t : State} (h : s.Looks t) : s.Swept t where
  reads := by
    have hr := h.reads
    rw [show ({ t with mem := s.mem } : State) = t by rw [← h.mem]]
    exact hr
  headers pa n ho := by
    have : t.ctxs = s.ctxs := by rw [h.touched.only]
    unfold offHeaders
    rw [this]
    exact ho

theorem State.swept_mem (s : State) (m : Memory) : s.Swept { s with mem := m } := ⟨s.reads_refl, fun _ _ h => h⟩

theorem State.Reads.swept {s t : State} (h : s.Reads t) (k : ∀ pa n, offHeaders s pa n → offHeaders t pa n) : s.Swept t where
  reads := by
    rw [show ({ t with mem := s.mem } : State) = t by rw [h.only]]
    exact h
  headers := k

theorem offHeaders_forgetLine {s : State} {pa n : Nat} (h : offHeaders s pa n) (line : Nat) : offHeaders (s.forgetLine line) pa n := by
  intro k c hc hlog
  obtain ⟨⟨k', c'⟩, hx, he⟩ := List.mem_map.1 hc
  cases he
  exact h k' c' hx hlog

theorem State.swept_touchSlice (s : State) (line : Nat) (need : BitVec 4) (part ctx : Nat) (h : Hint) : s.Swept (s.touchSlice line need part ctx h) := by
  refine (s.reads_touchSlice line need part ctx h).swept fun pa n ho => ?_
  unfold State.touchSlice
  dsimp only
  split_ifs
  · exact ho
  · exact ho
  · split
    · exact offHeaders_forgetLine ho _
    · exact ho

theorem inPage_of_swept {s t : State} {acc : Access} {a : Word} {n pa : Nat} (h : inPage s acc a n pa) (k : s.Swept t) : inPage t acc a n pa := by
  have hp : inPage { t with mem := s.mem } acc a n pa := inPage_of_reads h k.reads
  exact hp

/-! ## Lanes of an atomic in global memory (R235, R243) -/

/-- One lane's read-modify-write in the page. -/
theorem State.rmwGlobal_inPage {s : State} (hg : s.plainGrid) {a : Word} {n pa : Nat} (hal : a.toNat % n = 0) (hn : 0 < n)
    (hp : inPage s .wr a n pa) (hoff : offHeaders s pa n) (f : Nat → Nat) (int : Bool) (l : Nat) (h : Hint) (ord : MOrd) (sco : Scope) :
    ∃ t, s.rmwGlobal a n f int l h ord sco = (t, .ok (leNat ((List.range n).map fun i => Memory.get s.mem (pa + i)))) ∧ s.Swept t ∧
      t.mem = (((List.range n).map (pa + ·)).zip (leBytes (f (leNat ((List.range n).map fun i => Memory.get s.mem (pa + i)))) n)).foldl
        (fun m x => Memory.set m x.1 x.2) s.mem := by
  obtain ⟨t, hloc, hlook⟩ := State.locate1_onPage (State.onPage_of_inPage hp hn) n
  rw [Nat.add_zero] at hloc
  have hlow := inPage_low hp
  have hlook2 := hlook.trans (t.looks_notices ord sco [(.mem pa, n)])
  rw [← Memory.read_eq_map]
  generalize hold : leNat (Memory.read s.mem pa n) = old
  have hrec : (if int then t.recordAtomic pa l else t) = t := by
    rw [State.recordAtomic_plain (hlook.swept.plainGrid hg), ite_self]
  have hperf := State.perform_plain (hlook2.swept.plainGrid hg) (bs := leBytes (f old) n) (by
    rw [leBytes_length]
    exact hlook2.swept.headers pa n hoff) t.run.part t.run.ctx
  have hrun : (t.notices ord sco [(.mem pa, n)]).run = t.run := hlook2.touched.run.trans hlook.touched.run.symm
  rw [hrun, hlook2.mem] at hperf
  have hsw := hlook2.swept.trans (State.swept_mem _ (Memory.write s.mem pa (leBytes (f old) n)))
  refine ⟨_, ?_, hsw.trans (State.swept_touchSlice _ (pa / 128 * 128) (sectorNeed pa n (pa / 128 * 128)) t.run.part t.run.ctx h), ?_⟩
  · unfold State.rmwGlobal
    rw [if_neg (by simpa using hal), hloc]
    dsimp only
    rw [region_dev (by omega), if_pos (by decide), hlook.mem, hold, hrec, hperf, hrun]
  · rw [(State.reads_touchSlice _ _ _ _ _ _).only]
    dsimp only
    rw [Memory.write_eq_foldl, leBytes_length]

theorem State.runLanes_rmwGlobal {s : State} (hg : s.plainGrid) {addr : Nat → Word} {n : Nat} {pa : Nat → Nat} (hn : 0 < n) (f : Nat → Nat → Nat)
    (int : Bool) (h : Hint) (ord : MOrd) (sco : Scope) (ls : List Nat)
    (hl : ∀ l ∈ ls, (addr l).toNat % n = 0 ∧ inPage s .wr (addr l) n (pa l) ∧ offHeaders s (pa l) n) :
    ∃ t, runLanes (fun t l => t.rmwGlobal (addr l) n (f l) int l h ord sco) s ls =
        (t, (rmwAll n (fun l => (List.range n).map (pa l + ·)) f s.mem ls).2, none) ∧ s.Swept t ∧
      t.mem = (rmwAll n (fun l => (List.range n).map (pa l + ·)) f s.mem ls).1 := by
  induction ls generalizing s with
  | nil => exact ⟨s, rfl, s.swept_refl, rfl⟩
  | cons l ls ih =>
    obtain ⟨⟨hal, hp, hoff⟩, hls⟩ := List.forall_mem_cons.1 hl
    obtain ⟨t, ht, hsw, hmem⟩ := State.rmwGlobal_inPage hg hal hn hp hoff (f l) int l h ord sco
    obtain ⟨u, hu, hmore, hmem2⟩ := ih (hsw.plainGrid hg) fun j hj => by
      obtain ⟨h1, h2, h3⟩ := hls j hj
      exact ⟨h1, inPage_of_swept h2 hsw, hsw.headers _ _ h3⟩
    refine ⟨u, ?_, hsw.trans hmore, ?_⟩
    · rw [runLanes, ht]
      dsimp only
      rw [hu, hmem, rmwAll, List.map_map]
      rfl
    · rw [hmem2, hmem, rmwAll, List.map_map]
      rfl

/-! ## The functions of atomics (R244, R245) -/

/-- The integer functions are those of bit vectors. -/
theorem atomNew_eq (fn : AtomFn) {w old b : Nat} (hw : 0 < w) (ho : old < 2 ^ w) (hb : b < 2 ^ w) {keep : Nat} (hk : keep < 2 ^ w) :
    atomNew fn w old b keep = (atomic fn (BitVec.ofNat w old) (BitVec.ofNat w b) (BitVec.ofNat w keep)).toNat := by
  have hnat {x : Nat} (hx : x < 2 ^ w) : (BitVec.ofNat w x).toNat = x := by rw [BitVec.toNat_ofNat, Nat.mod_eq_of_lt hx]
  have hsigned (x y : Nat) : readInt true w x < readInt true w y ↔ (BitVec.ofNat w x).slt (BitVec.ofNat w y) = true := by
    rw [readInt_signed hw, readInt_signed hw, BitVec.slt, decide_eq_true_eq]
  have hunsigned {x y : Nat} (hx : x < 2 ^ w) (hy : y < 2 ^ w) : (BitVec.ofNat w x).ult (BitVec.ofNat w y) = true ↔ x < y := by
    rw [BitVec.ult, decide_eq_true_eq, hnat hx, hnat hy]
  unfold atomNew atomic
  cases fn with
  | add => rw [BitVec.toNat_add, hnat ho, hnat hb]
  | and => rw [BitVec.toNat_and, hnat ho, hnat hb]
  | or => rw [BitVec.toNat_or, hnat ho, hnat hb]
  | xor => rw [BitVec.toNat_xor, hnat ho, hnat hb]
  | smin => simp only [hsigned, apply_ite BitVec.toNat, hnat ho, hnat hb]
  | smax => simp only [hsigned, apply_ite BitVec.toNat, hnat ho, hnat hb]
  | nmin =>
    simp only [hunsigned hb ho, apply_ite BitVec.toNat, hnat ho, hnat hb]
    split_ifs <;> omega
  | nmax =>
    simp only [hunsigned ho hb, apply_ite BitVec.toNat, hnat ho, hnat hb]
    split_ifs <;> omega
  | xchg => exact (hnat hb).symm
  | cas =>
    have heq : BitVec.ofNat w old = BitVec.ofNat w b ↔ old = b :=
      ⟨fun h => by rw [← hnat ho, h, hnat hb], fun h => by rw [h]⟩
    simp only [heq, apply_ite BitVec.toNat, hnat ho, hnat hk]

/-- A finite value counted in units of a power of two below its own. -/
theorem valueOf_finInt (s : Bool) (m : Nat) {e e0 : Int} (h : e0 ≤ e) : valueOf (.fin s m e) = (finInt s m e e0 : Int) * pow2 e0 := by
  obtain ⟨n, hn⟩ := Int.eq_ofNat_of_zero_le (show 0 ≤ e - e0 by omega)
  have he : e = n + e0 := by rw [← hn]; omega
  rw [valueOf, finInt, he, pow2_add, pow2_natCast, show (n + e0 - e0 : Int).toNat = n by omega]
  cases s <;> push_cast <;> simp <;> ring

theorem Fmt.pickNan_eq (q : Fmt) (a b : FVal) : q.pickNan [a, b] = if a.isNan || b.isNan then some (nanOf q [a, b]) else none := by
  unfold Fmt.pickNan nanOf
  cases a <;> cases b <;> rfl

/-- The sum of finite values has one rounding (R130, R147). -/
theorem Fmt.addFin_eq (q : Fmt) (rm : Rm) (sat : Bool) (w : Nat) (s1 : Bool) (m1 : Nat) (e1 : Int) (s2 : Bool) (m2 : Nat) (e2 : Int) :
    q.addFin rm sat w s1 m1 e1 s2 m2 e2 =
      rounded q rm sat w (valueOf (.fin s1 m1 e1) + valueOf (.fin s2 m2 e2)) (if s1 = s2 then s1 else rm == .rdn) := by
  unfold Fmt.addFin
  dsimp only
  generalize he : min e1 e2 = e0
  have h1 : e0 ≤ e1 := he ▸ min_le_left ..
  have h2 : e0 ≤ e2 := he ▸ min_le_right ..
  rw [valueOf_finInt s1 m1 h1, valueOf_finInt s2 m2 h2, ← add_mul, ← Int.cast_add]
  generalize finInt s1 m1 e1 e0 + finInt s2 m2 e2 e0 = x
  by_cases hx : x = 0
  · subst hx
    simp [rounded]
  · rw [if_neg hx]
    have hne : (x : ℚ) * pow2 e0 ≠ 0 := mul_ne_zero (by exact_mod_cast hx) (pow2_pos _).ne'
    rw [q.round_rounded rm sat w _ _ Nat.one_pos _ (signed_natAbs x e0), rounded, rounded, if_neg hne, if_neg hne]

theorem Fmt.add_eq (q : Fmt) (rm : Rm) (sat : Bool) (w : Nat) (a b : FVal) : q.add rm sat w a b = sumOf q rm sat w a b := by
  unfold Fmt.add sumOf
  rw [q.pickNan_eq]
  by_cases hnan : (a.isNan || b.isNan) = true
  · rw [if_pos hnan, if_pos hnan]
  · rw [if_neg hnan, if_neg hnan]
    cases a with
    | nan => exact absurd rfl hnan
    | inf s => cases b <;> rfl
    | fin s m e =>
      cases b with
      | nan => exact absurd (Bool.or_true _) hnan
      | inf => rfl
      | fin s2 m2 e2 => exact q.addFin_eq ..

/-! ## The lanes' values -/

theorem rmwAll_congr {n : Nat} {at_ : Nat → List Nat} {f g : Nat → Nat → Nat} (ls : List Nat) (hat : ∀ l ∈ ls, (at_ l).length = n)
    (h : ∀ l ∈ ls, ∀ old, old < 2 ^ (8 * n) → f l old = g l old) (m : Memory) : rmwAll n at_ f m ls = rmwAll n at_ g m ls := by
  induction ls generalizing m with
  | nil => rfl
  | cons l ls ih =>
    obtain ⟨hl, hls⟩ := List.forall_mem_cons.1 h
    obtain ⟨ha, has⟩ := List.forall_mem_cons.1 hat
    have hold : leNat ((at_ l).map (Memory.get m)) < 2 ^ (8 * n) := by
      have := leNat_lt ((at_ l).map (Memory.get m))
      rwa [List.length_map, ha] at this
    rw [rmwAll, rmwAll, hl _ hold, ih has hls]

theorem rmwAll_lanes (n : Nat) (at_ : Nat → List Nat) (f : Nat → Nat → Nat) (m : Memory) (ls : List Nat) : (rmwAll n at_ f m ls).2.map (·.1) = ls := by
  induction ls generalizing m with
  | nil => rfl
  | cons l ls ih => exact congrArg (l :: ·) (ih _)

theorem laneVal_of_mem {xs : List (Nat × Nat)} (hn : (xs.map (·.1)).Nodup) {l x : Nat} (h : (l, x) ∈ xs) : laneVal xs l = x := by
  suffices hfind : xs.find? (·.1 == l) = some (l, x) by rw [laneVal, hfind]; rfl
  induction xs with
  | nil => cases h
  | cons y ys ih =>
    rw [List.map_cons, List.nodup_cons] at hn
    rcases List.mem_cons.1 h with rfl | hy
    · exact List.find?_cons_of_pos (by simp)
    · have hne : y.1 ≠ l := fun he => hn.1 (he ▸ List.mem_map_of_mem hy)
      rw [List.find?_cons_of_neg (by simpa using hne)]
      exact ih hn.2 hy

/-- The registers of the operation hold what the lanes read. -/
theorem lanesHold_of_mem {xs : List (Nat × Nat)} (hn : (xs.map (·.1)).Nodup) (k : Nat) {l x : Nat} (h : (l, x) ∈ xs) (hl : l < 32) :
    lanesHold (packRegs k xs) l x := by
  intro j hj
  simp only [packRegs, List.getElem_map, List.getElem_range, lane_mkLanes _ hl, laneVal_of_mem hn h]

/-- The old values that an atomic gives its destination. -/
theorem lanesHold_rmwAll (k n : Nat) (at_ : Nat → List Nat) (f : Nat → Nat → Nat) (m : Memory) (em : Lane) {l x : Nat}
    (h : (l, x) ∈ (rmwAll n at_ f m (activeLanes em)).2) : lanesHold (packRegs k (rmwAll n at_ f m (activeLanes em)).2) l x := by
  have hlanes := rmwAll_lanes n at_ f m (activeLanes em)
  have hmem : l ∈ activeLanes em := hlanes ▸ List.mem_map_of_mem h
  refine lanesHold_of_mem ?_ k h ((mem_activeLanes em l).1 hmem).1
  rw [hlanes]
  exact (activeLanes_pairwise em).imp fun hlt => hlt.ne

/-! ## The operation that stays outstanding (R52, R53) -/

/-- A load-class operation issues from a state whose group has taken a watch or a fence alone. -/
theorem State.issued_issueLoad {s u : State} {p : Option Pend} {f : Bool} (hrun : u.run = { s.run with pend := p, relFence := f }) (dst : LoadDst)
    (keys : List ReuseKey) (cyc : Nat) :
    issued s (u.issueLoad dst none keys cyc) ⟨u.nextId, dst, s.run.sets.1, s.run.sets.2, none, keys, s.run.wordAddr⟩ := by
  have hend : (u.issueLoad dst none keys cyc).run = { s.run with
      loads := s.run.loads ++ [⟨u.nextId, dst, s.run.sets.1, s.run.sets.2, none, keys, s.run.wordAddr⟩]
      cf := (s.run.countOp s.run.sets.1 s.run.sets.2).cf, doneMask := 0, word := s.run.word + 1, pend := p, relFence := f } := by
    unfold State.issueLoad
    rw [hrun]
    rfl
  refine ⟨?_, rfl, rfl, fun n hn => ?_⟩
  · rw [hend]
  · rw [hend]
    exact s.run.countOp_flag _ _ hn

theorem State.issueLoad_only (u : State) (dst : LoadDst) (keys : List ReuseKey) (cyc : Nat) : u.issueLoad dst none keys cyc = { u with
    run := (u.issueLoad dst none keys cyc).run, cores := (u.issueLoad dst none keys cyc).cores
    agentCyc := (u.issueLoad dst none keys cyc).agentCyc, nextId := u.nextId + 1 } := by
  have hcharge := u.charge_only cyc
  unfold State.issueLoad
  dsimp only
  rw [hcharge]

/-- The end of an atomic whose lanes have changed memory: the memory of `u`, and beyond it what a load changes. -/
theorem State.issueLoad_mem (u : State) (m : Memory) (dst : LoadDst) (keys : List ReuseKey) (cyc : Nat) :
    ({ u with mem := m } : State).issueLoad dst none keys cyc = { u.issueLoad dst none keys cyc with mem := m } := by
  unfold State.issueLoad State.charge
  dsimp only
  split <;> rfl

theorem State.issueLoad_slices (u : State) (x : Tbl Slice) (dst : LoadDst) (keys : List ReuseKey) (cyc : Nat) :
    ({ u with slices := x } : State).issueLoad dst none keys cyc = { u.issueLoad dst none keys cyc with slices := x } := by
  unfold State.issueLoad State.charge
  dsimp only
  split <;> rfl

/-- The fence of an access of no lane, and its watch, change the group alone (R235, R369). -/
theorem State.noted_eq {s u : State} (hrun : u.run = s.run) (em : Lane) (ord : MOrd) (sco : Scope) (wr rd : Bool) (n : Nat) (as : List Nat) :
    ∃ p f, (u.emptyFence em ord sco).watch wr rd n as = u.setRun { s.run with pend := p, relFence := f } := by
  obtain ⟨p, hp⟩ := (u.emptyFence em ord sco).watch_eq wr rd n as
  rw [State.emptyFence_eq] at hp
  rw [State.emptyFence_eq, hp, ← hrun]
  exact ⟨p, _, rfl⟩

/-- An atomic in global memory ends. -/
theorem State.issueLoad_swept {s u : State} (h : s.Swept u) (p : Option Pend) (f : Bool) (dst : LoadDst) (cyc : Nat) :
    let t := (u.setRun { s.run with pend := p, relFence := f }).issueLoad dst none [] cyc
    t.mem = u.mem ∧ t.spad = s.spad ∧ cachesOnly s { t with mem := s.mem } ∧ (∀ k, (t.core k).buf = (s.core k).buf) ∧
      issued s t ⟨s.nextId, dst, s.run.sets.1, s.run.sets.2, none, [], s.run.wordAddr⟩ := by
  let v : State := { u with mem := s.mem }
  let w := (v.setRun { s.run with pend := p, relFence := f }).issueLoad dst none [] cyc
  intro t
  have ht : t = { w with mem := u.mem } := State.issueLoad_mem (v.setRun { s.run with pend := p, relFence := f }) u.mem dst [] cyc
  obtain ⟨hissued, hcaches, ⟨hmem, hspad, -⟩, -⟩ := State.issueLoad_issued h.reads p f dst [] cyc
  have hw : ({ t with mem := s.mem } : State) = w := by rw [ht, ← hmem]
  refine ⟨by rw [ht], by rw [ht]; exact hspad, hw ▸ hcaches, fun k => ?_, ?_⟩
  · have hbuf : (t.core k).buf = (u.core k).buf := by
      have hcore : t.core k = { u.core k with cyc := (t.core k).cyc } := State.charge_core (u.setRun _) cyc k
      rw [hcore]
    have hu : (u.core k).buf = (s.core k).buf := by
      have := congrArg Core.buf (h.reads.core k)
      exact this
    rw [hbuf, hu]
  · rw [ht]
    exact hissued

section
variable {s : State} {ord : MOrd} {sco : Scope} {d b : RegNo} {base : ABase} {off : BitVec 12} {pa : Nat → Nat}

/-- The lanes of an atomic that have not performed. -/
def Group.todo (g : Group) : Lane := g.em &&& ~~~g.doneMask

/-- An atomic of `n` bytes at `pa` in global memory, and its old values in `regs` registers. -/
def State.RmwGlobal (s t : State) (n regs : Nat) (d : RegNo) (pa : Nat → Nat) (f : Nat → Nat → Nat) : Prop :=
  let r := rmwAll n (fun l => (List.range n).map (pa l + ·)) f s.mem (activeLanes s.run.todo)
  t.mem = r.1 ∧ t.spad = s.spad ∧ cachesOnly s { t with mem := s.mem } ∧ (∀ k, (t.core k).buf = (s.core k).buf) ∧
  ∃ vals, issued s t ⟨s.nextId, .vec d s.run.todo vals, s.run.sets.1, s.run.sets.2, none, [], s.run.wordAddr⟩ ∧ vals.length = regs ∧
    ∀ l x, (l, x) ∈ r.2 → lanesHold vals l x

/-- Every lane of an atomic names `n` bytes of the page, aligned, off the headers of logs. -/
def State.rmwReady (s : State) (n : Nat) (addr : Nat → Word) (pa : Nat → Nat) : Prop :=
  ∀ l, l < 32 → s.run.todo.getLsbD l = true → ((addr l).toNat % n = 0 ∧ inPage s .wr (addr l) n (pa l)) ∧ offHeaders s (pa l) n

/-- The lanes of an atomic in global memory, and its end. -/
theorem State.rmwGlobal_ends (hg : s.plainGrid) {n : Nat} (hn : 0 < n) {addr : Nat → Word} (hl : s.rmwReady n addr pa)
    {f f' : Nat → Nat → Nat} (hf : ∀ l old, old < 2 ^ (8 * n) → f l old = f' l old) (int : Bool) (h : Hint) (ord : MOrd) (sco : Scope) :
    ∃ u olds, runLanes (fun t l => t.rmwGlobal (addr l) n (f l) int l h ord sco) s (activeLanes s.run.todo) = (u, olds, none) ∧
      ∀ (regs : Nat) (d : RegNo) (as : List Nat) (cyc : Nat), s.RmwGlobal (((u.emptyFence s.run.em ord sco).watch true true n as).issueLoad
        (.vec d s.run.todo (packRegs regs olds)) none [] cyc) n regs d pa f' := by
  obtain ⟨u, hu, hsw, hmem⟩ := State.runLanes_rmwGlobal hg hn f int h ord sco (activeLanes s.run.todo) fun l hl' => by
    obtain ⟨h32, hem⟩ := (mem_activeLanes _ l).1 hl'
    obtain ⟨⟨h1, h2⟩, h3⟩ := hl l h32 hem
    exact ⟨h1, h2, h3⟩
  rw [rmwAll_congr (activeLanes s.run.todo) (by simp) fun l _ old => hf l old] at hu hmem
  refine ⟨u, _, hu, fun regs d as cyc => ?_⟩
  obtain ⟨p, g, hnoted⟩ := State.noted_eq hsw.run s.run.em ord sco true true n as
  rw [hnoted]
  obtain ⟨hm, hspad, hcaches, hbuf, hissued⟩ := State.issueLoad_swept hsw p g
    (.vec d s.run.todo (packRegs regs (rmwAll n (fun l => (List.range n).map (pa l + ·)) f' s.mem (activeLanes s.run.todo)).2)) cyc
  exact ⟨hm.trans hmem, hspad, hcaches, hbuf, _, hissued, packRegs_length .., fun l x hx => lanesHold_rmwAll _ _ _ _ _ _ hx⟩

theorem State.atomDone_ok (s : State) (d : RegNo) (n : Nat) (skip : Lane) (w : State) (olds : List (Nat × Nat)) (cyc : Nat) :
    s.atomDone d n skip (w, olds, none) cyc = w.issueLoad (.vec d (s.run.em &&& ~~~skip) (packRegs n olds)) none [] cyc := rfl

/-- The value of lane `l` in a register, or in a pair. -/
def Group.atomVal (g : Group) (wide : Bool) (r : RegNo) (l : Nat) : Nat :=
  if wide then (g.lane64 r.toNat l).toNat else (lane (g.reg r.toNat) l).toNat

theorem Group.atomVal_lt (g : Group) (wide : Bool) (r : RegNo) (l : Nat) : g.atomVal wide r l < 2 ^ (8 * if wide then 8 else 4) := by
  cases wide
  · exact (lane (g.reg r.toNat) l).isLt
  · exact (g.lane64 r.toNat l).isLt

/-- The new value that an integer atomic writes for lane `l` (R244). -/
def Group.atomInt (g : Group) (fn : AtomFn) (wide : Bool) (d b : RegNo) (l old : Nat) : Nat :=
  (atomic fn (BitVec.ofNat (8 * if wide then 8 else 4) old) (BitVec.ofNat (8 * if wide then 8 else 4) (g.atomVal wide b l))
    (BitVec.ofNat (8 * if wide then 8 else 4) (g.atomVal wide d l))).toNat

theorem Group.atomNew_atomInt (g : Group) (fn : AtomFn) {wide : Bool} (d b : RegNo) (l : Nat) {old : Nat} (ho : old < 2 ^ (8 * if wide then 8 else 4)) :
    atomNew fn (8 * if wide then 8 else 4) old (g.atomVal wide b l) (g.atomVal wide d l) = g.atomInt fn wide d b l old :=
  atomNew_eq fn (by cases wide <;> decide) ho (g.atomVal_lt wide b l) (g.atomVal_lt wide d l)

theorem atom_runs {fn : AtomFn} {wide : Bool} {hint : Hint} {prm : Bool} (h : Ready s (.atom fn wide false hint ord sco prm d base b off))
    (hg : s.plainGrid) (hl : s.rmwReady (if wide then 8 else 4) (s.run.aaddr true base (off.signExtend 64)) pa) :
    Runs (.atom fn wide false hint ord sco prm d base b off) s fun t =>
      s.RmwGlobal t (if wide then 8 else 4) (if wide then 2 else 1) d pa (s.run.atomInt fn wide d b) := by
  have hn : 0 < if wide then 8 else 4 := by cases wide <;> decide
  obtain ⟨u, olds, hu, hend⟩ := State.rmwGlobal_ends hg hn hl (fun l old ho => s.run.atomNew_atomInt fn d b l ho) true hint ord sco
  refine ⟨_, ?_, hend (if wide then 2 else 1) d
    ((activeLanes s.run.todo).map fun l => (s.run.aaddr true base (off.signExtend 64) l).toNat) s.run.cyc⟩
  rw [exec, execAtom, State.checked_ok h.2]
  unfold Group.todo at hu ⊢
  unfold Group.atomVal at hu
  simp only [Bool.false_eq_true, if_false, Bool.not_false, hu, Option.isNone_none, Bool.and_self, if_true, State.atomDone_ok]

theorem Group.storeData_one (g : Group) (r : RegNo) (l : Nat) : g.storeData r 1 l = (lane (g.reg r.toNat) l).toNat := by
  simp [Group.storeData]

theorem Group.storeData_two (g : Group) (r : RegNo) (l : Nat) : g.storeData r 2 l = (g.lane64 r.toNat l).toNat := by
  have h0 := (lane (g.reg r.toNat) l).isLt
  rw [Group.lane64, BitVec.toNat_append, ← Nat.shiftLeft_add_eq_or_of_lt h0, Nat.shiftLeft_eq]
  unfold Group.storeData
  rw [show List.range 2 = [0, 1] from rfl, List.map_cons, List.map_cons, List.map_nil, List.sum_cons, List.sum_cons, List.sum_nil, Nat.add_zero,
    Nat.mul_zero, Nat.pow_zero, Nat.mul_one, Nat.mul_one, Nat.add_zero, Nat.add_comm]

theorem Group.storeData_atomVal (g : Group) (wide : Bool) (r : RegNo) (l : Nat) :
    g.storeData r (if wide then 2 else 1) l % 2 ^ (8 * if wide then 8 else 4) = g.atomVal wide r l := by
  rw [← Nat.mod_eq_of_lt (g.atomVal_lt wide r l)]
  congr 1
  cases wide
  · exact g.storeData_one r l
  · exact g.storeData_two r l

/-- The new value that a floating-point atomic writes for lane `l` (R245). -/
def Group.atomFlt (g : Group) (fn : AtmfFn) (wide : Bool) (b : RegNo) (l old : Nat) : Nat :=
  let q := if wide then fmtF64 else fmtF32
  match fn with
  | .add => (sumOf q .rne false 0 (q.read old) (q.read (g.atomVal wide b l))).1
  | .min => (q.minmax .min old (g.atomVal wide b l)).1
  | _ => (q.minmax .max old (g.atomVal wide b l)).1

theorem Group.atmfNew_atomFlt (g : Group) {fn : AtmfFn} (he : fn ≠ .exact) (hb : fn ≠ .exactb) (wide : Bool) (b : RegNo) (l old : Nat) :
    atmfNew fn (if wide then fmtF64 else fmtF32) old (g.atomVal wide b l) = g.atomFlt fn wide b l old := by
  unfold atmfNew Group.atomFlt
  cases fn with
  | add => exact congrArg Prod.fst (Fmt.add_eq ..)
  | min => rfl
  | max => rfl
  | exact => exact absurd rfl he
  | exactb => exact absurd rfl hb

theorem atmf_runs {fn : AtmfFn} {wide : Bool} {hint : Hint} {prm : Bool}
    (h : Ready s (.atmf fn (if wide then .b8 else .b4) hint ord sco prm d base b off)) (he : fn ≠ .exact) (hb : fn ≠ .exactb)
    (hg : s.plainGrid) (hl : s.rmwReady (if wide then 8 else 4) (s.run.aaddr true base (off.signExtend 64)) pa) :
    Runs (.atmf fn (if wide then .b8 else .b4) hint ord sco prm d base b off) s fun t =>
      s.RmwGlobal t (if wide then 8 else 4) (if wide then 2 else 1) d pa (s.run.atomFlt fn wide b) := by
  have hn : 0 < if wide then 8 else 4 := by cases wide <;> decide
  obtain ⟨u, olds, hu, hend⟩ := State.rmwGlobal_ends hg hn hl (f := fun l old => atmfNew fn (if wide then fmtF64 else fmtF32) old (s.run.atomVal wide b l))
    (fun l old _ => s.run.atmfNew_atomFlt he hb wide b l old) false hint ord sco
  refine ⟨_, ?_, hend (if wide then 2 else 1) d
    ((activeLanes s.run.todo).map fun l => (s.run.aaddr true base (off.signExtend 64) l).toNat) s.run.cyc⟩
  have hbytes : Sz.bytes (if wide then .b8 else .b4) = if wide then 8 else 4 := by cases wide <;> rfl
  have hregs : Sz.regs (if wide then .b8 else .b4) = if wide then 2 else 1 := by cases wide <;> rfl
  have hfmt : atmfFmt fn (if wide then .b8 else .b4) = if wide then fmtF64 else fmtF32 := by
    cases fn with
    | exact => exact absurd rfl he
    | exactb => exact absurd rfl hb
    | add | min | max => cases wide <;> rfl
  have hexact : (decide (fn = .exact) || decide (fn = .exactb)) = false := by simp [he, hb]
  rw [exec, execAtmf, State.checked_ok h.2]
  simp only [hexact, hbytes, hregs, hfmt, Group.storeData_atomVal]
  unfold Group.todo at hu ⊢
  simp only [Bool.false_eq_true, if_false, Bool.false_and, hu, Option.isNone_none, if_true, State.atomDone_ok]

end

/-! ## Scratchpad bytes after a rise of a window's generation (R87, R197, R199) -/

theorem mapM_map {α β γ : Type} (f : α → Option β) (g : β → γ) (xs : List α) :
    (xs.mapM f).map (List.map g) = xs.mapM fun x => (f x).map g := by
  induction xs with
  | nil => rfl
  | cons x xs ih =>
    rw [List.mapM_cons, List.mapM_cons, ← ih]
    cases f x <;> cases xs.mapM f <;> rfl

/-- Where an entry is replaced by one of which a property holds as before, it holds of the same entries. -/
theorem Tbl.any_put {α : Type} (p : α → Bool) (t : Tbl α) {n : Nat} {x y : α} (hy : Tbl.find t n = some y) (hp : p x = p y) :
    (Tbl.put t n x).any (fun kv => p kv.2) = t.any fun kv => p kv.2 := by
  induction t with
  | nil => cases hy
  | cons kv t ih =>
    obtain ⟨k, v⟩ := kv
    unfold Tbl.find at hy
    unfold Tbl.put
    by_cases hk : k = n
    · subst hk
      rw [if_pos rfl] at hy
      cases hy
      simp [hp]
    · rw [if_neg hk] at hy
      have hrest := ih hy
      by_cases hlt : n < k
      · have hin : p y = true → (t.any fun kv => p kv.2) = true := fun h => List.any_eq_true.2 ⟨(n, y), Tbl.mem_of_find hy, h⟩
        rw [if_pos hlt, List.any_cons, hp, List.any_cons]
        cases hpy : p y with
        | false => rfl
        | true => rw [hin hpy, Bool.or_true]; rfl
      · rw [if_neg hlt, if_neg (Ne.symm hk), List.any_cons, List.any_cons, hrest]

/-- Teams lie where they lay. -/
structure State.SameWindows (s t : State) : Prop where
  grids : t.grids = s.grids
  own : ∀ k, (t.team? k).map (fun y => (y.winRows, y.winBase)) = (s.team? k).map fun y => (y.winRows, y.winBase)
  any : ∀ p : Team → Bool, (∀ y g, p { y with winGen := g } = p y) → (t.teams.any fun kv => p kv.2) = s.teams.any fun kv => p kv.2

theorem State.SameWindows.trans {s t u : State} (h : s.SameWindows t) (k : t.SameWindows u) : s.SameWindows u :=
  ⟨k.grids.trans h.grids, fun n => (k.own n).trans (h.own n), fun p hp => (k.any p hp).trans (h.any p hp)⟩

/-- The part of a core's state that a lapse of reuse entries changes. -/
theorem State.lapse_only (s : State) (core tag : Nat) : s.lapse core tag = { s with cores := (s.lapse core tag).cores } := by
  unfold State.lapse
  dsimp only
  split_ifs <;> rfl

theorem State.raiseGen_only (s : State) (k : Nat) :
    s.raiseGen k = { s with teams := (s.raiseGen k).teams, cores := (s.raiseGen k).cores, nextId := (s.raiseGen k).nextId } := by
  unfold State.raiseGen
  split
  · rw [State.lapse_only]
    rfl
  · rfl

theorem State.sameWindows_raiseGen (s : State) (k : Nat) : s.SameWindows (s.raiseGen k) := by
  unfold State.raiseGen
  split
  · next t ht =>
    rw [State.lapse_only]
    refine ⟨rfl, fun n => ?_, fun p hp => Tbl.any_put p s.teams ht (hp t _)⟩
    show (Tbl.find (Tbl.put s.teams k { t with winGen := s.nextId }) n).map _ = (Tbl.find s.teams n).map _
    by_cases hn : n = k
    · subst hn
      rw [Tbl.find_put_same, show Tbl.find s.teams n = some t from ht]
      rfl
    · rw [Tbl.find_put_ne _ _ hn]
  · exact ⟨rfl, fun _ => rfl, fun _ _ => rfl⟩

/-- The key of a scratchpad byte, without the team whose window it lies in. -/
theorem State.SameWindows.key {s t : State} (h : s.SameWindows t) (g : Group) (a : Nat) :
    (t.spadByte g a).map (·.1) = (s.spadByte g a).map (·.1) := by
  have hwin (core off : Nat) : (t.winAt g core off).isSome = (s.winAt g core off).isSome := by
    unfold State.winAt State.grid?
    rw [Option.isSome_map, Option.isSome_map, List.isSome_find?, List.isSome_find?, h.grids]
    exact h.any (fun y => y.holds (24 * g.cluster + core) off && (g.kind != .compute ||
      (Tbl.find s.grids y.grid).elim false (·.part == g.part))) fun _ _ => rfl
  have hown := h.own g.teamKey
  have hconst (x y : Option Nat) (v : Nat) (hxy : x.isSome = y.isSome) : (x.map fun k => (v, k)).map (·.1) = (y.map fun k => (v, k)).map (·.1) := by
    cases x <;> cases y <;> simp_all
  unfold State.spadByte
  dsimp only
  split_ifs
  · rfl
  · cases hs : s.team? g.teamKey with
    | none =>
      rw [hs] at hown
      rw [Option.map_eq_none_iff.1 hown]
    | some y =>
      rw [hs] at hown
      obtain ⟨x, hx, hxy⟩ := Option.map_eq_some_iff.1 hown
      obtain ⟨hrows, hbase⟩ := Prod.mk.inj hxy
      rw [hx]
      dsimp only
      rw [hrows, hbase]
  · rfl
  · rfl
  · exact hconst _ _ _ (hwin ..)

theorem State.SameWindows.places {s t : State} (h : s.SameWindows t) (g : Group) (a : Word) (n : Nat) :
    (t.spadBytes g a n).map (List.map (·.1)) = (s.spadBytes g a n).map (List.map (·.1)) := by
  unfold State.spadBytes
  rw [mapM_map, mapM_map]
  simp only [h.key]

/-! ## Lanes of an atomic in scratchpad (R235, R243) -/

/-- Scratchpad changes, and generations of windows rise. -/
structure State.SpadOnly (s t : State) : Prop where
  only : t = { s with spad := t.spad, teams := t.teams, cores := t.cores, nextId := t.nextId }
  wins : s.SameWindows t

theorem State.spadOnly_refl (s : State) : s.SpadOnly s := ⟨rfl, rfl, fun _ => rfl, fun _ _ => rfl⟩

theorem State.spadOnly_spad (s : State) (m : Memory) : s.SpadOnly { s with spad := m } := ⟨rfl, rfl, fun _ => rfl, fun _ _ => rfl⟩

theorem State.SpadOnly.trans {s t u : State} (h : s.SpadOnly t) (k : t.SpadOnly u) : s.SpadOnly u :=
  ⟨k.only.trans (by rw [h.only]), h.wins.trans k.wins⟩

theorem State.SpadOnly.run {s t : State} (h : s.SpadOnly t) : t.run = s.run := by rw [h.only]

theorem State.raiseGens_spad (ks : List Nat) (s : State) : s.SpadOnly (ks.foldl (fun t k => t.raiseGen k) s) ∧
    (ks.foldl (fun t k => t.raiseGen k) s).spad = s.spad := by
  refine List.foldlRecOn ks _ (motive := fun t => s.SpadOnly t ∧ t.spad = s.spad) ⟨s.spadOnly_refl, rfl⟩ fun t ⟨h, hs⟩ k _ => ?_
  have honly := t.raiseGen_only k
  have hspad : (t.raiseGen k).spad = t.spad := by rw [honly]
  refine ⟨h.trans ⟨?_, t.sameWindows_raiseGen k⟩, hspad.trans hs⟩
  rw [hspad]
  exact honly

/-- One lane's read-modify-write in scratchpad. -/
theorem State.rmwSpad_at {s : State} {a : Word} {n : Nat} (hal : a.toNat % n = 0) {ps : List Nat}
    (hp : (s.spadBytes s.run a n).map (List.map (·.1)) = some ps) (f : Nat → Nat) :
    ∃ t, s.rmwSpad a n f = (t, .ok (leNat (ps.map (Memory.get s.spad)))) ∧ s.SpadOnly t ∧
      t.spad = (ps.zip (leBytes (f (leNat (ps.map (Memory.get s.spad)))) n)).foldl (fun m x => Memory.set m x.1 x.2) s.spad := by
  obtain ⟨ks, hks, rfl⟩ := Option.map_eq_some_iff.1 hp
  have hzip (bs : List Byte) : ((ks.map (·.1)).zip bs).foldl (fun m x => Memory.set m x.1 x.2) s.spad =
      (ks.zip bs).foldl (fun m x => Memory.set m x.1.1 x.2) s.spad := by
    rw [List.zip_map_left, List.foldl_map]
    rfl
  obtain ⟨hgens, hspad⟩ := State.raiseGens_spad (ks.map (·.2)).dedup
    { s with spad := (ks.zip (leBytes (f (leNat ((ks.map (·.1)).map (Memory.get s.spad)))) n)).foldl (fun m x => Memory.set m x.1.1 x.2) s.spad }
  refine ⟨_, ?_, (s.spadOnly_spad _).trans hgens, hspad.trans (hzip _).symm⟩
  unfold State.rmwSpad
  rw [if_neg (by simpa using hal), hks]
  dsimp only
  rw [List.map_map]
  rfl

theorem State.runLanes_rmwSpad {s : State} {addr : Nat → Word} {n : Nat} {at_ : Nat → List Nat} (f : Nat → Nat → Nat) (ls : List Nat)
    (hl : ∀ l ∈ ls, (addr l).toNat % n = 0 ∧ (s.spadBytes s.run (addr l) n).map (List.map (·.1)) = some (at_ l)) :
    ∃ t, runLanes (fun t l => t.rmwSpad (addr l) n (f l)) s ls = (t, (rmwAll n at_ f s.spad ls).2, none) ∧ s.SpadOnly t ∧
      t.spad = (rmwAll n at_ f s.spad ls).1 := by
  induction ls generalizing s with
  | nil => exact ⟨s, rfl, s.spadOnly_refl, rfl⟩
  | cons l ls ih =>
    obtain ⟨⟨hal, hp⟩, hls⟩ := List.forall_mem_cons.1 hl
    obtain ⟨t, ht, honly, hspad⟩ := State.rmwSpad_at hal hp (f l)
    obtain ⟨u, hu, hmore, hspad2⟩ := ih fun j hj => by
      obtain ⟨h1, h2⟩ := hls j hj
      exact ⟨h1, by rw [honly.run, honly.wins.places, h2]⟩
    refine ⟨u, ?_, honly.trans hmore, ?_⟩
    · rw [runLanes, ht]
      dsimp only
      rw [hu, hspad, rmwAll]
    · rw [hspad2, hspad, rmwAll]

theorem length_of_mapM_some {α β : Type} {f : α → Option β} {xs : List α} {ys : List β} (h : xs.mapM f = some ys) : ys.length = xs.length := by
  induction xs generalizing ys with
  | nil => cases h; rfl
  | cons x xs ih =>
    rw [List.mapM_cons] at h
    obtain ⟨y, -, h⟩ := Option.bind_eq_some_iff.1 h
    obtain ⟨zs, hzs, h⟩ := Option.bind_eq_some_iff.1 h
    cases h
    rw [List.length_cons, List.length_cons, ih hzs]

theorem State.spadBytes_length {s : State} {g : Group} {a : Word} {n : Nat} {ks : List (Nat × Nat)} (h : s.spadBytes g a n = some ks) :
    ks.length = n := by
  rw [length_of_mapM_some h, List.length_range]

theorem atomSpad_runs {s : State} {fn : AtomFn} {wide : Bool} {hint : Hint} {ord : MOrd} {sco : Scope} {prm : Bool} {d : RegNo} {base : ABase}
    {b : RegNo} {off : BitVec 12} {ks : Nat → List (Nat × Nat)} (h : Ready s (.atom fn wide true hint ord sco prm d base b off))
    (hl : ∀ l, l < 32 → s.run.todo.getLsbD l = true → (s.run.aaddr false base (off.signExtend 64) l).toNat % (if wide then 8 else 4) = 0 ∧
      s.spadBytes s.run (s.run.aaddr false base (off.signExtend 64) l) (if wide then 8 else 4) = some (ks l)) :
    Runs (.atom fn wide true hint ord sco prm d base b off) s fun t =>
      let r := rmwAll (if wide then 8 else 4) (fun l => (ks l).map (·.1)) (s.run.atomInt fn wide d b) s.spad (activeLanes s.run.todo)
      t.mem = s.mem ∧ t.spad = r.1 ∧ t = { s with
        run := t.run, cores := t.cores, agentCyc := t.agentCyc, spad := t.spad, teams := t.teams, nextId := t.nextId } ∧
      ∃ vals, issued s t ⟨t.nextId - 1, .vec d s.run.todo vals, s.run.sets.1, s.run.sets.2, none, [], s.run.wordAddr⟩ ∧
        vals.length = (if wide then 2 else 1) ∧ ∀ l x, (l, x) ∈ r.2 → lanesHold vals l x := by
  obtain ⟨u, hu, honly, hspad⟩ := State.runLanes_rmwSpad (s := s) (at_ := fun l => (ks l).map (·.1))
    (fun l old => atomNew fn (8 * if wide then 8 else 4) old (s.run.atomVal wide b l) (s.run.atomVal wide d l)) (activeLanes s.run.todo)
    fun l hl' => by
      obtain ⟨h32, hem⟩ := (mem_activeLanes _ l).1 hl'
      obtain ⟨h1, h2⟩ := hl l h32 hem
      exact ⟨h1, by rw [h2]; rfl⟩
  have hlen (l : Nat) (hl' : l ∈ activeLanes s.run.todo) : ((ks l).map (·.1)).length = if wide then 8 else 4 := by
    obtain ⟨h32, hem⟩ := (mem_activeLanes _ l).1 hl'
    rw [List.length_map]
    exact State.spadBytes_length (hl l h32 hem).2
  rw [rmwAll_congr (activeLanes s.run.todo) hlen fun l _ old ho => s.run.atomNew_atomInt fn d b l ho] at hu hspad
  have hhold (l x : Nat) := lanesHold_rmwAll (if wide then 2 else 1) (if wide then 8 else 4) (fun l => (ks l).map (·.1)) (s.run.atomInt fn wide d b)
    s.spad s.run.todo (l := l) (x := x)
  generalize rmwAll _ _ _ s.spad (activeLanes s.run.todo) = r at hu hspad hhold ⊢
  have hexec : exec (.atom fn wide true hint ord sco prm d base b off) s = .next ((u.emptyFence s.run.em ord sco).issueLoad
      (.vec d s.run.todo (packRegs (if wide then 2 else 1) r.2)) none [] s.run.cyc) := by
    rw [exec, execAtom, State.checked_ok h.2]
    unfold Group.todo at hu ⊢
    unfold Group.atomVal at hu
    simp only [if_true, Bool.not_true, Bool.and_false, Bool.false_eq_true, if_false, hu, State.atomDone_ok]
  refine ⟨_, hexec, ?_⟩
  rw [State.emptyFence_eq, honly.run]
  have hissued := State.issued_issueLoad (s := s) (p := s.run.pend) (u := u.setRun { s.run with
    relFence := s.run.relFence || (s.run.em == 0 && ord.releases && sco == .core) }) rfl
    (.vec d s.run.todo (packRegs (if wide then 2 else 1) r.2)) [] s.run.cyc
  have honly2 := State.issueLoad_only (u.setRun { s.run with
    relFence := s.run.relFence || (s.run.em == 0 && ord.releases && sco == .core) })
    (.vec d s.run.todo (packRegs (if wide then 2 else 1) r.2)) [] s.run.cyc
  generalize State.issueLoad _ _ _ _ _ = t at hissued honly2
  have hid : t.nextId - 1 = u.nextId := by rw [honly2]; rfl
  have hmem : t.mem = s.mem := by rw [honly2, honly.only]; rfl
  have hts : t.spad = u.spad := by rw [honly2]; rfl
  refine ⟨hmem, hts.trans hspad, ?_, _, hid ▸ hissued, packRegs_length .., ?_⟩
  · rw [hts, show t.teams = u.teams by rw [honly2]; rfl, show t.nextId = u.nextId + 1 by rw [honly2]; rfl]
    conv_lhs => rw [honly2, honly.only]
    rfl
  · exact hhold

/-! ## The cells of exact atomics (R229, R246) -/

/-- The cells of a slice after an exact atomic of the value `x` at `pa`: it is added to the cell of its location and grid, or opens one (R246). -/
def feedCell (grid pa : Nat) (ty : Ty) (x : FVal) (base : Lane) (cells : List Cell) : List Cell :=
  match cells.find? fun c => c.loc == pa && c.grid == grid with
  | some c => cells.map fun y => if y = c then { c with acc := added c.acc [x] } else y
  | none => cells ++ [⟨pa, ty, added ⟨0, 0⟩ [x], base, grid⟩]

section
variable {grid pa : Nat} {ty : Ty} {x : FVal} {base : Lane} {cells : List Cell}

theorem feedCell_some {c : Cell} (h : (cells.find? fun c => c.loc == pa && c.grid == grid) = some c) :
    feedCell grid pa ty x base cells = cells.map fun y => if y = c then { c with acc := added c.acc [x] } else y := by
  rw [feedCell, h]

theorem feedCell_none (h : (cells.find? fun c => c.loc == pa && c.grid == grid) = none) :
    feedCell grid pa ty x base cells = cells ++ [⟨pa, ty, added ⟨0, 0⟩ [x], base, grid⟩] := by
  rw [feedCell, h]

end

theorem feedCell_length (grid pa : Nat) (ty : Ty) (x : FVal) (base : Lane) (cells : List Cell) :
    (feedCell grid pa ty x base cells).length ≤ cells.length + 1 := by
  unfold feedCell
  split <;> simp

/-- A cell after an exact atomic has the format of one that was there, or that of the atomic. -/
theorem fmt_of_mem_feedCell {grid pa : Nat} {ty : Ty} {x : FVal} {base : Lane} {cells : List Cell} {c : Cell}
    (h : c ∈ feedCell grid pa ty x base cells) : c.fmt = ty ∨ ∃ y ∈ cells, y.loc = c.loc ∧ y.grid = c.grid ∧ y.fmt = c.fmt := by
  unfold feedCell at h
  split at h
  · obtain ⟨y, hy, rfl⟩ := List.mem_map.1 h
    right
    refine ⟨y, hy, ?_⟩
    split_ifs with heq
    · subst heq
      exact ⟨rfl, rfl, rfl⟩
    · exact ⟨rfl, rfl, rfl⟩
  · rcases List.mem_append.1 h with hc | hc
    · exact .inr ⟨c, hc, rfl, rfl, rfl⟩
    · rw [List.mem_singleton] at hc
      subst hc
      exact .inl rfl

/-- Cells change, and beyond them what a look-up changes. -/
structure State.Fed (s t : State) (cells : Nat → List Cell) : Prop where
  reads : s.Reads { t with slices := s.slices }
  slice : ∀ k, t.slice k = { s.slice k with
    cells := cells k, lines := (t.slice k).lines, sharers := (t.slice k).sharers, ctrs := (t.slice k).ctrs }

theorem State.fed_refl (s : State) : s.Fed s fun k => (s.slice k).cells := ⟨s.reads_refl, fun _ => rfl⟩

theorem State.Fed.run {s t : State} {cells : Nat → List Cell} (h : s.Fed t cells) : t.run = s.run := h.reads.run

theorem State.Fed.mem {s t : State} {cells : Nat → List Cell} (h : s.Fed t cells) : t.mem = s.mem := by
  have := congrArg State.mem h.reads.only
  exact this

theorem State.Fed.cells {s t : State} {cells : Nat → List Cell} (h : s.Fed t cells) (k : Nat) : (t.slice k).cells = cells k := by rw [h.slice k]

theorem State.Fed.trans {s t u : State} {c d : Nat → List Cell} (h : s.Fed t c) (k : t.Fed u d) : s.Fed u d where
  reads := by
    obtain ⟨honly, hctx, hcore, hcluster, -, hpage⟩ := k.reads
    have hslices : ({ t with slices := s.slices } : State).Reads { u with slices := s.slices } :=
      ⟨congrArg (fun v : State => { v with slices := s.slices }) honly, hctx, hcore, hcluster, fun _ => rfl, hpage⟩
    exact h.reads.trans hslices
  slice n := by
    have hn := k.slice n
    rw [h.slice n] at hn
    exact hn

theorem State.Reads.fed {s t : State} (h : s.Reads t) : s.Fed t fun k => (s.slice k).cells where
  reads := ⟨congrArg (fun v : State => { v with slices := s.slices }) h.only, h.ctx, h.core, h.cluster, fun _ => rfl, h.page⟩
  slice := h.slice

theorem State.fed_setSlice (s : State) (k : Nat) (cells : List Cell) :
    s.Fed (s.setSlice k { s.slice k with cells := cells }) fun j => if j = k then cells else (s.slice j).cells where
  reads := s.reads_refl
  slice j := by
    by_cases hj : j = k
    · subst hj
      rw [State.slice_setSlice, if_pos rfl]
    · rw [State.slice_setSlice_ne _ _ hj, if_neg hj]

theorem inPage_of_fed {s t : State} {acc : Access} {a : Word} {n pa : Nat} {cells : Nat → List Cell} (h : inPage s acc a n pa)
    (k : s.Fed t cells) : inPage t acc a n pa := by
  have hp : inPage { t with slices := s.slices } acc a n pa := inPage_of_reads h k.reads
  exact hp

/-- One lane's exact atomic in the page, at a slice with room for a cell. -/
theorem State.exactAdd_inPage {s : State} {a : Word} {n pa : Nat} (hal : a.toNat % n = 0) (hn : 0 < n) (hp : inPage s .wr a n pa) {ty : Ty}
    {x : FVal} (hx : x.inUnits) (hlen : (s.slice (homeSlice pa)).cells.length < 256)
    (hfmt : ∀ c ∈ (s.slice (homeSlice pa)).cells, c.grid = s.run.grid → c.loc = pa → c.fmt = ty) (h : Hint) :
    ∃ t, s.exactAdd a n ty x h = (t, .ok 0) ∧ s.Fed t fun k =>
      if k = homeSlice pa then feedCell s.run.grid pa ty x (BitVec.ofNat 32 (leNat (Memory.read s.mem pa n))) (s.slice k).cells
      else (s.slice k).cells := by
  obtain ⟨t, hloc, hlook⟩ := State.locate1_onPage (State.onPage_of_inPage hp hn) n
  rw [Nat.add_zero] at hloc
  have hlow := inPage_low hp
  have hreads := hlook.reads.trans (t.reads_touchSlice (pa / 128 * 128) (sectorNeed pa n (pa / 128 * 128)) t.run.part t.run.ctx h)
  have hrun : t.run = s.run := hlook.touched.run
  have hdev : (region pa != .dev) = false := by rw [region_dev (by omega)]; rfl
  obtain ⟨u, hu⟩ : ∃ u, u = t.touchSlice (pa / 128 * 128) (sectorNeed pa n (pa / 128 * 128)) t.run.part t.run.ctx h := ⟨_, rfl⟩
  rw [← hu] at hreads
  have hfed := hreads.fed
  have hcells := hfed.cells (homeSlice pa)
  have hstep := hfed.trans (u.fed_setSlice (homeSlice pa)
    (feedCell s.run.grid pa ty x (BitVec.ofNat 32 (leNat (Memory.read s.mem pa n))) (s.slice (homeSlice pa)).cells))
  refine ⟨u.setSlice (homeSlice pa) { u.slice (homeSlice pa) with
    cells := feedCell s.run.grid pa ty x (BitVec.ofNat 32 (leNat (Memory.read s.mem pa n))) (s.slice (homeSlice pa)).cells }, ?_, ?_⟩
  · unfold State.exactAdd
    rw [if_neg (by simpa using hal), hloc]
    dsimp only
    rw [hdev, if_neg Bool.false_ne_true, ← hu, hcells, hrun, hfed.mem]
    cases hc : (s.slice (homeSlice pa)).cells.find? fun c => c.loc == pa && c.grid == s.run.grid with
    | some c =>
      have hkey := List.find?_some hc
      rw [Bool.and_eq_true, beq_iff_eq, beq_iff_eq] at hkey
      obtain ⟨hl, hg⟩ := hkey
      dsimp only
      rw [if_pos (hfmt c (List.mem_of_find?_eq_some hc) hg hl), feedCell_some hc, c.acc.add_eq hx]
      simp only [beq_iff_eq]
    | none =>
      dsimp only
      rw [if_pos hlen, feedCell_none hc, WAcc.add_eq _ hx]
  · convert hstep using 2 with k
    rw [hfed.cells k]
    by_cases hk : k = homeSlice pa
    · rw [if_pos hk, if_pos hk, hk]
    · rw [if_neg hk, if_neg hk]

theorem State.runLanes_exactAdd {s : State} {addr : Nat → Word} {n : Nat} {pa : Nat → Nat} (hn : 0 < n) {ty : Ty} {x : Nat → FVal}
    (hx : ∀ l, (x l).inUnits) (h : Hint) (ls : List Nat) (hl : ∀ l ∈ ls, (addr l).toNat % n = 0 ∧ inPage s .wr (addr l) n (pa l))
    (hlen : ∀ k, (s.slice k).cells.length + ls.length ≤ 256)
    (hfmt : ∀ k, ∀ c ∈ (s.slice k).cells, c.grid = s.run.grid → (∃ l ∈ ls, c.loc = pa l) → c.fmt = ty) :
    ∃ t vs, runLanes (fun t l => t.exactAdd (addr l) n ty (x l) h) s ls = (t, vs, none) ∧ s.Fed t fun k =>
      (ls.filter fun l => homeSlice (pa l) == k).foldl
        (fun cells l => feedCell s.run.grid (pa l) ty (x l) (BitVec.ofNat 32 (leNat (Memory.read s.mem (pa l) n))) cells) (s.slice k).cells := by
  induction ls generalizing s with
  | nil => exact ⟨s, [], rfl, s.fed_refl⟩
  | cons l ls ih =>
    obtain ⟨⟨hal, hp⟩, hls⟩ := List.forall_mem_cons.1 hl
    have hroom (k : Nat) := hlen k
    simp only [List.length_cons] at hroom
    obtain ⟨t, ht, hfed⟩ := State.exactAdd_inPage hal hn hp (hx l) (by have := hroom (homeSlice (pa l)); omega)
      (fun c hc hg hloc => hfmt _ c hc hg ⟨l, List.mem_cons_self, hloc⟩) h
    obtain ⟨u, vs, hu, hmore⟩ := ih (s := t) (fun j hj => ⟨(hls j hj).1, inPage_of_fed (hls j hj).2 hfed⟩)
      (fun k => by
        have := hroom k
        rw [hfed.cells k]
        split_ifs
        · have := feedCell_length s.run.grid (pa l) ty (x l) (BitVec.ofNat 32 (leNat (Memory.read s.mem (pa l) n))) (s.slice k).cells
          omega
        · omega)
      (fun k c hc hg ⟨j, hj, hloc⟩ => by
        rw [hfed.cells k] at hc
        rw [hfed.run] at hg
        have hold (y : Cell) (hy : y ∈ (s.slice k).cells) (hyl : y.loc = c.loc) (hyg : y.grid = c.grid) : y.fmt = ty :=
          hfmt k y hy (hyg.trans hg) ⟨j, List.mem_cons_of_mem _ hj, hyl.trans hloc⟩
        split_ifs at hc
        · rcases fmt_of_mem_feedCell hc with hty | ⟨y, hy, hyl, hyg, hyf⟩
          · exact hty
          · exact hyf ▸ hold y hy hyl hyg
        · exact hold c hc rfl rfl)
    refine ⟨u, _, by rw [runLanes, ht]; dsimp only; rw [hu], ?_⟩
    convert hfed.trans hmore using 2 with k
    rw [hfed.run, hfed.mem, hfed.cells k, List.filter_cons]
    by_cases hk : homeSlice (pa l) = k
    · rw [if_pos (by simpa using hk), if_pos hk.symm, List.foldl_cons]
    · rw [if_neg (by simpa using hk), if_neg (Ne.symm hk)]

/-- An exact atomic ends: it is outstanding, and beyond the cells it changes what a load changes. -/
theorem State.issueLoad_fed {s u : State} {cells : Nat → List Cell} (h : s.Fed u cells) (p : Option Pend) (f : Bool) (dst : LoadDst) (cyc : Nat) :
    let t := (u.setRun { s.run with pend := p, relFence := f }).issueLoad dst none [] cyc
    issued s t ⟨s.nextId, dst, s.run.sets.1, s.run.sets.2, none, [], s.run.wordAddr⟩ ∧ sameBytes s t ∧ cachesOnly s { t with slices := s.slices } ∧
      ∀ k, t.slice k = { s.slice k with
        cells := cells k, lines := (t.slice k).lines, sharers := (t.slice k).sharers, ctrs := (t.slice k).ctrs } := by
  let v : State := { u with slices := s.slices }
  let w := (v.setRun { s.run with pend := p, relFence := f }).issueLoad dst none [] cyc
  intro t
  have ht : t = { w with slices := u.slices } := State.issueLoad_slices (v.setRun { s.run with pend := p, relFence := f }) u.slices dst [] cyc
  obtain ⟨hissued, hcaches, hbytes, -⟩ := State.issueLoad_issued h.reads p f dst [] cyc
  have hslices : w.slices = s.slices := by
    have := congrArg State.slices (State.issueLoad_only (v.setRun { s.run with pend := p, relFence := f }) dst [] cyc)
    exact this
  have hw : ({ t with slices := s.slices } : State) = w := by rw [ht, ← hslices]
  refine ⟨?_, ?_, hw ▸ hcaches, fun k => ?_⟩
  · rw [ht]
    exact hissued
  · rw [ht]
    exact hbytes
  · have hk : t.slice k = u.slice k := by
      rw [ht]
      rfl
    rw [hk]
    exact h.slice k

section
variable {s : State} {fn : AtmfFn} {sz : Sz} {hint : Hint} {ord : MOrd} {sco : Scope} {prm : Bool} {d : RegNo} {base : ABase} {b : RegNo}
  {off : BitVec 12} {x : Grid} (hexact : (decide (fn = .exact) || decide (fn = .exactb)) = true) (hgrid : s.grid? s.run.grid = some x)
  (h : Ready s (.atmf fn sz hint ord sco prm d base b off))
include hexact hgrid h

theorem atmfExact_illegal (hx : x.exact = false) : exec (.atmf fn sz hint ord sco prm d base b off) s = .next (s.faultExact 0x02) := by
  rw [exec, execAtmf, State.checked_ok h.2]
  dsimp only
  rw [hexact, hgrid, Option.elim_some, hx, if_pos (by decide)]

theorem atmfExact_runs {pa : Nat → Nat} {ty : Ty} (hty : exactTy fn sz = ty) (hq : atmfFmt fn sz = fmtOf ty) (h3 : ty.isF3 = true)
    (hregs : sz.regs = 1) (hx : x.exact = true) (hlen : ∀ k, (s.slice k).cells.length ≤ 224)
    (hfmt : ∀ k c, c ∈ (s.slice k).cells → c.grid = s.run.grid → (∃ l, l < 32 ∧ s.run.todo.getLsbD l = true ∧ c.loc = pa l) → c.fmt = ty)
    (hl : ∀ l, l < 32 → s.run.todo.getLsbD l = true → (s.run.aaddr true base (off.signExtend 64) l).toNat % sz.bytes = 0 ∧
      inPage s .wr (s.run.aaddr true base (off.signExtend 64) l) sz.bytes (pa l)) :
    Runs (.atmf fn sz hint ord sco prm d base b off) s fun t =>
      issued s t ⟨s.nextId, .none, s.run.sets.1, s.run.sets.2, none, [], s.run.wordAddr⟩ ∧ sameBytes s t ∧ cachesOnly s { t with slices := s.slices } ∧
      ∀ k, t.slice k = { s.slice k with
        cells := ((activeLanes s.run.todo).filter fun l => homeSlice (pa l) == k).foldl
          (fun cells l => feedCell s.run.grid (pa l) ty ((fmtOf ty).read ((lane (s.run.reg b.toNat) l).toNat % 2 ^ (8 * sz.bytes)))
            (BitVec.ofNat 32 (leNat (Memory.read s.mem (pa l) sz.bytes))) cells) (s.slice k).cells
        lines := (t.slice k).lines, sharers := (t.slice k).sharers, ctrs := (t.slice k).ctrs } := by
  have hlanes : (activeLanes s.run.todo).length ≤ 32 := by
    have := List.length_filter_le (fun l => s.run.todo.getLsbD l) (List.range 32)
    rwa [List.length_range] at this
  obtain ⟨u, vs, hu, hfed⟩ := State.runLanes_exactAdd (s := s) (addr := s.run.aaddr true base (off.signExtend 64)) (pa := pa) (Sz.bytes_le sz).1
    (x := fun l => (fmtOf ty).read ((lane (s.run.reg b.toNat) l).toNat % 2 ^ (8 * sz.bytes))) (fun _ => inUnits_read h3 _) hint
    (activeLanes s.run.todo)
    (fun l hl' => by
      obtain ⟨h32, hem⟩ := (mem_activeLanes _ l).1 hl'
      exact hl l h32 hem)
    (fun k => by have := hlen k; omega)
    (fun k c hc hg ⟨l, hl', hloc⟩ => by
      obtain ⟨h32, hem⟩ := (mem_activeLanes _ l).1 hl'
      exact hfmt k c hc hg ⟨l, h32, hem, hloc⟩)
  obtain ⟨p, f, hnoted⟩ := State.noted_eq hfed.run s.run.em ord sco true true sz.bytes
    ((activeLanes s.run.todo).map fun l => (s.run.aaddr true base (off.signExtend 64) l).toNat)
  refine ⟨((u.emptyFence s.run.em ord sco).watch true true sz.bytes
    ((activeLanes s.run.todo).map fun l => (s.run.aaddr true base (off.signExtend 64) l).toNat)).issueLoad .none none [] s.run.cyc, ?_, ?_⟩
  · rw [exec, execAtmf, State.checked_ok h.2]
    unfold Group.todo at hu ⊢
    simp only [hexact, hgrid, Option.elim_some, hx, Bool.not_true, Bool.and_false, Bool.false_eq_true, if_false, if_true, hty, hq, hregs,
      Group.storeData_one, hu, Option.isNone_none]
  · rw [hnoted]
    exact State.issueLoad_fed hfed p f .none s.run.cyc

end

end Sys2Proof.Machine

namespace Sys2Proof.Claims

open Sys2Proof.Machine

/-- Settles O30: lane by lane the memory, the scratchpad or the cells follow (`State.runLanes_rmwGlobal`, `State.runLanes_rmwSpad`,
`State.runLanes_exactAdd`), and the operation issues behind the last lane. -/
theorem atomicsReadModifyWrite : Obligations.AtomicsReadModifyWrite := by
  refine ⟨fun s fn fl wide hint ord sco prm d base b off pa ks hg => ⟨fun hl => ⟨fun h => atom_runs h hg hl, fun h he hb => atmf_runs h he hb hg hl⟩,
    fun h hl => atomSpad_runs h hl⟩, fun s half bf hint ord sco prm d base b off pa x => ?_⟩
  intro fn sz i n q ty lanes operand feed h hgrid
  have hexact : (decide (fn = .exact) || decide (fn = .exactb)) = true := by cases bf <;> rfl
  have hty : exactTy fn sz = ty := by cases bf <;> cases half <;> rfl
  have hq : q = fmtOf ty := by cases bf <;> cases half <;> rfl
  have hfmt : atmfFmt fn sz = fmtOf ty := by cases bf <;> cases half <;> rfl
  have h3 : ty.isF3 = true := by cases bf <;> cases half <;> rfl
  have hregs : sz.regs = 1 := by cases bf <;> cases half <;> rfl
  refine ⟨atmfExact_illegal hexact hgrid h, fun hx hlen hcells hl => ?_⟩
  have hrun := atmfExact_runs hexact hgrid h hty hfmt h3 hregs hx hlen hcells hl
  rw [← hq] at hrun
  exact hrun

end Sys2Proof.Claims
end

section
/-! SUPPORT and CERTIFICATES. KCLR (R160, R161). -/

namespace Sys2Proof.Machine

open Sys2Proof.Claims

theorem kclr_runs (s : State) (k : BitVec 2) (nr : Bool) :
    Runs (.kclr k nr) s fun t => becomes s t { s.run with wa := s.run.wa.set k.toNat ⟨0, 0⟩ } 1 :=
  ⟨_, rfl, s.done_becomes (s.run.setWa k {}) 1⟩

/-- The word of KCLR: its opcode, and zero in D, A, B and C. -/
theorem kclr_fields : ∀ (k : BitVec 2) (nr : Bool) (w : Word), encode (.kclr k nr) = some w → fld w 56 8 = 0x45 ∧ fld w 24 32 = 0 := by
  simp only [encode, Option.some.injEq, forall_eq']
  decide

end Sys2Proof.Machine

namespace Sys2Proof.Claims

open Sys2Proof.Machine

/-- Settles O16: KCLR completes at once, whatever `em` holds, with one accumulator set to zero. -/
theorem kclrClears : Obligations.KclrClears := by
  unfold Obligations.KclrClears
  exact fun s k nr => ⟨kclr_runs s k nr, kclr_fields k nr⟩

end Sys2Proof.Claims
end

section
/-! SUPPORT and CERTIFICATES. Sums, products, quotients and fused sums of floating-point numbers: special operands decide first, and otherwise the
exact result is rounded once (R130, R135, R142, R147-R150). -/

namespace Sys2Proof.Machine

open Sys2Proof.Claims

section
variable (q : Fmt) (rm : Rm) (sat : Bool) (w : Nat)

/-- A product of signs. -/
theorem sign_bne (s t : Bool) : (if s != t then -1 else 1 : ℚ) = (if s then -1 else 1) * if t then -1 else 1 := by
  cases s <;> cases t <;> simp

/-- A quotient of signs is their product. -/
theorem sign_inv (s : Bool) : (if s then -1 else 1 : ℚ)⁻¹ = if s then -1 else 1 := by
  cases s <;> simp

theorem valueOf_mul (s1 : Bool) (m1 : Nat) (e1 : Int) (s2 : Bool) (m2 : Nat) (e2 : Int) :
    valueOf (.fin s1 m1 e1) * valueOf (.fin s2 m2 e2) = valueOf (.fin (s1 != s2) (m1 * m2) (e1 + e2)) := by
  simp only [valueOf, pow2_add, sign_bne]
  push_cast
  ring

/-- RoundTo of a finite number is that of its value (R128). -/
theorem Fmt.round_fin (s : Bool) (m : Nat) (e : Int) : q.round rm sat w s m 1 e = rounded q rm sat w (valueOf (.fin s m e)) s :=
  q.round_rounded rm sat w s m Nat.one_pos e (by rw [valueOf, Nat.cast_one, div_one, mul_assoc])

/-- The product of two values (R147). -/
theorem Fmt.mul_eq (a b : FVal) : q.mul rm sat w a b = productOf q rm sat w a b := by
  unfold Fmt.mul productOf
  rw [q.pickNan_eq]
  by_cases hnan : (a.isNan || b.isNan) = true
  · rw [if_pos hnan, if_pos hnan]
  · rw [if_neg hnan, if_neg hnan]
    cases a with
    | nan => exact absurd rfl hnan
    | inf s => rfl
    | fin s1 m1 e1 =>
      cases b with
      | nan => exact absurd (Bool.or_true _) hnan
      | inf => rfl
      | fin s2 m2 e2 =>
        dsimp only
        rw [q.round_fin, valueOf_mul]
        rfl

/-- The quotient of two finite numbers (R150). -/
theorem valueOf_div (s1 : Bool) (m1 : Nat) (e1 : Int) (s2 : Bool) (m2 : Nat) (e2 : Int) :
    valueOf (.fin s1 m1 e1) / valueOf (.fin s2 m2 e2) = (if s1 != s2 then -1 else 1) * ((m1 : ℚ) / m2 * pow2 (e1 - e2)) := by
  rw [valueOf, valueOf, pow2_sub, sign_bne, div_eq_mul_inv, mul_inv, mul_inv, sign_inv]
  ring

/-- The quotient of two values (R150). -/
theorem Fmt.div_eq (a b : FVal) : q.div rm sat w a b = quotientOf q rm sat w a b := by
  unfold Fmt.div quotientOf
  rw [q.pickNan_eq]
  by_cases hnan : (a.isNan || b.isNan) = true
  · simp only [if_pos hnan]
  · simp only [if_neg hnan]
    cases a with
    | nan => exact absurd rfl hnan
    | inf s => cases b <;> rfl
    | fin s1 m1 e1 =>
      cases b with
      | nan => exact absurd (Bool.or_true _) hnan
      | inf => rfl
      | fin s2 m2 e2 =>
        cases m2 with
        | zero => cases m1 <;> rfl
        | succ k => exact q.round_rounded rm sat w _ m1 k.succ_pos _ (valueOf_div ..).symm

/-- A NaN raises no flag but IV. -/
theorem nanOf_or_iv (x : FVal) : (nanOf q [x]).2 ||| IV = IV := by
  unfold nanOf
  dsimp only
  split_ifs <;> rfl

/-- A fused sum with a NaN: the first NaN of the factors, or the NaN of the addend, which an invalid product makes invalid (R135, R148). -/
theorem Fmt.fma_nan {a b c : FVal} (h : (a.isNan || b.isNan || c.isNan) = true) : q.fma rm sat w a b c = productSumOf q rm sat w a b c := by
  cases a with
  | nan => rfl
  | inf s =>
    cases b with
    | nan => rfl
    | inf => cases c with
      | nan => rfl
      | _ => cases h
    | fin t m e => cases c with
      | nan u quiet f => cases m with
        | zero => exact congrArg (Prod.mk _) (nanOf_or_iv q (.nan u quiet f))
        | succ => rfl
      | _ => cases h
  | fin s m e =>
    cases b with
    | nan => cases m <;> rfl
    | inf => cases c with
      | nan u quiet f => cases m with
        | zero => exact congrArg (Prod.mk _) (nanOf_or_iv q (.nan u quiet f))
        | succ => rfl
      | _ => cases h
    | fin => cases c with
      | nan => cases m <;> rfl
      | _ => cases h

/-- A fused sum of finite values has one rounding (R148). -/
theorem Fmt.fma_fin (s1 : Bool) (m1 : Nat) (e1 : Int) (s2 : Bool) (m2 : Nat) (e2 : Int) (s3 : Bool) (m3 : Nat) (e3 : Int) :
    q.fma rm sat w (.fin s1 m1 e1) (.fin s2 m2 e2) (.fin s3 m3 e3) =
      productSumOf q rm sat w (.fin s1 m1 e1) (.fin s2 m2 e2) (.fin s3 m3 e3) := by
  have hsum : q.fma rm sat w (.fin s1 m1 e1) (.fin s2 m2 e2) (.fin s3 m3 e3) =
      q.addFin rm sat w (s1 != s2) (m1 * m2) (e1 + e2) s3 m3 e3 := by cases m1 <;> rfl
  rw [hsum, q.addFin_eq, ← valueOf_mul]
  cases m1 <;> rfl

/-- The fused sum of three values (R148). -/
theorem Fmt.fma_eq (a b c : FVal) : q.fma rm sat w a b c = productSumOf q rm sat w a b c := by
  by_cases hnan : (a.isNan || b.isNan || c.isNan) = true
  · exact q.fma_nan rm sat w hnan
  · cases a with
    | nan => exact absurd rfl hnan
    | inf s =>
      cases b with
      | nan => exact absurd rfl hnan
      | inf t => cases c with
        | nan => exact absurd rfl hnan
        | inf u => cases s <;> cases t <;> cases u <;> rfl
        | fin => rfl
      | fin t m e => cases c with
        | nan => exact absurd rfl hnan
        | inf u => cases m <;> cases s <;> cases t <;> cases u <;> rfl
        | fin => cases m <;> rfl
    | fin s m e =>
      cases b with
      | nan => exact absurd rfl hnan
      | inf t => cases c with
        | nan => exact absurd rfl hnan
        | inf u => cases m <;> cases s <;> cases t <;> cases u <;> rfl
        | fin => cases m <;> rfl
      | fin t k f => cases c with
        | nan => exact absurd rfl hnan
        | inf u => cases m <;> rfl
        | fin u l g => exact q.fma_fin ..

end

end Sys2Proof.Machine

namespace Sys2Proof.Claims

open Sys2Proof.Machine

/-- Settles O12: each operation of the model is the claim's (`Fmt.add_eq`, `Fmt.mul_eq`, `Fmt.div_eq`, `Fmt.fma_eq`), in every element. -/
theorem floatArithmetic : Obligations.FloatArithmetic := by
  unfold Obligations.FloatArithmetic
  simp only [← Fmt.add_eq, ← Fmt.mul_eq, ← Fmt.div_eq, ← Fmt.fma_eq]
  intro s ty rm sat negp negc sub nr d a b c m
  exact ⟨fun h => runs_checked (by rw [exec, execFadd]) h (s.floatDone_elementwise ..),
    fun h => runs_checked (by rw [exec, execFsub]) h (s.floatDone_elementwise ..),
    fun h => runs_checked (by rw [exec, execFmul]) h (s.floatDone_elementwise ..),
    fun h => runs_checked (by rw [exec, execFdiv]) h (s.floatDone_elementwise ..),
    fun h => runs_checked (by rw [exec, execFfma]) h (s.floatDone_elementwise ..),
    fun h => runs_checked (by rw [exec, execDadd]) h (s.floatDone_elementwise ..),
    fun h => runs_checked (by rw [exec, execDmul]) h (s.floatDone_elementwise ..),
    fun h => runs_checked (by rw [exec, execDfma]) h (s.floatDone_elementwise ..)⟩

end Sys2Proof.Claims
end

section
/-! SUPPORT and CERTIFICATES. Order, comparison and classes of floating-point values, and the instructions FMIN, FCMP and FCLS (R151-R153). -/

namespace Sys2Proof.Machine

open Sys2Proof.Claims

/-! ## Order (R151, R152) -/

/-- The place of a value that is no NaN among the numbers with both infinities. -/
def FVal.place : FVal → WithBot (WithTop ℚ)
  | .nan .. => ⊥
  | .inf s => if s then ⊥ else ⊤
  | .fin s m e => ((valueOf (.fin s m e) : WithTop ℚ) : WithBot (WithTop ℚ))

theorem below_iff {a b : FVal} (ha : a.isNan = false) (hb : b.isNan = false) : below a b = true ↔ a.place < b.place := by
  cases a with
  | nan => cases ha
  | inf s =>
    cases b with
    | nan => cases hb
    | inf t => cases s <;> cases t <;> simp [below, FVal.place]
    | fin => cases s <;> simp [below, FVal.place]
  | fin =>
    cases b with
    | nan => cases hb
    | inf t => cases t <;> simp [below, FVal.place, ← WithBot.coe_top]
    | fin => simp [below, FVal.place]

theorem same_iff {a b : FVal} (ha : a.isNan = false) (hb : b.isNan = false) : same a b = true ↔ a.place = b.place := by
  rw [same, Bool.and_eq_true, Bool.not_eq_true', Bool.not_eq_true', ← Bool.not_eq_true, ← Bool.not_eq_true, below_iff ha hb, below_iff hb ha,
    not_lt, not_lt, and_comm, le_antisymm_iff]

/-- Two finite values compare as the whole numbers of a common unit do. -/
theorem finInt_lt_iff (s1 : Bool) (m1 : Nat) {e1 e0 : Int} (h1 : e0 ≤ e1) (s2 : Bool) (m2 : Nat) {e2 : Int} (h2 : e0 ≤ e2) :
    finInt s1 m1 e1 e0 < finInt s2 m2 e2 e0 ↔ valueOf (.fin s1 m1 e1) < valueOf (.fin s2 m2 e2) := by
  rw [valueOf_finInt s1 m1 h1, valueOf_finInt s2 m2 h2, mul_lt_mul_iff_of_pos_right (pow2_pos e0), Int.cast_lt]

/-- The order with -0 below +0: below, or the same and not +0 before -0 (R151). -/
theorem FVal.le_eq {a b : FVal} (ha : a.isNan = false) (hb : b.isNan = false) :
    a.le b = (below a b || (same a b && (a.sign || !b.sign))) := by
  cases a with
  | nan => cases ha
  | inf s =>
    cases b with
    | nan => cases hb
    | inf t => cases s <;> cases t <;> rfl
    | fin => cases s <;> rfl
  | fin s m e =>
    cases b with
    | nan => cases hb
    | inf t => cases t <;> rfl
    | fin t k f =>
      have hlt := finInt_lt_iff s m (min_le_left e f) t k (min_le_right e f)
      have hgt := finInt_lt_iff t k (min_le_right e f) s m (min_le_left e f)
      simp only [FVal.le, same, below, FVal.sign, ← hlt, ← hgt]
      generalize finInt s m e (min e f) = x
      generalize finInt t k f (min e f) = y
      rcases lt_trichotomy x y with h | h | h
      · simp [h, h.ne]
      · simp [h]
      · simp [h.not_gt, h.ne', h]

/-- Values at the same place have the same sign, but for two zeros. -/
theorem sign_eq_of_place {a b : FVal} (ha : a.isNan = false) (hb : b.isNan = false) (h : a.place = b.place) (hz : (a.isZero && b.isZero) = false) :
    a.sign = b.sign := by
  have hneg (s : Bool) (m : Nat) (e : Int) (hm : m ≠ 0) : valueOf (.fin s m e) < 0 ↔ s = true := by
    have hpos : 0 < (m : ℚ) * pow2 e := mul_pos (by exact_mod_cast Nat.pos_of_ne_zero hm) (pow2_pos e)
    cases s <;> simp [valueOf, hpos, hpos.le]
  have hzero (s : Bool) (m : Nat) (e : Int) : valueOf (.fin s m e) = 0 ↔ m = 0 := by
    cases s <;> simp [valueOf, (pow2_pos e).ne']
  cases a with
  | nan => cases ha
  | inf s =>
    cases b with
    | nan => cases hb
    | inf t => cases s <;> cases t <;> simp_all [FVal.place, FVal.sign]
    | fin => cases s <;> simp [FVal.place] at h
  | fin s m e =>
    cases b with
    | nan => cases hb
    | inf t => cases t <;> simp [FVal.place] at h
    | fin t k f =>
      have hval : valueOf (.fin s m e) = valueOf (.fin t k f) := by simpa [FVal.place] using h
      have hm : m ≠ 0 := by
        rintro rfl
        have hk := (hzero t k f).1 (hval ▸ (hzero s 0 e).2 rfl)
        subst hk
        cases hz
      have hk : k ≠ 0 := fun hk => hm ((hzero s m e).1 (hval.trans ((hzero t k f).2 hk)))
      exact Bool.eq_iff_iff.2 ((hneg s m e hm).symm.trans (hval ▸ hneg t k f hk))

theorem place_of_isZero {a : FVal} (h : a.isZero = true) : a.place = ((0 : WithTop ℚ) : WithBot (WithTop ℚ)) := by
  cases a with
  | fin s m e => cases m with
    | zero => simp [FVal.place, valueOf]
    | succ => cases h
  | _ => cases h

/-- Comparison of two numbers, with -0 equal to +0 (R152). -/
theorem FVal.cmp_eq {a b : FVal} (ha : a.isNan = false) (hb : b.isNan = false) :
    a.cmp b = if below a b then .lt else if below b a then .gt else .eq := by
  have hbelow : below a b = decide (a.place < b.place) := Bool.eq_iff_iff.2 ((below_iff ha hb).trans decide_eq_true_iff.symm)
  have habove : below b a = decide (b.place < a.place) := Bool.eq_iff_iff.2 ((below_iff hb ha).trans decide_eq_true_iff.symm)
  have hsame : same a b = decide (a.place = b.place) := Bool.eq_iff_iff.2 ((same_iff ha hb).trans decide_eq_true_iff.symm)
  have hsame' : same b a = decide (b.place = a.place) := Bool.eq_iff_iff.2 ((same_iff hb ha).trans decide_eq_true_iff.symm)
  unfold FVal.cmp
  rw [FVal.le_eq ha hb, FVal.le_eq hb ha, hbelow, habove, hsame, hsame']
  by_cases hz : (a.isZero && b.isZero) = true
  · obtain ⟨ha0, hb0⟩ := Bool.and_eq_true_iff.1 hz
    simp [hz, place_of_isZero ha0, place_of_isZero hb0]
  · rw [if_neg hz]
    rcases lt_trichotomy a.place b.place with h | h | h
    · simp [h, h.not_gt, h.ne']
    · simp [h, sign_eq_of_place ha hb h (Bool.eq_false_iff.2 hz)]
    · simp [h, h.not_gt, h.ne']

/-! ## The operations (R151-R153) -/

/-- FCMP on two encodings (R152). -/
theorem Fmt.compare_eq (q : Fmt) (c : FCond) (x y : Nat) :
    q.compare c x y = ((conditionOf c (q.read x) (q.read y)).1, if (conditionOf c (q.read x) (q.read y)).2 then IV else 0) := by
  unfold Fmt.compare conditionOf
  generalize q.read x = a
  generalize q.read y = b
  by_cases hnan : (a.isNan || b.isNan) = true
  · cases c <;> simp [hnan]
  · obtain ⟨ha, hb⟩ := Bool.or_eq_false_iff.1 (Bool.eq_false_iff.2 hnan)
    have hasymm : below a b = true → below b a = false := fun h =>
      Bool.eq_false_iff.2 fun h' => ((below_iff ha hb).1 h).not_gt ((below_iff hb ha).1 h')
    simp only [FVal.cmp_eq ha hb]
    cases h1 : below a b <;> cases h2 : below b a
    case true.true => rw [hasymm h1] at h2; cases h2
    all_goals cases c <;> simp [ha, hb, h1, h2, same]

theorem FVal.isSnan_of_isNan {a : FVal} (h : a.isNan = false) : a.isSnan = false := by
  cases a with
  | nan => cases h
  | _ => rfl

/-- The bits `z` are what FMIN gives for the encodings `bx` and `bz`: the first NaN quieted, the operand that is no NaN, or the least or the
greatest (R151). -/
def Fmt.selects (q : Fmt) (w : Nat) (op : FMinOp) (bx bz z : Nat) : Prop :=
  let x := q.read bx
  let y := q.read bz
  let numbers := op = .min ∨ op = .max
  let least := op = .min ∨ op = .minp
  (x.isNan = true → y.isNan = true → z = (nanOf q [x, y]).1 % 2 ^ w) ∧
  (x.isNan = true → y.isNan = false → z = if numbers then bz else (nanOf q [x, y]).1 % 2 ^ w) ∧
  (x.isNan = false → y.isNan = true → z = if numbers then bx else (nanOf q [x, y]).1 % 2 ^ w) ∧
  (x.isNan = false → y.isNan = false →
    let before := below x y || (same x y && (x.sign || !y.sign))
    z = if least ↔ before = true then bx else bz)

/-- FMIN on two encodings (R151). -/
theorem Fmt.minmax_selects (q : Fmt) {w : Nat} (op : FMinOp) {bx bz : Nat} (hx : bx < 2 ^ w) (hz : bz < 2 ^ w) :
    q.selects w op bx bz ((q.minmax op bx bz).1 % 2 ^ w) := by
  simp only [Fmt.selects, Fmt.minmax, q.pickNan_eq]
  generalize q.read bx = a
  generalize q.read bz = b
  refine ⟨fun ha hb => ?_, fun ha hb => ?_, fun ha hb => ?_, fun ha hb => ?_⟩
  · simp only [ha, hb, Bool.or_self, if_true, Option.elim_some]
  · simp only [ha, hb, Bool.or_false, if_true, Option.elim_some]
    cases op <;> simp [Nat.mod_eq_of_lt hz]
  · simp only [ha, hb, Bool.or_true, if_true, Option.elim_some]
    cases op <;> simp [Nat.mod_eq_of_lt hx]
  · simp only [ha, hb, FVal.le_eq ha hb]
    cases below a b || same a b && (a.sign || !b.sign) <;> cases op <;> simp [Nat.mod_eq_of_lt hx, Nat.mod_eq_of_lt hz]

/-- FMIN raises IV for a signalling NaN, and no other flag (R151). -/
theorem Fmt.minmax_flags (q : Fmt) (op : FMinOp) (x y : Nat) :
    (q.minmax op x y).2 = if (q.read x).isSnan || (q.read y).isSnan then IV else 0 := by
  simp only [Fmt.minmax]
  generalize q.read x = a
  generalize q.read y = b
  cases ha : a.isNan <;> cases hb : b.isNan
  case false.false => simp [FVal.isSnan_of_isNan ha, FVal.isSnan_of_isNan hb]
  case true.true => rfl
  all_goals cases op <;> rfl

/-- The numbers below the least normal number are those of the subnormal encodings (R123, R153). -/
theorem Fmt.subnormal_iff (q : Fmt) {x : Nat} (hx : x < 2 ^ q.bits) {s : Bool} {m : Nat} {e : Int} (h : q.read x = .fin s m e) :
    (m : ℚ) * pow2 e < pow2 (1 - q.bias) ↔ m < 2 ^ q.f := by
  have hunit : pow2 (1 - q.bias) = (2 ^ q.f : Nat) * pow2 q.minE := by
    rw [← pow2_natCast, ← pow2_add]
    congr 1
    unfold Fmt.minE
    omega
  rcases q.of_read_fin hx h with ⟨hm, rfl, -⟩ | ⟨k, fr, ⟨hk, -, -⟩, rfl, he, -⟩
  · rw [hunit, mul_lt_mul_iff_of_pos_right (pow2_pos _), Nat.cast_lt]
  · have hmin : pow2 q.minE ≤ pow2 e := pow2_le_pow2.2 (by unfold Fmt.minE; omega)
    refine iff_of_false (not_lt.2 ?_) (by omega)
    rw [hunit]
    exact mul_le_mul (by exact_mod_cast Nat.le_add_right _ _) hmin (pow2_pos _).le (Nat.cast_nonneg _)

/-- The class of an encoding (R153). -/
theorem Fmt.classOf_eq (q : Fmt) {x : Nat} (hx : x < 2 ^ q.bits) : q.classOf x = classNumber q (q.read x) := by
  unfold Fmt.classOf classNumber
  cases h : q.read x with
  | nan => rfl
  | inf => rfl
  | fin s m e => simp only [q.subnormal_iff hx h]

theorem classNumber_lt (q : Fmt) (a : FVal) : classNumber q a < 10 := by
  unfold classNumber
  cases a with
  | nan s quiet => cases quiet <;> dsimp only <;> decide
  | inf s => dsimp only; split_ifs <;> decide
  | fin s => dsimp only; split_ifs <;> decide

/-! ## Completion (R142, R152, R153) -/

/-- A floating-point instruction of elements: what holds of each element's low bits holds of the elements written (R142). -/
theorem State.floatDone_elements (s : State) (i : Instr) (ty : Ty) (d : RegNo) (m : VMode) (rm : Rm) (f : Nat → Nat → Nat × Nat) (cyc : Nat)
    {P : Nat → Nat → Nat → Prop} {fl : Nat → Nat → Nat} (hP : ∀ l e, P l e ((f l e).1 % 2 ^ elW ty)) (hfl : ∀ l e, (f l e).2 = fl l e) :
    let t := s.floatDone i ty d m rm (fun l => laneF ty (f l)) cyc
    s.floatStep t ty.isPair m d rm (fun l x => ∀ e, e < ty.elems → P l e (elBits ty x e)) ∧ s.flagged t ty.elems fl := by
  refine s.floatDone_step i ty d m rm _ cyc (fun l => laneF_lt ty (f l)) (fun l _ _ e he => ?_) fun l j _ _ => ?_
  · rw [elBits_laneF ty (f l) he]
    exact hP l e
  · simp only [laneF, mapF_flags, hfl]

/-- An instruction that raises no flag leaves `fsr` as it was. -/
theorem State.fsr_of_flagged {s t : State} {n : Nat} (h : s.flagged t n fun _ _ => 0) : t.run.fsr = s.run.fsr := by
  refine BitVec.eq_of_getLsbD_eq fun i hi => Bool.eq_iff_iff.2 ((h i hi).trans ?_)
  simp

/-- The flags of the elements, ORed into `fsr`. -/
theorem State.flagged_of_fsr {s t : State} {ty : Ty} {f : Nat → Nat → Nat × Nat}
    (h : t.run.fsr = s.run.fsr ||| s.run.flagsOf fun l => laneF ty (f l)) : s.flagged t ty.elems fun l e => (f l e).2 := by
  intro j hj
  rw [h, BitVec.getLsbD_or, Bool.or_eq_true, s.run.flagsOf_bit _ hj]
  simp only [laneF, mapF_flags, exists_and_left]

/-- A test of a lane: of some element, or of every element. -/
theorem elements_iff (any : Bool) (n : Nat) (p : Nat → Bool) :
    (if any then (List.range n).any p else (List.range n).all p) = true ↔
      if any then ∃ e, e < n ∧ p e = true else ∀ e, e < n → p e = true := by
  cases any <;> simp

/-- The completion of a test of elements with a mask destination and flags (R152, R153). -/
theorem State.maskDone_elements (s : State) (k : BitVec 3) (any : Bool) (n : Nat) (p : Nat → Nat → Bool) (flags : Lane) (cyc : Nat) :
    let t := s.maskDone k (fun l => if any then (List.range n).any (p l) else (List.range n).all (p l)) flags cyc
    ((∀ l, l < 32 → s.run.em.getLsbD l = true → (t.run.m[k.toNat].getLsbD l = true ↔
        if any then ∃ e, e < n ∧ p l e = true else ∀ e, e < n → p l e = true)) ∧
      (∀ l, l < 32 → s.run.em.getLsbD l = false → t.run.m[k.toNat].getLsbD l = s.run.m[k.toNat].getLsbD l) ∧
      t.run = { s.run with m := s.run.m.set k.toNat t.run.m[k.toNat], fsr := t.run.fsr, word := s.run.word + 1 } ∧ s.onlyGroup t cyc) ∧
    t.run.fsr = s.run.fsr ||| flags := by
  generalize hq : (fun l => if any then (List.range n).any (p l) else (List.range n).all (p l)) = q
  obtain ⟨honly, hrun⟩ := s.done_only { s.run with
    m := s.run.m.set k.toNat (mkMask fun l => if s.run.em.getLsbD l then q l else s.run.m[k.toNat].getLsbD l), fsr := s.run.fsr ||| flags } cyc
  have hmask : (s.maskDone k q flags cyc).run.m[k.toNat] = mkMask fun l => if s.run.em.getLsbD l then q l else s.run.m[k.toNat].getLsbD l := by
    unfold State.maskDone
    simp only [hrun, Vector.getElem_set_self]
  refine ⟨⟨fun l hl he => ?_, fun l hl he => ?_, ?_, honly⟩, rfl⟩
  · rw [hmask, mkMask_bit, decide_eq_true hl, Bool.true_and, if_pos he, ← elements_iff, ← hq]
  · rw [hmask, mkMask_bit, decide_eq_true hl, Bool.true_and, if_neg (Bool.eq_false_iff.mp he)]
  · rw [hmask]
    exact hrun

/-! ## The instructions -/

/-- Elements of the types of FMIN, FCMP and FCLS are encodings of their format (R123). -/
theorem elW_eq_bits {ty : Ty} (h : ty.isF4 = true) : elW ty = (fmtOf ty).bits := by
  revert h
  cases ty <;> decide

section
variable {s : State} {ty : Ty} {cond : FCond} {op : FMinOp} {k : BitVec 3} {any : Bool} {d a : RegNo} {b : Opnd} {set : SPos} {m : VMode}

theorem fmin_runs (h : Ready s (.fmin ty op d a b m)) : Runs (.fmin ty op d a b m) s fun t =>
    s.floatStep t ty.isPair m d .rne (fun l z => ∀ e, e < ty.elems →
      (fmtOf ty).selects (elW ty) op (elBits ty (s.run.aN ty a m l) e) (elBits ty (s.run.oN ty b l) e) (elBits ty z e)) ∧
    s.flagged t ty.elems fun l e => if (fltA s ty a m l e).isSnan || (fltB s ty b l e).isSnan then IV else 0 :=
  runs_checked (by rw [exec, execFmin]) h (s.floatDone_elements _ ty d m .rne _ _
    (P := fun l e => (fmtOf ty).selects (elW ty) op (elBits ty (s.run.aN ty a m l) e) (elBits ty (s.run.oN ty b l) e))
    (fun l e => (fmtOf ty).minmax_selects op (elBits_lt ..) (elBits_lt ..)) fun l e => (fmtOf ty).minmax_flags ..)

theorem fcmp_mask_runs (h : Ready s (.fcmp ty cond (.mask k any) a b m)) : Runs (.fcmp ty cond (.mask k any) a b m) s fun t =>
    (∃ n, (∀ l, l < 32 → s.run.em.getLsbD l = true → (t.run.m[k.toNat].getLsbD l = true ↔
          if any then ∃ e, e < ty.elems ∧ (conditionOf cond (fltA s ty a m l e) (fltB s ty b l e)).1 = true
          else ∀ e, e < ty.elems → (conditionOf cond (fltA s ty a m l e) (fltB s ty b l e)).1 = true)) ∧
      (∀ l, l < 32 → s.run.em.getLsbD l = false → t.run.m[k.toNat].getLsbD l = s.run.m[k.toNat].getLsbD l) ∧
      t.run = { s.run with m := s.run.m.set k.toNat t.run.m[k.toNat], fsr := t.run.fsr, word := s.run.word + 1 } ∧ s.onlyGroup t n) ∧
    s.flagged t ty.elems fun l e => if (conditionOf cond (fltA s ty a m l e) (fltB s ty b l e)).2 then IV else 0 := by
  refine runs_checked (by rw [exec, execFcmp]) h ?_
  simp only [Fmt.compare_eq]
  obtain ⟨hmask, hfsr⟩ := s.maskDone_elements k any ty.elems (fun l e => (conditionOf cond (fltA s ty a m l e) (fltB s ty b l e)).1)
    (s.run.flagsOf fun l => laneF ty fun e => ((elMask ty (conditionOf cond (fltA s ty a m l e) (fltB s ty b l e)).1).1,
      if (conditionOf cond (fltA s ty a m l e) (fltB s ty b l e)).2 then IV else 0)) (s.run.cycTy ty)
  exact ⟨⟨_, hmask⟩, State.flagged_of_fsr hfsr⟩

theorem fcmp_vec_runs (h : Ready s (.fcmp ty cond (.vec d) a b m)) : Runs (.fcmp ty cond (.vec d) a b m) s fun t =>
    s.floatStep t ty.isPair m d .rne (fun l z => ∀ e, e < ty.elems →
      elBits ty z e = if (conditionOf cond (fltA s ty a m l e) (fltB s ty b l e)).1 then 2 ^ elW ty - 1 else 0) ∧
    s.flagged t ty.elems fun l e => if (conditionOf cond (fltA s ty a m l e) (fltB s ty b l e)).2 then IV else 0 := by
  refine runs_checked (by rw [exec, execFcmp]) h ?_
  simp only [Fmt.compare_eq]
  exact s.floatDone_elements _ ty d m .rne _ _ (P := fun l e z => z = if (conditionOf cond (fltA s ty a m l e) (fltB s ty b l e)).1 then _ else _)
    (fun l e => Nat.mod_eq_of_lt (elMask_lt ty _)) fun l e => rfl

/-- The class of an element of operand A. -/
theorem classOf_fltA (h : ty.isF4 = true) (l e : Nat) :
    (fmtOf ty).classOf (elBits ty (s.run.aN ty a m l) e) = classNumber (fmtOf ty) (fltA s ty a m l e) :=
  (fmtOf ty).classOf_eq (elW_eq_bits h ▸ elBits_lt ..)

theorem isF4_of_fcls {dst : CmpDst} (h : Ready s (.fcls ty dst a set m)) : ty.isF4 = true := by
  have hwf := h.1
  simp only [Instr.wf, Bool.and_eq_true] at hwf
  tauto

theorem fcls_mask_runs (h : Ready s (.fcls ty (.mask k any) a set m)) : Runs (.fcls ty (.mask k any) a set m) s fun t =>
    ∃ n, (∀ l, l < 32 → s.run.em.getLsbD l = true → (t.run.m[k.toNat].getLsbD l = true ↔
        if any then ∃ e, e < ty.elems ∧ (s.run.pos set).getLsbD (classNumber (fmtOf ty) (fltA s ty a m l e)) = true
        else ∀ e, e < ty.elems → (s.run.pos set).getLsbD (classNumber (fmtOf ty) (fltA s ty a m l e)) = true)) ∧
      (∀ l, l < 32 → s.run.em.getLsbD l = false → t.run.m[k.toNat].getLsbD l = s.run.m[k.toNat].getLsbD l) ∧
      t.run = { s.run with m := s.run.m.set k.toNat t.run.m[k.toNat], word := s.run.word + 1 } ∧ s.onlyGroup t n := by
  refine runs_checked (by rw [exec, execFcls]) h ?_
  simp only [classOf_fltA (isF4_of_fcls h)]
  obtain ⟨⟨hon, hoff, hrun, honly⟩, hfsr⟩ := s.maskDone_elements k any ty.elems
    (fun l e => (s.run.pos set).getLsbD (classNumber (fmtOf ty) (fltA s ty a m l e))) 0 (s.run.cycTy ty)
  rw [hfsr, show s.run.fsr ||| 0 = s.run.fsr from BitVec.or_zero] at hrun
  exact ⟨_, hon, hoff, hrun, honly⟩

theorem fcls_vec_runs (h : Ready s (.fcls ty (.vec d) a set m)) : Runs (.fcls ty (.vec d) a set m) s fun t =>
    s.vecStep t ty.isPair m d (fun l z => ∀ e, e < ty.elems → elBits ty z e = classNumber (fmtOf ty) (fltA s ty a m l e)) ∧
    s.raises t satFlag False := by
  have hty := isF4_of_fcls h
  refine runs_checked (by rw [exec, execFcls]) h ?_
  simp only [classOf_fltA hty]
  have hsmall (l e : Nat) : classNumber (fmtOf ty) (fltA s ty a m l e) % 2 ^ elW ty = classNumber (fmtOf ty) (fltA s ty a m l e) := by
    refine Nat.mod_eq_of_lt ((classNumber_lt ..).trans_le ?_)
    revert hty
    cases ty <;> decide
  obtain ⟨hstep, hflags⟩ := s.floatDone_elements (.fcls ty (.vec d) a set m) ty d m .rne
    (fun l e => (classNumber (fmtOf ty) (fltA s ty a m l e), 0)) (s.run.cycTy ty)
    (P := fun l e z => z = classNumber (fmtOf ty) (fltA s ty a m l e)) (fl := fun _ _ => 0) hsmall fun _ _ => rfl
  exact ⟨hstep, False.elim, fun _ => State.fsr_of_flagged hflags⟩

end

end Sys2Proof.Machine
end

section
/-! SUPPORT. Numbers between two neighbouring points of a grid that is fine enough round alike, and the roots that FSQT and FRSQ deliver (R128,
R132, R154). -/

namespace Sys2Proof.Machine

open Sys2Proof.Claims

/-! ## Roundings that a fine grid decides -/

/-- A whole number is below a number that is not whole where it is at most the floor. -/
theorem natCast_lt_iff_le_floor {t : ℚ} (h : (⌊t⌋₊ : ℚ) < t) (c : Nat) : (c : ℚ) < t ↔ c ≤ ⌊t⌋₊ :=
  ⟨fun hc => Nat.le_floor hc.le, fun hc => lt_of_le_of_lt (by exact_mod_cast hc) h⟩

theorem natCast_le_iff_le_floor {t : ℚ} (h : (⌊t⌋₊ : ℚ) < t) (c : Nat) : (c : ℚ) ≤ t ↔ c ≤ ⌊t⌋₊ :=
  ⟨Nat.le_floor, fun hc => le_trans (by exact_mod_cast hc) h.le⟩

/-- In units of which a spacing holds 2^`j`, at least 2^16, all numbers between two neighbouring whole ones are rounded to the same side: the
half of a spacing and the sixteen bits of the stochastic mode are whole numbers of units (R128, R132). -/
theorem takesUpper_congr (rm : Rm) (s : Bool) (w k : Nat) {j : Nat} (hj : 16 ≤ j) {t u : ℚ} (hfl : ⌊t⌋₊ = ⌊u⌋₊) (ht : (⌊t⌋₊ : ℚ) < t)
    (hu : (⌊u⌋₊ : ℚ) < u) : takesUpper rm s w k (t / 2 ^ j) = takesUpper rm s w k (u / 2 ^ j) := by
  obtain ⟨i, rfl⟩ := Nat.exists_eq_add_of_le' hj
  have hhalf (x : ℚ) : 1 / 2 < x / 2 ^ (i + 16) ↔ ((2 ^ (i + 15) : Nat) : ℚ) < x := by
    rw [lt_div_iff₀ (by positivity)]
    push_cast
    rw [pow_succ _ (i + 15)]
    constructor <;> intro h <;> linarith
  have hhalf' (x : ℚ) : 1 / 2 ≤ x / 2 ^ (i + 16) ↔ ((2 ^ (i + 15) : Nat) : ℚ) ≤ x := by
    rw [le_div_iff₀ (by positivity)]
    push_cast
    rw [pow_succ _ (i + 15)]
    constructor <;> intro h <;> linarith
  have hne {x : ℚ} (hx : (⌊x⌋₊ : ℚ) < x) : x / 2 ^ (i + 16) ≠ 0 ∧ x / 2 ^ (i + 16) ≠ 1 / 2 := by
    refine ⟨(div_pos ((Nat.cast_nonneg _).trans_lt hx) (by positivity)).ne', fun h => ?_⟩
    have h1 := (natCast_le_iff_le_floor hx _).1 ((hhalf' x).1 h.ge)
    exact h.not_gt ((hhalf x).2 ((natCast_lt_iff_le_floor hx _).2 h1))
  have hbits {x : ℚ} : ⌊x / 2 ^ (i + 16) * 2 ^ 16⌋₊ = ⌊x⌋₊ / 2 ^ i := by
    rw [pow_add, ← div_div, div_mul_cancel₀ _ (by positivity), ← Nat.floor_div_natCast]
    push_cast
    rfl
  cases rm with
  | rne => simp only [takesUpper, hhalf, natCast_lt_iff_le_floor ht, natCast_lt_iff_le_floor hu, hfl, beq_eq_false_iff_ne.2 (hne ht).2,
      beq_eq_false_iff_ne.2 (hne hu).2]
  | rtz => rfl
  | rup => simp only [takesUpper, bne_iff_ne.2 (hne ht).1, bne_iff_ne.2 (hne hu).1]
  | rdn => simp only [takesUpper, bne_iff_ne.2 (hne ht).1, bne_iff_ne.2 (hne hu).1]
  | rna => simp only [takesUpper, hhalf', natCast_le_iff_le_floor ht, natCast_le_iff_le_floor hu, hfl]
  | rsr => simp only [takesUpper, hbits, hfl]
  | dyn => rfl

theorem floor_div_two_pow (x : ℚ) (j : Nat) : ⌊x / 2 ^ j⌋₊ = ⌊x⌋₊ / 2 ^ j := by
  rw [← Nat.floor_div_natCast]
  push_cast
  rfl

section
variable {x y : ℚ} (hfl : ⌊x⌋₊ = ⌊y⌋₊) (hx : (⌊x⌋₊ : ℚ) < x) (hy : (⌊y⌋₊ : ℚ) < y)
include hfl hx hy

theorem roundNat_congr (rm : Rm) (s : Bool) (w : Nat) {j : Nat} (hj : 16 ≤ j) : roundNat rm s w (x / 2 ^ j) = roundNat rm s w (y / 2 ^ j) := by
  -- the number below, in units; it is the same for `x` and `y`
  generalize hk : ⌊x⌋₊ / 2 ^ j * 2 ^ j = k
  have hle : k ≤ ⌊x⌋₊ := hk ▸ Nat.div_mul_le_self ..
  have hrest (z : ℚ) : z / 2 ^ j - (⌊x⌋₊ / 2 ^ j : Nat) = (z - k) / 2 ^ j := by
    rw [← hk, Nat.cast_mul, Nat.cast_pow, Nat.cast_two, sub_div, mul_div_cancel_right₀ _ (by positivity)]
  have hfloor {z : ℚ} (hle : k ≤ ⌊z⌋₊) (hz : (⌊z⌋₊ : ℚ) < z) : (⌊z - k⌋₊ : ℚ) < z - k := by
    rw [Nat.floor_sub_natCast, Nat.cast_sub hle]
    exact sub_lt_sub_right hz _
  have hside := takesUpper_congr rm s w (⌊x⌋₊ / 2 ^ j) hj (t := x - k) (u := y - k)
    (by rw [Nat.floor_sub_natCast, Nat.floor_sub_natCast, hfl]) (hfloor hle hx) (hfloor (hfl ▸ hle) hy)
  unfold roundNat
  rw [floor_div_two_pow, floor_div_two_pow, ← hfl, hrest, hrest, hside]

/-- Numbers between two neighbouring whole numbers of at least 17 bits more than a format's fraction round alike (R128). -/
theorem Fmt.roundMag_congr {q : Fmt} (hbig : 2 ^ (q.f + 16) ≤ ⌊x⌋₊) (rm : Rm) (sat : Bool) (w : Nat) (s : Bool) (e : Int) :
    q.roundMag rm sat w s (x * pow2 e) = q.roundMag rm sat w s (y * pow2 e) := by
  have hlog {z : ℚ} (hz : ⌊x⌋₊ = ⌊z⌋₊) (hlt : (⌊z⌋₊ : ℚ) < z) : Int.log 2 (z * pow2 e) = Nat.log2 ⌊x⌋₊ + e := by
    have hpos : ⌊x⌋₊ ≠ 0 := (Nat.two_pow_pos _).trans_le hbig |>.ne'
    rw [hz] at hpos ⊢
    refine log_eq_of_between ?_ ?_
    · rw [pow2_add, pow2_natCast]
      exact mul_le_mul_of_nonneg_right ((Nat.cast_le.2 (Nat.log2_self_le hpos)).trans hlt.le) (pow2_pos e).le
    · rw [add_right_comm, pow2_add, ← Nat.cast_succ, pow2_natCast]
      exact mul_lt_mul_of_pos_right ((Nat.lt_floor_add_one z).trans_le (by exact_mod_cast Nat.lt_log2_self)) (pow2_pos e)
  have hgrid {z : ℚ} (hlt : (⌊z⌋₊ : ℚ) < z) (j : Nat) : (z / 2 ^ j == (⌊z / 2 ^ j⌋₊ : ℚ)) = false := by
    refine beq_eq_false_iff_ne.2 fun h => ?_
    have hz : z = (⌊z / 2 ^ j⌋₊ * 2 ^ j : Nat) := by
      push_cast
      rw [← h, div_mul_cancel₀ _ (by positivity)]
    rw [hz, Nat.floor_natCast] at hlt
    exact hlt.false
  have hne {z : ℚ} (hlt : (⌊z⌋₊ : ℚ) < z) : z * pow2 e ≠ 0 := (mul_pos ((Nat.cast_nonneg _).trans_lt hlt) (pow2_pos e)).ne'
  have hulp : q.ulp (y * pow2 e) = q.ulp (x * pow2 e) := by rw [Fmt.ulp, Fmt.ulp, hlog hfl hy, hlog rfl hx]
  obtain ⟨j, hj, hu⟩ : ∃ j : Nat, 16 ≤ j ∧ q.ulp (x * pow2 e) = j + e := by
    have hbits := (Nat.le_log2 (Nat.pos_iff_ne_zero.1 ((Nat.two_pow_pos _).trans_le hbig))).2 hbig
    refine ⟨(q.ulp (x * pow2 e) - e).toNat, ?_, ?_⟩ <;> rw [Fmt.ulp, hlog rfl hx] <;> omega
  have hunits (z : ℚ) : z * pow2 e / pow2 (j + e) = z / 2 ^ j := by
    rw [pow2_add, mul_div_mul_right _ _ (pow2_pos e).ne', pow2_natCast]
    push_cast
    rfl
  unfold Fmt.roundMag
  simp only [if_neg (hne hx), if_neg (hne hy), hulp, hu, hunits, roundNat_congr hfl hx hy rm s w hj, hgrid hx, hgrid hy]

end

/-- The middle of two neighbouring points of a fine enough grid stands for every number between them (R154). -/
theorem Fmt.roundBetween_eq (q : Fmt) (rm : Rm) (sat : Bool) (w : Nat) (s : Bool) {v : Nat} (hv : 2 ^ (q.f + 16) ≤ v) (p : Nat) (h : Int) {z : ℚ}
    (hlo : (v : ℚ) * pow2 (h - p) < z) (hhi : z < (v + 1 : Nat) * pow2 (h - p)) : q.roundBetween rm sat w s v p h = q.roundMag rm sat w s z := by
  have hc := pow2_pos (h - p)
  have hin {x : ℚ} (h1 : (v : ℚ) < x) (h2 : x < (v + 1 : Nat)) : ⌊x⌋₊ = v := by
    refine (Nat.floor_eq_iff ((Nat.cast_nonneg v).trans h1.le)).2 ⟨h1.le, ?_⟩
    rwa [← Nat.cast_succ]
  have hmid : ⌊(v : ℚ) + 1 / 2⌋₊ = v := hin (by linarith) (by push_cast; linarith)
  have hz1 : (v : ℚ) < z / pow2 (h - p) := (lt_div_iff₀ hc).2 hlo
  have hz : ⌊z / pow2 (h - p)⌋₊ = v := hin hz1 ((div_lt_iff₀ hc).2 hhi)
  have hround := Fmt.roundMag_congr (x := (v : ℚ) + 1 / 2) (y := z / pow2 (h - p)) (hmid.trans hz.symm) (by rw [hmid]; linarith)
    (by rwa [hz]) (by rwa [hmid]) rm sat w s (h - p)
  rw [div_mul_cancel₀ _ hc.ne'] at hround
  rw [← hround, Fmt.roundBetween, q.round_eq rm sat w s _ Nat.one_pos, Nat.cast_one, div_one, show h - p - 1 = -1 + (h - p) by ring, pow2_add,
    show pow2 (-1) = 1 / 2 from rfl]
  congr 1
  push_cast
  ring

/-- A number in a fine enough interval of the grid is rounded to what the middle is (R154). -/
theorem Fmt.roundBetween_rounded (q : Fmt) (rm : Rm) (sat : Bool) (w : Nat) {v : Nat} (hv : 2 ^ (q.f + 16) ≤ v) (p : Nat) (h : Int) {z : ℚ}
    (hlo : (v : ℚ) * pow2 (h - p) < z) (hhi : z < (v + 1 : Nat) * pow2 (h - p)) :
    q.roundBetween rm sat w false v p h = rounded q rm sat w z false := by
  have hz : 0 < z := (mul_nonneg (Nat.cast_nonneg v) (pow2_pos _).le).trans_lt hlo
  rw [q.roundBetween_eq rm sat w false hv p h hlo hhi, rounded_eq, if_neg hz.ne', abs_of_pos hz, decide_eq_false hz.not_gt]

/-! ## Square roots (R154) -/

section
variable {q : Fmt} {n d p : Nat} (hd : 0 < d) (h : Int)
include hd

/-- The square root of a quotient, in units of 2^(`h` - `p`), lies between two neighbouring whole numbers. -/
theorem root_grid :
    let c := pow2 (h - p)
    let v := Nat.sqrt (n * 4 ^ p / d)
    let x := (n : ℚ) / d * pow2 (2 * h)
    (v * c) * (v * c) ≤ x ∧ ((v * c) * (v * c) = x ↔ v * v * d = n * 4 ^ p) ∧ x < ((v + 1 : Nat) * c) * ((v + 1 : Nat) * c) := by
  intro c v x
  have hd0 : (0 : ℚ) < d := by exact_mod_cast hd
  have hc : 0 < c * c := mul_pos (pow2_pos _) (pow2_pos _)
  have hx : x = (n * 4 ^ p : Nat) / d * (c * c) := by
    have hpow : pow2 (2 * h) = 4 ^ p * (c * c) := by
      rw [← pow2_add, show 2 * h = ((2 * p : Nat) : Int) + (h - p + (h - p)) by push_cast; ring, pow2_add, pow2_natCast, pow_mul]
      push_cast
      norm_num
    rw [show x = (n : ℚ) / d * pow2 (2 * h) from rfl, hpow]
    push_cast
    ring
  have hsq (k : Nat) : (k * c) * (k * c) = (k * k : Nat) * (c * c) := by push_cast; ring
  have hlo : v * v * d ≤ n * 4 ^ p := (Nat.le_div_iff_mul_le hd).1 (Nat.sqrt_le _)
  have hhi : n * 4 ^ p < (v + 1) * (v + 1) * d := (Nat.div_lt_iff_lt_mul hd).1 (Nat.lt_succ_sqrt _)
  rw [hx, hsq, hsq, mul_le_mul_iff_of_pos_right hc, mul_lt_mul_iff_of_pos_right hc, mul_left_inj' hc.ne', le_div_iff₀ hd0, div_lt_iff₀ hd0,
    eq_div_iff hd0.ne']
  exact ⟨by exact_mod_cast hlo, by exact_mod_cast Iff.rfl, by exact_mod_cast hhi⟩

variable (hbig : 4 ^ (q.f + 16) ≤ n * 4 ^ p / d) (rm : Rm) (sat : Bool) (w : Nat)
include hbig

omit hd in
theorem root_big : 2 ^ (q.f + 16) ≤ Nat.sqrt (n * 4 ^ p / d) := by
  refine Nat.le_sqrt.2 (le_trans (le_of_eq ?_) hbig)
  rw [← Nat.mul_pow]

/-- A root that is a rational number is rounded once (R154). -/
theorem Fmt.rootRes_rational {z : ℚ} (hz : 0 < z) (hzx : z * z = n / d * pow2 (2 * h)) :
    q.rootRes rm sat w n d p h = rounded q rm sat w z false := by
  obtain ⟨hlo, heq, hhi⟩ := root_grid (n := n) (p := p) hd h
  rw [← hzx] at hlo heq hhi
  have hc := pow2_pos (h - p)
  have hv0 : 0 ≤ (Nat.sqrt (n * 4 ^ p / d) : ℚ) * pow2 (h - p) := mul_nonneg (Nat.cast_nonneg _) hc.le
  have hbig := root_big hbig
  unfold Fmt.rootRes
  dsimp only
  generalize Nat.sqrt (n * 4 ^ p / d) = v at *
  split_ifs with hexact
  · have hvz : (v : ℚ) * pow2 (h - p) = z := (mul_self_inj hv0 hz.le).1 (heq.2 hexact)
    refine q.round_rounded rm sat w false v Nat.one_pos _ ?_
    simpa using hvz
  · refine q.roundBetween_rounded rm sat w hbig p h (lt_of_le_of_ne ?_ fun hvz => hexact (heq.1 (by rw [hvz]))) ?_
    · exact (mul_self_le_mul_self_iff hv0 hz.le).2 hlo
    · exact (mul_self_lt_mul_self_iff hz.le (mul_nonneg (Nat.cast_nonneg _) hc.le)).2 hhi

/-- A root that is no rational number is rounded once: two rationals about it round alike (R154). -/
theorem Fmt.rootRes_real {x : ℚ} (hx : x = n / d * pow2 (2 * h)) (hirr : ∀ y, y * y ≠ x) :
    roundsReal q rm sat w (fun lo hi => 0 < lo ∧ lo * lo < x ∧ x < hi * hi ∧ 0 < hi) (q.rootRes rm sat w n d p h) := by
  obtain ⟨hlo, heq, hhi⟩ := root_grid (n := n) (p := p) hd h
  rw [← hx] at hlo heq hhi
  have hc := pow2_pos (h - p)
  have hbig := root_big hbig
  unfold Fmt.rootRes
  dsimp only
  generalize Nat.sqrt (n * 4 ^ p / d) = v at *
  have hv0 : 0 ≤ (v : ℚ) * pow2 (h - p) := mul_nonneg (Nat.cast_nonneg _) hc.le
  rw [if_neg fun hexact => hirr _ (heq.2 hexact)]
  have hv : (v : ℚ) * pow2 (h - p) * (v * pow2 (h - p)) < x := lt_of_le_of_ne hlo (hirr _)
  have hx0 : 0 < x := (mul_self_nonneg _).trans_lt hv
  obtain ⟨lo, hlo0, hlo1, hlo2⟩ := exists_rat_pow_btwn two_ne_zero hv hx0
  obtain ⟨hi, hhi0, hhi1, hhi2⟩ := exists_rat_pow_btwn two_ne_zero hhi (hx0.trans hhi)
  rw [Rat.cast_id, pow_two] at hlo1 hlo2 hhi1 hhi2
  refine ⟨lo, hi, ⟨hlo0, hlo2, hhi1, hhi0⟩, fun z hz1 hz2 => q.roundBetween_rounded rm sat w hbig p h ?_ ?_⟩
  · exact ((mul_self_lt_mul_self_iff hv0 hlo0.le).2 hlo1).trans_le hz1
  · exact hz2.trans_lt ((mul_self_lt_mul_self_iff hhi0.le (mul_nonneg (Nat.cast_nonneg _) hc.le)).2 hhi2)

end

/-! ## FSQT and FRSQ (R154) -/

theorem proper_iff {x : FVal} : proper x ↔ ∃ s m e, x = .fin s m e ∧ m ≠ 0 := by
  cases x with
  | fin s m e => exact ⟨fun hm => ⟨s, m, e, rfl, hm⟩, fun ⟨_, _, _, hx, hm⟩ => by cases hx; exact hm⟩
  | _ => exact ⟨False.elim, fun ⟨_, _, _, hx, _⟩ => by cases hx⟩

theorem valueOf_pos_iff {s : Bool} {m : Nat} (hm : m ≠ 0) (e : Int) : 0 < valueOf (.fin s m e) ↔ s = false := by
  have hpos : 0 < (m : ℚ) * pow2 e := mul_pos (by exact_mod_cast Nat.pos_of_ne_zero hm) (pow2_pos e)
  cases s
  · simpa [valueOf] using hpos
  · simpa [valueOf] using hpos.le

theorem valueOf_false (m : Nat) (e : Int) : valueOf (.fin false m e) = m * pow2 e := by simp [valueOf]

/-- The significand of a finite number has at most one bit more than the fraction (R122). -/
theorem Fmt.lt_of_read (q : Fmt) {x : Nat} {s : Bool} {m : Nat} {e : Int} (h : q.read x = .fin s m e) : m < 2 ^ (q.f + 1) := by
  have hfr := Nat.mod_lt x (Nat.two_pow_pos q.f)
  unfold Fmt.read at h
  dsimp only at h
  rw [Nat.pow_succ]
  split_ifs at h <;> obtain ⟨-, rfl, -⟩ := FVal.fin.inj h <;> omega

section
variable (q : Fmt) (rm : Rm) (sat : Bool) (w : Nat)

/-- FSQT takes the root of a significand with an even exponent. -/
theorem Fmt.sqrtFin_root (m : Nat) (e : Int) :
    ∃ n h, q.sqrtFin rm sat w m e = q.rootRes rm sat w n 1 40 h ∧ m ≤ n ∧ (m : ℚ) * pow2 e = n / (1 : Nat) * pow2 (2 * h) := by
  unfold Fmt.sqrtFin
  split_ifs with he
  · exact ⟨m, e / 2, rfl, Nat.le_refl _, by rw [Nat.cast_one, div_one, show 2 * (e / 2) = e by omega]⟩
  · refine ⟨2 * m, (e - 1) / 2, rfl, by omega, ?_⟩
    rw [Nat.cast_one, div_one, show 2 * ((e - 1) / 2) = e - 1 by omega, pow2_sub, show pow2 1 = 2 from rfl]
    push_cast
    ring

/-- FRSQ takes the root of the reciprocal of a significand with an even exponent. -/
theorem Fmt.rsqrt_root {m : Nat} (hm : m ≠ 0) (e : Int) :
    ∃ d h, q.rsqrt rm sat w (.fin false m e) = q.rootRes rm sat w 1 d 64 h ∧ 0 < d ∧ d ≤ 2 * m ∧
      ((m : ℚ) * pow2 e)⁻¹ = (1 : Nat) / d * pow2 (2 * h) := by
  unfold Fmt.rsqrt
  simp only [if_neg hm, Bool.false_eq_true, if_false]
  split_ifs with he
  · refine ⟨m, _, rfl, by omega, by omega, ?_⟩
    rw [show 2 * -(e / 2) = 0 - e by omega, pow2_sub, show pow2 0 = 1 from rfl, mul_inv]
    push_cast
    ring
  · refine ⟨2 * m, _, rfl, by omega, by omega, ?_⟩
    rw [show 2 * -((e - 1) / 2) = 1 - e by omega, pow2_sub, show pow2 1 = 2 from rfl, mul_inv]
    push_cast
    field_simp

theorem Fmt.sqrt_special (x : FVal) :
    special q x (q.sqrt rm sat w x) (q.deliverInf sat false) (q.cnan, IV) fun z => (q.signBit z, 0) := by
  cases x with
  | fin s m e => exact fun hm => if_pos hm
  | _ => rfl

theorem Fmt.rsqrt_special (x : FVal) : special q x (q.rsqrt rm sat w x) (0, 0) (q.cnan, IV)
    fun z => ((q.deliverInf sat z).1, (q.deliverInf sat z).2 ||| DZ) := by
  cases x with
  | fin s m e => exact fun hm => if_pos hm
  | _ => rfl

theorem Fmt.sqrt_positive {m : Nat} (hm : m ≠ 0) (e : Int) : q.sqrt rm sat w (.fin false m e) = q.sqrtFin rm sat w m e := by
  simp only [Fmt.sqrt, if_neg hm, Bool.false_eq_true, if_false]

theorem Fmt.sqrt_negative {x : FVal} (hx : proper x) (hs : x.sign = true) : q.sqrt rm sat w x = (q.cnan, IV) := by
  obtain ⟨s, m, e, rfl, hm⟩ := proper_iff.1 hx
  exact (if_neg hm).trans (if_pos hs)

theorem Fmt.rsqrt_negative {x : FVal} (hx : proper x) (hs : x.sign = true) : q.rsqrt rm sat w x = (q.cnan, IV) := by
  obtain ⟨s, m, e, rfl, hm⟩ := proper_iff.1 hx
  exact (if_neg hm).trans (if_pos hs)

variable {q} (hf : q.f ≤ 23)
include hf

theorem sqrt_big {n : Nat} (hn : n ≠ 0) : 4 ^ (q.f + 16) ≤ n * 4 ^ 40 / 1 := by
  rw [Nat.div_one]
  exact (Nat.pow_le_pow_right (by decide) (by omega)).trans (Nat.le_mul_of_pos_left _ (Nat.pos_of_ne_zero hn))

theorem rsqrt_big {m d : Nat} (hm : m < 2 ^ (q.f + 1)) (hd : 0 < d) (hdm : d ≤ 2 * m) : 4 ^ (q.f + 16) ≤ 1 * 4 ^ 64 / d := by
  rw [Nat.le_div_iff_mul_le hd]
  have h1 : 4 ^ (q.f + 16) ≤ 4 ^ 39 := Nat.pow_le_pow_right (by decide) (by omega)
  have h2 : 2 ^ (q.f + 1) ≤ 2 ^ 24 := Nat.pow_le_pow_right (by decide) (by omega)
  calc 4 ^ (q.f + 16) * d ≤ 4 ^ 39 * 2 ^ 25 := Nat.mul_le_mul h1 (by omega)
    _ ≤ 1 * 4 ^ 64 := by decide

/-- A rational square root (R154). -/
theorem Fmt.sqrt_rational {x : FVal} (hx : proper x) {y : ℚ} (hy : 0 < y) (hyx : y * y = valueOf x) :
    q.sqrt rm sat w x = rounded q rm sat w y false := by
  obtain ⟨s, m, e, rfl, hm⟩ := proper_iff.1 hx
  obtain rfl : s = false := (valueOf_pos_iff hm e).1 (hyx ▸ mul_pos hy hy)
  obtain ⟨n, h, hroot, hn, hval⟩ := q.sqrtFin_root rm sat w m e
  rw [q.sqrt_positive rm sat w hm, hroot]
  exact Fmt.rootRes_rational Nat.one_pos h (sqrt_big hf (by omega)) rm sat w hy (by rw [hyx, valueOf_false, hval])

/-- A square root that is no rational number (R154). -/
theorem Fmt.sqrt_real {x : FVal} (hx : proper x) (hs : x.sign = false) (hirr : ∀ y, y * y ≠ valueOf x) :
    roundsReal q rm sat w (fun lo hi => 0 < lo ∧ lo * lo < valueOf x ∧ valueOf x < hi * hi ∧ 0 < hi) (q.sqrt rm sat w x) := by
  obtain ⟨s, m, e, rfl, hm⟩ := proper_iff.1 hx
  obtain rfl : s = false := hs
  obtain ⟨n, h, hroot, hn, hval⟩ := q.sqrtFin_root rm sat w m e
  rw [q.sqrt_positive rm sat w hm, hroot]
  exact Fmt.rootRes_real Nat.one_pos h (sqrt_big hf (by omega)) rm sat w (by rw [valueOf_false, hval]) hirr

variable {b : Nat}

/-- A rational reciprocal square root (R154). -/
theorem Fmt.rsqrt_rational (hx : proper (q.read b)) {y : ℚ} (hy : 0 < y) (hyx : y * y * valueOf (q.read b) = 1) :
    q.rsqrt rm sat w (q.read b) = rounded q rm sat w y false := by
  obtain ⟨s, m, e, hfin, hm⟩ := proper_iff.1 hx
  have hlt := q.lt_of_read hfin
  rw [hfin] at hyx ⊢
  obtain rfl : s = false := (valueOf_pos_iff hm e).1 (pos_of_mul_pos_right (hyx ▸ one_pos) (mul_pos hy hy).le)
  obtain ⟨d, h, hroot, hd, hdm, hval⟩ := q.rsqrt_root rm sat w hm e
  rw [hroot]
  refine Fmt.rootRes_rational hd h (rsqrt_big hf hlt hd hdm) rm sat w hy ?_
  rw [← hval, ← valueOf_false, eq_inv_of_mul_eq_one_left hyx]

/-- A reciprocal square root that is no rational number (R154). -/
theorem Fmt.rsqrt_real (hx : proper (q.read b)) (hs : (q.read b).sign = false) (hirr : ∀ y, y * y ≠ valueOf (q.read b)) :
    roundsReal q rm sat w (fun lo hi => 0 < lo ∧ lo * lo * valueOf (q.read b) < 1 ∧ 1 < hi * hi * valueOf (q.read b) ∧ 0 < hi)
      (q.rsqrt rm sat w (q.read b)) := by
  obtain ⟨s, m, e, hfin, hm⟩ := proper_iff.1 hx
  have hlt := q.lt_of_read hfin
  rw [hfin] at hs hirr ⊢
  obtain rfl : s = false := hs
  have hpos := (valueOf_pos_iff hm e).2 rfl
  obtain ⟨d, h, hroot, hd, hdm, hval⟩ := q.rsqrt_root rm sat w hm e
  rw [← valueOf_false] at hval
  have hirr' (y : ℚ) : y * y ≠ (valueOf (.fin false m e))⁻¹ := fun hy => hirr y⁻¹ (by rw [← mul_inv, hy, inv_inv])
  obtain ⟨lo, hi, ⟨hlo0, hlo, hhi, hhi0⟩, hround⟩ := Fmt.rootRes_real hd h (rsqrt_big hf hlt hd hdm) rm sat w hval hirr'
  rw [hroot]
  refine ⟨lo, hi, ⟨hlo0, ?_, ?_, hhi0⟩, hround⟩
  · rwa [← lt_inv_mul_iff₀' hpos, mul_one]
  · rwa [← inv_mul_lt_iff₀' hpos, mul_one]

end

end Sys2Proof.Machine
end

section
/-! SUPPORT and CERTIFICATES. The special and the exact cases of FEX2, FLG2 and FTRG, and the single-operand functions (R154). -/

namespace Sys2Proof.Machine

open Sys2Proof.Claims

section
variable (q : Fmt) (rm : Rm) (sat : Bool) (w : Nat)

/-! ## FEX2 -/

/-- A finite value that is a whole number is so by its magnitude and its sign. -/
theorem natAbs_of_valueOf {s : Bool} {m : Nat} {e n : Int} (h : valueOf (.fin s m e) = n) :
    (m : ℚ) * pow2 e = n.natAbs ∧ n = if s then -(n.natAbs : Int) else n.natAbs := by
  have hpos : 0 ≤ (m : ℚ) * pow2 e := mul_nonneg (Nat.cast_nonneg m) (pow2_pos e).le
  rw [valueOf, mul_assoc] at h
  generalize (m : ℚ) * pow2 e = x at h hpos
  rw [Nat.cast_natAbs, Int.cast_abs, ← h]
  cases s with
  | false =>
    rw [if_neg (by decide), one_mul] at h ⊢
    have hn : 0 ≤ n := by exact_mod_cast h ▸ hpos
    exact ⟨(abs_of_nonneg hpos).symm, by rw [if_neg (by decide)]; omega⟩
  | true =>
    rw [if_pos rfl, neg_one_mul] at h ⊢
    have hn : n ≤ 0 := by exact_mod_cast h ▸ neg_nonpos.2 hpos
    exact ⟨by rw [abs_neg, abs_of_nonneg hpos], by rw [if_pos rfl]; omega⟩

/-- FEX2 of a whole number in its range is a power of two (R154). -/
theorem Fmt.exp2_whole {s : Bool} {m : Nat} {e n : Int} (hx : valueOf (.fin s m e) = n) (hlo : -4096 ≤ n) (hhi : n ≤ 4096) :
    q.exp2 rm sat w (.fin s m e) = rounded q rm sat w (pow2 n) false := by
  obtain ⟨habs, hn⟩ := natAbs_of_valueOf hx
  have hfix : (scaleQ m 1 (e + fxP)).1 / (scaleQ m 1 (e + fxP)).2 = n.natAbs * 2 ^ fxP := by
    have hv := scaleQ_value m 1 (e + fxP)
    rw [Nat.cast_one, div_one, pow2_add, ← mul_assoc, habs, pow2_natCast] at hv
    obtain ⟨hfloor, -⟩ := div_floor_rest (scaleQ m 1 (e + fxP)).1 _ (scaleQ_pos m (e + fxP) Nat.one_pos)
    rw [← hfloor, hv, ← Nat.cast_mul, Nat.floor_natCast]
  have hsigned : (if s then -((n.natAbs * 2 ^ fxP : Nat) : Int) else (n.natAbs * 2 ^ fxP : Nat)) = n * 2 ^ fxP := by
    rw [Nat.cast_mul, Nat.cast_pow, ← neg_mul, ← ite_mul, ← hn]
    rfl
  have hround : q.round rm sat w false 1 1 n = rounded q rm sat w (pow2 n) false := q.round_rounded rm sat w false 1 Nat.one_pos n (by simp)
  unfold Fmt.exp2
  simp only [hfix, hsigned]
  rw [Int.mul_emod_left, Int.mul_ediv_cancel n (by positivity), if_pos Int.toNat_zero, min_eq_right hhi, max_eq_right hlo, hround]

theorem Fmt.exp2_special (x : FVal) :
    special q x (q.exp2 rm sat w x) (q.deliverInf sat false) (0, 0) fun _ => rounded q rm sat w 1 false := by
  cases x with
  | fin s m e =>
    rintro rfl
    exact q.exp2_whole rm sat w (n := 0) (by simp [valueOf]) (by decide) (by decide)
  | _ => rfl

theorem Fmt.exp2_pow2 {x : FVal} (hx : proper x) {n : Int} (hlo : -4096 ≤ n) (hhi : n ≤ 4096) (hn : valueOf x = n) :
    q.exp2 rm sat w x = rounded q rm sat w (pow2 n) false := by
  obtain ⟨s, m, e, rfl, -⟩ := proper_iff.1 hx
  exact q.exp2_whole rm sat w hn hlo hhi

/-! ## FLG2 -/

theorem Fmt.log2_special (x : FVal) : special q x (q.log2 rm sat w x) (q.deliverInf sat false) (q.cnan, IV)
    fun _ => ((q.deliverInf sat true).1, (q.deliverInf sat true).2 ||| DZ) := by
  cases x with
  | fin s m e => exact fun hm => if_pos hm
  | _ => rfl

theorem Fmt.log2_negative {x : FVal} (hx : proper x) (hs : x.sign = true) : q.log2 rm sat w x = (q.cnan, IV) := by
  obtain ⟨s, m, e, rfl, hm⟩ := proper_iff.1 hx
  exact (if_neg hm).trans (if_pos hs)

/-- FLG2 of a power of two is its exponent (R154). -/
theorem Fmt.log2_pow2 {x : FVal} (hx : proper x) {n : Int} (hn : valueOf x = pow2 n) : q.log2 rm sat w x = rounded q rm sat w n false := by
  obtain ⟨s, m, e, rfl, hm⟩ := proper_iff.1 hx
  obtain rfl : s = false := (valueOf_pos_iff hm e).1 (hn ▸ pow2_pos n)
  rw [valueOf_false, ← eq_div_iff (pow2_pos e).ne', ← pow2_sub] at hn
  obtain ⟨k, hk⟩ : ∃ k : Nat, n - e = k := by
    refine Int.eq_ofNat_of_zero_le (pow2_le_pow2.1 ?_)
    rw [← hn, show pow2 0 = 1 from rfl]
    exact_mod_cast Nat.pos_of_ne_zero hm
  rw [hk, pow2_natCast] at hn
  obtain rfl : m = 2 ^ k := by exact_mod_cast hn
  obtain rfl : n = k + e := by omega
  rw [← convOfInt_eq, convOfInt]
  simp only [Fmt.log2, if_neg hm, Bool.false_eq_true, if_false, Nat.log2_two_pow, if_true]

/-! ## FTRG -/

theorem Fmt.sin_special (x : FVal) :
    special q x (q.trig rm sat false w x) (q.cnan, IV) (q.cnan, IV) fun z => (q.signBit z, 0) := by
  cases x with
  | fin s m e => exact fun hm => if_pos hm
  | inf s => cases s <;> rfl
  | nan => rfl

theorem Fmt.cos_special (x : FVal) :
    special q x (q.trig rm sat true w x) (q.cnan, IV) (q.cnan, IV) fun _ => rounded q rm sat w 1 false := by
  cases x with
  | fin s m e =>
    intro hm
    refine (if_pos hm).trans (q.round_rounded rm sat w false 1 Nat.one_pos 0 ?_)
    simp [show pow2 0 = 1 from rfl]
  | inf s => cases s <;> rfl
  | nan => rfl

/-- A finite magnitude as a quotient by a power of two. -/
theorem magnitude_quotient (m : Nat) (e : Int) : (m : ℚ) * pow2 e = (m * 2 ^ e.toNat : Nat) / (2 ^ (-e).toNat : Nat) := by
  rw [← pow2_natCast, Nat.cast_mul, ← pow2_natCast, mul_div_assoc, ← pow2_sub]
  congr 2
  omega

/-- FTRG of a whole number `k` of quarter turns: a zero or a unit (R154). -/
theorem Fmt.trig_quarters (cos : Bool) {s : Bool} {m : Nat} (hm : m ≠ 0) {e : Int} {k : Nat}
    (hk : 2 * ((m : ℚ) * pow2 e) + cos.toNat = k) :
    q.trig rm sat cos w (.fin s m e) =
      if k % 2 = 0 then (q.signBit (!cos && s), 0) else q.round rm sat w (decide (2 ≤ k % 4) != (!cos && s)) 1 1 0 := by
  have hone := Nat.two_pow_pos (-e).toNat
  unfold Fmt.trig
  rw [magnitude_quotient] at hk
  simp only [if_neg hm]
  generalize m * 2 ^ e.toNat = x at hk ⊢
  generalize 2 ^ (-e).toNat = one at hk hone ⊢
  have hangle : (if cos then (2 * x + one) % (4 * one) else 2 * x % (4 * one)) = k % 4 * one := by
    have hone0 : (one : ℚ) ≠ 0 := by exact_mod_cast hone.ne'
    have hx : 2 * x + cos.toNat * one = k * one := by
      field_simp at hk
      rw [Nat.mul_comm _ one, Nat.mul_comm k]
      exact_mod_cast hk
    rw [← Nat.mul_mod_mul_right, ← hx]
    cases cos <;> simp
  have hneg : 2 * one ≤ k % 4 * one ↔ 2 ≤ k % 4 := Nat.mul_le_mul_right_iff hone
  have hrest : k % 4 * one % (2 * one) = k % 2 * one := by
    rw [Nat.mul_mod_mul_right, Nat.mod_mod_of_dvd k (by decide)]
  simp only [hangle, hneg, hrest]
  rcases Nat.mod_two_eq_zero_or_one k with h | h
  · simp [h]
  · simp [h, hone.ne']

/-- sin(πx) of a whole number is a zero with its sign (R154). -/
theorem Fmt.sin_whole {x : FVal} (hx : proper x) {n : Int} (hn : valueOf x = n) :
    q.trig rm sat false w x = (q.signBit (n < 0), 0) := by
  obtain ⟨s, m, e, rfl, hm⟩ := proper_iff.1 hx
  obtain ⟨habs, hsign⟩ := natAbs_of_valueOf hn
  have hpos : (0 : ℚ) < n.natAbs := habs ▸ mul_pos (by exact_mod_cast Nat.pos_of_ne_zero hm) (pow2_pos e)
  have hpos : 0 < n.natAbs := by exact_mod_cast hpos
  rw [q.trig_quarters rm sat w false hm (k := 2 * n.natAbs) (by rw [habs]; simp), if_pos (by omega)]
  cases s
  · rw [if_neg (by decide)] at hsign
    simp [show ¬ n < 0 by omega]
  · rw [if_pos rfl] at hsign
    simp [show n < 0 by omega]

/-- The sign of a unit. -/
theorem Fmt.round_unit (s : Bool) : q.round rm sat w s 1 1 0 = rounded q rm sat w (if s then -1 else 1) false := by
  have hne : (if s then -1 else 1 : ℚ) ≠ 0 := by cases s <;> simp
  rw [q.round_rounded rm sat w s 1 Nat.one_pos 0 (x := if s then -1 else 1) (by simp [show pow2 0 = 1 from rfl]), rounded, rounded, if_neg hne,
    if_neg hne]

/-- Twice the magnitude of a finite value that is a number of halves. -/
theorem natAbs_of_halves {s : Bool} {m : Nat} {e n : Int} (h : valueOf (.fin s m e) = n / 2) :
    2 * ((m : ℚ) * pow2 e) = n.natAbs ∧ n = if s then -(n.natAbs : Int) else n.natAbs := by
  have hdouble : valueOf (.fin s m (e + 1)) = n := by
    rw [← mul_div_cancel₀ (n : ℚ) two_ne_zero, ← h, valueOf, valueOf, pow2_add, show pow2 1 = 2 from rfl]
    ring
  obtain ⟨habs, hsign⟩ := natAbs_of_valueOf hdouble
  refine ⟨?_, hsign⟩
  rw [← habs, pow2_add, show pow2 1 = 2 from rfl]
  ring

/-- The unit of an even or an odd number. -/
theorem unit_parity (n : Int) : (if decide (n % 2 = 1) then -1 else 1 : ℚ) = if n % 2 = 0 then 1 else -1 := by
  rcases Int.emod_two_eq_zero_or_one n with h | h <;> simp [h]

/-- sin(πx) of a half is a unit (R154). -/
theorem Fmt.sin_half {x : FVal} (hx : proper x) {n : Int} (hn : valueOf x = n + 1 / 2) :
    q.trig rm sat false w x = rounded q rm sat w (if n % 2 = 0 then 1 else -1) false := by
  obtain ⟨s, m, e, rfl, hm⟩ := proper_iff.1 hx
  obtain ⟨habs, hsign⟩ := natAbs_of_halves (n := 2 * n + 1) (hn.trans (by push_cast; ring))
  have hodd : (decide (2 ≤ (2 * n + 1).natAbs % 4) != (!false && s)) = decide (n % 2 = 1) := by
    cases s
    · rw [if_neg (by decide)] at hsign
      simp only [Bool.not_false, Bool.and_false, Bool.bne_false, decide_eq_decide]
      omega
    · rw [if_pos rfl] at hsign
      simp only [Bool.not_false, Bool.and_true, Bool.bne_true, ← decide_not, decide_eq_decide]
      omega
  rw [q.trig_quarters rm sat w false hm (k := (2 * n + 1).natAbs) (by rw [habs]; simp), if_neg (by omega), hodd, q.round_unit, unit_parity]

/-- cos(πx) of a half is a zero (R154). -/
theorem Fmt.cos_half {x : FVal} (hx : proper x) {n : Int} (hn : valueOf x = n + 1 / 2) :
    q.trig rm sat true w x = rounded q rm sat w 0 false := by
  obtain ⟨s, m, e, rfl, hm⟩ := proper_iff.1 hx
  obtain ⟨habs, -⟩ := natAbs_of_halves (n := 2 * n + 1) (hn.trans (by push_cast; ring))
  rw [q.trig_quarters rm sat w true hm (k := (2 * n + 1).natAbs + 1) (by rw [habs]; simp), if_pos (by omega)]
  rfl

/-- cos(πx) of a whole number is a unit (R154). -/
theorem Fmt.cos_whole {x : FVal} (hx : proper x) {n : Int} (hn : valueOf x = n) :
    q.trig rm sat true w x = rounded q rm sat w (if n % 2 = 0 then 1 else -1) false := by
  obtain ⟨s, m, e, rfl, hm⟩ := proper_iff.1 hx
  obtain ⟨habs, -⟩ := natAbs_of_valueOf hn
  have hodd : (decide (2 ≤ (2 * n.natAbs + 1) % 4) != (!true && s)) = decide (n % 2 = 1) := by
    simp only [Bool.not_true, Bool.false_and, Bool.bne_false, decide_eq_decide]
    omega
  rw [q.trig_quarters rm sat w true hm (k := 2 * n.natAbs + 1) (by rw [habs]; simp), if_neg (by omega), hodd, q.round_unit, unit_parity]

end

/-! ## The instructions -/

theorem f_le_of_isF3 {ty : Ty} (h : ty.isF3 = true) : (fmtOf ty).f ≤ 23 := by
  revert h
  cases ty <;> decide

section
variable {s : State} {ty : Ty} {rm : Rm} {sat : Bool} {d a : RegNo} {m : VMode}

theorem isF3_of_fltOk {b : Opnd} (h : fltOk ty b m = true) : ty.isF3 = true := by
  unfold fltOk at h
  simp only [Bool.and_eq_true] at h
  exact h.1.1

theorem frcp_runs (h : Ready s (.frcp ty rm sat d a m)) : Runs (.frcp ty rm sat d a m) s fun t =>
    elementwise s t ty m d (s.run.rmOf rm) fun l e =>
      quotientOf (fmtOf ty) (s.run.rmOf rm) sat (s.sr l e) (.fin false 1 0) (fltA s ty a m l e) := by
  refine runs_checked (by rw [exec, execFrcp]) h ?_
  simp only [← Fmt.div_eq]
  exact s.floatDone_elementwise ..

end

end Sys2Proof.Machine

namespace Sys2Proof.Claims

open Sys2Proof.Machine

/-- Settles O13: FMIN selects (`Fmt.minmax_selects`), FCMP and FCLS are the claim's (`Fmt.compare_eq`, `Fmt.classOf_eq`), the roots lie in a grid that
decides every rounding (`Fmt.rootRes_rational`, `Fmt.rootRes_real`), and the exact cases of FEX2, FLG2 and FTRG are powers of two, whole numbers and
whole numbers of quarter turns. -/
theorem floatSelectionAndFunctions : Obligations.FloatSelectionAndFunctions := by
  unfold Obligations.FloatSelectionAndFunctions
  refine ⟨fun s ty op cond k any d a b set m => ⟨fmin_runs, fcmp_mask_runs, fcmp_vec_runs, fcls_mask_runs, fcls_vec_runs⟩,
    fun s ty rm sat d a m => ⟨frcp_runs, fun h => runs_checked (by rw [exec, execFsqt]) h ?_, fun h => runs_checked (by rw [exec, execFrsq]) h ?_,
      fun h => runs_checked (by rw [exec, execFex2]) h ?_, fun h => runs_checked (by rw [exec, execFlg2]) h ?_,
      fun h => runs_checked (by rw [exec, execFtrg]) h ?_, fun h => runs_checked (by rw [exec, execFtrg]) h ?_⟩⟩
  case refine_1 =>
    have hf := f_le_of_isF3 (isF3_of_fltOk h.1)
    exact ⟨_, s.floatDone_elementwise .., fun _ _ => Fmt.sqrt_special .., fun _ _ hx hs => Fmt.sqrt_negative _ _ _ _ hx hs,
      fun _ _ _ hx hy => Fmt.sqrt_rational _ _ _ hf hx hy.1 hy.2, fun _ _ hx hs => Fmt.sqrt_real _ _ _ hf hx hs⟩
  case refine_2 =>
    have hf := f_le_of_isF3 (isF3_of_fltOk h.1)
    exact ⟨_, s.floatDone_elementwise .., fun _ _ => Fmt.rsqrt_special .., fun _ _ hx hs => Fmt.rsqrt_negative _ _ _ _ hx hs,
      fun _ _ _ hx hy => Fmt.rsqrt_rational _ _ _ hf hx hy.1 hy.2, fun _ _ hx hs => Fmt.rsqrt_real _ _ _ hf hx hs⟩
  case refine_3 =>
    refine ⟨_, s.floatDone_elementwise .., fun _ _ => Fmt.exp2_special .., ?_⟩
    rintro l e y hx ⟨n, hlo, hhi, hn, rfl⟩
    exact Fmt.exp2_pow2 _ _ _ _ hx hlo hhi hn
  case refine_4 =>
    refine ⟨_, s.floatDone_elementwise .., fun _ _ => Fmt.log2_special .., fun _ _ hx hs => Fmt.log2_negative _ _ _ _ hx hs, ?_⟩
    rintro l e y hx ⟨n, hn, rfl⟩
    exact Fmt.log2_pow2 _ _ _ _ hx hn
  case refine_5 =>
    refine ⟨_, s.floatDone_elementwise .., fun _ _ => Fmt.sin_special .., fun _ _ _ hx hn => Fmt.sin_whole _ _ _ _ hx hn, ?_⟩
    rintro l e y hx ⟨n, hn, rfl⟩
    exact Fmt.sin_half _ _ _ _ hx hn
  case refine_6 =>
    refine ⟨_, s.floatDone_elementwise .., fun _ _ => Fmt.cos_special .., ?_⟩
    rintro l e y hx (⟨n, hn, rfl⟩ | ⟨n, hn, rfl⟩)
    · exact Fmt.cos_half _ _ _ _ hx hn
    · exact Fmt.cos_whole _ _ _ _ hx hn

end Sys2Proof.Claims
end

section
/-! SUPPORT and CERTIFICATES. Scalar sums, products, quotients, orders and selection, and the words of the scalar format (R58, R178, R181). -/

namespace Sys2Proof.Machine

open Sys2Proof.Claims

/-! ## Products, quotients and orders of bit vectors (R178) -/

/-- The exact product of what two bit vectors read as, on twice their width. -/
theorem ofInt_readBits_mul (g : Bool) {w : Nat} (x y : BitVec w) : BitVec.ofInt (2 * w) (readBits g x * readBits g y) =
    if g then x.signExtend (2 * w) * y.signExtend (2 * w) else x.setWidth (2 * w) * y.setWidth (2 * w) := by
  rw [BitVec.ofInt_mul]
  cases g with
  | true => rfl
  | false => simp [readBits]

theorem wrapInt_mulHigh (g : Bool) {w : Nat} (x y : BitVec w) :
    wrapInt w (readBits g x * readBits g y / 2 ^ w) = (mulHigh g x y).toNat := by
  rw [wrapInt_high, ofInt_readBits_mul, mulHigh]
  cases g <;> rfl

theorem readBits_eq_zero (g : Bool) {w : Nat} {y : BitVec w} : readBits g y = 0 ↔ y = 0 := by
  have hzero : readBits g (0 : BitVec w) = 0 := by cases g <;> simp [readBits]
  exact ⟨fun h => readBits_inj g (h.trans hzero.symm), fun h => h ▸ hzero⟩

theorem divInt_eq (g : Bool) {w : Nat} (x y : BitVec w) : divInt w (readBits g x) (readBits g y) = (quotient g x y).toNat := by
  unfold divInt quotient
  by_cases hy : y = 0
  · rw [if_pos ((readBits_eq_zero g).2 hy), if_pos hy, BitVec.toNat_allOnes]
  · have hdiv : BitVec.ofInt w ((readBits g x).tdiv (readBits g y)) = if g then x.sdiv y else x / y := by
      cases g with
      | true => exact BitVec.eq_of_toInt_eq ((BitVec.toInt_ofInt _).trans (BitVec.toInt_sdiv x y).symm)
      | false =>
        apply BitVec.eq_of_toNat_eq
        rw [if_neg (by decide), BitVec.toNat_udiv]
        refine (congrArg BitVec.toNat (BitVec.ofInt_natCast w (x.toNat / y.toNat))).trans ?_
        exact Nat.mod_eq_of_lt (Nat.lt_of_le_of_lt (Nat.div_le_self ..) x.isLt)
    rw [if_neg (mt (readBits_eq_zero g).1 hy), if_neg hy, wrapInt_ofInt, hdiv]

theorem remInt_eq (g : Bool) {w : Nat} (x y : BitVec w) : remInt w (readBits g x) (readBits g y) = (remainder g x y).toNat := by
  unfold remInt remainder
  by_cases hy : y = 0
  · rw [if_pos ((readBits_eq_zero g).2 hy), if_pos hy, wrapInt_read]
  · rw [if_neg (mt (readBits_eq_zero g).1 hy), if_neg hy]
    have hrem : (readBits g x).tmod (readBits g y) = readBits g (if g then x.srem y else x % y) := by
      cases g with
      | true => exact (BitVec.toInt_srem x y).symm
      | false => simp [readBits, ← Int.ofNat_tmod]
    rw [hrem, wrapInt_read]

theorem wrapInt_ite_less (g : Bool) {w : Nat} (u v x y : BitVec w) :
    wrapInt w (if readBits g u < readBits g v then readBits g x else readBits g y) = (if less g u v then x else y).toNat := by
  simp only [less_iff, decide_eq_true_eq, ← apply_ite (readBits g), wrapInt_read]

/-- -1, 0 or 1 on `w` bits, as SCMP orders two operands (R178). -/
def orderOf (signed : Bool) {w : Nat} (x y : BitVec w) : BitVec w := if less signed x y then -1 else if x = y then 0 else 1

theorem signExtend_orderOf (g : Bool) (x y : BitVec 32) :
    (orderOf g x y).signExtend 64 = if less g x y then -1 else if x = y then 0 else 1 := by
  unfold orderOf
  split_ifs <;> rfl

/-! ## The instructions -/

section
variable {s : State} {ty : Ty} {d a : SPos} {b : SOp} (hty : ty.isScalar = true)
include hty

/-- A scalar instruction whose result `F` on the numbers that its operands read as is the operation `f` on bit vectors (R178). -/
theorem State.scalar_ofNumbers (F : Nat → Int → Int → Nat) {f : Bool → (w : Nat) → BitVec w → BitVec w → BitVec w}
    (hF : ∀ g w (x y : BitVec w), F w (readBits g x) (readBits g y) = (f g w x y).toNat) :
    s.scalarStep (s.scalar d (scaResult ty (F (Ty.scaW ty) (s.run.scaA ty a) (s.run.scaB ty b)))) d
      (byType ty f (s.run.pos a) (s.run.sop ty b)) := by
  refine s.scalar_byType hty d _ _ f ?_
  rw [Group.scaA_bits, Group.scaB_bits, hF]

theorem sadd_runs : Runs (.sadd ty d a b) s fun t => s.scalarStep t d
    (byType ty (fun _ _ x y => x + y) (s.run.pos a) (s.run.sop ty b)) :=
  ⟨_, rfl, State.scalar_ofNumbers hty (fun w x y => wrapInt w (x + y)) fun g _ => wrapInt_add g⟩

theorem ssub_runs : Runs (.ssub ty d a b) s fun t => s.scalarStep t d
    (byType ty (fun _ _ x y => x - y) (s.run.pos a) (s.run.sop ty b)) :=
  ⟨_, rfl, State.scalar_ofNumbers hty (fun w x y => wrapInt w (x - y)) fun g _ => wrapInt_sub g⟩

theorem smul_lo_runs : Runs (.smul ty false d a b) s fun t => s.scalarStep t d
    (byType ty (fun _ _ x y => x * y) (s.run.pos a) (s.run.sop ty b)) :=
  ⟨_, rfl, State.scalar_ofNumbers hty (fun w x y => wrapInt w (x * y)) fun g _ => wrapInt_mul g⟩

theorem smul_hi_runs : Runs (.smul ty true d a b) s fun t => s.scalarStep t d
    (byType ty (fun g _ x y => mulHigh g x y) (s.run.pos a) (s.run.sop ty b)) :=
  ⟨_, rfl, State.scalar_ofNumbers hty (fun w x y => wrapInt w (x * y / 2 ^ w)) fun g _ => wrapInt_mulHigh g⟩

theorem sdiv_runs : Runs (.sdiv ty false d a b) s fun t => s.scalarStep t d
    (byType ty (fun g _ x y => quotient g x y) (s.run.pos a) (s.run.sop ty b)) :=
  ⟨_, rfl, State.scalar_ofNumbers hty divInt fun g _ => divInt_eq g⟩

theorem sdiv_rem_runs : Runs (.sdiv ty true d a b) s fun t => s.scalarStep t d
    (byType ty (fun g _ x y => remainder g x y) (s.run.pos a) (s.run.sop ty b)) :=
  ⟨_, rfl, State.scalar_ofNumbers hty remInt fun g _ => remInt_eq g⟩

theorem smin_runs : Runs (.smin ty false d a b) s fun t => s.scalarStep t d
    (byType ty (fun g _ x y => if less g y x then y else x) (s.run.pos a) (s.run.sop ty b)) :=
  ⟨_, rfl, State.scalar_ofNumbers hty (fun w x y => wrapInt w (if y < x then y else x)) fun g _ x y => wrapInt_ite_less g y x y x⟩

theorem smin_max_runs : Runs (.smin ty true d a b) s fun t => s.scalarStep t d
    (byType ty (fun g _ x y => if less g x y then y else x) (s.run.pos a) (s.run.sop ty b)) :=
  ⟨_, rfl, State.scalar_ofNumbers hty (fun w x y => wrapInt w (if x < y then y else x)) fun g _ x y => wrapInt_ite_less g x y y x⟩

/-- The order of the operands as numbers is their order on the type's width, sign-extended also where the type is unsigned (R178). -/
theorem order_byType (x y : Word) :
    (let u := readBits (Ty.scaSigned ty) (x.setWidth (Ty.scaW ty)); let v := readBits (Ty.scaSigned ty) (y.setWidth (Ty.scaW ty))
      if u < v then (-1 : Word) else if u = v then 0 else 1) =
    byType (if ty = .n32 then .s32 else if ty = .n64 then .s64 else ty)
      (fun _ _ x y => orderOf (ty ≠ .n32 ∧ ty ≠ .n64) x y) x y := by
  have hord {w : Nat} (g : Bool) (u v : BitVec w) : (if readBits g u < readBits g v then (-1 : Word) else
      if readBits g u = readBits g v then 0 else 1) = if less g u v then -1 else if u = v then 0 else 1 := by
    simp only [less_iff, decide_eq_true_eq, show readBits g u = readBits g v ↔ u = v from ⟨readBits_inj g, congrArg _⟩]
  dsimp only
  rw [hord]
  cases ty with
  | s32 => exact (signExtend_orderOf true _ _).symm
  | n32 => exact (signExtend_orderOf false _ _).symm
  | b32 | s64 | n64 => simp [byType, orderOf, Ty.scaW, Ty.scaSigned]
  | _ => exact absurd hty (by decide)

theorem scmp_runs : Runs (.scmp ty d a b) s fun t => s.scalarStep t d
    (byType (if ty = .n32 then .s32 else if ty = .n64 then .s64 else ty)
      (fun _ _ x y => if less (ty ≠ .n32 ∧ ty ≠ .n64) x y then -1 else if x = y then 0 else 1) (s.run.pos a) (s.run.sop ty b)) := by
  refine ⟨_, rfl, ?_⟩
  rw [Group.scaA_bits, Group.scaB_bits]
  exact order_byType hty _ _ ▸ s.scalar_step d _

end

theorem ssel_runs (s : State) (d a b c : SPos) (nr : Bool) :
    Runs (.ssel d a b c nr) s fun t => s.scalarStep t d (if s.run.pos c ≠ 0 then s.run.pos a else s.run.pos b) := by
  rw [ite_not]
  exact ⟨_, rfl, s.scalar_step d _⟩

end Sys2Proof.Machine

namespace Sys2Proof

theorem SPos.notEm_iff (d : SPos) : d.notEm = true ↔ d ≠ .em := by cases d <;> simp [SPos.notEm]

/-! ## The fields of a scalar instruction's word (R58) -/

/-- The operand fields and TY lie side by side. -/
theorem fld_operands (w : Word) : fld w 20 28 = fld w 40 8 ++ fld w 32 8 ++ fld w 24 8 ++ fld w 20 4 := by
  simp only [fld, BitVec.extractLsb'_append_extractLsb'_eq_extractLsb']

theorem getLsbD_of_fld {w : Word} {i : Nat} (h : fld w i 1 = 1#1) : w.getLsbD i = true := by
  simpa [fld, BitVec.getLsbD_extractLsb'] using congrArg (·.getLsbD 0) h

/-- The word of an instruction whose operands B and C are scalar positions: BS = CK = 1, and TY is 0. -/
theorem encV_scalar_fields (op d a lut : BitVec 8) (b c : SPos) (nr : Bool) :
    let w := encV op .b32 false .rne d a (.s b) (.s c) (nrOnly nr) lut
    fld w 56 8 = op ∧ fld w 48 8 = d ∧ fld w 40 8 = a ∧ fld w 32 8 = b.code ∧ fld w 24 8 = c.code ∧ fld w 20 4 = 0 ∧
      w.getLsbD 15 = true ∧ w.getLsbD 14 = true ∧ fld w 0 8 = lut :=
  ⟨packV_56_8 .., packV_48_8 .., packV_40_8 .., packV_32_8 .., packV_24_8 .., packV_20_4 .., getLsbD_of_fld (packV_15_1 ..),
    getLsbD_of_fld (packV_14_1 ..), packV_0_8 ..⟩

end Sys2Proof

namespace Sys2Proof.Claims

open Sys2Proof.Machine

/-- Settles O1: each operation on the numbers that the operands read as is the claim's on bit vectors of the type's width
(`State.scalar_ofNumbers`), and SCMP extends its result as a signed value (`order_byType`). -/
theorem scalarArithmetic : Obligations.ScalarArithmetic := by
  unfold Obligations.ScalarArithmetic
  exact ⟨fun s ty d a b hty => ⟨sadd_runs hty, ssub_runs hty, smul_lo_runs hty, smul_hi_runs hty⟩,
    fun s ty d a b hty => ⟨sdiv_runs hty, sdiv_rem_runs hty, smin_runs hty, smin_max_runs hty, scmp_runs hty⟩⟩

/-- Settles O3: the selected operand goes to one position (`State.scalar_step`). -/
theorem sselSelects : Obligations.SselSelects := by
  unfold Obligations.SselSelects
  refine fun s d a b c nr => ⟨ssel_runs s d a b c nr, d.notEm_iff, fun w hw => ?_⟩
  obtain rfl := Option.some.inj hw
  obtain ⟨h1, h2, h3, h4, h5, h6, h7, h8, -⟩ := encV_scalar_fields 0x18 d.code a.code 0 b c nr
  exact ⟨h1, h2, h3, h4, h5, h6, h7, h8⟩

end Sys2Proof.Claims
end

section
/-! SUPPORT and CERTIFICATES. Masks: what EMSET, EMSAV, MLOG and VOTE make of them, and TFENCE, whose trap keeps the sticky flags (R168, R186-R190,
R374). -/

namespace Sys2Proof.Machine

open Sys2Proof.Claims

/-! ## Writes of `em` (R168, R187) -/

/-- The mask that an operand of EMSET gives: a scalar's low 32 bits, or the lanes that are not 0 (R187). -/
def Group.emOperand (g : Group) : Opnd → Lane
  | .s p => (g.pos p).setWidth 32
  | .v r => mkMask fun t => lane (g.reg r.toNat) t != 0

/-- `em` combined with that mask (R187). -/
def Group.emCombined (g : Group) (op : EmOp) (x : Lane) : Lane :=
  match op with
  | .set => x
  | .and => g.em &&& x
  | .or => g.em ||| x
  | .andn => g.em &&& ~~~x

theorem execEmset_eq (op : EmOp) (b : Opnd) (nr : Bool) (s : State) : exec (.emset op b nr) s = s.checked (.emset op b nr) fun s =>
    s.done (s.run.setPos .em ((s.run.emCombined op (s.run.emOperand b)).setWidth 64)) 1 := by
  rw [exec, execEmset]
  cases op <;> cases b <;> rfl

theorem Group.emOperand_bit (g : Group) (b : Opnd) {l : Nat} (hl : l < 32) : (g.emOperand b).getLsbD l = match b with
    | .s p => (g.pos p).getLsbD l
    | .v r => lane (g.reg r.toNat) l != 0 := by
  cases b with
  | s p => simp [Group.emOperand, hl]
  | v r => exact (mkMask_bit ..).trans (by rw [decide_eq_true hl, Bool.true_and])

theorem Group.emCombined_bit (g : Group) (op : EmOp) (x : Lane) {l : Nat} (hl : l < 32) : (g.emCombined op x).getLsbD l = match op with
    | .set => x.getLsbD l
    | .and => g.em.getLsbD l && x.getLsbD l
    | .or => g.em.getLsbD l || x.getLsbD l
    | .andn => g.em.getLsbD l && !x.getLsbD l := by
  cases op <;> simp [Group.emCombined, hl]

theorem emset_runs {s : State} {op : EmOp} {b : Opnd} {nr : Bool} (h : Ready s (.emset op b nr)) : Runs (.emset op b nr) s fun t =>
    t.run.em = s.run.emCombined op (s.run.emOperand b) &&& s.run.z ∧ becomes s t { s.run with em := t.run.em } 1 := by
  refine runs_checked (execEmset_eq op b nr s) h ⟨?_, s.done_becomes _ 1⟩
  show ((s.run.emCombined op (s.run.emOperand b)).setWidth 64).setWidth 32 &&& s.run.z = _
  rw [BitVec.setWidth_setWidth_of_le _ (by decide), BitVec.setWidth_eq]

/-! ## Truth tables of masks (R188) -/

theorem mlog_runs (s : State) (d a b c : SPos) (lut : BitVec 8) (nr : Bool) : Runs (.mlog d a b c lut nr) s fun t => ∃ x : Lane,
    (∀ i, i < 32 → x.getLsbD i = lut.getLsbD (4 * ((s.run.pos a).getLsbD i).toNat + 2 * ((s.run.pos b).getLsbD i).toNat
      + ((s.run.pos c).getLsbD i).toNat)) ∧ s.scalarStep t d (x.setWidth 64) := by
  have hlt := lutBits_lt lut (s.run.pos a).toNat (s.run.pos b).toNat (s.run.pos c).toNat 32
  refine ⟨_, rfl, BitVec.ofNat 32 (lutBits lut (s.run.pos a).toNat (s.run.pos b).toNat (s.run.pos c).toNat 32), fun i hi => ?_, ?_⟩
  · rw [BitVec.getLsbD_ofNat, decide_eq_true hi, Bool.true_and, lutBits_testBit lut _ _ _ hi]
    rfl
  · rw [BitVec.setWidth_ofNat_of_le_of_lt (by decide) hlt]
    exact s.done_setPos d _ 1

/-! ## Votes (R189) -/

/-- The active lanes that hold a value other than 0. -/
def Group.ballot (g : Group) (a : RegNo) : Lane := mkMask fun t => g.em.getLsbD t && lane (g.reg a.toNat) t != 0

theorem Group.ballot_bit (g : Group) (a : RegNo) {l : Nat} (hl : l < 32) :
    (g.ballot a).getLsbD l = true ↔ g.em.getLsbD l = true ∧ lane (g.reg a.toNat) l ≠ 0 := by
  rw [Group.ballot, mkMask_bit]
  simp [hl]

theorem Group.ballot_eq_zero (g : Group) (a : RegNo) :
    g.ballot a = 0 ↔ ∀ l, l < 32 → g.em.getLsbD l = true → ¬ lane (g.reg a.toNat) l ≠ 0 := by
  constructor
  · intro h l hl he hv
    have := (g.ballot_bit a hl).2 ⟨he, hv⟩
    simp [h] at this
  · intro h
    by_contra hne
    obtain ⟨l, hl, hb⟩ := lane_of_ne_zero hne
    obtain ⟨he, hv⟩ := (g.ballot_bit a hl).1 hb
    exact h l hl he hv

theorem Group.ballot_eq_em (g : Group) (a : RegNo) :
    g.ballot a = g.em ↔ ∀ l, l < 32 → g.em.getLsbD l = true → lane (g.reg a.toNat) l ≠ 0 := by
  constructor
  · intro h l hl he
    exact ((g.ballot_bit a hl).1 (h ▸ he)).2
  · intro h
    refine BitVec.eq_of_getLsbD_eq fun l hl => Bool.eq_iff_iff.2 ((g.ballot_bit a hl).trans ?_)
    exact ⟨fun hb => hb.1, fun he => ⟨he, h l hl he⟩⟩

/-- Every active lane holds what the first one holds. -/
def Group.unanimous (g : Group) (a : RegNo) : Bool :=
  (activeLanes g.em).all fun t => lane (g.reg a.toNat) t == lane (g.reg a.toNat) ((activeLanes g.em).headD 0)

theorem Group.unanimous_iff (g : Group) (a : RegNo) : g.unanimous a = true ↔
    ∀ k l, k < 32 → l < 32 → g.em.getLsbD k = true → g.em.getLsbD l = true → lane (g.reg a.toNat) k = lane (g.reg a.toNat) l := by
  simp only [Group.unanimous, List.all_eq_true, mem_activeLanes, beq_iff_eq]
  constructor
  · intro h k l hk hl hek hel
    exact (h k ⟨hk, hek⟩).trans (h l ⟨hl, hel⟩).symm
  · rintro h l ⟨hl, hel⟩
    obtain ⟨hehead, hmin⟩ := activeLanes_head hl hel
    have hhead : (activeLanes g.em).headD 0 ≤ l := by
      by_contra hlt
      simp [hmin l (by omega)] at hel
    exact h l _ hl (by omega) hel hehead

/-- What VOTE writes (R189). -/
def Group.vote (g : Group) (op : VoteOp) (a : RegNo) : Word :=
  match op with
  | .ballot => (g.ballot a).setWidth 64
  | .any => if g.ballot a != 0 then 1 else 0
  | .all => if g.ballot a = g.em then 1 else 0
  | .uni => if g.unanimous a then 1 else 0

theorem execVote_eq (op : VoteOp) (d : SPos) (a : RegNo) (nr : Bool) (s : State) : exec (.vote op d a nr) s =
    s.checked (.vote op d a nr) fun s => s.done (s.run.setPos d (s.run.vote op a)) 1 := by
  rw [exec, execVote]
  cases op <;> rfl

theorem vote_runs {s : State} {op : VoteOp} {d : SPos} {a : RegNo} {nr : Bool} (h : Ready s (.vote op d a nr)) :
    Runs (.vote op d a nr) s fun t => s.scalarStep t d (s.run.vote op a) :=
  runs_checked (execVote_eq op d a nr s) h (s.done_setPos d _ 1)

/-! ## A trap keeps the sticky flags (R374, R378-R381) -/

theorem State.haltTeam_fsr (s : State) (key gid : Nat) (brk : Bool) : (s.haltTeam key gid brk).run.fsr = s.run.fsr := by
  unfold State.haltTeam State.mapGroups
  dsimp only
  split_ifs <;> cases brk <;> rfl

theorem State.frameEntry_fsr (s : State) (t : Trap) (a : Addr) : (s.frameEntry t a).1.run.fsr = s.run.fsr := by
  have hs := State.served_translate s s.run.core s.run.part s.run.ctx (s.userFrame s.run) .wr (!s.isSup s.run)
  unfold State.frameEntry
  dsimp only
  split
  · rename_i s1 pa e
    rw [e] at hs
    split_ifs
    · exact congrArg Group.fsr hs.run
    · rw [State.freeze_run]; rfl
    · exact congrArg Group.fsr hs.run
  · rename_i s1 er e
    rw [e] at hs
    exact congrArg Group.fsr hs.run

theorem State.supTrap_fsr (s : State) (t : Trap) (nest : Bool) : (s.supTrap t nest).run.fsr = s.run.fsr := by
  unfold State.supTrap
  dsimp only
  rw [State.postSystem, State.setCluster_run, State.freeze_run, State.haltTeam_fsr]
  rfl

theorem State.stopBusy_fsr (s : State) (t : Trap) : (s.stopBusy t).run.fsr = s.run.fsr := by
  unfold State.stopBusy
  dsimp only
  rw [State.freeze_run]
  split_ifs
  · rw [State.haltTeam_fsr]; rfl
  · rfl

theorem State.deviceError_run (s : State) (cause : Nat) : (s.deviceError cause).run = s.run := by
  unfold State.deviceError State.snapTrigger
  dsimp only
  split_ifs <;> rfl

theorem State.ctlTrap_fsr (s : State) (t : Trap) : (s.ctlTrap t).run.fsr = s.run.fsr := by
  unfold State.ctlTrap
  dsimp only
  split_ifs
  · split
    · rw [State.deviceError_run]; rfl
    · rfl
  · rfl

/-- Whichever way a trap goes, the group keeps its sticky flags. -/
theorem State.takeTrap_fsr (s : State) (t : Trap) : (s.takeTrap t).run.fsr = s.run.fsr := by
  unfold State.takeTrap
  dsimp only
  split
  · have hf := s.frameEntry_fsr t s.run.tvt
    split
    · exact s.stopBusy_fsr t
    split
    · generalize s.frameEntry t s.run.tvt = r at hf
      obtain ⟨s1, e⟩ := r
      cases e with
      | made =>
        dsimp only
        split
        · exact (s1.haltTeam_fsr ..).trans hf
        · exact hf
      | busy =>
        dsimp only
        split
        · exact (s1.stopBusy_fsr t).trans hf
        · exact (s1.supTrap_fsr t _).trans hf
      | unwritten => exact (s1.supTrap_fsr t _).trans hf
    · exact s.supTrap_fsr t _
  · exact s.ctlTrap_fsr t

theorem Group.trapped_bit (g : Group) {i : Nat} (hi : i < 32) :
    (g.fsr &&& g.fte.setWidth 32).getLsbD i = true ↔ g.fsr.getLsbD i = true ∧ g.fte.getLsbD i = true := by
  rw [BitVec.getLsbD_and, BitVec.getLsbD_setWidth, decide_eq_true hi, Bool.true_and, Bool.and_eq_true]

/-- Some sticky flag is set that its enable bit traps (R190). -/
theorem Group.trapped_iff (g : Group) :
    g.fsr &&& g.fte.setWidth 32 ≠ 0 ↔ ∃ i, i < 6 ∧ g.fsr.getLsbD i = true ∧ g.fte.getLsbD i = true := by
  constructor
  · intro h
    obtain ⟨i, hi, hb⟩ := lane_of_ne_zero h
    obtain ⟨hfsr, hfte⟩ := (g.trapped_bit hi).1 hb
    exact ⟨i, BitVec.lt_of_getLsbD hfte, hfsr, hfte⟩
  · rintro ⟨i, hi, hb⟩ h0
    have hbit := (g.trapped_bit (by omega)).2 hb
    rw [h0] at hbit
    exact absurd hbit (by simp)

theorem execTfence_eq (nr : Bool) (s : State) : exec (.tfence nr) s = .next (if s.run.fsr &&& s.run.fte.setWidth 32 ≠ 0 then
    s.takeTrap ⟨0x20, s.run.wordAddr, s.run.word, 0, 0, 0, s.run.after.1, s.run.after.2⟩ else s.done s.run 1) := by
  rw [exec, execTfence]
  by_cases h : s.run.fsr &&& s.run.fte.setWidth 32 = 0
  · rw [if_neg (not_not.2 h)]
    simp only [h]
    rfl
  · rw [if_pos h]
    exact if_pos (bne_iff_ne.2 h)

end Sys2Proof.Machine

namespace Sys2Proof.Claims

open Sys2Proof.Machine

/-- Settles O20: EMSET stores its combined mask ANDed with Z (`emset_runs`), MLOG is its truth table (`mlog_runs`), VOTE counts the active lanes
(`vote_runs`), and TFENCE's trap keeps `fsr` (`State.takeTrap_fsr`). -/
theorem masksMoveCombineAndTest : Obligations.MasksMoveCombineAndTest := by
  unfold Obligations.MasksMoveCombineAndTest
  refine ⟨fun s op b d a nr => ⟨fun h => ?_, fun h => ?_, fun h => ?_, fun h => ?_, fun h => ?_⟩,
    fun s d nr => ⟨⟨_, rfl, s.done_setPos d _ 1⟩, d.notEm_iff, fun w hw => ?_⟩,
    fun s d a b c lut nr => ⟨mlog_runs s d a b c lut nr, fun w hw => ?_⟩, fun s nr => ⟨fun h => ?_, fun h => ?_⟩⟩
  case refine_1 =>
    obtain ⟨t, he, hem, hrest⟩ := emset_runs h
    refine ⟨t, he, fun l hl => ?_, hrest⟩
    dsimp only
    rw [hem, BitVec.getLsbD_and, s.run.emCombined_bit op _ hl, s.run.emOperand_bit b hl]
    cases op <;> cases b <;> rfl
  case refine_2 =>
    obtain ⟨t, he, hstep⟩ := vote_runs h
    exact ⟨t, he, s.run.ballot a, fun l hl => s.run.ballot_bit a hl, hstep⟩
  case refine_3 =>
    obtain ⟨t, he, hstep⟩ := vote_runs h
    refine ⟨t, he, _, fun hany => ?_, fun hnone => ?_, hstep⟩
    · obtain ⟨l, hl, hem, hv⟩ := hany
      exact if_pos (bne_iff_ne.2 fun h0 => (s.run.ballot_eq_zero a).1 h0 l hl hem hv)
    · exact if_neg (by simp [(s.run.ballot_eq_zero a).2 hnone])
  case refine_4 =>
    obtain ⟨t, he, hstep⟩ := vote_runs h
    refine ⟨t, he, _, fun hall => if_pos ((s.run.ballot_eq_em a).2 hall), fun hsome => ?_, hstep⟩
    obtain ⟨l, hl, hem, hv⟩ := hsome
    exact if_neg fun h0 => hv ((s.run.ballot_eq_em a).1 h0 l hl hem)
  case refine_5 =>
    obtain ⟨t, he, hstep⟩ := vote_runs h
    refine ⟨t, he, _, fun hall => if_pos ((s.run.unanimous_iff a).2 hall), fun hsome => ?_, hstep⟩
    obtain ⟨k, l, hk, hl, hek, hel, hv⟩ := hsome
    exact if_neg fun h0 => hv ((s.run.unanimous_iff a).1 h0 k l hk hl hek hel)
  case refine_6 =>
    obtain rfl := Option.some.inj hw
    refine ⟨packV_56_8 .., packV_48_8 .., (fld_operands _).trans ?_, packV_0_8 ..⟩
    simp only [encV, packV_40_8, packV_32_8, packV_24_8, packV_20_4]
    rfl
  case refine_7 =>
    obtain rfl := Option.some.inj hw
    exact encV_scalar_fields 0x0B d.code a.code lut b c nr
  case refine_8 =>
    refine ⟨_, execTfence_eq nr s, ?_⟩
    rw [if_neg fun hne => ?_]
    · exact s.done_becomes _ 1
    · obtain ⟨i, hi, hb⟩ := s.run.trapped_iff.1 hne
      exact h i hi hb
  case refine_9 =>
    refine ⟨_, execTfence_eq nr s, ?_⟩
    rw [if_pos (s.run.trapped_iff.2 h)]
    exact ⟨rfl, s.takeTrap_fsr _⟩

end Sys2Proof.Claims
end

section
/-! SUPPORT and CERTIFICATES. What SRD reads, and what SWR makes of each control register and leaves of the others (R173-R175, R182, R183, R344). -/

namespace Sys2Proof

/-- A control register of a cluster (R173). -/
def Ctl.ofCluster : Ctl → Bool
  | .balth | .baltt | .baldly | .dampmin | .bias => true
  | _ => false

end Sys2Proof

namespace Sys2Proof.Machine

open Sys2Proof.Claims

/-! ## Selectors (R175) -/

/-- `$ctx`: the address-space id above the number of the context (R175). -/
theorem selector_ctx_fields (a : BitVec 12) {c : Nat} (hc : c < 64) : let x := BitVec.ofNat 64 (a.toNat * 2 ^ 16 + c)
    x.extractLsb' 16 12 = a ∧ x.extractLsb' 0 6 = BitVec.ofNat 6 c ∧ x.extractLsb' 6 10 = 0 ∧ x.extractLsb' 28 36 = 0 := by
  have ha := a.isLt
  refine ⟨?_, ?_, ?_, ?_⟩
  all_goals
    apply BitVec.eq_of_toNat_eq
    simp only [BitVec.extractLsb'_toNat, BitVec.toNat_ofNat, Nat.shiftRight_eq_div_pow, BitVec.ofNat_eq_ofNat]
    omega

/-- `$perf` reads the counter where its select names the reader's context and partition (R175, R361). -/
theorem selector_perf (s : State) (i : BitVec 4) (hc : s.run.ctx < 64) (hp : s.run.part < 64) :
    let w := (s.core s.run.core).sels[i.toNat]
    s.selector (.perf i) = if w.extractLsb' 8 6 = BitVec.ofNat 6 s.run.ctx ∧ w.extractLsb' 14 6 = BitVec.ofNat 6 s.run.part
      then (s.core s.run.core).ctrs[i.toNat] else 0 := by
  have six (x : BitVec 6) {n : Nat} (h : n < 64) : x.toNat = n ↔ x = BitVec.ofNat 6 n := by
    rw [← BitVec.toNat_inj, BitVec.toNat_ofNat, Nat.mod_eq_of_lt h]
  simp only [State.selector, Bool.and_eq_true, decide_eq_true_eq, six _ hc, six _ hp]

/-- `$flmis` is the reading of the reader's flue (R175). -/
theorem selector_flmis (s : State) {f : Nat} (h : f < 12) (hf : s.run.core % 24 / 2 = f) :
    s.selector .flmis = BitVec.ofInt 64 (s.cluster s.run.cluster).flue[f] := by
  simp [State.selector, hf, h]

theorem selector_cluster (s : State) : (s.run.kind = .compute → s.run.core < 384 → (s.selector .cluster).toNat = s.run.core / 24) ∧
    ∀ k, k < 16 → s.run.kind = .control k → (s.selector .cluster).toNat = k := by
  constructor
  · intro hk hc
    simp only [State.selector, Group.cluster, hk]
    exact Nat.mod_eq_of_lt (by omega)
  · intro k hk hctl
    simp only [State.selector, Group.cluster, hctl]
    exact Nat.mod_eq_of_lt (by omega)

theorem selector_grid (s : State) {y : Grid} (h : s.grid? s.run.grid = some y) :
    s.selector .grid = BitVec.ofNat 64 (y.id % 2 ^ 32) := by simp [State.selector, h]

/-- `$window` is the number of the context's newest window, and 0 in a context that does not log (R175, R260). -/
theorem selector_window (s : State) {c : Ctx} (h : s.ctx? s.run.part s.run.ctx = some c) :
    (c.logs = true → ∀ w, c.windows.getLast? = some w → s.selector .window = w.num.setWidth 64) ∧
    (c.logs = false → s.selector .window = 0) := by
  refine ⟨fun hl w hw => ?_, fun hl => ?_⟩
  · simp [State.selector, h, hl, Ctx.curWin, hw]
  · simp [State.selector, h, hl]

/-! ## What a write of a control register leaves (R173, R183) -/

/-- SWR writes control registers of the group, of its team or of its cluster, and nothing else. -/
theorem State.writeCtl_only (s : State) (c : Ctl) (v : Word) : let t := s.writeCtl c v
    t = { s with run := t.run, teams := t.teams, clusters := t.clusters } ∧
    t.run = { s.run with rm := t.run.rm, fte := t.run.fte, mmode := t.run.mmode, tvt := t.run.tvt } := by
  cases c with
  | rm | burnauto | shuntauto =>
    simp only [State.writeCtl]
    split <;> exact ⟨rfl, rfl⟩
  | _ => exact ⟨rfl, rfl⟩

theorem State.writeCtl_team_ne (s : State) (c : Ctl) (v : Word) {k : Nat} (hk : k ≠ s.run.teamKey) :
    (s.writeCtl c v).team? k = s.team? k := by
  cases c with
  | rm =>
    simp only [State.writeCtl]
    split <;> rfl
  | burnauto | shuntauto =>
    simp only [State.writeCtl]
    split
    · exact Tbl.find_put_ne _ _ hk
    · rfl
  | _ => rfl

theorem State.writeCtl_cluster_ne (s : State) (c : Ctl) (v : Word) {k : Nat} (hk : k ≠ s.run.cluster) :
    (s.writeCtl c v).cluster k = s.cluster k := by
  cases c with
  | rm | burnauto | shuntauto =>
    simp only [State.writeCtl]
    split <;> rfl
  | fte | mmode | tvt => rfl
  | _ => exact State.cluster_setCluster_ne s _ hk

/-- A completion reads and writes no control register. -/
theorem State.readCtl_done (s : State) (n : Nat) (c : Ctl) : (s.done s.run n).readCtl c = s.readCtl c := by
  rw [State.done, State.charge_only]
  cases c <;> rfl

theorem State.writeCtl_ofCluster (s : State) {c : Ctl} (hc : c.ofCluster = true) (v : Word) :
    s.writeCtl c v = s.setCluster s.run.cluster ((s.cluster s.run.cluster).setCtl c v) := by
  cases c with
  | balth | baltt | baldly | dampmin | bias => rfl
  | _ => exact absurd hc (by decide)

theorem State.readCtl_ofCluster (s : State) {c : Ctl} (hc : c.ofCluster = true) : s.readCtl c = (s.cluster s.run.cluster).ctl c := by
  cases c with
  | balth | baltt | baldly | dampmin | bias => rfl
  | _ => exact absurd hc (by decide)

theorem State.readCtl_setCluster (s : State) (k : Cluster) (d : Ctl) :
    (s.setCluster s.run.cluster k).readCtl d = if d.ofCluster then k.ctl d else s.readCtl d := by
  by_cases hd : d.ofCluster = true
  · rw [if_pos hd, State.readCtl_ofCluster _ hd, State.setCluster_run, State.cluster_setCluster]
  · rw [if_neg hd]
    cases d with
    | balth | baltt | baldly | dampmin | bias => exact absurd rfl hd
    | _ => rfl

theorem Cluster.ctl_setCtl_ne (k : Cluster) {c d : Ctl} (v : Word) (h : d ≠ c) : (k.setCtl c v).ctl d = k.ctl d := by
  cases c with
  | balth => cases d with
    | balth => exact absurd rfl h
    | _ => rfl
  | baltt => cases d with
    | baltt => exact absurd rfl h
    | _ => rfl
  | baldly => cases d with
    | baldly => exact absurd rfl h
    | _ => rfl
  | bias => cases d with
    | bias => exact absurd rfl h
    | _ => rfl
  | dampmin =>
    simp only [Cluster.setCtl]
    split
    · rfl
    · cases d with
      | dampmin => exact absurd rfl h
      | _ => rfl
  | _ => rfl

/-- A write of one control register leaves every other (R183). -/
theorem State.readCtl_writeCtl_ne (s : State) {c d : Ctl} (v : Word) (h : d ≠ c) : (s.writeCtl c v).readCtl d = s.readCtl d := by
  by_cases hc : c.ofCluster = true
  · rw [s.writeCtl_ofCluster hc, State.readCtl_setCluster, Cluster.ctl_setCtl_ne _ _ h]
    split
    · rename_i hd
      exact (s.readCtl_ofCluster hd).symm
    · rfl
  cases c with
  | rm =>
    simp only [State.writeCtl]
    split
    · cases d with
      | rm => exact absurd rfl h
      | _ => rfl
    · rfl
  | fte => cases d with
    | fte => exact absurd rfl h
    | _ => rfl
  | mmode => cases d with
    | mmode => exact absurd rfl h
    | _ => rfl
  | tvt => cases d with
    | tvt => exact absurd rfl h
    | _ => rfl
  | burnauto =>
    simp only [State.writeCtl]
    split
    · rename_i t ht
      cases d with
      | burnauto => exact absurd rfl h
      | shuntauto => simp only [State.readCtl, State.setTeam_run, State.team_find_setTeam, ht, Option.getD_some]
      | _ => rfl
    · rfl
  | shuntauto =>
    simp only [State.writeCtl]
    split
    · rename_i t ht
      cases d with
      | shuntauto => exact absurd rfl h
      | burnauto => simp only [State.readCtl, State.setTeam_run, State.team_find_setTeam, ht, Option.getD_some]
      | _ => rfl
    · rfl
  | _ => exact absurd rfl hc

/-! ## What a write makes of each register (R174, R344) -/

theorem toNat_bit (v : Word) : (if v.getLsbD 0 then 1 else 0 : Word).toNat = v.toNat % 2 := by
  rw [BitVec.getLsbD, Nat.testBit_zero]
  rcases Nat.mod_two_eq_zero_or_one v.toNat with h | h <;> simp [h]

theorem toNat_and_low (v : Word) {m : Word} {k : Nat} (hm : m.toNat = 2 ^ k - 1) : (v &&& m).toNat = v.toNat % 2 ^ k := by
  rw [BitVec.toNat_and, hm, Nat.and_two_pow_sub_one_eq_mod]

section
variable (s : State) (v : Word)

theorem State.readCtl_write_rm : ((s.writeCtl .rm v).readCtl .rm).toNat = if v.toNat % 8 < 6 then v.toNat % 8 else s.run.rm.toNat := by
  have hlow : (v &&& 7).toNat = v.toNat % 8 := toNat_and_low v (k := 3) rfl
  simp only [State.writeCtl, hlow]
  split
  · show ((v.setWidth 3).setWidth 64).toNat = _
    rw [BitVec.toNat_setWidth, BitVec.toNat_setWidth]
    omega
  · show (s.run.rm.setWidth 64).toNat = _
    rw [BitVec.toNat_setWidth]
    omega

theorem State.readCtl_write_fte : ((s.writeCtl .fte v).readCtl .fte).toNat = v.toNat % 64 := by
  show ((v.setWidth 6).setWidth 64).toNat = _
  rw [BitVec.toNat_setWidth, BitVec.toNat_setWidth]
  omega

theorem State.readCtl_write_mmode : ((s.writeCtl .mmode v).readCtl .mmode).toNat = v.toNat % 2 := toNat_bit v

theorem State.readCtl_write_auto {c : Ctl} (hc : c = .burnauto ∨ c = .shuntauto) (h : (s.team? s.run.teamKey).isSome = true) :
    ((s.writeCtl c v).readCtl c).toNat = v.toNat % 2 := by
  obtain ⟨t, ht⟩ := Option.isSome_iff_exists.1 h
  rcases hc with rfl | rfl
  all_goals
    simp only [State.writeCtl, ht, State.readCtl, State.setTeam_run, State.team_find_setTeam, Option.getD_some]
    exact toNat_bit v

theorem State.readCtl_write_tvt : ((s.writeCtl .tvt v).readCtl .tvt).toNat = v.toNat % 2 ^ 56 / 8 * 8 := by
  have hmask : v.setWidth 56 &&& ~~~(7 : Addr) = (v.setWidth 56 >>> 3) <<< 3 := by
    have hseven : ~~~(7 : Addr) = BitVec.allOnes 56 <<< 3 := by decide
    refine BitVec.eq_of_getLsbD_eq fun i hi => ?_
    rw [hseven, BitVec.getLsbD_and, BitVec.getLsbD_shiftLeft, BitVec.getLsbD_allOnes, BitVec.getLsbD_shiftLeft, BitVec.getLsbD_ushiftRight]
    by_cases h3 : i < 3
    · simp [h3]
    · rw [show 3 + (i - 3) = i by omega]
      simp [h3, hi, show i - 3 < 56 by omega]
  show ((v.setWidth 56 &&& ~~~(7 : Addr)).setWidth 64).toNat = _
  rw [hmask, BitVec.toNat_setWidth, BitVec.toNat_shiftLeft, BitVec.toNat_ushiftRight, BitVec.toNat_setWidth, Nat.shiftLeft_eq,
    Nat.shiftRight_eq_div_pow]
  omega

theorem State.readCtl_writeCtl_ofCluster {c : Ctl} (hc : c.ofCluster = true) :
    (s.writeCtl c v).readCtl c = ((s.cluster s.run.cluster).setCtl c v).ctl c := by
  rw [s.writeCtl_ofCluster hc, State.readCtl_setCluster, if_pos hc]

end

/-! ### The fields of a cluster's registers (R344) -/

/-- Two values laid one above the other. -/
theorem toNat_or_fields {x y k : Nat} (hy : y < 2 ^ k) (h : x * 2 ^ k + y < 2 ^ 64) :
    (BitVec.ofNat 64 (x * 2 ^ k) ||| BitVec.ofNat 64 y).toNat = x * 2 ^ k + y := by
  rw [BitVec.toNat_or, BitVec.toNat_ofNat, BitVec.toNat_ofNat, Nat.mod_eq_of_lt (by omega), Nat.mod_eq_of_lt (by omega), Nat.mul_comm,
    ← Nat.two_pow_add_eq_or_of_lt hy]

/-- The thresholds of a burn or a shunt. -/
theorem thresholds_toNat (v : Word) : (clampField v 16 12 400 3000 ||| clampField v 0 11 100 1200).toNat =
    max 400 (min 3000 (v.extractLsb' 16 12).toNat) * 2 ^ 16 + max 100 (min 1200 (v.extractLsb' 0 11).toNat) := by
  unfold clampField
  rw [Nat.pow_zero, Nat.mul_one]
  exact toNat_or_fields (by omega) (by omega)

theorem delay_toNat (v : Word) : (clampField v 0 8 5 160).toNat = max 5 (min 160 (v.extractLsb' 0 8).toNat) := by
  unfold clampField
  rw [Nat.pow_zero, Nat.mul_one]
  exact Nat.mod_eq_of_lt (by omega)

theorem Cluster.dampmin_setCtl (k : Cluster) (v : Word) :
    (k.setCtl .dampmin v).ctl .dampmin = if v.toNat % 4 = 0 then k.dampmin else BitVec.ofNat 64 (v.toNat % 4) := by
  have hlow : v &&& 3 = BitVec.ofNat 64 (v.toNat % 4) := by
    apply BitVec.eq_of_toNat_eq
    rw [toNat_and_low v (k := 2) rfl, BitVec.toNat_ofNat]
    omega
  have hzero : v &&& 3 = 0 ↔ v.toNat % 4 = 0 := by
    rw [← BitVec.toNat_inj, toNat_and_low v (k := 2) rfl]
    rfl
  simp only [Cluster.setCtl, hzero]
  split
  · rfl
  · exact hlow

/-- A signed field of 5 bits at the nearest value of -12 to 8. -/
def biasField (v : Word) (lo : Nat) : BitVec 5 := BitVec.ofInt 5 (max (-12) (min 8 (v.extractLsb' lo 5).toInt))

theorem biasField_toInt (v : Word) (lo : Nat) : (biasField v lo).toInt = max (-12) (min 8 (v.extractLsb' lo 5).toInt) := by
  rw [biasField, BitVec.toInt_ofInt]
  exact Int.bmod_eq_of_le (by omega) (by omega)

theorem clampBias_eq (v : Word) (lo : Nat) : clampBias v lo = BitVec.ofNat 64 ((biasField v lo).toNat * 2 ^ lo) := by
  unfold clampBias
  dsimp only
  rw [wrapInt_ofInt]
  rfl

/-- The two signed fields of the bias, and the reserved bits between and above them. -/
theorem bias_fields (v : Word) : let x := clampBias v 8 ||| clampBias v 0
    (x.extractLsb' 8 5).toInt = max (-12) (min 8 (v.extractLsb' 8 5).toInt) ∧
    (x.extractLsb' 0 5).toInt = max (-12) (min 8 (v.extractLsb' 0 5).toInt) ∧ x.extractLsb' 5 3 = 0 ∧ x.extractLsb' 13 51 = 0 := by
  intro x
  have hhi := (biasField v 8).isLt
  have hlo := (biasField v 0).isLt
  have hx : x.toNat = (biasField v 8).toNat * 2 ^ 8 + (biasField v 0).toNat := by
    simp only [x, clampBias_eq, Nat.pow_zero, Nat.mul_one]
    exact toNat_or_fields (by omega) (by omega)
  rw [← biasField_toInt, ← biasField_toInt, BitVec.toInt_inj, BitVec.toInt_inj]
  refine ⟨?_, ?_, ?_, ?_⟩
  all_goals
    apply BitVec.eq_of_toNat_eq
    simp only [BitVec.extractLsb'_toNat, hx, Nat.shiftRight_eq_div_pow, BitVec.ofNat_eq_ofNat, BitVec.toNat_ofNat]
    omega

/-! ## The instructions -/

/-- The write of a control register moves no agent and charges no cycle, so what is charged after it is charged to the state before it. -/
theorem State.charged_of_writeCtl (s : State) (c : Ctl) (v : Word) {t : State} {n : Nat} (h : (s.writeCtl c v).charged t n) :
    s.charged t n := by
  obtain ⟨hstate, hrun⟩ := s.writeCtl_only c v
  unfold State.charged at h ⊢
  have hcore (k : Nat) : (s.writeCtl c v).core k = s.core k := by rw [hstate]; rfl
  have hcyc : (s.writeCtl c v).agentCyc = s.agentCyc := by rw [hstate]
  have hkind : (s.writeCtl c v).run.kind = s.run.kind := by rw [hrun]
  have hon : (s.writeCtl c v).run.core = s.run.core := by rw [hrun]
  have hgid : (s.writeCtl c v).run.gid = s.run.gid := by rw [hrun]
  simpa only [hcore, hcyc, hkind, hon, hgid] using h

theorem srd_runs (s : State) (sel : Sel) (r : SReg) (nr : Bool) :
    Runs (.srd sel (.sca r) nr) s fun t => s.scalarStep t (.s r) (s.selector sel) :=
  ⟨_, rfl, s.scalar_step (.s r) _⟩

/-- SWR: every register reads as the write has made it, and nothing else is touched (R183). -/
theorem swr_runs (s : State) (op : SwrOp) (c : Ctl) (b : SPos) (nr : Bool) (v : Word)
    (hv : v = match op with
      | .write => s.run.pos b
      | .set => s.readCtl c ||| s.run.pos b
      | .clr => s.readCtl c &&& ~~~(s.run.pos b)) : Runs (.swr op c b nr) s fun t =>
    (∀ d, t.readCtl d = (s.writeCtl c v).readCtl d) ∧
    t.run = { s.run with rm := t.run.rm, fte := t.run.fte, mmode := t.run.mmode, tvt := t.run.tvt, word := s.run.word + 1 } ∧
    t = { s with run := t.run, cores := t.cores, agentCyc := t.agentCyc, teams := t.teams, clusters := t.clusters } ∧ s.charged t 1 ∧
    (∀ k, k ≠ s.run.teamKey → t.team? k = s.team? k) ∧ ∀ k, k ≠ s.run.cluster → t.cluster k = s.cluster k := by
  obtain ⟨hstate, hrun⟩ := s.writeCtl_only c v
  obtain ⟨⟨honly, hcharged⟩, hdone⟩ := (s.writeCtl c v).done_only (s.writeCtl c v).run 1
  refine ⟨(s.writeCtl c v).done (s.writeCtl c v).run 1, ?_, State.readCtl_done _ 1, ?_, ?_, s.charged_of_writeCtl c v hcharged, ?_, ?_⟩
  · subst hv; rfl
  · rw [hdone, hrun]
  · rw [honly, hstate]
  · intro k hk
    rw [honly]
    exact s.writeCtl_team_ne c v hk
  · intro k hk
    rw [honly]
    exact s.writeCtl_cluster_ne c v hk

end Sys2Proof.Machine

namespace Sys2Proof.Claims

open Sys2Proof.Machine

/-- Settles O25: SRD writes the selector's value (`srd_runs`), which is what names and measures the group; SWR writes one control register as
its fields say (`swr_runs`, `State.readCtl_writeCtl_ne`). -/
theorem selectorsAndControlRegisters : Obligations.SelectorsAndControlRegisters := by
  unfold Obligations.SelectorsAndControlRegisters
  refine ⟨fun s sel r nr => ?_, fun s op c b nr => ?_⟩
  case refine_1 =>
    obtain ⟨t, he, hstep⟩ := srd_runs s sel r nr
    refine ⟨t, he, _, hstep, ?_⟩
    cases sel with
    | lane => trivial
    | grid => exact fun y hy => selector_grid s hy
    | core | tier | flue => exact fun _ => Nat.mod_eq_of_lt (by omega)
    | cluster => exact selector_cluster s
    | flmis => exact fun f hf he => selector_flmis s hf he
    | cap =>
      show (BitVec.ofNat 64 (2 ^ 56 + 0x1000)).toNat / 2 ^ 56 = 1
      decide
    | ctx => exact fun hc => selector_ctx_fields _ hc
    | window => exact fun c hc => selector_window s hc
    | perf i => exact fun hc hp => selector_perf s i hc hp
    | group | role | team | clmis | time | cyc | part | depth | live | ctl => rfl
  case refine_2 =>
    intro x v near hteam
    obtain ⟨t, he, hread, hrun, hstate, hcharged, hteams, hclusters⟩ := swr_runs s op c b nr v rfl
    refine ⟨t, he, ?_, fun d hd => (hread d).trans (s.readCtl_writeCtl_ne v hd), hrun, hstate, hcharged, hteams, hclusters⟩
    have hself := hread c
    have hcluster (hc : c.ofCluster = true) := hself.trans (s.readCtl_writeCtl_ofCluster v hc)
    cases c with
    | rm => exact (congrArg _ hself).trans (s.readCtl_write_rm v)
    | fte => exact (congrArg _ hself).trans (s.readCtl_write_fte v)
    | mmode => exact (congrArg _ hself).trans (s.readCtl_write_mmode v)
    | burnauto => exact (congrArg _ hself).trans (s.readCtl_write_auto v (.inl rfl) (hteam (.inl rfl)))
    | shuntauto => exact (congrArg _ hself).trans (s.readCtl_write_auto v (.inr rfl) (hteam (.inr rfl)))
    | tvt => exact (congrArg _ hself).trans (s.readCtl_write_tvt v)
    | balth | baltt => exact (congrArg _ (hcluster rfl)).trans (thresholds_toNat v)
    | baldly => exact (congrArg _ (hcluster rfl)).trans (delay_toNat v)
    | dampmin => exact (hcluster rfl).trans (Cluster.dampmin_setCtl _ v)
    | bias =>
      have hx := hcluster rfl
      dsimp only at hx ⊢
      rw [hx]
      exact bias_fields v

end Sys2Proof.Claims
end
section
/-! SUPPORT and CERTIFICATES. What keeps memory canonical: the operations over memory, registers and agents (log 2). -/

set_option Elab.async false

namespace Sys2Proof.Machine

/-! ### The outcome of a step, and changes that keep memory canonical -/

/-- The next state that an outcome names, where it names one, has canonical memory. -/
def NextOk (o : Host.Outcome State Fault Refusal) : Prop := ∀ t, o = .next t → t.memOk

theorem nextOk {t : State} (h : t.memOk) : NextOk (.next t) := fun _ e => by cases e; exact h

/-- The state that an operation answers beside a value. -/
theorem State.memOk.of_fst {α : Type} {x : State × α} {t : State} {r : α} (h : x.1.memOk) (e : x = (t, r)) : t.memOk := by
  subst e
  exact h

/-- A change of the state that leaves memory and scratchpad. -/
theorem State.memOk.frame {s t : State} (hm : s.memOk) (e : t.mem = s.mem := by rfl) (e' : t.spad = s.spad := by rfl) : t.memOk :=
  ⟨e ▸ hm.1, e' ▸ hm.2⟩

/-- A change of the state whose memory and scratchpad are given. -/
theorem State.memOk.of_wf {m p : Memory} {t : State} (hm : Memory.wf m = true) (hp : Memory.wf p = true) (e : t.mem = m := by rfl)
    (e' : t.spad = p := by rfl) : t.memOk := ⟨e ▸ hm, e' ▸ hp⟩

theorem Memory.foldl_wf {α : Type} {f : Memory → α → Memory} {m : Memory} (hm : Memory.wf m = true) (xs : List α)
    (hf : ∀ (m : Memory) (x : α), Memory.wf m = true → Memory.wf (f m x) = true) : Memory.wf (xs.foldl f m) = true := by
  induction xs generalizing m with
  | nil => exact hm
  | cons x xs ih => exact ih (hf m x hm)

theorem State.memOk.foldl {α : Type} {f : State → α → State} {s : State} (hm : s.memOk) (xs : List α)
    (hf : ∀ (t : State) (x : α), t.memOk → (f t x).memOk) : (xs.foldl f s).memOk := by
  induction xs generalizing s with
  | nil => exact hm
  | cons x xs ih => exact ih (hf s x hm)

theorem State.memOk.foldl_fst {α β : Type} {f : State × β → α → State × β} {p : State × β} (hp : p.1.memOk) (xs : List α)
    (hf : ∀ (q : State × β) (x : α), q.1.memOk → (f q x).1.memOk) : (xs.foldl f p).1.memOk := by
  induction xs generalizing p with
  | nil => exact hp
  | cons x xs ih => exact ih (hf p x hp)

theorem State.memOk.getD {s : State} {o : Option State} (hm : s.memOk) (h : ∀ t, o = some t → t.memOk) : (o.getD s).memOk := by
  cases o with
  | none => exact hm
  | some t => exact h t rfl

/-! ### The operations over memory, registers and agents -/

theorem State.memOk.setCore {s : State} {n : Nat} {c : Core} (hm : s.memOk) : (s.setCore n c).memOk := hm

theorem State.memOk.setCluster {s : State} {k : Nat} {c : Cluster} (hm : s.memOk) : (s.setCluster k c).memOk := hm

theorem State.memOk.setSlice {s : State} {k : Nat} {c : Slice} (hm : s.memOk) : (s.setSlice k c).memOk := hm

theorem State.memOk.setStk {s : State} {k : Nat} {c : Stack} (hm : s.memOk) : (s.setStk k c).memOk := hm

theorem State.memOk.setStream {s : State} {k : Nat} {c : Stream} (hm : s.memOk) : (s.setStream k c).memOk := hm

theorem State.memOk.setEngine {s : State} {k : Nat} {c : Engine} (hm : s.memOk) : (s.setEngine k c).memOk := hm

theorem State.memOk.setMx {s : State} {k : Nat} {c : Matrix} (hm : s.memOk) : (s.setMx k c).memOk := hm

theorem State.memOk.setCtx {s : State} {part ctx : Nat} {c : Ctx} (hm : s.memOk) : (s.setCtx part ctx c).memOk := hm

theorem State.memOk.setTeam {s : State} {key : Nat} {t : Team} (hm : s.memOk) : (s.setTeam key t).memOk := hm

theorem State.memOk.setGrid {s : State} {g : Nat} {x : Grid} (hm : s.memOk) : (s.setGrid g x).memOk := hm

theorem State.memOk.setBank {s : State} {k b : Nat} {x : Bank} (hm : s.memOk) : (s.setBank k b x).memOk := hm

theorem State.memOk.setRun {s : State} {g : Group} (hm : s.memOk) : (s.setRun g).memOk := hm

theorem State.memOk.setGroup {s : State} {g : Group} (hm : s.memOk) : (s.setGroup g).memOk := by
  unfold State.setGroup
  split <;> exact hm

theorem State.memOk.as {s : State} {g : Group} {f : State → State} (hm : s.memOk) (hf : ∀ t : State, t.memOk → (f t).memOk) :
    (s.as g f).memOk := by
  unfold State.as
  dsimp only
  split
  · exact hf s hm
  · split
    · exact hf _ hm
    · exact hf _ hm

theorem State.memOk.mapGroups {s : State} {p : Group → Bool} {f : Group → Group} (hm : s.memOk) : (s.mapGroups p f).memOk := hm

theorem State.memOk.countSlice {s : State} {n ev part ctx k : Nat} (hm : s.memOk) : (s.countSlice n ev part ctx k).memOk := hm

theorem State.memOk.charge {s : State} {n : Nat} (hm : s.memOk) : (s.charge n).memOk := by
  unfold State.charge
  dsimp only
  split <;> exact hm

theorem State.memOk.retire {s : State} {n : Nat} (hm : s.memOk) : (s.retire n).memOk := hm.charge

theorem State.memOk.freeRegs {s : State} {core : Nat} (hm : s.memOk) : (s.freeRegs core).memOk := hm

theorem State.memOk.freeAll {s : State} (hm : s.memOk) : s.freeAll.memOk := hm.foldl _ fun _ _ ht => ht

theorem State.memOk.lapse {s : State} {core tag : Nat} (hm : s.memOk) : (s.lapse core tag).memOk := by
  unfold State.lapse
  dsimp only
  split <;> exact hm

theorem State.memOk.postSystem {s : State} {k : Nat} {r : BitVec 128} (hm : s.memOk) : (s.postSystem k r).memOk := hm

theorem State.memOk.setCtxLog {s : State} {part ctx : Nat} {c : Ctx} (hm : s.memOk) : (s.setCtxLog part ctx c).memOk := by
  have write (t : State) (ht : t.memOk) (a : Nat) (ws : List Word) : State.memOk { t with mem := Memory.words s.mem a ws } :=
    ⟨Memory.words_wf hm.1 _ _, ht.2⟩
  unfold State.setCtxLog
  dsimp only
  split
  · split
    · exact (write _ hm.setCtx _ _).freeAll
    · exact write _ hm.setCtx _ _
  · exact hm.setCtx

theorem State.memOk.syncLogs {s : State} (hm : s.memOk) : s.syncLogs.memOk := hm.foldl _ fun _ _ ht => ht.setCtxLog

theorem State.memOk.logFull {s : State} {part ctx : Nat} {c : Ctx} (hm : s.memOk) : (s.logFull part ctx c).memOk := by
  unfold State.logFull
  split
  · exact hm.setCtxLog
  · split
    · exact hm
    · exact hm.setCtxLog

theorem State.memOk.mark {s : State} {part ctx cause addr : Nat} (hm : s.memOk) : (s.mark part ctx cause addr).memOk :=
  (s.served_mark part ctx cause addr).memOk hm

theorem State.memOk.markBy {s : State} {grid part ctx cause addr : Nat} (hm : s.memOk) : (s.markBy grid part ctx cause addr).memOk := by
  unfold State.markBy
  split
  · exact hm
  · exact hm.mark

theorem State.memOk.perform {s : State} {pa : Nat} {data : List (Option Byte)} {capture : Bool} {part ctx grid : Nat} (hm : s.memOk) :
    (s.perform pa data capture part ctx grid).memOk :=
  (s.served_perform pa data capture part ctx grid).memOk hm

theorem State.memOk.writeWords {s : State} {pa : Nat} {ws : List Word} (hm : s.memOk) : (s.writeWords pa ws).memOk :=
  (s.served_writeWords pa ws).memOk hm

theorem State.memOk.reachSlice {s : State} {line : Nat} {need : BitVec 4} {part ctx : Nat} {h : Hint} (hm : s.memOk) :
    (s.reachSlice line need part ctx h).memOk := hm

theorem State.memOk.touchSlice {s : State} {line : Nat} {need : BitVec 4} {part ctx : Nat} {h : Hint} (hm : s.memOk) :
    (s.touchSlice line need part ctx h).memOk :=
  (s.served_touchSlice line need part ctx h).memOk hm

theorem State.memOk.reachBytes {s : State} {pa n part ctx : Nat} {h : Hint} (hm : s.memOk) : (s.reachBytes pa n part ctx h).memOk :=
  hm.foldl _ fun _ _ ht => ht.reachSlice

theorem State.memOk.victimTag {s : State} {l : CacheLine} {by' : Nat} (hm : s.memOk) : (s.victimTag l by').memOk := by
  unfold State.victimTag
  dsimp only
  split <;> exact hm

theorem State.memOk.clusterFill {s : State} {g : Group} {line : Nat} {need : BitVec 4} {h : Hint} {core : Nat} (hm : s.memOk) :
    (s.clusterFill g line need h core).memOk := by
  unfold State.clusterFill
  dsimp only
  split
  · exact hm
  · split
    · exact hm.setCluster.victimTag
    · exact hm

theorem State.memOk.ownLine {s : State} {k part line : Nat} (hm : s.memOk) : (s.ownLine k part line).memOk := by
  unfold State.ownLine
  dsimp only
  split
  · exact hm.setCluster.victimTag
  · exact hm

theorem State.memOk.loadMiss {s : State} {g : Group} {line : Nat} (hm : s.memOk) : (s.loadMiss g line).memOk := hm

theorem State.memOk.touchLine {s : State} {g : Group} {line : Nat} {need : BitVec 4} {h : Hint} (hm : s.memOk) :
    (s.touchLine g line need h).memOk := by
  unfold State.touchLine
  dsimp only
  split
  · exact hm
  · refine State.memOk.touchSlice ?_
    split
    · exact hm
    · exact hm.loadMiss.clusterFill

theorem State.memOk.touch {s : State} {g : Group} {pa n : Nat} {h : Hint} (hm : s.memOk) : (s.touch g pa n h).memOk :=
  hm.foldl _ fun _ _ ht => ht.touchLine

theorem State.memOk.storeHint {s : State} {k pa n : Nat} {h : Hint} (hm : s.memOk) : (s.storeHint k pa n h).memOk := by
  unfold State.storeHint
  dsimp only
  refine hm.foldl _ fun _ _ ht => ?_
  split <;> exact ht

theorem State.memOk.prefetch {s : State} {g : Group} {line : Nat} {h : Hint} (hm : s.memOk) : (s.prefetch g line h).memOk := by
  unfold State.prefetch
  split
  · exact hm.touchSlice
  · exact hm.clusterFill.touchSlice

theorem State.memOk.dropLine {s : State} {k line : Nat} (hm : s.memOk) : (s.dropLine k line).memOk := by
  unfold State.dropLine
  dsimp only
  split <;> exact hm

theorem State.memOk.bufPerform {s : State} {core i : Nat} (hm : s.memOk) : (s.bufPerform core i).memOk :=
  (s.served_bufPerform core i).memOk hm

theorem State.memOk.drainBuf {s : State} {core : Nat} (hm : s.memOk) : (s.drainBuf core).memOk :=
  (s.served_drainBuf core).memOk hm

theorem State.memOk.bufStore {s : State} {core pa : Nat} {data : List Byte} {part ctx grid : Nat} {hint : Hint} (hm : s.memOk) :
    (s.bufStore core pa data part ctx grid hint).memOk := by
  unfold State.bufStore
  dsimp only
  split
  · split <;> exact hm
  · exact hm

theorem State.memOk.allocReg {s : State} {core part ctx : Nat} {x old : VReg} (hm : s.memOk) :
    (s.allocReg core part ctx x old).1.memOk := by
  unfold State.allocReg
  dsimp only
  split
  · exact hm
  · split
    · exact hm
    · split <;> exact hm

theorem State.memOk.writeResult {s : State} {r : Nat} {x : VReg} {hit : Bool} (hm : s.memOk) : (s.writeResult r x hit).1.memOk := by
  unfold State.writeResult
  dsimp only
  split
  · exact hm
  · split
    · exact hm
    · exact hm.setCore.allocReg

theorem State.memOk.walkInstall {s : State} {core part ctx va : Nat} {acc : Access} {user : Bool} (hm : s.memOk) :
    (s.walkInstall core part ctx va acc user).1.memOk :=
  (s.served_walkInstall core part ctx va acc user).memOk hm

theorem State.memOk.translate {s : State} {core part ctx va : Nat} {acc : Access} {user : Bool} (hm : s.memOk) :
    (s.translate core part ctx va acc user).1.memOk :=
  (s.served_translate core part ctx va acc user).memOk hm

theorem State.memOk.mxRefresh {s : State} {e : Nat} (hm : s.memOk) : (s.mxRefresh e).memOk := hm

theorem State.memOk.mxRefreshAll {s : State} (hm : s.memOk) : s.mxRefreshAll.memOk := hm.foldl _ fun _ _ ht => ht

theorem State.memOk.freeze {s : State} {key : Nat} (hm : s.memOk) : (s.freeze key).memOk := by
  unfold State.freeze
  split
  · exact hm.setTeam.mxRefreshAll
  · exact hm

theorem State.memOk.haltTeam {s : State} {key gid : Nat} {brk : Bool} (hm : s.memOk) : (s.haltTeam key gid brk).memOk := hm

theorem State.memOk.unhalt {s : State} {key : Nat} (hm : s.memOk) : (s.unhalt key).memOk := hm

theorem State.memOk.supTrap {s : State} {t : Trap} {nest : Bool} (hm : s.memOk) : (s.supTrap t nest).memOk :=
  hm.drainBuf.writeWords.setRun.haltTeam.freeze

theorem State.memOk.frameEntry {s : State} {t : Trap} {handler : Addr} (hm : s.memOk) : (s.frameEntry t handler).1.memOk := by
  unfold State.frameEntry
  dsimp only
  split
  · split
    · split
      · exact hm.translate.of_fst ‹_›
      · exact (hm.translate.of_fst ‹_›).drainBuf.writeWords.setRun.freeze
    · exact hm.translate.of_fst ‹_›
  · exact hm.translate.of_fst ‹_›

theorem State.memOk.snapTrigger {s : State} {cause : BitVec 4} (hm : s.memOk) : (s.snapTrigger cause).memOk := by
  unfold State.snapTrigger
  dsimp only
  split
  · exact hm
  · split <;> exact hm

theorem State.memOk.deviceError {s0 : State} {cause : Nat} (hm : s0.memOk) : (s0.deviceError cause).memOk := hm.snapTrigger

theorem State.memOk.ctlTrap {s : State} {t : Trap} (hm : s.memOk) : (s.ctlTrap t).memOk := by
  unfold State.ctlTrap
  dsimp only
  split
  · split
    · exact hm.setRun.deviceError
    · exact hm
  · exact hm

theorem State.memOk.stopBusy {s : State} {t : Trap} (hm : s.memOk) : (s.stopBusy t).memOk := by
  unfold State.stopBusy
  dsimp only
  refine State.memOk.freeze ?_
  split <;> exact hm

theorem State.memOk.takeTrap {s : State} {t : Trap} (hm : s.memOk) : (s.takeTrap t).memOk := by
  unfold State.takeTrap
  dsimp only
  split
  · split
    · exact hm.stopBusy
    · split
      · split
        · split
          · exact (hm.frameEntry.of_fst ‹_›).haltTeam
          · exact hm.frameEntry.of_fst ‹_›
        · split
          · exact (hm.frameEntry.of_fst ‹_›).stopBusy
          · exact (hm.frameEntry.of_fst ‹_›).supTrap
        · exact (hm.frameEntry.of_fst ‹_›).supTrap
      · exact hm.supTrap
  · exact hm.ctlTrap

theorem State.memOk.faultExact {s : State} {cause : Nat} {addr : Nat} {info : Nat} {done : Lane} (hm : s.memOk) :
    (s.faultExact cause addr info done).memOk := hm.takeTrap

theorem State.memOk.frameRead {s : State} (hm : s.memOk) : s.frameRead.1.memOk := by
  unfold State.frameRead
  dsimp only
  split
  · split <;> exact hm.translate.of_fst ‹_›
  · exact hm

theorem State.memOk.codeWord {s : State} {va : Addr} (hm : s.memOk) : (s.codeWord va).1.memOk :=
  (s.served_codeWord va).memOk hm

theorem State.memOk.retry {s : State} (hm : s.memOk) : s.retry.memOk := hm

theorem State.memOk.thaw {s : State} {key : Nat} (hm : s.memOk) : (s.thaw key).memOk := by
  unfold State.thaw
  split
  · exact hm
  · split
    · exact hm.setTeam.mxRefreshAll
    · exact hm

theorem State.memOk.endReturn {s : State} {old : Group} (hm : s.memOk) : (s.endReturn old).memOk := by
  unfold State.endReturn
  dsimp only
  split
  · exact hm
  · split
    · exact hm.setRun.takeTrap
    · exact hm

theorem State.memOk.trapReturn {s : State} (hm : s.memOk) : s.trapReturn.memOk := by
  unfold State.trapReturn
  dsimp only
  split
  · exact (hm.frameRead.of_fst ‹_›).faultExact
  · split
    · exact (hm.frameRead.of_fst ‹_›).faultExact
    · split
      · exact (hm.frameRead.of_fst ‹_›).faultExact
      · split
        · split
          · exact ((hm.frameRead.of_fst ‹_›).codeWord.of_fst ‹_›).retry
          · exact ((hm.frameRead.of_fst ‹_›).codeWord.of_fst ‹_›).faultExact
        · split
          · exact ((hm.frameRead.of_fst ‹_›).codeWord.of_fst ‹_›).faultExact
          · refine State.memOk.endReturn ?_
            split
            · refine State.memOk.thaw ?_
              split
              · exact ((hm.frameRead.of_fst ‹_›).codeWord.of_fst ‹_›).charge.drainBuf.writeWords.setRun
              · exact ((hm.frameRead.of_fst ‹_›).codeWord.of_fst ‹_›).charge.drainBuf.writeWords.setRun.unhalt
            · exact ((hm.frameRead.of_fst ‹_›).codeWord.of_fst ‹_›).charge

theorem State.memOk.countClock {s : State} {n : Nat} (hm : s.memOk) : (s.countClock n).memOk := hm

theorem State.memOk.countCycles {s : State} (hm : s.memOk) : s.countCycles.memOk := by
  unfold State.countCycles
  dsimp only
  split <;> exact hm

theorem State.memOk.endClause {s : State} {c : Clause} (hm : s.memOk) : (s.endClause c).memOk := by
  unfold State.endClause
  dsimp only
  split
  · split
    · exact hm.countCycles.setRun.takeTrap
    · exact hm.countCycles
  · split
    · exact hm.countCycles.setRun.takeTrap
    · exact hm.countCycles
  · split
    · exact hm.countCycles.setRun.takeTrap
    · exact hm.countCycles
  · exact hm.countCycles
  · exact hm.countCycles
  · exact hm.countCycles

/-! ### Completions and register checks -/

/-- An instruction whose registers are checked first (R90). -/
theorem nextOk_checked {s : State} {i : Instr} {k : State → State} (hm : s.memOk) (hk : (k s).memOk) : NextOk (s.checked i k) := by
  unfold State.checked
  split
  · exact nextOk hm.takeTrap
  · exact nextOk hk

theorem State.memOk.missBook {s : State} {ws : List (Nat × VReg)} {keys : List (ReuseKey × VReg)} {flags : Lane} (hm : s.memOk) :
    (s.missBook ws keys flags).memOk := by
  unfold State.missBook
  extract_lets g r drop
  have hr : r.1.memOk := State.memOk.foldl_fst hm _ fun _ _ ht => ht.writeResult
  split
  · exact hr
  · split
    · exact hr
    · exact hr.setCore.freeRegs

theorem State.memOk.done {s : State} {g : Group} {cyc : Nat} (hm : s.memOk) : (s.done g cyc).memOk := hm.charge

/-! ### Control transfers and the reconvergence stack -/

theorem State.memOk.toTarget {s : State} {target : Word} {k : State → State} (hm : s.memOk)
    (hk : ∀ t : State, t.memOk → (k t).memOk) : (s.toTarget target k).memOk := by
  unfold State.toTarget
  split
  · exact hm.takeTrap
  · split
    · split
      · exact (hm.codeWord.of_fst ‹_›).retry
      · exact (hm.codeWord.of_fst ‹_›).takeTrap
    · split
      · exact hk _ (hm.codeWord.of_fst ‹_›)
      · exact (hm.codeWord.of_fst ‹_›).takeTrap

theorem State.memOk.jump {s : State} {target : Word} (hm : s.memOk) : (s.jump target).memOk := hm.done

theorem nextOk_execBrc {s : State} {cnd : Cnd} {a : SPos} {off : BitVec 16} (hm : s.memOk) : NextOk (execBrc cnd a off s) := by
  unfold execBrc
  dsimp only
  split
  · exact nextOk (hm.toTarget fun _ ht => ht.jump)
  · exact nextOk hm.done

theorem State.memOk.mended {s : State} {pa : Nat} (hm : s.memOk) : (s.mended pa).memOk := hm

theorem State.memOk.stackFault {s : State} (hm : s.memOk) : s.stackFault.memOk := by
  unfold State.stackFault
  dsimp only
  split <;> exact hm.faultExact

theorem State.memOk.push {s : State} {x : StackEntry} {u : State} (hm : s.memOk) (e : s.push x = some u) : u.memOk := by
  unfold State.push at e
  dsimp only at e
  split at e
  · cases e
    exact hm.setRun
  split at e
  · cases e
  · cases e
    exact hm.setRun.perform.mended

theorem State.memOk.pop {s : State} {u : State} (hm : s.memOk) (e : s.pop = some u) : u.memOk := by
  unfold State.pop at e
  dsimp only at e
  split at e
  · split at e
    · cases e
    · cases e
      exact hm.setRun
  · cases e
    exact hm.setRun

theorem nextOk_execBdv {s : State} {cnd : Cnd} {a : RegNo} {off1 off2 : BitVec 16} (hm : s.memOk) :
    NextOk (execBdv cnd a off1 off2 s) := by
  unfold execBdv
  dsimp only
  refine nextOk_checked hm ?_
  split
  · exact hm.faultExact
  · split
    · refine hm.toTarget fun _ ht => ?_
      split
      · exact (ht.push ‹_›).done
      · exact ht.faultExact
    · split
      · split
        · exact (hm.push ‹_›).done
        · exact hm.faultExact
      · refine hm.toTarget fun _ ht => ?_
        split
        · exact (ht.push ‹_›).done
        · exact ht.faultExact

theorem nextOk_execJoin {s : State} (hm : s.memOk) : NextOk (execJoin s) := by
  unfold execJoin
  dsimp only
  split
  · exact nextOk hm.faultExact
  · split
    · exact nextOk hm.faultExact
    · split
      · exact nextOk hm.faultExact
      · split
        · exact nextOk hm.done
        · split
          · exact nextOk (hm.pop ‹_›).done
          · exact nextOk hm.stackFault

theorem nextOk_execTfence {s : State} {_nr : Bool} (hm : s.memOk) : NextOk (execTfence _nr s) := by
  unfold execTfence
  dsimp only
  split
  · exact nextOk hm.takeTrap
  · exact nextOk hm.done

theorem nextOk_execTrap {s : State} {e : BitVec 32} (hm : s.memOk) : NextOk (execTrap e s) := by
  unfold execTrap
  dsimp only
  refine nextOk (State.memOk.takeTrap ?_)
  split <;> exact hm

/-! ### Integer completions -/

theorem State.memOk.maskDone {s : State} {k : BitVec 3} {p : Nat → Bool} {flags : Lane} {cyc : Nat} (hm : s.memOk) :
    (s.maskDone k p flags cyc).memOk := hm.done

theorem nextOk_execVcmp {s : State} {ty : Ty} {cond : ICond} {d : CmpDst} {a : RegNo} {b : Opnd} {m : VMode} (hm : s.memOk) :
    NextOk (execVcmp ty cond d a b m s) := by
  unfold execVcmp
  dsimp only
  refine nextOk_checked hm ?_
  split
  · exact hm.maskDone
  · exact hm

theorem nextOk_execVmov {s : State} {wide : Bool} {d : RegNo} {src : Opnd} {m : VMode} (hm : s.memOk) :
    NextOk (execVmov wide d src m s) := by
  unfold execVmov
  dsimp only
  refine nextOk_checked hm ?_
  split
  · split <;> exact hm
  · split <;> exact hm

theorem State.memOk.ixDone {s : State} {k : BitVec 2} {f : Nat → Lane} (hm : s.memOk) : (s.ixDone k f).memOk := hm.done

/-! ### Device registers -/

theorem State.memOk.setCtr {s : State} {b : CtrBlock} {i : Nat} {sel : Bool} {v : Word} (hm : s.memOk) :
    (s.setCtr b i sel v).memOk := by
  unfold State.setCtr
  dsimp only
  split <;> exact hm

theorem State.memOk.startUpdate {s : State} {signed : Bool} (hm : s.memOk) : (s.startUpdate signed).memOk := by
  unfold State.startUpdate
  dsimp only
  split
  · exact hm
  · split <;> exact hm

theorem State.memOk.saveShadows {s : State} {part ctx : Nat} (hm : s.memOk) : (s.saveShadows part ctx).memOk := by
  unfold State.saveShadows
  split
  · exact hm.writeWords
  · exact hm

theorem State.memOk.loadShadows {s : State} {part ctx : Nat} (hm : s.memOk) : (s.loadShadows part ctx).memOk := by
  unfold State.loadShadows
  split
  · split <;> exact hm
  · exact hm

theorem State.memOk.ctrLow {s : State} {b : CtrBlock} {i : Nat} (hm : s.memOk) : (s.ctrLow b i).1.memOk := by
  unfold State.ctrLow
  dsimp only
  split
  · split
    · exact hm.setCtx.saveShadows
    · exact hm
  · exact hm

theorem State.memOk.writeStream {s : State} {n i : Nat} {v : Word} (hm : s.memOk) : (s.writeStream n i v).memOk := by
  unfold State.writeStream
  dsimp only
  split
  · split <;> exact hm
  · exact hm

theorem State.memOk.mmioRead8 {s : State} {off : Nat} (hm : s.memOk) : (s.mmioRead8 off).1.memOk := by
  unfold State.mmioRead8
  dsimp only
  split
  · exact hm
  · split <;> exact hm

theorem State.memOk.mmioRead {s : State} {off n : Nat} (hm : s.memOk) : (s.mmioRead off n).1.memOk := by
  unfold State.mmioRead
  dsimp only
  split
  · exact hm.mmioRead8
  · split
    · split
      · exact hm
      · exact hm.ctrLow
    · split
      · exact hm
      · exact hm.mmioRead8
    · exact hm.mmioRead8

theorem State.memOk.mmioWrite8 {s : State} {off : Nat} {v : Word} (hm : s.memOk) : (s.mmioWrite8 off v).memOk := by
  unfold State.mmioWrite8
  dsimp only
  split
  · exact hm
  · split
    · split <;> exact hm
    · split
      · exact hm.frame.startUpdate
      · exact hm
    · exact hm
    · exact hm.writeStream
    · exact hm
    · exact hm.setCtr
    · exact hm.setCtr
    · exact hm
    · exact hm.snapTrigger
    · exact hm
    · exact hm
    · exact hm
    · exact hm
    · exact hm
    · exact hm
    · exact hm

theorem State.memOk.mmioWrite {s : State} {off n : Nat} {v : Word} (hm : s.memOk) : (s.mmioWrite off n v).memOk := by
  unfold State.mmioWrite
  dsimp only
  split
  · exact hm.mmioWrite8
  · split
    · exact hm
    · exact hm
    · split <;> exact hm.mmioWrite8
    · split
      · exact hm.mmioWrite8
      · exact hm
    · exact hm.mmioWrite8

end Sys2Proof.Machine
end

section
/-! SUPPORT and CERTIFICATES. What keeps memory canonical: accesses, barriers and the writes of engines (log 2). -/

set_option Elab.async false

namespace Sys2Proof.Machine

/-! ### Loads, stores and atomics -/

theorem State.memOk.locate1 {s : State} {va : Word} {n : Nat} {acc : Access} (hm : s.memOk) : (s.locate1 va n acc).1.memOk := by
  unfold State.locate1
  dsimp only
  split
  · exact hm
  · split
    · exact hm.translate.of_fst ‹_›
    · split <;> exact hm.translate.of_fst ‹_›

theorem State.memOk.locate {s : State} {va : Word} {n : Nat} {acc : Access} (hm : s.memOk) : (s.locate va n acc).1.memOk := by
  unfold State.locate
  dsimp only
  split
  · split <;> exact hm.locate1.of_fst ‹_›
  · split
    · exact hm.locate1.of_fst ‹_›
    · split <;> exact (hm.locate1.of_fst ‹_›).locate1.of_fst ‹_›

theorem State.memOk.raiseGen {s : State} {key : Nat} (hm : s.memOk) : (s.raiseGen key).memOk := by
  unfold State.raiseGen
  dsimp only
  split
  · exact hm.setTeam.lapse
  · exact hm

theorem State.memOk.runLanes {s : State} {ts : List Nat} {f : State → Nat → State × Except Fail Nat} (hm : s.memOk)
    (hf : ∀ (t : State) (l : Nat), t.memOk → (f t l).1.memOk) : (runLanes f s ts).1.memOk := by
  induction ts generalizing s with
  | nil => exact hm
  | cons l ls ih =>
    unfold Machine.runLanes
    split
    · exact (hf s l hm).of_fst ‹_›
    · exact ih ((hf s l hm).of_fst ‹_›)

theorem State.memOk.memFault {s : State} {e : Fail} {done : Lane} (hm : s.memOk) : (s.memFault e done).memOk := hm.faultExact

theorem State.memOk.readPlace {s : State} {p : Place} {n : Nat} (hm : s.memOk) : (s.readPlace p n).1.memOk := by
  unfold State.readPlace
  dsimp only
  split
  · exact hm
  · exact hm
  · exact hm.mmioRead

theorem State.memOk.readTouch {s : State} {pa n : Nat} {h : Hint} (hm : s.memOk) : (s.readTouch pa n h).memOk := by
  unfold State.readTouch
  split
  · exact hm.touch
  · exact hm.reachBytes

theorem State.memOk.readPieces {s : State} {ps : List (Place × Nat)} (hm : s.memOk) : (s.readPieces ps).1.memOk := by
  induction ps generalizing s with
  | nil => exact hm
  | cons p ps ih => exact ih hm.readPlace

theorem State.memOk.bufStores {s : State} {core part ctx grid : Nat} {h : Hint} {ps : List (Nat × List (Option Byte))} (hm : s.memOk) :
    (s.bufStores core part ctx grid h ps).memOk := by
  induction ps generalizing s with
  | nil => exact hm
  | cons p ps ih => exact ih hm.bufStore

theorem State.memOk.peerStore {s : State} {key pa : Nat} {bs : List Byte} (hm : s.memOk) : (s.peerStore key pa bs).memOk :=
  (State.memOk.of_wf (Memory.write_wf hm.1 _ _) hm.2).markBy

theorem State.memOk.writePlace {s : State} {p : Place} {bs : List Byte} {h : Hint} (hm : s.memOk) : (s.writePlace p bs h).memOk := by
  unfold State.writePlace
  dsimp only
  split
  · split
    · exact hm.storeHint.bufStores
    · split
      · exact hm.perform.reachBytes.markBy
      · exact hm.perform.reachBytes
  · exact hm.peerStore
  · exact hm.mmioWrite.markBy

theorem State.memOk.writePieces {s : State} {bs : List Byte} {h : Hint} {ps : List (Place × Nat)} (hm : s.memOk) :
    (s.writePieces bs h ps).memOk := by
  induction ps generalizing s bs with
  | nil => exact hm
  | cons p ps ih => exact ih hm.writePlace

theorem State.memOk.notices {s : State} {ord : MOrd} {sco : Scope} {ps : List (Place × Nat)} (hm : s.memOk) :
    (s.notices ord sco ps).memOk := by
  unfold State.notices
  split
  · refine hm.foldl _ fun _ _ ht => ?_
    split
    · split
      · exact ht.foldl _ fun _ _ ht => ht
      · exact ht
    · exact ht
  · exact hm

theorem State.memOk.fenced {s : State} {ord : MOrd} {sco : Scope} (hm : s.memOk) : (s.fenced ord sco).memOk := by
  unfold State.fenced
  dsimp only
  split <;> exact hm

theorem State.memOk.emptyFence {s : State} {em : Lane} {ord : MOrd} {sco : Scope} (hm : s.memOk) : (s.emptyFence em ord sco).memOk := by
  unfold State.emptyFence
  split
  · exact hm.fenced
  · exact hm

theorem State.memOk.watch {s : State} {wr rd : Bool} {n : Nat} {addrs : List Nat} (hm : s.memOk) : (s.watch wr rd n addrs).memOk := by
  unfold State.watch
  dsimp only
  split
  · exact hm
  · split <;> exact hm

theorem State.memOk.issueLoad {s : State} {dst : LoadDst} {fifo : Option (Nat × Nat)} {keys : List ReuseKey} {cyc : Nat} (hm :
    s.memOk) : (s.issueLoad dst fifo keys cyc).memOk := hm.charge

theorem State.memOk.loadGlobal {s : State} {a : Word} {n : Nat} {inv : Bool} {h : Hint} (hm : s.memOk) :
    (s.loadGlobal a n inv h).1.memOk := by
  unfold State.loadGlobal
  dsimp only
  split
  · exact hm.locate.of_fst ‹_›
  · split
    · exact hm.locate.of_fst ‹_›
    · refine (hm.locate.of_fst ‹_›).readPieces.foldl _ fun _ _ ht => ?_
      split
      · exact ht.readTouch
      · exact ht

theorem State.memOk.loadSpad {s : State} {a : Word} {n : Nat} (hm : s.memOk) : (s.loadSpad a n).1.memOk := by
  unfold State.loadSpad
  split <;> exact hm

theorem State.memOk.shareLoad {s : State} {keys : List ReuseKey} {d : RegNo} {res : List VReg} (hm : s.memOk) :
    (s.shareLoad keys d res).memOk := hm.foldl _ fun _ _ ht => ht.writeResult

theorem nextOk_execLd {s : State} {sz : Sz} {hint : Hint} {inv sx prm : Bool} {ord : MOrd} {sco : Scope} {d : RegNo} {base :
    Base} {off : BitVec 16} (hm : s.memOk) : NextOk (execLd sz hint inv sx prm ord sco d base off s) := by
  unfold execLd
  dsimp only
  refine nextOk_checked hm ?_
  split
  · exact hm.shareLoad
  · split
    · exact (hm.runLanes fun _ _ ht => ht.loadGlobal).memFault
    · exact (hm.runLanes fun _ _ ht => ht.loadGlobal).watch.emptyFence.issueLoad

theorem nextOk_execLds {s : State} {sz : Sz} {sx : Bool} {ord : MOrd} {sco : Scope} {d : RegNo} {base : Base} {off : BitVec 16} (hm :
    s.memOk) : NextOk (execLds sz sx ord sco d base off s) := by
  unfold execLds
  dsimp only
  refine nextOk_checked hm ?_
  split
  · exact hm.shareLoad
  · split
    · exact (hm.runLanes fun _ _ ht => ht.loadSpad).memFault
    · exact (hm.runLanes fun _ _ ht => ht.loadSpad).emptyFence.issueLoad

theorem nextOk_execSld {s : State} {sz : Sz} {sx : Bool} {hint : Hint} {_ord : MOrd} {_sco : Scope} {_prm : Bool} {d : SReg} {a :
    SPos} {off : BitVec 16} (hm : s.memOk) : NextOk (execSld sz sx hint _ord _sco _prm d a off s) := by
  unfold execSld
  dsimp only
  refine nextOk ?_
  split
  · exact (hm.loadGlobal.of_fst ‹_›).memFault
  · exact (hm.loadGlobal.of_fst ‹_›).watch.issueLoad

theorem State.memOk.storeGlobal {s : State} {a : Word} {bs : List Byte} {h : Hint} {ord : MOrd} {sco : Scope} (hm : s.memOk) :
    (s.storeGlobal a bs h ord sco).1.memOk := by
  unfold State.storeGlobal
  split
  · exact hm.locate.of_fst ‹_›
  · exact (hm.locate.of_fst ‹_›).notices.writePieces

theorem State.memOk.storeSpad {s : State} {a : Word} {bs : List Byte} (hm : s.memOk) : (s.storeSpad a bs).1.memOk := by
  unfold State.storeSpad
  dsimp only
  split
  · exact hm
  · exact (State.memOk.of_wf hm.1 (Memory.foldl_wf hm.2 _ fun _ _ hx => Memory.set_wf hx _ _)).foldl _ fun _ _ ht => ht.raiseGen

theorem State.memOk.stLane {s : State} {g : Group} {sz : Sz} {h : Hint} {ord : MOrd} {sco : Scope} {d : RegNo} {base : Base} {off :
    BitVec 16} {l : Nat} (hm : s.memOk) : (s.stLane g sz h ord sco d base off l).1.memOk := hm.storeGlobal

theorem nextOk_execSt {s : State} {sz : Sz} {hint : Hint} {ord : MOrd} {sco : Scope} {d : RegNo} {base : Base} {off : BitVec 16} (hm :
    s.memOk) : NextOk (execSt sz hint ord sco d base off s) := by
  unfold execSt
  dsimp only
  refine nextOk_checked hm ?_
  split
  · exact (hm.setRun.runLanes fun _ _ ht => ht.stLane).memFault
  · exact (hm.setRun.runLanes fun _ _ ht => ht.stLane).watch.emptyFence.retire

theorem nextOk_execSts {s : State} {sz : Sz} {ord : MOrd} {sco : Scope} {d : RegNo} {base : Base} {off : BitVec 16} (hm : s.memOk) :
    NextOk (execSts sz ord sco d base off s) := by
  unfold execSts
  dsimp only
  refine nextOk_checked hm ?_
  split
  · exact (hm.runLanes fun _ _ ht => ht.storeSpad).memFault
  · exact (hm.runLanes fun _ _ ht => ht.storeSpad).emptyFence.retire

theorem nextOk_execSst {s : State} {sz : Sz} {hint : Hint} {ord : MOrd} {sco : Scope} {d : SReg} {a : SPos} {off : BitVec 16} (hm :
    s.memOk) : NextOk (execSst sz hint ord sco d a off s) := by
  unfold execSst
  dsimp only
  refine nextOk ?_
  split
  · exact (hm.storeGlobal.of_fst ‹_›).memFault
  · exact (hm.storeGlobal.of_fst ‹_›).watch.retire

theorem State.memOk.recordAtomic {s : State} {pa l : Nat} (hm : s.memOk) : (s.recordAtomic pa l).memOk := by
  unfold State.recordAtomic
  dsimp only
  split
  · split
    · split
      · exact hm.setSlice.countSlice.setCtxLog
      · exact hm
    · exact hm
  · exact hm

theorem State.memOk.rmwGlobal {s : State} {a : Word} {n : Nat} {f : Nat → Nat} {int : Bool} {l : Nat} {h : Hint} {ord : MOrd} {sco :
    Scope} (hm : s.memOk) : (s.rmwGlobal a n f int l h ord sco).1.memOk := by
  unfold State.rmwGlobal
  dsimp only
  split
  · exact hm
  · split
    · exact hm.locate1.of_fst ‹_›
    · split
      · split
        · refine (State.memOk.notices ?_).perform.touchSlice
          split
          · exact (hm.locate1.of_fst ‹_›).recordAtomic
          · exact hm.locate1.of_fst ‹_›
        · exact hm.locate1.of_fst ‹_›
      · exact (hm.locate1.of_fst ‹_›).peerStore
      · exact hm.locate1.of_fst ‹_›

theorem State.memOk.rmwSpad {s : State} {a : Word} {n : Nat} {f : Nat → Nat} (hm : s.memOk) : (s.rmwSpad a n f).1.memOk := by
  unfold State.rmwSpad
  dsimp only
  split
  · exact hm
  · split
    · exact hm
    · exact (State.memOk.of_wf hm.1 (Memory.foldl_wf hm.2 _ fun _ _ hx => Memory.set_wf hx _ _)).foldl _ fun _ _ ht => ht.raiseGen

theorem State.memOk.atomDone {s : State} {d : RegNo} {n : Nat} {skip : Lane} {r : State × List (Nat × Nat) × Option Fail} {cyc : Nat}
    (hr : r.1.memOk) : (s.atomDone d n skip r cyc).memOk := by
  unfold State.atomDone
  dsimp only
  split
  · exact hr.issueLoad
  · refine State.memOk.memFault (hr.foldl _ fun _ _ ht => ?_)
    split
    · exact ht
    · exact ht.writeResult

theorem nextOk_execAtom {s : State} {fn : AtomFn} {wide spad : Bool} {hint : Hint} {ord : MOrd} {sco : Scope} {prm : Bool}
    {d : RegNo} {base : ABase} {b : RegNo} {off : BitVec 12} (hm : s.memOk) :
    NextOk (execAtom fn wide spad hint ord sco prm d base b off s) := by
  unfold execAtom
  dsimp only
  refine nextOk_checked hm (State.memOk.atomDone ?_)
  split
  · split
    · split
      · exact (hm.runLanes fun _ _ ht => ht.rmwSpad).emptyFence.watch
      · exact (hm.runLanes fun _ _ ht => ht.rmwSpad).emptyFence
    · split
      · exact (hm.runLanes fun _ _ ht => ht.rmwSpad).emptyFence.watch
      · exact (hm.runLanes fun _ _ ht => ht.rmwSpad).emptyFence
  · split
    · split
      · exact (hm.runLanes fun _ _ ht => ht.rmwGlobal).emptyFence.watch
      · exact (hm.runLanes fun _ _ ht => ht.rmwGlobal).emptyFence
    · split
      · exact (hm.runLanes fun _ _ ht => ht.rmwGlobal).emptyFence.watch
      · exact (hm.runLanes fun _ _ ht => ht.rmwGlobal).emptyFence

theorem State.memOk.exactAdd {s : State} {a : Word} {n : Nat} {ty : Ty} {x : FVal} {h : Hint} (hm : s.memOk) :
    (s.exactAdd a n ty x h).1.memOk := by
  unfold State.exactAdd
  dsimp only
  split
  · exact hm
  · split
    · exact hm.locate1.of_fst ‹_›
    · split
      · exact hm.locate1.of_fst ‹_›
      · split
        · split <;> exact (hm.locate1.of_fst ‹_›).touchSlice
        · split
          · exact (hm.locate1.of_fst ‹_›).touchSlice
          · split <;> exact (hm.locate1.of_fst ‹_›).touchSlice
    · exact hm.locate1.of_fst ‹_›
    · exact hm.locate1.of_fst ‹_›

theorem nextOk_execAtmf {s : State} {fn : AtmfFn} {sz : Sz} {hint : Hint} {ord : MOrd} {sco : Scope} {prm : Bool} {d : RegNo} {base :
    ABase} {b : RegNo} {off : BitVec 12} (hm : s.memOk) : NextOk (execAtmf fn sz hint ord sco prm d base b off s) := by
  unfold execAtmf
  dsimp only
  refine nextOk_checked hm ?_
  split
  · exact hm.faultExact
  · split
    · split
      · refine State.memOk.issueLoad ?_
        split
        · exact (hm.runLanes fun _ _ ht => ht.exactAdd).emptyFence.watch
        · exact (hm.runLanes fun _ _ ht => ht.exactAdd).emptyFence
      · refine State.memOk.memFault ?_
        split
        · exact (hm.runLanes fun _ _ ht => ht.exactAdd).emptyFence.watch
        · exact (hm.runLanes fun _ _ ht => ht.exactAdd).emptyFence
    · refine State.memOk.atomDone ?_
      split
      · exact (hm.runLanes fun _ _ ht => ht.rmwGlobal).emptyFence.watch
      · exact (hm.runLanes fun _ _ ht => ht.rmwGlobal).emptyFence

theorem State.memOk.lineOp {s : State} {fn : CmntFn} {k line : Nat} (hm : s.memOk) : (s.lineOp fn k line).memOk := by
  unfold State.lineOp
  dsimp only
  split
  · exact hm
  · exact hm
  · exact hm.dropLine
  · exact hm.dropLine

theorem State.memOk.fifoUsed {s : State} {grid k n : Nat} (hm : s.memOk) : (s.fifoUsed grid k n).memOk := by
  unfold State.fifoUsed
  split
  · split <;> exact hm
  · exact hm

theorem nextOk_execFqput {s : State} {d : RegNo} {a : SPos} (hm : s.memOk) : NextOk (execFqput d a s) := by
  unfold execFqput
  dsimp only
  refine nextOk_checked hm ?_
  split
  · exact hm.faultExact
  · split
    · exact hm.fifoUsed.raiseGen.setBank.mxRefreshAll.retire
    · exact hm.fifoUsed.raiseGen.charge

theorem nextOk_execFqget {s : State} {d : RegNo} {a : SPos} (hm : s.memOk) : NextOk (execFqget d a s) := by
  unfold execFqget
  dsimp only
  refine nextOk_checked hm ?_
  split
  · exact hm.faultExact
  · exact hm.fifoUsed.issueLoad

theorem nextOk_execBankRequest {s : State} {mode : BankMode} {d : SReg} {b : SPos} {_nr : Bool} (hm : s.memOk) :
    NextOk (execBankRequest mode d b _nr s) := by
  unfold execBankRequest
  dsimp only
  split
  · exact nextOk hm.done
  · exact nextOk hm.setBank.done

/-! ### Barriers, and the events that end waits -/

theorem State.memOk.arrive {s : State} {n c : Nat} (hm : s.memOk) : (s.arrive n c).1.memOk := by
  unfold State.arrive
  dsimp only
  split
  · exact hm
  · split <;> exact hm

theorem nextOk_execBar {s : State} {n : BitVec 4} {cnt : Option SPos} {_nr : Bool} (hm : s.memOk) : NextOk (execBar n cnt _nr s) := by
  unfold execBar
  dsimp only
  split
  · exact nextOk hm.faultExact
  · refine nextOk ?_
    split
    · exact hm.arrive.retire
    · exact hm.arrive.charge

theorem nextOk_execBarv {s : State} {n : BitVec 4} {cnt : Option SPos} {_nr : Bool} (hm : s.memOk) : NextOk (execBarv n cnt _nr s) := by
  unfold execBarv
  dsimp only
  split
  · exact nextOk hm.faultExact
  · exact nextOk hm.arrive.retire

theorem State.memOk.evwtPeek {s : State} {wide spad : Bool} {va : Word} (hm : s.memOk) : (s.evwtPeek wide spad va).1.memOk := by
  unfold State.evwtPeek
  dsimp only
  split
  · split
    · exact hm
    · split
      · exact hm.loadSpad
      · split
        · exact hm.locate1.of_fst ‹_›
        · split
          · split
            · exact (hm.locate1.of_fst ‹_›).readPlace
            · exact hm.locate1.of_fst ‹_›
          · split
            · exact (hm.locate1.of_fst ‹_›).readPlace
            · exact hm.locate1.of_fst ‹_›
  · split
    · exact hm
    · split
      · exact hm.loadSpad
      · split
        · exact hm.locate1.of_fst ‹_›
        · split
          · split
            · exact (hm.locate1.of_fst ‹_›).readPlace
            · exact hm.locate1.of_fst ‹_›
          · split
            · exact (hm.locate1.of_fst ‹_›).readPlace
            · exact hm.locate1.of_fst ‹_›

theorem State.memOk.evwtRead {s : State} {wide spad : Bool} {va : Word} (hm : s.memOk) : (s.evwtRead wide spad va).1.memOk := by
  unfold State.evwtRead
  dsimp only
  split
  · exact hm.evwtPeek.readTouch
  · exact hm.evwtPeek

theorem nextOk_execEvwt {s : State} {eq wide spad : Bool} {_ord : MOrd} {_sco : Scope} {prm : Bool} {d : SReg} {a b : SPos} {timeout :
    BitVec 16} (hm : s.memOk) : NextOk (execEvwt eq wide spad _ord _sco prm d a b timeout s) := by
  unfold execEvwt
  dsimp only
  split
  · exact nextOk (hm.evwtRead.of_fst ‹_›).memFault
  · exact nextOk (hm.evwtRead.of_fst ‹_›).charge

theorem nextOk_execNap {s : State} {n : TOp} (hm : s.memOk) : NextOk (execNap n s) := by
  unfold execNap
  dsimp only
  split
  · exact nextOk hm.done
  · exact nextOk hm.charge

theorem nextOk_execNapDeadline {s : State} {gid : Nat} (hm : s.memOk) : NextOk (execNapDeadline gid s) := by
  unfold execNapDeadline
  split
  · exact nextOk hm
  · split
    · refine nextOk ?_
      split
      · exact hm.setGroup
      · exact hm
    · exact nextOk hm

theorem State.memOk.imageLoad {s : State} {g : Group} {d : RegNo} {em : Lane} {vals : List VReg} (hm : s.memOk) :
    (s.imageLoad g d em vals).memOk := by
  unfold State.imageLoad
  extract_lets lim
  refine ⟨Memory.foldl_wf hm.1 _ fun _ _ hx => ?_, hm.2⟩
  dsimp only
  split
  · exact Memory.setVreg_wf hx _ _
  · exact hx

theorem State.memOk.deliver {s : State} {o : LoadOp} (hm : s.memOk) : (s.deliver o).memOk := by
  unfold State.deliver
  dsimp only
  split
  · exact hm
  · exact hm
  · split
    · exact hm.imageLoad
    · exact hm.missBook

theorem State.memOk.loadEnd {s : State} {o : LoadOp} (hm : s.memOk) : (s.loadEnd o).memOk := by
  unfold State.loadEnd
  dsimp only
  refine State.memOk.setRun ?_
  split
  · exact hm
  · exact hm.deliver

theorem nextOk_execLoadComplete {s : State} {op : Nat} (hm : s.memOk) : NextOk (execLoadComplete op s) := by
  unfold execLoadComplete
  split
  · exact nextOk hm
  · split
    · exact nextOk hm
    · exact nextOk (hm.as fun _ ht => ht.loadEnd)

theorem nextOk_execFqputRoom {s : State} {k b : Nat} (hm : s.memOk) : NextOk (execFqputRoom k b s) := by
  unfold execFqputRoom
  dsimp only
  split
  · exact nextOk hm
  · split
    · exact nextOk hm.setBank.mxRefreshAll.setGroup
    · exact nextOk hm

theorem nextOk_execFqgetMatch {s : State} {k b : Nat} (hm : s.memOk) : NextOk (execFqgetMatch k b s) := by
  unfold execFqgetMatch
  dsimp only
  split
  · exact nextOk hm.setBank.setGroup
  · exact nextOk hm

theorem State.memOk.roundCells {s : State} {grid : Nat} {keep : Bool} (hm : s.memOk) : (s.roundCells grid keep).memOk := by
  unfold State.roundCells
  dsimp only
  split
  · exact hm
  · exact hm.foldl _ fun _ _ ht => ht.perform

theorem nextOk_execFlushxComplete {s : State} {gid : Nat} (hm : s.memOk) : NextOk (execFlushxComplete gid s) := by
  unfold execFlushxComplete
  dsimp only
  split
  · exact nextOk hm
  · split
    · split
      · exact nextOk hm
      · split
        · exact nextOk hm.roundCells.setGroup
        · split
          · exact nextOk hm.logFull
          · exact nextOk hm
    · exact nextOk hm

/-! ### The writes of engines, recalls and banks -/

theorem State.memOk.setWinByte {s : State} {key off : Nat} {b : Byte} (hm : s.memOk) : (s.setWinByte key off b).memOk := by
  unfold State.setWinByte
  split
  · split
    · exact State.memOk.of_wf hm.1 (Memory.set_wf hm.2 _ _)
    · exact State.memOk.of_wf (Memory.set_wf hm.1 _ _) hm.2
  · exact hm

theorem State.memOk.setCmd {s : State} {e : Nat} {c : Cmd} (hm : s.memOk) : (s.setCmd e c).memOk := hm

theorem State.memOk.dropCmd {s : State} {e : Nat} {id : Word} (hm : s.memOk) : (s.dropCmd e id).memOk := hm

theorem State.memOk.engWrite {s : State} {c : Cmd} {w : EngWrite} {t : State} (hm : s.memOk) (e : s.engWrite c w = some (.ok t)) :
    t.memOk := by
  unfold State.engWrite at e
  dsimp only at e
  split at e
  · split at e
    · cases e
      split
      · exact hm.perform.reachBytes.markBy
      · exact hm.perform.reachBytes
    · cases e
  split at e
  · split at e
    · cases e
    · cases e
      exact ⟨hm.1, Memory.write_wf hm.2 _ _⟩
  split at e
  · split at e
    · cases e
    · split at e
      · cases e
      · cases e
        exact hm.fifoUsed.setBank.mxRefreshAll
  split at e
  · split at e
    · cases e
    · cases e
      exact State.memOk.markBy ⟨Memory.write_wf hm.1 _ _, hm.2⟩
  split at e
  · split at e
    · cases e
    · split at e
      · cases e
      · cases e
        exact hm.markBy
  split at e
  · cases e
    exact hm.mmioWrite.markBy
  · cases e
    exact hm.foldl _ fun _ _ ht => ht.setWinByte

theorem State.memOk.engWrites {s : State} {c : Cmd} {ws : List EngWrite} (hm : s.memOk) : (s.engWrites c ws).1.memOk := by
  induction ws generalizing s c with
  | nil => exact hm
  | cons w ws ih =>
    unfold State.engWrites
    split
    · exact hm
    · exact hm
    · exact ih (hm.engWrite ‹_›)

theorem State.memOk.countBytes {s : State} {e : Nat} {c : Cmd} {n : Nat} (hm : s.memOk) : (s.countBytes e c n).memOk := by
  unfold State.countBytes
  dsimp only
  split <;> exact hm

theorem State.memOk.giveUp {s : State} {k : Nat} {ws : List EngWrite} (hm : s.memOk) : (s.giveUp k ws).memOk := by
  unfold State.giveUp
  dsimp only
  refine hm.foldl _ fun _ _ ht => ?_
  split
  · exact ht
  · exact ht.dropLine

theorem State.memOk.recallLine {s : State} {line : Nat} (hm : s.memOk) : (s.recallLine line).memOk := by
  unfold State.recallLine
  dsimp only
  refine hm.foldl _ fun _ _ ht => ?_
  split
  · split
    · exact ht
    · exact ht.engWrites.countBytes.setCmd.giveUp
  · exact ht

theorem State.memOk.recall {s : State} {pa n : Nat} (hm : s.memOk) : (s.recall pa n).memOk := by
  unfold State.recall
  refine hm.foldl _ fun _ _ ht => ?_
  split
  · exact ht.recallLine
  · exact ht

theorem State.memOk.leaveCache {s : State} {k b : Nat} (hm : s.memOk) : (s.leaveCache k b).memOk :=
  hm.foldl _ fun _ _ ht => ht.recallLine

theorem nextOk_execBankRelease {s : State} {k b : Nat} (hm : s.memOk) : NextOk (execBankRelease k b s) := by
  unfold execBankRelease
  dsimp only
  split
  · refine nextOk ?_
    split
    · refine State.memOk.setBank ?_
      split
      · exact hm.leaveCache
      · exact hm
    · exact hm
  · exact nextOk hm

theorem nextOk_execBankConvertEnd {s : State} {k b : Nat} (hm : s.memOk) : NextOk (execBankConvertEnd k b s) := by
  unfold execBankConvertEnd
  dsimp only
  split <;> exact nextOk hm

end Sys2Proof.Machine
end

section
/-! SUPPORT and CERTIFICATES. What keeps memory canonical: launches, engine commands and the matrix engine (log 2). -/

set_option Elab.async false

namespace Sys2Proof.Machine

/-! ### Launches -/

theorem State.memOk.ctxTranslate {s : State} {part ctx va : Nat} {acc : Access} {sup : Bool} (hm : s.memOk) :
    (s.ctxTranslate part ctx va acc sup).1.memOk := by
  unfold State.ctxTranslate
  dsimp only
  split
  · exact hm
  · split
    · exact hm
    · split
      · exact State.memOk.of_wf (setAD_wf hm.1 _ _) hm.2
      · exact hm

theorem State.memOk.ctxRange {s : State} {part ctx : Nat} {acc : Access} {sup : Bool} {ps : List (Nat × Nat)} (hm : s.memOk) :
    (s.ctxRange part ctx acc sup ps).1.memOk := by
  induction ps generalizing s with
  | nil => exact hm
  | cons p ps ih =>
    unfold State.ctxRange
    split
    · exact hm.ctxTranslate.of_fst ‹_›
    · have h1 := ih (hm.ctxTranslate.of_fst ‹_›)
      split
      · exact h1.of_fst ‹_›
      · exact h1.of_fst ‹_›

theorem State.memOk.physRead {s : State} {ord : Option Nat} {ps : List (Nat × Nat)} (hm : s.memOk) : (s.physRead ord ps).1.memOk := by
  induction ps generalizing s with
  | nil => exact hm
  | cons p ps ih =>
    unfold State.physRead
    split
    · exact hm
    · extract_lets r
      have hr : r.1.memOk := by
        dsimp only [r]
        split
        · exact hm.recall
        · exact hm
        · exact hm.mmioRead
      split
      · exact hr
      · split
        · exact (ih hr).of_fst ‹_›
        · exact (ih hr).of_fst ‹_›

theorem State.memOk.reachParts {s : State} {part ctx : Nat} {ps : List (Nat × Nat)} (hm : s.memOk) :
    (s.reachParts part ctx ps).memOk := by
  unfold State.reachParts
  refine hm.foldl _ fun _ _ ht => ?_
  split
  · exact ht.reachBytes
  · exact ht

theorem State.memOk.ctxRead {s : State} {part ctx va n : Nat} {sup : Bool} {ord : Option Nat} (hm : s.memOk) :
    (s.ctxRead part ctx va n sup ord).1.memOk := by
  unfold State.ctxRead
  split
  · exact hm.ctxRange.of_fst ‹_›
  · split
    · exact (hm.ctxRange.of_fst ‹_›).physRead.of_fst ‹_›
    · exact ((hm.ctxRange.of_fst ‹_›).physRead.of_fst ‹_›).reachParts

theorem State.memOk.bankNeeds {s : State} {k part spadB fifoB : Nat} (hm : s.memOk) : (s.bankNeeds k part spadB fifoB).memOk :=
  (hm.foldl _ fun _ _ ht => ht.setBank).foldl _ fun _ _ ht => ht

theorem State.memOk.mapRead {s : State} {ws : List Word} {part ctx : Nat} (hm : s.memOk) : (s.mapRead ws part ctx).1.memOk := hm.ctxRead

theorem State.memOk.mapWaits {s : State} {ws : List Word} {part ctx : Nat} {u : State} (hm : s.memOk)
    (e : s.mapWaits ws part ctx = some u) : u.memOk := by
  unfold State.mapWaits at e
  split at e
  · cases e
  · split at e
    · split at e
      · cases e
        exact hm.mapRead.of_fst ‹_›
      · cases e
    · cases e

theorem State.memOk.launch {s : State} {ws : List Word} {part ctx stream seq prioMax : Nat} {lnch : Option Word} {takenAt : Nat} (hm :
    s.memOk) : (s.launch ws part ctx stream seq prioMax lnch takenAt).1.memOk := by
  unfold State.launch
  dsimp only
  split
  · exact hm
  · split
    · exact hm
    · split
      · exact hm.mapRead.of_fst ‹_›
      · split
        · exact hm.mapRead.of_fst ‹_›
        · split
          · exact (hm.mapRead.of_fst ‹_›).frame.foldl _ fun _ _ ht => ht.bankNeeds
          · exact ((hm.mapRead.of_fst ‹_›).frame.foldl _ fun _ _ ht => ht.bankNeeds).setGrid.mark

/-! ### Engine commands -/

theorem State.memOk.mapMx {s : State} {f : MxEntry → Option MxEntry} (hm : s.memOk) : (s.mapMx f).memOk := hm

theorem State.memOk.post {s : State} {e : Nat} {cmd : Cmd} {d : SReg} {held : Option Nat} (hm : s.memOk) :
    (s.post e cmd d held).memOk := by
  unfold State.post
  dsimp only
  refine State.memOk.charge ?_
  split <;> exact hm

theorem State.memOk.engRead {s : State} {c : Cmd} {spad : Bool} {a : Word} {n : Nat} (hm : s.memOk) :
    (s.engRead c spad a n).1.memOk := by
  unfold State.engRead
  split
  · split <;> exact hm
  · split <;> exact hm.ctxRead.of_fst ‹_›

theorem State.memOk.engDest {s : State} {c : Cmd} {spad : Bool} {a : Word} {bs : List Byte} (hm : s.memOk) :
    (s.engDest c spad a bs).1.memOk := by
  unfold State.engDest
  split
  · split <;> exact hm
  · split <;> exact hm.ctxRange.of_fst ‹_›

theorem State.memOk.copyRows {s : State} {c : Cmd} {ssp dsp : Bool} {len : Nat} {rows : List (Word × Word)} (hm : s.memOk) :
    (s.copyRows c ssp dsp len rows).1.memOk := by
  induction rows generalizing s with
  | nil => exact hm
  | cons row rows ih =>
    unfold State.copyRows
    split
    · exact hm.engRead.of_fst ‹_›
    · have h1 := hm.engRead.of_fst ‹_›
      split
      · exact h1.engDest.of_fst ‹_›
      · have h2 := ih (h1.engDest.of_fst ‹_›)
        split
        · exact h2.of_fst ‹_›
        · exact h2.of_fst ‹_›

theorem State.memOk.fifoRows {s : State} {c : Cmd} {ssp : Bool} {len : Nat} {ws : List Word} (hm : s.memOk) :
    (s.fifoRows c ssp len ws).1.memOk := by
  induction ws generalizing s with
  | nil => exact hm
  | cons w ws ih =>
    unfold State.fifoRows
    split
    · exact hm.engRead.of_fst ‹_›
    · have h1 := ih (hm.engRead.of_fst ‹_›)
      split
      · exact h1.of_fst ‹_›
      · exact h1.of_fst ‹_›

theorem State.memOk.descWords {s : State} {c : Cmd} (hm : s.memOk) : (s.descWords c).1.memOk := by
  unfold State.descWords
  split
  · exact hm
  · split <;> exact hm.engRead.of_fst ‹_›

theorem State.memOk.indices {s : State} {c : Cmd} {n : Nat} (hm : s.memOk) : (s.indices c n).1.memOk := by
  unfold State.indices
  split <;> exact hm.engRead.of_fst ‹_›

theorem State.memOk.unsureCopy {s : State} {ws : List EngWrite} (hm : s.memOk) : (s.unsureCopy ws).1.memOk := hm

theorem State.memOk.copyPlan {s : State} {c : Cmd} {d : List Word} {linear : Bool} {n : Nat} {si di : Nat → Nat} (hm : s.memOk) :
    (s.copyPlan c d linear n si di).1.memOk := by
  unfold State.copyPlan
  dsimp only
  split
  · split
    · exact hm
    · split
      · split <;> exact hm.fifoRows.of_fst ‹_›
      · split
        · split
          · exact (hm.copyRows.of_fst ‹_›).unsureCopy
          · exact hm.copyRows.of_fst ‹_›
        · exact hm.copyRows.of_fst ‹_›
  · split
    · exact hm
    · split
      · split <;> exact hm.fifoRows.of_fst ‹_›
      · split
        · split
          · exact (hm.copyRows.of_fst ‹_›).unsureCopy
          · exact hm.copyRows.of_fst ‹_›
        · exact hm.copyRows.of_fst ‹_›

theorem State.memOk.binPlan {s : State} {c : Cmd} {n16 : Bool} {d : List Word} (hm : s.memOk) : (s.binPlan c n16 d).1.memOk := by
  unfold State.binPlan
  dsimp only
  split
  · exact hm
  · split
    · exact hm.engRead.of_fst ‹_›
    · split
      · exact (hm.engRead.of_fst ‹_›).engDest.of_fst ‹_›
      · refine State.memOk.foldl_fst ((hm.engRead.of_fst ‹_›).engDest.of_fst ‹_›) _ fun p x hp => ?_
        split
        · exact hp
        · split
          · exact hp.engDest.of_fst ‹_›
          · exact hp.engDest.of_fst ‹_›

theorem State.memOk.collPlan {s : State} {c : Cmd} {kind : CollKind} {d : List Word} (hm : s.memOk) : (s.collPlan c kind d).1.memOk := by
  unfold State.collPlan
  dsimp only
  split
  · exact hm
  · split
    · exact hm.engRead.of_fst ‹_›
    · split
      · exact (hm.engRead.of_fst ‹_›).engRead.of_fst ‹_›
      · have h1 := (hm.engRead.of_fst ‹_›).engRead.of_fst ‹_›
        split
        · rename_i he
          exact h1.frame.engDest.of_fst he
        · rename_i he
          exact h1.frame.engDest.of_fst he

theorem State.memOk.countDown {s : State} {gid : Nat} {seta setb : BitVec 4} (hm : s.memOk) : (s.countDown gid seta setb).memOk := by
  unfold State.countDown
  split
  · exact hm.setGroup
  · exact hm

theorem State.memOk.finishCmd {s : State} {e : Nat} {c : Cmd} {status : Nat} (hm : s.memOk) : (s.finishCmd e c status).memOk := by
  unfold State.finishCmd
  dsimp only
  split
  · split
    · exact hm.setCluster.dropCmd.countDown.markBy
    · split <;> exact hm
  · exact hm.dropCmd.countDown

theorem State.memOk.failCmd {s : State} {e : Nat} {c : Cmd} {err : CmdErr} (hm : s.memOk) : (s.failCmd e c err).memOk := by
  unfold State.failCmd
  split
  · exact hm
  · exact hm.finishCmd
  · split
    · exact hm.finishCmd
    · exact hm.postSystem.finishCmd
  · exact hm

theorem State.memOk.raiseGens {s : State} {c : Cmd} {ws : List EngWrite} (hm : s.memOk) : (s.raiseGens c ws).memOk := by
  unfold State.raiseGens
  dsimp only
  refine (State.memOk.foldl ?_) _ fun _ _ ht => ht.raiseGen
  split
  · exact hm.raiseGen
  · exact hm

theorem State.memOk.runCmd {s : State} {e : Nat} {c : Cmd} {ws : List EngWrite} (hm : s.memOk) : (s.runCmd e c ws).memOk := by
  unfold State.runCmd
  dsimp only
  split
  · exact hm.engWrites.countBytes.raiseGens.failCmd.giveUp
  · split
    · exact hm.engWrites.countBytes.raiseGens.finishCmd.giveUp
    · split
      · split
        · exact hm.engWrites.countBytes.raiseGens.setCmd.giveUp.logFull
        · exact hm.engWrites.countBytes.raiseGens.setCmd.giveUp
      · exact hm.engWrites.countBytes.raiseGens.setCmd.giveUp

theorem State.memOk.plan {s : State} {c : Cmd} (hm : s.memOk) : (s.plan c).1.memOk := by
  unfold State.plan
  dsimp only
  split
  · split
    · split
      · exact hm
      · split
        · exact hm
        · split
          · exact hm.descWords.of_fst ‹_›
          · exact (hm.descWords.of_fst ‹_›).copyPlan
    · split
      · exact hm
      · split
        · exact hm
        · split
          · exact hm.descWords.of_fst ‹_›
          · exact (hm.descWords.of_fst ‹_›).copyPlan
  · split
    · exact hm
    · split
      · exact hm
      · split
        · exact hm.descWords.of_fst ‹_›
        · split
          · exact (hm.descWords.of_fst ‹_›).indices.of_fst ‹_›
          · split <;> exact ((hm.descWords.of_fst ‹_›).indices.of_fst ‹_›).copyPlan
  · split
    · exact hm
    · split
      · exact hm
      · split
        · exact hm.descWords.of_fst ‹_›
        · split
          · exact (hm.descWords.of_fst ‹_›).indices.of_fst ‹_›
          · split <;> exact ((hm.descWords.of_fst ‹_›).indices.of_fst ‹_›).copyPlan
  · split
    · exact hm.descWords.of_fst ‹_›
    · exact (hm.descWords.of_fst ‹_›).collPlan
  · exact hm

theorem State.memOk.patchOne {s : State} {key slot ord v : Nat} (hm : s.memOk) : (s.patchOne key slot ord v).1.memOk := by
  unfold State.patchOne
  dsimp only
  split <;> exact hm

theorem State.memOk.patchAll {s : State} {key slot : Nat} {vs : List Nat} (hm : s.memOk) : (s.patchAll key slot vs).1.memOk :=
  State.memOk.foldl_fst hm _ fun _ _ hp => hp.patchOne

theorem State.memOk.deferFault {s : State} {gid cause addr : Nat} (hm : s.memOk) : (s.deferFault gid cause addr).memOk := hm

theorem State.memOk.freeEntry {s : State} {x : MxEntry} (hm : s.memOk) : (s.freeEntry x).memOk := hm.mapMx.countDown

theorem State.memOk.release {s : State} {key slot : Nat} (hm : s.memOk) : (s.release key slot).memOk := by
  unfold State.release
  extract_lets k bad s1 s2
  have h1 : s1.memOk := hm.foldl _ fun t c ht => ht.setEngine
  have h2 : s2.memOk := State.memOk.mapMx h1
  exact (h2.foldl _ fun _ _ ht => ht.deferFault.freeEntry).mxRefreshAll

theorem State.memOk.cancelSlot {s : State} {key slot : Nat} (hm : s.memOk) : (s.cancelSlot key slot).1.memOk :=
  (hm.frame.foldl _ fun _ _ ht => ht.countDown).mxRefreshAll.foldl _ fun _ _ ht => ht.setEngine.finishCmd

theorem State.memOk.beginCmd {e : Nat} {c : Cmd} {r : State × Except CmdErr (List EngWrite)} (hr : r.1.memOk) :
    (beginCmd e c r).memOk := by
  unfold Machine.beginCmd
  split
  · exact hr.failCmd
  · extract_lets mem t
    have ht : t.memOk := hr.foldl _ fun u w hu => hu.recall
    split
    · exact ht
    · exact ht.raiseGens.setCmd.foldl _ fun u x hu => hu.ownLine

theorem State.memOk.waits {s : State} {e : Nat} {id : Word} (hm : s.memOk) : (s.waits e id).memOk := hm

theorem State.memOk.startCmd {s0 : State} {e : Nat} {c : Cmd} (hm : s0.memOk) : (s0.startCmd e c).memOk := by
  unfold State.startCmd
  dsimp only
  split
  · split
    · exact hm
    · split
      · split
        · exact hm.finishCmd
        · split
          · exact (hm.descWords.of_fst ‹_›).failCmd
          · split
            · exact ((hm.descWords.of_fst ‹_›).binPlan.of_fst ‹_›).failCmd
            · exact ((hm.descWords.of_fst ‹_›).binPlan.of_fst ‹_›).beginCmd
      · split
        · exact hm.finishCmd
        · split
          · exact (hm.engRead.of_fst ‹_›).failCmd
          · exact (hm.engRead.of_fst ‹_›).patchAll.finishCmd
      · exact hm.release.finishCmd
      · refine State.memOk.finishCmd ?_
        split
        · exact hm.cancelSlot.setGroup
        · exact hm.cancelSlot
      · split
        · exact (hm.engRead.of_fst ‹_›).failCmd
        · split
          · exact (hm.engRead.of_fst ‹_›).finishCmd
          · split
            · exact (hm.engRead.of_fst ‹_›).mapWaits ‹_›
            · split
              · exact ((hm.engRead.of_fst ‹_›).launch.of_fst ‹_›).finishCmd
              · exact ((hm.engRead.of_fst ‹_›).launch.of_fst ‹_›).setCmd
      · exact hm.plan.beginCmd
  · split
    · exact hm.drainBuf
    · split
      · split
        · exact hm.drainBuf.finishCmd
        · split
          · exact (hm.drainBuf.descWords.of_fst ‹_›).failCmd
          · split
            · exact ((hm.drainBuf.descWords.of_fst ‹_›).binPlan.of_fst ‹_›).failCmd
            · exact ((hm.drainBuf.descWords.of_fst ‹_›).binPlan.of_fst ‹_›).beginCmd
      · split
        · exact hm.drainBuf.finishCmd
        · split
          · exact (hm.drainBuf.engRead.of_fst ‹_›).failCmd
          · exact (hm.drainBuf.engRead.of_fst ‹_›).patchAll.finishCmd
      · exact hm.drainBuf.release.finishCmd
      · refine State.memOk.finishCmd ?_
        split
        · exact hm.drainBuf.cancelSlot.setGroup
        · exact hm.drainBuf.cancelSlot
      · split
        · exact (hm.drainBuf.engRead.of_fst ‹_›).failCmd
        · split
          · exact (hm.drainBuf.engRead.of_fst ‹_›).finishCmd
          · split
            · exact (hm.drainBuf.engRead.of_fst ‹_›).mapWaits ‹_›
            · split
              · exact ((hm.drainBuf.engRead.of_fst ‹_›).launch.of_fst ‹_›).finishCmd
              · exact ((hm.drainBuf.engRead.of_fst ‹_›).launch.of_fst ‹_›).setCmd
      · exact hm.drainBuf.plan.beginCmd

theorem State.memOk.startNext {s : State} {e : Nat} {u : State} (hm : s.memOk) (h : s.startNext e = some u) : u.memOk := by
  unfold State.startNext at h
  extract_lets x tryOne at h
  have hone (c : Cmd) (t : State) (ht : tryOne c = some t) : t.memOk := by
    dsimp only [tryOne] at ht
    split at ht
    · cases ht
    · cases ht
      exact hm.startCmd
  split at h
  · rename_i t ht
    cases h
    obtain ⟨c, -, hc⟩ := List.exists_of_findSome?_eq_some ht
    exact hone c _ hc
  · split at h
    · obtain ⟨c, -, rfl⟩ := Option.map_eq_some_iff.1 h
      exact hm.startCmd.waits
    · cases h

theorem nextOk_execEngineCommandStart {e : Nat} {s : State} (hm : s.memOk) : NextOk (execEngineCommandStart e s) :=
  nextOk (hm.getD fun _ h => hm.startNext h)

theorem nextOk_execCollJoinTimeout {s : State} {e : Nat} {id : BitVec 32} (hm : s.memOk) : NextOk (execCollJoinTimeout e id s) := by
  unfold execCollJoinTimeout
  split
  · exact nextOk hm.finishCmd
  · exact nextOk hm

theorem State.memOk.raiseIssue {s : State} {c : Cmd} (hm : s.memOk) : (s.raiseIssue c).memOk := hm.raiseGens

theorem State.memOk.postHold {s : State} {e : Nat} {op : CmdOp} {a b c : Word} {ev hold : Bool} {slot : Nat} {tag : BitVec 16} {d :
    SReg} (hm : s.memOk) : (s.postHold e op a b c ev hold slot tag d).memOk := by
  unfold State.postHold
  dsimp only
  split
  · exact hm.faultExact
  · exact hm.raiseIssue.post

theorem State.memOk.cancel {s : State} {part ctx : Nat} {id : Word} (hm : s.memOk) : (s.cancel part ctx id).1.memOk := by
  unfold State.cancel
  dsimp only
  split
  · split
    · exact hm
    · split
      · exact hm.finishCmd
      · exact hm.finishCmd
      · exact hm.finishCmd
      · split <;> exact hm
      · split
        · exact hm
        · split
          · split
            · split
              · exact hm.frame.finishCmd
              · exact hm
            · exact hm
          · exact hm.finishCmd
  · split
    · exact hm
    · exact hm.frame.finishCmd
  · exact hm

theorem nextOk_execEcanAnswer {s : State} {gid : Nat} (hm : s.memOk) : NextOk (execEcanAnswer gid s) := by
  unfold execEcanAnswer
  split
  · exact nextOk hm
  · split
    · exact nextOk hm.setGroup
    · exact nextOk hm

theorem nextOk_execEqrd {s : State} {d : SReg} {_tag : BitVec 16} (hm : s.memOk) : NextOk (execEqrd d _tag s) := by
  unfold execEqrd
  dsimp only
  split
  · exact nextOk hm.faultExact
  · split <;> exact nextOk hm.setCluster.done

theorem nextOk_execEqrdWait {s : State} {d : SReg} {_tag : BitVec 16} (hm : s.memOk) : NextOk (execEqrdWait d _tag s) := by
  unfold execEqrdWait
  dsimp only
  split
  · exact nextOk hm.faultExact
  · split
    · exact nextOk hm.setCluster.done
    · exact nextOk hm.charge

theorem nextOk_execEvps {s : State} {d : SReg} {a b c : SPos} {tag : BitVec 16} (hm : s.memOk) : NextOk (execEvps d a b c tag s) := by
  unfold execEvps
  dsimp only
  split
  · exact nextOk hm.faultExact
  · split
    · exact nextOk hm.setCluster.done
    · exact nextOk hm.charge

theorem nextOk_execEventQueuePost {s : State} {k : Nat} (hm : s.memOk) : NextOk (execEventQueuePost k s) := by
  unfold execEventQueuePost
  dsimp only
  split
  · split
    · exact nextOk hm.setCluster.setGroup
    · exact nextOk hm
  · split
    · exact nextOk hm
    · split
      · split
        · exact nextOk hm.finishCmd
        · exact nextOk hm
      · split
        · exact nextOk hm.setCluster.setGroup
        · exact nextOk hm
      · exact nextOk hm

theorem nextOk_execAsyncCommandComplete {s : State} {id : Nat} (hm : s.memOk) : NextOk (execAsyncCommandComplete id s) := by
  unfold execAsyncCommandComplete
  dsimp only
  split
  · exact nextOk hm
  · split
    · split
      · exact nextOk hm
      · exact nextOk hm.runCmd
    · split
      · exact nextOk_execEventQueuePost hm
      · exact nextOk hm
    · exact nextOk hm

/-! ### The matrix engine -/

theorem State.memOk.addCounts {s : State} {gid : Nat} {c : MxCounts} (hm : s.memOk) : (s.addCounts gid c).memOk := by
  unfold State.addCounts
  split
  · exact hm
  · exact hm.setGroup

theorem State.memOk.modGrant {s : State} {gid : Nat} {f : Grant → Grant} (hm : s.memOk) : (s.modGrant gid f).memOk := hm

theorem State.memOk.takeGrants {s : State} {p : Nat → Bool} (hm : s.memOk) : (s.takeGrants p).memOk := hm

theorem State.memOk.endGrants {s : State} {p : Nat → Bool} (hm : s.memOk) : (s.endGrants p).memOk := hm

theorem State.memOk.cancelMx {s : State} {p : MxEntry → Bool} (hm : s.memOk) : (s.cancelMx p).memOk :=
  hm.foldl _ fun _ _ ht => ht.freeEntry

theorem State.memOk.mxPost {s : State} {op : MxOp} {ll front : Bool} {hold : Option Nat} {latch : Option (Option FA)} {cyc : Nat} (hm :
    s.memOk) : (s.mxPost op ll front hold latch cyc).memOk := hm.charge

theorem State.memOk.matFault {s : State} {cause addr : Nat} (hm : s.memOk) : (s.matFault cause addr).memOk := hm.faultExact

theorem State.memOk.granted {s : State} {tile : Nat} {heeds : Bool} {k : State → State} (hm : s.memOk) (hk : (k s).memOk) :
    (s.granted tile heeds k).memOk := by
  unfold State.granted
  split
  · exact hm.matFault
  · exact hk

theorem State.memOk.mmaIssue {s : State} {fa : FA} {keep : Bool} {hold : Option Nat} {tile : Nat} {b : Word} {n : Nat} {c sid :
    Word} (hm : s.memOk) : (s.mmaIssue fa keep hold tile b n c sid).memOk := by
  unfold State.mmaIssue
  dsimp only
  refine hm.granted ?_
  split
  · split
    · exact hm.matFault
    · split
      · exact hm.faultExact
      · split
        · exact hm.faultExact
        · split
          · exact hm.faultExact
          · exact hm.mxPost
  · split
    · exact hm.matFault
    · split
      · exact hm.faultExact
      · split
        · exact hm.faultExact
        · split
          · exact hm.faultExact
          · exact hm.mxPost
  · split
    · exact hm.matFault
    · split
      · exact hm.faultExact
      · split
        · exact hm.faultExact
        · split
          · exact hm.faultExact
          · exact hm.mxPost

theorem nextOk_execMma {s : State} {fa : FA} {keep : Bool} {tile : BitVec 4} {a c sid : SReg} (hm : s.memOk) :
    NextOk (execMma fa keep tile a c sid s) := by
  unfold execMma
  dsimp only
  refine nextOk ?_
  split
  · exact hm.granted hm.matFault
  · exact hm.mmaIssue

theorem nextOk_execMmal {s : State} {fa : FA} {keep hold : Bool} {slot : BitVec 2} {tile : BitVec 4} {a : SReg} {n : MCnt} {c sid :
    SReg} (hm : s.memOk) : NextOk (execMmal fa keep hold slot tile a n c sid s) := by
  unfold execMmal
  dsimp only
  refine nextOk ?_
  split
  · exact hm.granted hm.matFault
  · exact hm.mmaIssue

theorem State.memOk.raiseRows {s : State} {a stride n rows : Nat} (hm : s.memOk) : (s.raiseRows a stride n rows).memOk :=
  hm.foldl _ fun _ _ ht => ht.raiseGen

theorem State.memOk.imageIssue {s : State} {fill spad latch : Bool} {tile : Nat} {a : Word} (hm : s.memOk) :
    (s.imageIssue fill spad latch tile a).memOk := by
  unfold State.imageIssue
  refine hm.granted ?_
  split
  · exact hm.matFault
  · split
    · exact hm.faultExact
    · refine State.memOk.mxPost ?_
      split
      · exact hm.raiseRows
      · exact hm

theorem nextOk_execMzroGrant {s : State} {a : GrantArg} (hm : s.memOk) : NextOk (execMzroGrant a s) := by
  unfold execMzroGrant
  dsimp only
  split
  · exact nextOk hm.matFault
  · split
    · exact nextOk hm.setMx.done
    · exact nextOk hm.charge

theorem nextOk_execMsts {s : State} {fa : FA} {sat spad : Bool} {tile : BitVec 4} {a c : SReg} (hm : s.memOk) :
    NextOk (execMsts fa sat spad tile a c s) := by
  unfold execMsts
  dsimp only
  refine nextOk (hm.granted ?_)
  split
  · exact hm.matFault
  · split
    · exact hm.faultExact
    · refine State.memOk.mxPost ?_
      split
      · exact hm.raiseRows
      · exact hm

theorem nextOk_execMscl {s : State} {pin : Bool} {a : SReg} {n : MCnt} {sid : SReg} (hm : s.memOk) :
    NextOk (execMscl pin a n sid s) := by
  unfold execMscl
  dsimp only
  refine nextOk ?_
  split
  · exact hm.matFault
  · split
    · exact hm.matFault
    · exact hm.mxPost

theorem nextOk_execMsta {s : State} {clr status : Bool} {d : SReg} (hm : s.memOk) : NextOk (execMsta clr status d s) := by
  unfold execMsta
  dsimp only
  split
  · exact nextOk hm.charge
  · exact nextOk hm.done

theorem State.memOk.mstaWake {s : State} (hm : s.memOk) : s.mstaWake.memOk := hm

theorem State.memOk.tensor {s : State} {x : MxEntry} {tid : Nat} (hm : s.memOk) : (s.tensor x tid).1.memOk := by
  unfold State.tensor
  dsimp only
  split
  · exact hm
  · split <;> exact hm.ctxRead.of_fst ‹_›

theorem State.memOk.movePins {s : State} {e : Nat} {gids : List Nat} (hm : s.memOk) : (s.movePins e gids).memOk := by
  unfold State.movePins
  dsimp only
  split <;> exact hm

theorem State.memOk.dropScales {s : State} {part ctx : Nat} (hm : s.memOk) : (s.dropScales part ctx).memOk := hm

theorem State.memOk.loadScale {s : State} {e : Nat} {x : MxEntry} {tid num base : Nat} {pins : List Nat} (hm : s.memOk) :
    (s.loadScale e x tid num base pins).1.memOk := by
  unfold State.loadScale
  dsimp only
  split
  · exact hm.ctxRead.of_fst ‹_›
  · exact (hm.ctxRead.of_fst ‹_›).setMx

theorem State.memOk.scaleNum {s : State} {x : MxEntry} {fa : FA} {sid : Word} {nb : Nat} (hm : s.memOk) :
    (s.scaleNum x fa sid nb).1.memOk := by
  unfold State.scaleNum
  dsimp only
  split
  · exact hm.tensor.of_fst ‹_›
  · split
    · split <;> exact hm.tensor.of_fst ‹_›
    · split <;> exact hm.tensor.of_fst ‹_›

theorem State.memOk.findScale {s : State} {e : Nat} {x : MxEntry} {tid num : Nat} {v : Lane} {t : State} (hm : s.memOk)
    (h : s.findScale e x tid num = some (v, t)) : t.memOk := by
  unfold State.findScale at h
  dsimp only at h
  split at h
  · cases h
    exact hm.setMx
  · split at h
    · split at h
      · cases h
        exact hm
      · cases h
    · cases h

theorem State.memOk.setEntry {s : State} {x : MxEntry} (hm : s.memOk) : (s.setEntry x).memOk := hm

theorem State.memOk.takeBlock {s : State} {x : MxEntry} {b c : Word} {i : Nat} (hm : s.memOk) : (s.takeBlock x b c i).1.memOk := by
  unfold State.takeBlock
  dsimp only
  split
  · split
    · exact hm
    · exact hm.fifoUsed
  · split <;> exact hm

theorem State.memOk.mmaStep {s : State} {e : Nat} {x : MxEntry} {fa : FA} {keep : Bool} {tile : Nat} {b c sid : Word} {i : Nat} (hm :
    s.memOk) : (s.mmaStep e x fa keep tile b c sid i).1.memOk := by
  unfold State.mmaStep
  dsimp only
  split
  · exact hm
  · split
    · exact hm
    · split
      · split
        · exact hm
        · exact hm.takeBlock.of_fst ‹_›
        · exact (hm.takeBlock.of_fst ‹_›).setMx.modGrant.addCounts
      · split
        · exact hm.scaleNum.of_fst ‹_›
        · split
          · split
            · exact (hm.scaleNum.of_fst ‹_›).findScale ‹_›
            · exact ((hm.scaleNum.of_fst ‹_›).findScale ‹_›).takeBlock.of_fst ‹_›
            · exact (((hm.scaleNum.of_fst ‹_›).findScale ‹_›).takeBlock.of_fst ‹_›).setMx.modGrant.addCounts
          · exact hm.scaleNum.of_fst ‹_›

theorem State.memOk.mmaSteps {s : State} {e : Nat} {x : MxEntry} {fa : FA} {keep : Bool} {tile : Nat} {b c sid : Word} {n i fuel : Nat}
    (hm : s.memOk) : (s.mmaSteps e x fa keep tile b c sid n i fuel).1.memOk := by
  induction fuel generalizing s i with
  | zero => exact hm
  | succ fuel ih =>
    unfold State.mmaSteps
    split
    · exact hm
    · split
      · exact ih (hm.mmaStep.of_fst ‹_›)
      · exact hm.mmaStep.of_fst ‹_›

theorem State.memOk.mxFail {s : State} {x : MxEntry} {cause addr : Nat} (hm : s.memOk) : (s.mxFail x cause addr).memOk :=
  hm.deferFault.freeEntry

theorem State.memOk.mmaPass {s : State} {e : Nat} {x : MxEntry} {fa : FA} {keep : Bool} {tile : Nat} {b : Word} {n : Nat} {c sid :
    Word} {k : Nat} (hm : s.memOk) : (s.mmaPass e x fa keep tile b n c sid k).1.memOk := by
  unfold State.mmaPass
  dsimp only
  split
  · exact hm.mmaSteps.mxFail
  · exact hm.mmaSteps
  · split
    · refine State.memOk.freeEntry ?_
      split <;> exact hm.mmaSteps
    · exact hm.mmaSteps

theorem State.memOk.mxError {s : State} {x : MxEntry} {f : CmdErr} {a : Nat} (hm : s.memOk) : (s.mxError x f a).memOk := by
  unfold State.mxError
  dsimp only
  split
  · exact hm
  · exact hm.postSystem.mxFail
  · exact hm.mxFail
  · exact hm

theorem State.memOk.mxWrite {s : State} {x : MxEntry} {spad : Bool} {a : Word} {rows : List (Nat × List Byte)} (hm : s.memOk) :
    (s.mxWrite x spad a rows).1.memOk := by
  unfold State.mxWrite
  extract_lets c r
  have hr : r.1.memOk := by
    refine State.memOk.foldl_fst hm _ fun p q hp => ?_
    split
    · exact hp
    · split
      · exact hp.engDest.of_fst ‹_›
      · exact hp.engDest.of_fst ‹_›
  split
  · exact hr.mxError
  · dsimp only
    split
    · split
      · exact hr.engWrites.raiseGens.mxError
      · exact hr.engWrites.raiseGens
    · split
      · exact hr.logFull
      · exact hr

theorem State.memOk.loadScales {s : State} {e : Nat} {x : MxEntry} {tid base lim : Nat} {pins nums : List Nat} (hm : s.memOk) :
    (s.loadScales e x tid base lim pins nums).1.memOk := by
  induction nums generalizing s with
  | nil => exact hm
  | cons num nums ih =>
    unfold State.loadScales
    split
    · exact hm
    · split
      · exact hm.loadScale.of_fst ‹_›
      · exact ih (hm.loadScale.of_fst ‹_›)

theorem State.memOk.runPass {s : State} {e : Nat} {x : MxEntry} (hm : s.memOk) : (s.runPass e x).1.memOk := by
  unfold State.runPass
  split
  · exact hm.mxFail
  split
  · exact hm.modGrant.freeEntry
  · exact hm.mmaPass
  · have hw := fun (b : Bool) (a : Word) (rows : List (Nat × List Byte)) => hm.mxWrite (x := x) (spad := b) (a := a) (rows := rows)
    dsimp only
    split
    · exact ((hw _ _ _).of_fst ‹_›).freeEntry
    · exact (hw _ _ _).of_fst ‹_›
  · split
    · exact (hm.engRead.of_fst ‹_›).mxError
    · have h1 := hm.engRead.of_fst ‹_›
      dsimp only
      split
      · exact h1.modGrant.freeEntry
      · exact h1.setMx.freeEntry
  · exact hm.setMx.freeEntry
  · dsimp only
    split
    · exact (hm.mxWrite.of_fst ‹_›).addCounts.freeEntry
    · exact hm.mxWrite.of_fst ‹_›
  · split
    · exact (hm.tensor.of_fst ‹_›).mxFail
    · split
      · exact ((hm.tensor.of_fst ‹_›).loadScales.of_fst ‹_›).mxFail
      · exact ((hm.tensor.of_fst ‹_›).loadScales.of_fst ‹_›).freeEntry
  · exact hm.endGrants.freeEntry

theorem State.memOk.passDone {s : State} {e : Nat} {x : MxEntry} {cyc : Nat} (hm : s.memOk) : (s.passDone e x cyc).memOk := hm

theorem State.memOk.mxRecall {s : State} {x : MxEntry} (hm : s.memOk) : (s.mxRecall x).1.memOk := hm.foldl _ fun _ _ ht => ht.recall

theorem nextOk_execMatrixPass {s : State} {e : Nat} (hm : s.memOk) : NextOk (execMatrixPass e s) := by
  unfold execMatrixPass
  dsimp only
  refine nextOk ?_
  split
  · exact hm
  · split
    · split
      · exact hm.mxRefresh.mxRecall
      · exact hm.mxRefresh.mxRecall.runPass.passDone.mxRefresh.mstaWake
    · split
      · exact hm.mxRefresh.drainBuf.mxRecall
      · exact hm.mxRefresh.drainBuf.mxRecall.runPass.passDone.mxRefresh.mstaWake

theorem State.memOk.fillScale {s : State} {e : Nat} {x : MxEntry} (hm : s.memOk) : (s.fillScale e x).memOk := by
  unfold State.fillScale
  split
  · split
    · exact (hm.scaleNum.of_fst ‹_›).mxFail
    · split
      · exact ((hm.scaleNum.of_fst ‹_›).loadScale.of_fst ‹_›).mxFail
      · exact ((hm.scaleNum.of_fst ‹_›).loadScale.of_fst ‹_›).setEntry
  · exact hm

theorem nextOk_execScaleFillReturn {s : State} {e : Nat} (hm : s.memOk) : NextOk (execScaleFillReturn e s) := by
  unfold execScaleFillReturn
  dsimp only
  split
  · exact nextOk hm
  · refine nextOk ?_
    split
    · exact hm.mxRecall
    · exact hm.mxRecall.fillScale

theorem nextOk_execGrantServed {s : State} {e : Nat} (hm : s.memOk) : NextOk (execGrantServed e s) := by
  unfold execGrantServed
  dsimp only
  split
  · exact nextOk hm
  · split
    · exact nextOk hm
    · split
      · exact nextOk hm.setMx.setGroup
      · exact nextOk hm

end Sys2Proof.Machine
end

section
/-! SUPPORT and CERTIFICATES. What keeps memory canonical: teams, windows and streams (log 2). -/

set_option Elab.async false

namespace Sys2Proof.Machine

/-! ### Teams -/

theorem newWindow_wf {m : Memory} {n base rows : Nat} (h : Memory.wf m = true) : Memory.wf (newWindow m n base rows) = true := by
  unfold newWindow
  dsimp only
  split
  · exact Memory.clear_wf h _ _
  · exact Memory.write_wf (Memory.clear_wf h _ _) _ _

theorem State.memOk.create {s : State} {g : Grid} {team image : Nat} {p : Placement} (hm : s.memOk) : (s.create g team image p).memOk :=
  ⟨hm.1, newWindow_wf hm.2⟩

theorem State.memOk.restoreGroup {s : State} {g : Group} {core slot block : Nat} (hm : s.memOk) :
    (s.restoreGroup g core slot block).memOk := by
  unfold State.restoreGroup
  dsimp only
  split
  · exact (hm.frame.as fun _ ht => (ht.foldl _ fun _ _ ht => ht.writeResult)).setGroup
  · exact hm.frame.as fun _ ht => (ht.foldl _ fun _ _ ht => ht.writeResult)

theorem State.memOk.restoreMx {s : State} {key core image : Nat} (hm : s.memOk) : (s.restoreMx key core image).memOk :=
  hm.setMx.movePins

theorem State.memOk.moveFrames {s : State} {key image new : Nat} {slots : List (Nat × Nat)} (hm : s.memOk) :
    (s.moveFrames key image new slots).memOk := State.memOk.of_wf (Memory.foldl_wf hm.1 _ fun _ _ hx => Memory.write_wf hx _ _) hm.2

theorem State.memOk.restore {s' : State} {key : Nat} {t : Team} {p : Placement} (hm : s'.memOk) : (s'.restore key t p).memOk := by
  unfold State.restore
  extract_lets s image win k t1 s0 s1 s2
  have hs : s.memOk := hm.lapse.countClock
  have h0 : s0.memOk := hs.moveFrames
  have h1 : s1.memOk := ⟨h0.1, Memory.write_wf (Memory.clear_wf hs.2 _ _) _ _⟩
  exact (h1.foldl _ fun _ _ ht => ht.restoreGroup).restoreMx

theorem State.memOk.saveRegs {s : State} {g : Group} (hm : s.memOk) : (s.saveRegs g).memOk := by
  unfold State.saveRegs
  dsimp only
  exact State.memOk.of_wf (Memory.write_wf (Memory.foldl_wf hm.1 _ fun _ _ hx => Memory.setVreg_wf hx _ _) _ _) hm.2

theorem State.memOk.saveMx {s : State} {key core image : Nat} {coop : Bool} (hm : s.memOk) : (s.saveMx key core image coop).memOk := by
  unfold State.saveMx
  extract_lets gs gids kept s1 m grants tiles mem sv u s2
  have h1 : s1.memOk := hm.cancelMx
  have h2 : s2.memOk := ⟨Memory.foldl_wf h1.1 _ fun _ _ hx => Memory.write_wf hx _ _, h1.2⟩
  exact h2.takeGrants.endGrants

theorem State.memOk.saveImage {s : State} {key : Nat} {t : Team} {image : Nat} {coop : Bool} (hm : s.memOk) :
    (s.saveImage key t image coop).memOk := by
  unfold State.saveImage
  extract_lets sv m1 m2 m3 m4 m5
  have h1 : Memory.wf m1 = true := Memory.words_wf hm.1 _ _
  have h2 : Memory.wf m2 = true := Memory.foldl_wf h1 _ fun _ _ h => Memory.words_wf h _ _
  have h3 : Memory.wf m3 = true := Memory.foldl_wf h2 _ fun _ _ h => Memory.words_wf h _ _
  have h4 : Memory.wf m4 = true := Memory.foldl_wf h3 _ fun _ _ h => Memory.write_wf h _ _
  have h5 : Memory.wf m5 = true := Memory.foldl_wf h4 _ fun _ _ h => Memory.write_wf h _ _
  exact ⟨Memory.foldl_wf h5 _ fun _ _ h => Memory.words_wf h _ _, hm.2⟩

theorem State.memOk.wakeEvict {s : State} (hm : s.memOk) : s.wakeEvict.memOk := hm

theorem State.memOk.unrun {s : State} {key : Nat} (hm : s.memOk) : (s.unrun key).memOk := by
  unfold State.unrun
  dsimp only
  refine (State.memOk.foldl ?_) _ fun _ _ ht => ?_
  · split <;> exact hm
  · split
    · split
      · exact ht.as fun _ ht => ht.endClause
      · exact ht
    · exact ht

theorem State.memOk.switchOut {s : State} {part ctx : Nat} (hm : s.memOk) : (s.switchOut part ctx).memOk := by
  unfold State.switchOut
  split <;> exact hm

theorem State.memOk.saveTeam {s : State} {key : Nat} {coop : Bool} (hm : s.memOk) : (s.saveTeam key coop).memOk := by
  unfold State.saveTeam
  split
  · exact hm
  split
  · exact hm
  extract_lets s0 t image k s1 s2 s3 s4 s5
  have h0 : s0.memOk := hm.unrun.drainBuf
  split
  · exact h0.setTeam
  have h2 : s2.memOk := h0.saveMx.countClock.foldl _ fun _ _ ht => ht.saveRegs
  have h3 : s3.memOk := h2.mapGroups.saveImage
  have h5 : s5.memOk := State.memOk.setTeam (s := s4) ⟨Memory.write_wf h3.1 _ _, h3.2⟩
  split
  · exact h5.freeRegs.switchOut.wakeEvict
  · exact h5.freeRegs.wakeEvict

theorem State.memOk.discardTeam {s0 : State} {key : Nat} (hm : s0.memOk) : (s0.discardTeam key).memOk := by
  unfold State.discardTeam
  dsimp only
  split
  · exact hm
  · refine State.memOk.wakeEvict ?_
    split
    · exact hm.countClock.cancelMx.frame.lapse.freeRegs
    · exact hm.cancelMx.frame.lapse

theorem nextOk_execTeamRetire {s : State} {grid team : Nat} (hm : s.memOk) : NextOk (execTeamRetire grid team s) := by
  unfold execTeamRetire
  dsimp only
  split
  · refine nextOk ?_
    split <;> exact hm.discardTeam
  · exact nextOk hm

theorem State.memOk.passOver {s : State} {gid n : Nat} (hm : s.memOk) : (s.passOver gid n).memOk := hm

theorem State.memOk.place1 {s : State} {gid team : Nat} {u : State} (hm : s.memOk) (e : s.place1 gid team = some u) : u.memOk := by
  unfold State.place1 at e
  split at e
  · cases e
  split at e
  · cases e
  dsimp only at e
  split at e
  · cases e
  split at e
  · cases e
    exact hm.passOver.restore
  · cases e
    exact hm.passOver.create
  · cases e

theorem State.memOk.placeAll {s : State} {gid : Nat} {ts : List Nat} {u : State} (hm : s.memOk) (e : s.placeAll gid ts = some u) :
    u.memOk := by
  induction ts generalizing s with
  | nil => cases e; exact hm
  | cons t ts ih =>
    obtain ⟨s1, h1, h2⟩ := Option.bind_eq_some_iff.1 e
    exact ih (hm.place1 h1) h2

theorem nextOk_execCompaction {s : State} {core group toPipe : Nat} (hm : s.memOk) : NextOk (execCompaction core group toPipe s) := by
  unfold execCompaction
  dsimp only
  split
  · exact nextOk hm
  · split
    · exact nextOk hm
    · split
      · split
        · exact nextOk hm.setCore.setGroup
        · exact nextOk hm
      · exact nextOk hm

theorem State.memOk.preempt {s : State} {key : Nat} (hm : s.memOk) : (s.preempt key).memOk := by
  unfold State.preempt
  split
  · exact hm
  · split
    · exact hm
    · split
      · exact hm
      · split
        · exact hm.saveTeam
        · exact hm

theorem nextOk_execTimeSliceEnd {s : State} {grid team : Nat} (hm : s.memOk) : NextOk (execTimeSliceEnd grid team s) := by
  unfold execTimeSliceEnd
  refine nextOk ?_
  split
  · exact hm.preempt
  · exact hm

theorem State.memOk.evict {s : State} {t : Team} (hm : s.memOk) : (s.evict t).memOk := by
  unfold State.evict
  split
  · exact hm.foldl _ fun _ _ ht => ht.preempt
  · exact hm.preempt

theorem nextOk_execTeamPlacement {grid team : Nat} {s : State} (hm : s.memOk) : NextOk (execTeamPlacement grid team s) := by
  unfold execTeamPlacement
  split
  · exact nextOk hm
  · split
    · exact nextOk (hm.getD fun _ h => hm.placeAll h)
    · split
      · split
        · exact nextOk hm.evict
        · exact nextOk hm
      · exact nextOk hm

theorem nextOk_execTeamSave {s : State} {grid team : Nat} (hm : s.memOk) : NextOk (execTeamSave grid team s) := by
  unfold execTeamSave
  dsimp only
  split
  · exact nextOk hm.saveTeam
  · refine nextOk ?_
    split
    · exact hm.saveTeam
    · exact hm

theorem nextOk_execBudgetExpiry {s : State} {grid team : Nat} (hm : s.memOk) : NextOk (execBudgetExpiry grid team s) := by
  unfold execBudgetExpiry
  dsimp only
  split
  · exact nextOk hm
  · split
    · split <;> exact nextOk hm.saveTeam
    · exact nextOk hm

theorem State.memOk.preemptEntry {s : State} (hm : s.memOk) : s.preemptEntry.memOk := by
  unfold State.preemptEntry
  dsimp only
  split
  · split
    · exact (hm.frameEntry.of_fst ‹_›).setRun.setTeam
    · exact (hm.frameEntry.of_fst ‹_›).setRun
  · split
    · exact (hm.frameEntry.of_fst ‹_›).stopBusy
    · exact (hm.frameEntry.of_fst ‹_›).supTrap
  · exact (hm.frameEntry.of_fst ‹_›).supTrap

theorem nextOk_execStackSpillComplete {s : State} {gid : Nat} (hm : s.memOk) : NextOk (execStackSpillComplete gid s) := by
  unfold execStackSpillComplete
  split
  · split
    · exact nextOk hm.setGroup
    · exact nextOk hm
  · exact nextOk hm

/-! ### Windows of the log -/

theorem State.memOk.writeBurst {s : State} {part ctx seg : Nat} (hm : s.memOk) : (s.writeBurst part ctx seg).memOk := by
  unfold State.writeBurst
  dsimp only
  split
  · exact hm
  · split
    · exact hm
    · exact (State.memOk.of_wf (Memory.foldl_wf hm.1 _ fun _ _ hx => Memory.write_wf hx _ _) hm.2).setCtxLog

theorem State.memOk.flushBursts {s : State} {part ctx : Nat} (hm : s.memOk) : (s.flushBursts part ctx).memOk :=
  hm.foldl _ fun _ _ ht => (ht.foldl _ fun _ _ ht => ht.writeBurst)

theorem State.memOk.drainLog {s : State} {seg : Nat} {p : List (BitVec 512) × Nat → Bool} (hm : s.memOk) : (s.drainLog seg p).memOk :=
  hm.foldl _ fun _ _ ht => ht.writeBurst

theorem State.memOk.pushWindow {s : State} {part ctx : Nat} {c : Ctx} {num : BitVec 16} {auto anch : Bool} (hm : s.memOk) :
    (s.pushWindow part ctx c num auto anch).memOk := hm.setCtxLog.foldl _ fun _ _ ht => ht.mark

theorem State.memOk.openWindow {s : State} {part ctx : Nat} {auto anch : Bool} (hm : s.memOk) :
    (s.openWindow part ctx auto anch).memOk := by
  unfold State.openWindow
  dsimp only
  split
  · exact hm.flushBursts
  · exact hm.flushBursts.pushWindow

theorem nextOk_execAutomaticWindowOpen {s : State} {part ctx : Nat} (hm : s.memOk) : NextOk (execAutomaticWindowOpen part ctx s) := by
  unfold execAutomaticWindowOpen
  refine nextOk ?_
  split
  · exact hm.openWindow
  · exact hm

theorem nextOk_execWmark {s : State} {d : SReg} {_nr : Bool} (hm : s.memOk) : NextOk (execWmark d _nr s) := by
  unfold execWmark
  dsimp only
  split
  · exact nextOk hm.faultExact
  · split
    · exact nextOk hm.faultExact
    · split
      · exact nextOk hm.faultExact
      · exact nextOk hm.charge

theorem State.memOk.spillSnapshot {s : State} {part ctx : Nat} {w : BitVec 16} {cores : List Nat} (hm : s.memOk) :
    (s.spillSnapshot part ctx w cores).memOk := by
  unfold State.spillSnapshot
  refine hm.foldl _ fun _ _ ht => ?_
  split
  · exact ht
  · split
    · exact ht
    · exact ht.setCtxLog

theorem State.memOk.takeSnapshot {s : State} {g : Grid} (hm : s.memOk) : (s.takeSnapshot g).memOk := by
  unfold State.takeSnapshot
  dsimp only
  split
  · exact hm
  · exact hm.setCtxLog.spillSnapshot

theorem State.memOk.leaveMark {s : State} {grid : Nat} {w : Word} (hm : s.memOk) : (s.leaveMark grid w).memOk := hm

theorem nextOk_execWmarkComplete {s : State} {grid : Nat} (hm : s.memOk) : NextOk (execWmarkComplete grid s) := by
  unfold execWmarkComplete
  dsimp only
  split
  · exact nextOk hm
  · split
    · exact nextOk hm
    · split
      · split
        · exact nextOk hm
        · split
          · exact nextOk hm.setGrid.openWindow.leaveMark.takeSnapshot
          · exact nextOk hm
      · exact nextOk hm

/-! ### Submission streams -/

theorem State.memOk.writeStatus {s : State} {n : Nat} {x : Stream} (hm : s.memOk) : (s.writeStatus n x).memOk := by
  unfold State.writeStatus
  split
  · exact State.memOk.of_wf (Memory.write_wf hm.1 _ _) hm.2
  · exact hm

theorem State.memOk.putStream {s : State} {n : Nat} {x : Stream} (hm : s.memOk) : (s.putStream n x).memOk := hm.setStream.writeStatus

theorem State.memOk.rereadSlot {s : State} {n : Nat} (hm : s.memOk) : (s.rereadSlot n).memOk := by
  unfold State.rereadSlot
  dsimp only
  split <;> exact hm

theorem State.memOk.take {s : State} {n : Nat} (hm : s.memOk) : (s.take n).memOk := hm.putStream

theorem State.memOk.mapTaken {s : State} {n seq : Nat} {f : Taken → Taken} (hm : s.memOk) : (s.mapTaken n seq f).memOk := hm

theorem State.memOk.packetDone {s : State} {n seq status : Nat} (hm : s.memOk) : (s.packetDone n seq status).memOk := hm

theorem State.memOk.takeDone {s : State} {n status : Nat} (hm : s.memOk) : (s.takeDone n status).memOk := by
  unfold State.takeDone
  exact hm.take.packetDone

theorem nextOk_execPacketNop {s : State} {n : Nat} (hm : s.memOk) : NextOk (execPacketNop n s) := by
  unfold execPacketNop
  dsimp only
  refine nextOk ?_
  split
  · exact hm.takeDone
  · exact hm

theorem nextOk_execPacketBadpkt {s : State} {n : Nat} (hm : s.memOk) : NextOk (execPacketBadpkt n s) := by
  unfold execPacketBadpkt
  dsimp only
  refine nextOk ?_
  split
  · exact hm.takeDone
  · exact hm

theorem State.memOk.startLaunch {s : State} {n : Nat} {t : Taken} (hm : s.memOk) : (s.startLaunch n t).memOk := by
  unfold State.startLaunch
  dsimp only
  split
  · exact hm.mapWaits ‹_›
  · split
    · exact (hm.launch.of_fst ‹_›).packetDone
    · exact (hm.launch.of_fst ‹_›).mapTaken

theorem nextOk_execPacketLaunch {s : State} {n : Nat} (hm : s.memOk) : NextOk (execPacketLaunch n s) := by
  unfold execPacketLaunch
  dsimp only
  split
  · refine nextOk ?_
    split
    · exact hm.startLaunch
    · exact hm
  · split
    · split
      · refine nextOk ?_
        split
        · exact hm.take.startLaunch
        · exact hm.take
      · exact nextOk hm.take
    · exact nextOk hm

theorem nextOk_execPacketWait {s : State} {n : Nat} (hm : s.memOk) : NextOk (execPacketWait n s) := by
  unfold execPacketWait
  dsimp only
  refine nextOk ?_
  split
  · split
    · exact hm.takeDone
    · exact hm.take
  · exact hm

theorem nextOk_execWaitSatisfied {s : State} {n : Nat} (hm : s.memOk) : NextOk (execWaitSatisfied n s) := by
  unfold execWaitSatisfied
  split
  · refine nextOk ?_
    split <;> exact hm
  · exact nextOk hm

theorem nextOk_execPacketMark {s : State} {n : Nat} (hm : s.memOk) : NextOk (execPacketMark n s) := by
  unfold execPacketMark
  dsimp only
  split
  · exact nextOk hm
  · refine nextOk ?_
    split
    · exact hm.take
    · exact hm

theorem State.memOk.atBound {s : State} {part ctx : Nat} (hm : s.memOk) : (s.atBound part ctx).memOk := by
  unfold State.atBound
  split
  · split <;> exact hm
  · exact hm

theorem nextOk_execCompletionRecordPost {s : State} {n : Nat} (hm : s.memOk) : NextOk (execCompletionRecordPost n s) := by
  unfold execCompletionRecordPost
  dsimp only
  split
  · exact nextOk hm
  · split
    · exact nextOk hm
    · exact nextOk (State.memOk.of_wf (Memory.write_wf hm.1 _ _) hm.2).putStream.mark.atBound

theorem nextOk_execStreamEntryWrite {s : State} {n word : Nat} {value : Word} (hm : s.memOk) :
    NextOk (execStreamEntryWrite n word value s) := by
  unfold execStreamEntryWrite
  refine nextOk ?_
  split
  · exact hm.writeStream
  · exact hm

theorem State.memOk.dropInv {s : State} {grid : Nat} (hm : s.memOk) : (s.dropInv grid).memOk := hm.foldl _ fun _ _ ht => ht

theorem State.memOk.tellLaunch {s : State} {g : Grid} {status : Nat} (hm : s.memOk) : (s.tellLaunch g status).memOk := by
  unfold State.tellLaunch
  dsimp only
  split
  · split
    · exact hm.finishCmd
    · exact hm
  · exact hm

theorem nextOk_execGridComplete {s : State} {grid : Nat} (hm : s.memOk) : NextOk (execGridComplete grid s) := by
  unfold execGridComplete
  dsimp only
  split
  · exact nextOk hm
  · split
    · exact nextOk hm
    · split
      · split
        · exact nextOk hm.logFull
        · exact nextOk hm
      · exact nextOk hm.roundCells.dropInv.frame.tellLaunch

end Sys2Proof.Machine
end

section
/-! SUPPORT and CERTIFICATES. What keeps memory canonical: the balance machinery, fetch, links, issue, rewinds and system operations (log 2). -/

set_option Elab.async false

namespace Sys2Proof.Machine

/-! ### The balance machinery -/

theorem nextOk_execBalCeil {s : State} {x : TOp} (hm : s.memOk) : NextOk (execBalCeil x s) := by
  unfold execBalCeil
  dsimp only
  refine nextOk (State.memOk.done ?_)
  split <;> exact hm

theorem nextOk_execBalRequestLapse {s : State} {gid : Nat} (hm : s.memOk) : NextOk (execBalRequestLapse gid s) := by
  unfold execBalRequestLapse
  dsimp only
  split
  · exact nextOk hm
  · exact nextOk hm.setGroup

theorem State.memOk.flueTrap {s : State} {k : Nat} {f : Nat} (hm : s.memOk) : (State.flueTrap k s f).memOk := by
  unfold State.flueTrap
  dsimp only
  split <;> exact hm

theorem State.memOk.clusterTrap {s : State} {k : Nat} (hm : s.memOk) : (s.clusterTrap k).memOk := by
  unfold State.clusterTrap
  dsimp only
  split
  · exact hm.foldl _ fun _ _ ht => ht
  · exact hm

theorem State.memOk.dampSample {s : State} {k : Nat} {i : Nat} (hm : s.memOk) : (State.dampSample k s i).memOk := hm

theorem State.memOk.settings {s : State} {k : Nat} {f : Nat} (hm : s.memOk) : (State.settings k s f).memOk := hm

theorem nextOk_execBalanceSample {s : State} {k : Nat} {raw : List Int} (hm : s.memOk) : NextOk (execBalanceSample k raw s) := by
  unfold execBalanceSample
  split
  · exact nextOk hm
  · extract_lets s1 s2 s3 s4
    have h2 : s2.memOk := (hm.setCluster.foldl _ fun _ _ ht => ht.flueTrap).clusterTrap
    have h4 : s4.memOk := (h2.foldl _ fun _ _ ht => ht.dampSample).foldl _ fun _ _ ht => ht.settings
    exact nextOk h4.setCluster

theorem nextOk_execHalfActiveFlue {cluster flue : Nat} {s : State} (hm : s.memOk) : NextOk (execHalfActiveFlue cluster flue s) := by
  unfold execHalfActiveFlue
  extract_lets u act
  have hact (n mate : Nat) : (act n mate).memOk := by
    dsimp only [act]
    split
    · split
      · exact hm.getD fun _ h => hm.placeAll h
      · split
        · exact hm.setCore
        · exact hm
    · exact hm
  refine nextOk ?_
  split
  · exact hact _ _
  · split
    · exact hact _ _
    · exact hm

theorem nextOk_execFrequencyStep {s : State} {k : Nat} {headroom : Bool} (hm : s.memOk) : NextOk (execFrequencyStep k headroom s) := by
  unfold execFrequencyStep
  dsimp only
  refine nextOk ?_
  split
  · exact hm
  · split <;> exact hm

theorem nextOk_execThermalStateChange {s : State} {stack : Nat} {next : Thermal} (hm : s.memOk) :
    NextOk (execThermalStateChange stack next s) := by
  unfold execThermalStateChange
  dsimp only
  split
  · exact nextOk hm
  · exact nextOk (hm.setStk.foldl _ fun _ _ ht => ht)

/-! ### Cross-lane completions -/

theorem nextOk_execGred {s : State} {ty : Ty} {op : RedOp} {sat : Bool} {d : RedDst} {a : RegNo} {nr : Bool} (hm : s.memOk) :
    NextOk (execGred ty op sat d a nr s) := by
  unfold execGred
  dsimp only
  refine nextOk_checked hm ?_
  split
  · exact hm
  · split <;> exact hm.done

/-! ### The fetch -/

theorem State.memOk.fetch {s : State} (hm : s.memOk) : s.fetch.1.memOk := s.served_fetch.memOk hm

theorem State.memOk.nextClause {s : State} (hm : s.memOk) : s.nextClause.1.memOk := s.served_nextClause.memOk hm

/-! ### Snapshots and samples -/

theorem nextOk_execSnap {s : State} {d : SReg} {_nr : Bool} (hm : s.memOk) : NextOk (execSnap d _nr s) := by
  unfold execSnap
  dsimp only
  refine nextOk (State.memOk.done ?_)
  split
  · split
    · exact hm.snapTrigger
    · exact hm
  · split
    · split
      · exact hm.snapTrigger
      · exact hm
    · split
      · exact hm.snapTrigger
      · exact hm

theorem State.memOk.send {s : State} {m : OutMsg} (hm : s.memOk) : (s.send m).memOk := hm

theorem State.memOk.hostReads {s : State} {r : State × Word} (hm : s.memOk) (hr : r.1.memOk) : (s.hostReads r).memOk := by
  unfold State.hostReads
  split
  · exact hr.send
  · exact hm.send

theorem nextOk_execHostSnapshotTrigger {s : State} (hm : s.memOk) : NextOk (execHostSnapshotTrigger s) := by
  unfold execHostSnapshotTrigger
  refine nextOk ?_
  split
  · exact hm.snapTrigger
  · exact hm

theorem nextOk_execSnapshotArm {s : State} (hm : s.memOk) : NextOk (execSnapshotArm s) := by
  unfold execSnapshotArm
  dsimp only
  refine nextOk ?_
  split <;> exact hm

theorem State.memOk.putSample {s : State} {g : Group} (hm : s.memOk) : (s.putSample g).memOk := by
  unfold State.putSample
  dsimp only
  split
  · exact hm
  · split
    · exact hm
    · exact State.memOk.of_wf (Memory.write_wf hm.1 _ _) hm.2

theorem State.memOk.sampleNext {s : State} {n : Nat} {x : Nat × Nat} (hm : s.memOk) : (State.sampleNext n s x).memOk := by
  unfold State.sampleNext
  dsimp only
  split
  · exact hm
  · exact hm.setCore.putSample

/-! ### Floating-point completions -/

theorem nextOk_execFcmp {s : State} {ty : Ty} {cond : FCond} {d : CmpDst} {a : RegNo} {b : Opnd} {m : VMode} (hm : s.memOk) :
    NextOk (execFcmp ty cond d a b m s) := by
  unfold execFcmp
  dsimp only
  refine nextOk_checked hm ?_
  split
  · exact hm.maskDone
  · exact hm

theorem nextOk_execFcls {s : State} {ty : Ty} {d : CmpDst} {a : RegNo} {set : SPos} {m : VMode} (hm : s.memOk) :
    NextOk (execFcls ty d a set m s) := by
  unfold execFcls
  dsimp only
  refine nextOk_checked hm ?_
  split
  · exact hm.maskDone
  · exact hm

theorem nextOk_execKrnd {s : State} {ty : Ty} {rm : Rm} {sat clr : Bool} {k : BitVec 2} {d : RedDst} {nr : Bool} (hm : s.memOk) :
    NextOk (execKrnd ty rm sat clr k d nr s) := by
  unfold execKrnd
  dsimp only
  refine nextOk_checked hm ?_
  split
  · exact hm
  · exact hm.done

/-! ### Host and peers -/

theorem State.memOk.served {s : State} {i : Instr} {pa n : Nat} {f : State → State} (hm : s.memOk) (hf : (f s).memOk) :
    (s.served i pa n f).memOk := by
  unfold State.served
  split
  · exact hm
  · exact hf

theorem nextOk_execHostCxlMemRead {s : State} {pa n : Nat} (hm : s.memOk) : NextOk (execHostCxlMemRead pa n s) := by
  unfold execHostCxlMemRead
  refine nextOk ?_
  split
  · exact hm.hostReads hm.mmioRead
  · exact hm.served hm.send

theorem nextOk_execFwctlGo {s : State} {verified : Bool} (hm : s.memOk) : NextOk (execFwctlGo verified s) := by
  unfold execFwctlGo
  refine nextOk ?_
  split
  · exact hm.startUpdate
  · exact hm

theorem nextOk_execLiveUpdateHeartbeat {s : State} (hm : s.memOk) : NextOk (execLiveUpdateHeartbeat s) := by
  unfold execLiveUpdateHeartbeat
  dsimp only
  split
  · refine nextOk ?_
    split <;> exact hm
  · exact nextOk hm

theorem nextOk_execLiveUpdateTimeout {s : State} (hm : s.memOk) : NextOk (execLiveUpdateTimeout s) := by
  unfold execLiveUpdateTimeout
  dsimp only
  split
  · refine nextOk ?_
    split <;> exact hm
  · exact nextOk hm

theorem nextOk_execHeartbeat {s : State} (hm : s.memOk) : NextOk (execHeartbeat s) := by
  unfold execHeartbeat
  dsimp only
  refine nextOk ?_
  split <;> exact hm

theorem State.memOk.peerMakes {s : State} {dev : Nat} {x0 : PeerReq} (hm : s.memOk) : (s.peerMakes dev x0).1.memOk := by
  unfold State.peerMakes
  dsimp only
  split
  · exact hm
  · exact State.memOk.of_wf (Memory.write_wf hm.1 _ _) hm.2
  · exact State.memOk.of_wf (Memory.write_wf hm.1 _ _) hm.2
  · exact State.memOk.of_wf (Memory.write_wf hm.1 _ _) hm.2
  · exact State.memOk.of_wf (Memory.write_wf hm.1 _ _) hm.2
  · exact hm
  · exact hm

theorem nextOk_execPeerRequest {s : State} {dev : Nat} {req : PeerReq} (hm : s.memOk) : NextOk (execPeerRequest dev req s) := by
  unfold execPeerRequest
  dsimp only
  refine nextOk ?_
  split
  · exact hm
  · split
    · exact hm.served hm.peerMakes.send
    · exact hm
  · exact hm

theorem nextOk_spdmSay {s : State} {code : Nat} {body : List Nat} (hm : s.memOk) : NextOk (s.spdmSay code body) := nextOk hm

theorem State.memOk.setSpdm {s : State} {x : Spdm} (hm : s.memOk) : (s.setSpdm x).memOk := hm

theorem nextOk_execFinish {s : State} (hm : s.memOk) : NextOk (execFinish s) := by
  unfold execFinish
  dsimp only
  split
  · exact nextOk_spdmSay hm.setSpdm
  · exact nextOk_spdmSay hm

theorem nextOk_execIdeKm {s : State} {key : BitVec 256} (hm : s.memOk) : NextOk (execIdeKm key s) := by
  unfold execIdeKm
  dsimp only
  split
  · exact nextOk_spdmSay hm.setSpdm
  · exact nextOk_spdmSay hm

theorem State.memOk.bringUp {s : State} (hm : s.memOk) : s.bringUp.memOk := by
  unfold State.bringUp
  dsimp only
  split
  · exact hm
  · exact hm.frame.deviceError

/-- A reset keeps memory, and empties scratchpad (R406). -/
theorem nextOk_execDeviceReset {s : State} (hm : s.memOk) : NextOk (execDeviceReset s) :=
  nextOk (State.memOk.bringUp ⟨hm.1, Memory.wf_nil⟩)

/-! ### What comes before an instruction -/

theorem nextOk_execPromote {s : State} {core slice line : Nat} (hm : s.memOk) : NextOk (execPromote core slice line s) := by
  unfold execPromote
  dsimp only
  refine nextOk ?_
  split <;> exact hm.drainBuf

theorem State.memOk.enterLanes {s : State} {i : Instr} (hm : s.memOk) : (s.enterLanes i).memOk := by
  unfold State.enterLanes
  dsimp only
  split
  · split
    · refine State.memOk.foldl_fst hm _ fun p l hp => ?_
      split
      · exact hp
      · exact hp.stLane.setRun
    · exact hm
  · exact hm

theorem State.memOk.takeBack {s : State} {pc : Addr} {done : Lane} (hm : s.memOk) : (s.takeBack pc done).memOk := by
  unfold State.takeBack
  dsimp only
  split
  · exact hm
  · refine State.memOk.setRun ?_
    split
    · split
      · exact hm
      · exact hm.foldl _ fun _ _ ht => ht.writeResult
    · exact hm

theorem State.memOk.peerLost {s : State} {gid : Nat} {lost : List PeerReqOut} (hm : s.memOk) : (s.peerLost gid lost).memOk := by
  unfold State.peerLost
  dsimp only
  split
  · exact hm
  · split
    · exact hm
    · refine hm.as fun _ ht => ?_
      split
      · exact ht
      · split
        · exact ht
        · exact ht.setRun.takeBack.memFault

theorem State.memOk.reroute {s : State} {port : Nat} (hm : s.memOk) : (s.reroute port).memOk :=
  (State.memOk.of_wf (Memory.foldl_wf hm.1 _ fun _ _ hx => Memory.write_wf hx _ _) hm.2).foldl _ fun _ _ ht => ht.peerLost

theorem nextOk_execFlitReplay {s : State} {port : Nat} {ok : Bool} (hm : s.memOk) : NextOk (execFlitReplay port ok s) := by
  unfold execFlitReplay
  dsimp only
  refine nextOk ?_
  split
  · split
    · exact hm.frame.reroute
    · exact hm
  · split
    · exact hm.frame.reroute
    · exact hm

theorem State.memOk.evwtLoads {s : State} {g : Group} {k : Group → Nat → Group} (hm : s.memOk) : (s.evwtLoads g k).memOk := by
  unfold State.evwtLoads
  dsimp only
  split
  · split
    · exact (hm.evwtRead.of_fst ‹_›).setRun.memFault
    · exact (hm.evwtRead.of_fst ‹_›).setRun
  · exact hm

theorem State.memOk.evwtReread {s : State} {gid : Nat} (hm : s.memOk) : (s.evwtReread gid).memOk := by
  unfold State.evwtReread
  split
  · exact hm
  · split
    · split
      · exact hm
      · refine hm.as fun _ ht => ?_
        split
        · split
          · exact ht
          · exact ht.evwtLoads
        · split
          · exact ht
          · exact ht.evwtLoads
    · exact hm

theorem nextOk_execEvwtTimeout {s : State} {gid : Nat} (hm : s.memOk) : NextOk (execEvwtTimeout gid s) := by
  unfold execEvwtTimeout
  split
  · exact nextOk hm
  · split
    · refine nextOk ?_
      split
      · exact hm.as fun _ ht => ht.evwtLoads
      · exact hm
    · exact nextOk hm

/-! ### Issue -/

theorem State.memOk.load {s : State} {g : Group} (hm : s.memOk) : (s.load g).memOk := hm

theorem State.memOk.unload {s : State} (hm : s.memOk) : s.unload.memOk := hm

theorem State.memOk.begin {s : State} {i : Instr} (hm : s.memOk) : (s.begin i).memOk := hm

theorem State.memOk.enterClause {s : State} (hm : s.memOk) : s.enterClause.memOk := by
  unfold State.enterClause
  dsimp only
  split
  · exact (hm.nextClause.of_fst ‹_›).takeTrap
  · split
    · refine State.memOk.charge ?_
      split
      · exact (hm.nextClause.of_fst ‹_›).setRun.setCore
      · exact (hm.nextClause.of_fst ‹_›).setRun
    · split
      · exact (hm.nextClause.of_fst ‹_›).setRun.setCore
      · exact (hm.nextClause.of_fst ‹_›).setRun

theorem State.memOk.leave {s : State} (hm : s.memOk) : s.leave.memOk := by
  unfold State.leave
  dsimp only
  split
  · exact hm.countCycles
  · split
    · exact hm
    · split
      · split
        · exact (hm.fetch.of_fst ‹_›).unload
        · exact (hm.fetch.of_fst ‹_›).takeTrap
      · exact (hm.fetch.of_fst ‹_›).setRun.unload

theorem State.memOk.chosen {s : State} {g : Group} {others : List Group} (hm : s.memOk) : (s.chosen g others).memOk := hm

theorem State.memOk.issue {s : State} {g : Group} {e : Entry} {others : List Group} (hm : s.memOk) : (s.issue g e others).memOk := by
  unfold State.issue
  dsimp only
  split
  · refine State.memOk.load ?_
    split <;> exact hm
  · refine (State.memOk.load ?_).preemptEntry.leave
    split <;> exact hm
  · split
    · split
      · exact hm.load.enterClause.leave
      · exact hm.load.enterClause
    · split
      · exact hm.chosen.load.enterClause.leave
      · exact hm.chosen.load.enterClause

theorem nextOk_execClauseSelect {s : State} {core pipe : Nat} (hm : s.memOk) : NextOk (execClauseSelect core pipe s) := by
  unfold execClauseSelect
  split
  · exact nextOk hm
  · split
    · exact nextOk hm
    · exact nextOk hm.issue

theorem State.memOk.fullStall {s : State} {part ctx : Nat} (hm : s.memOk) : (s.fullStall part ctx).memOk := by
  unfold State.fullStall
  dsimp only
  split
  · exact hm
  · split <;> exact hm.logFull

/-! ### Rewinds -/

/-- A privileged instruction (R393). -/
theorem nextOk_privileged {s : State} {k : State → Host.Outcome State Fault Refusal} (hm : s.memOk) (hk : NextOk (k s)) :
    NextOk (s.privileged k) := by
  unfold State.privileged
  split
  · exact hk
  · exact nextOk hm.takeTrap

theorem State.memOk.setStates {s : State} {ns : List Nat} {st : Nat} (hm : s.memOk) : (s.setStates ns st).memOk :=
  hm.foldl _ fun _ _ ht => ht

theorem State.memOk.beginRewind {s : State} {part ctx : Nat} {t : BitVec 16} {issuer : Nat} (hm : s.memOk) :
    (s.beginRewind part ctx t issuer).memOk := by
  unfold State.beginRewind
  dsimp only
  split
  · exact hm
  · exact hm.setStates.setCtxLog.saveShadows

theorem nextOk_execRwnd {s : State} {force : Bool} {d a b : SReg} (hm : s.memOk) : NextOk (execRwnd force d a b s) := by
  unfold execRwnd
  dsimp only
  refine nextOk_privileged hm ?_
  split
  · exact nextOk hm.done
  · exact nextOk hm.charge.beginRewind

theorem nextOk_execRwndChk {s : State} {d a b : SReg} (hm : s.memOk) : NextOk (execRwndChk d a b s) :=
  nextOk_privileged hm (nextOk hm.done)

theorem nextOk_execRwndCmt {s : State} {d a : SReg} (hm : s.memOk) : NextOk (execRwndCmt d a s) := by
  unfold execRwndCmt
  dsimp only
  refine nextOk_privileged hm ?_
  split
  · exact nextOk hm.done
  · split
    · exact nextOk hm.done
    · split
      · exact nextOk hm.done
      · exact nextOk hm.pushWindow.done

theorem State.memOk.cancelCmds {s : State} {p : Cmd → Bool} {status : Nat} (hm : s.memOk) : (s.cancelCmds p status).memOk := by
  unfold State.cancelCmds
  dsimp only
  refine (hm.frame.foldl _ fun _ _ ht => ht.setEngine).foldl _ fun _ _ ht => ?_
  split
  · exact ht
  · exact ht.finishCmd

theorem State.memOk.flushCtx {s : State} {part ctx : Nat} (hm : s.memOk) : (s.flushCtx part ctx).memOk :=
  hm.foldl _ fun _ _ ht => ht.drainBuf

theorem State.memOk.flushRest {s : State} {part ctx : Nat} (hm : s.memOk) : (s.flushRest part ctx).memOk :=
  hm.foldl _ fun _ _ ht => (ht.setCore.foldl _ fun _ _ ht => ht.perform)

theorem State.memOk.dropCells {s : State} {ids : List Nat} (hm : s.memOk) : (s.dropCells ids).memOk := hm

theorem State.memOk.dropCtxInv {s : State} {part ctx : Nat} (hm : s.memOk) : (s.dropCtxInv part ctx).memOk :=
  hm.foldl _ fun _ _ ht => ht

theorem State.memOk.discardCtx {s : State} {part ctx status : Nat} {keep : Option Nat} (hm : s.memOk) :
    (s.discardCtx part ctx status keep).memOk := by
  unfold State.discardCtx
  extract_lets gs ids s1 s2 s3 s4
  have h1 : s1.memOk := hm.cancelCmds.flushCtx.flushRest
  clear_value s1
  have h2 : s2.memOk := h1.foldl _ fun _ _ ht => ht.discardTeam
  clear_value s2
  have h3 : s3.memOk := h2.dropCells.dropCtxInv.dropScales
  clear_value s3
  have h4 : s4.memOk := h3
  exact h4.foldl _ fun _ _ ht => ht.tellLaunch

theorem State.memOk.undo {s : State} {c : Ctx} {nums : List (BitVec 16)} (hm : s.memOk) : (s.undo c nums).memOk :=
  State.memOk.of_wf (Memory.foldl_wf hm.1 _ fun _ _ hx => Memory.write_wf hx _ _) hm.2

theorem State.memOk.rewindStream {s : State} {part ctx n q : Nat} (hm : s.memOk) : (s.rewindStream part ctx n q).memOk := by
  unfold State.rewindStream
  dsimp only
  split
  · exact hm
  · exact hm.putStream

theorem State.memOk.rebuildGroup {s : State} {g : Group} {slot block : Nat} (hm : s.memOk) : (s.rebuildGroup g slot block).memOk :=
  hm.frame.as fun _ ht => (ht.foldl _ fun _ _ ht => ht.writeResult)

theorem State.memOk.rebuildTeam {s : State} {p : Snapshot} {t : Team} {u : State} (hm : s.memOk) (e : s.rebuildTeam p t = some u) :
    u.memOk := by
  unfold State.rebuildTeam at e
  obtain ⟨x, -, rfl⟩ := Option.map_eq_some_iff.1 e
  extract_lets key k base cells s1 gs
  have h1 : s1.memOk := ⟨hm.1, Memory.foldl_wf (Memory.clear_wf hm.2 _ _) _ fun m c h => Memory.set_wf h _ _⟩
  exact h1.foldl _ fun _ _ ht => ht.rebuildGroup

theorem State.memOk.rebuildTeams {s : State} {p : Snapshot} {ts : List Team} {u : State} (hm : s.memOk)
    (e : s.rebuildTeams p ts = some u) : u.memOk := by
  induction ts generalizing s with
  | nil => cases e; exact hm
  | cons t ts ih =>
    obtain ⟨s1, h1, h2⟩ := Option.bind_eq_some_iff.1 e
    exact ih (hm.rebuildTeam h1) h2

theorem State.memOk.retake {s : State} {g : Grid} (hm : s.memOk) : (s.retake g).memOk := by
  unfold State.retake
  dsimp only
  split
  · exact hm
  · split <;> exact hm

theorem State.memOk.rebuild {s : State} {p : Snapshot} {u : State} (hm : s.memOk) (e : s.rebuild p = some u) : u.memOk := by
  unfold State.rebuild at e
  obtain ⟨s1, h1, rfl⟩ := Option.map_eq_some_iff.1 e
  exact ((hm.rebuildTeams h1).setGrid.retake.foldl _ fun t f ht => ht.setBank).foldl _ fun t c ht => ht.setSlice

theorem State.memOk.restartStreams {s : State} {part ctx : Nat} (hm : s.memOk) : (s.restartStreams part ctx).memOk := by
  unfold State.restartStreams
  dsimp only
  split
  · exact hm
  · exact hm.setStates

theorem State.memOk.tellRewind {s : State} {part ctx issuer n : Nat} (hm : s.memOk) : (s.tellRewind part ctx issuer n).memOk := by
  unfold State.tellRewind
  split
  · exact hm.restartStreams
  · split
    · split
      · exact hm.setGroup
      · exact hm
    · exact hm

theorem nextOk_execRewindFinish {part ctx : Nat} {s : State} (hm : s.memOk) : NextOk (execRewindFinish part ctx s) := by
  unfold execRewindFinish
  split
  · exact nextOk hm
  split
  · exact nextOk hm
  split
  · exact nextOk hm
  split
  · exact nextOk hm
  dsimp only
  split
  · exact nextOk hm.flushCtx
  split
  · exact nextOk hm.flushCtx.discardCtx.flushBursts
  split
  · exact nextOk hm.flushCtx.discardCtx.flushBursts.undo
  · rename_i s3 h3
    have hs3 : s3.memOk := by
      split at h3
      · exact hm.flushCtx.discardCtx.flushBursts.undo.rebuild h3
      · cases h3
        exact hm.flushCtx.discardCtx.flushBursts.undo
    refine nextOk (State.memOk.setCtxLog ?_).tellRewind
    split
    · exact hs3.foldl _ fun _ _ ht => ht.rewindStream
    · exact hs3

/-! ### Scalar completions -/

theorem State.memOk.scalar {s : State} {d : SPos} {x : Word} (hm : s.memOk) : (s.scalar d x).memOk := hm.done

theorem State.memOk.writeCtl {s : State} {c : Ctl} {v : Word} (hm : s.memOk) : (s.writeCtl c v).memOk := by
  unfold State.writeCtl
  dsimp only
  split
  · split <;> exact hm
  · exact hm
  · exact hm
  · split <;> exact hm
  · split <;> exact hm
  · exact hm
  · exact hm

theorem nextOk_execSrd {s : State} {sel : Sel} {d : SrdDst} {nr : Bool} (hm : s.memOk) : NextOk (execSrd sel d nr s) := by
  unfold execSrd
  dsimp only
  split
  · exact nextOk hm.scalar
  · exact nextOk_checked hm hm

/-! ### System operations -/

theorem nextOk_tlbi {s : State} {form lo len asid : Nat} (hm : s.memOk) : NextOk (s.tlbi form lo len asid) :=
  nextOk_privileged hm (nextOk hm.charge)

theorem State.memOk.dropTlb {s : State} {form lo len asid : Nat} (hm : s.memOk) : (s.dropTlb form lo len asid).memOk := hm

theorem State.memOk.drainAll {s : State} (hm : s.memOk) : s.drainAll.memOk := hm.foldl _ fun _ _ ht => ht.drainBuf

theorem nextOk_execTlbiComplete {s : State} {gid : Nat} (hm : s.memOk) : NextOk (execTlbiComplete gid s) := by
  unfold execTlbiComplete
  dsimp only
  split
  · exact nextOk hm
  · split
    · refine nextOk ?_
      split
      · exact hm.drainAll
      · exact hm.drainAll.dropTlb.setGroup
    · exact nextOk hm

theorem nextOk_execTranslationWalk {s : State} {core asid va : Nat} {write : Bool} (hm : s.memOk) :
    NextOk (execTranslationWalk core asid va write s) := by
  unfold execTranslationWalk
  dsimp only
  split
  · exact nextOk hm.walkInstall
  · exact nextOk hm

theorem State.memOk.answer {s : State} {d : SReg} {status : Nat} (hm : s.memOk) : (s.answer d status).memOk := hm.done

theorem nextOk_ctxOp {s : State} {d a : SReg} {live : Bool} {k : State → Nat → Nat → State} (hm : s.memOk)
    (hk : ∀ p x, (k s p x).memOk) : NextOk (s.ctxOp d a live k) := by
  unfold State.ctxOp
  refine nextOk_privileged hm ?_
  dsimp only
  split
  · exact nextOk hm.answer
  · exact nextOk (hk _ _)

theorem State.memOk.saveCtx {s : State} {part ctx : Nat} (hm : s.memOk) : (s.saveCtx part ctx).memOk :=
  hm.foldl _ fun _ _ ht => ht.saveTeam

theorem State.memOk.awaitSaves {s : State} {d : SReg} {part ctx : Nat} {keys : List Nat} (hm : s.memOk) :
    (s.awaitSaves d part ctx keys).memOk := by
  unfold State.awaitSaves
  dsimp only
  split
  · exact hm.charge
  · exact hm.answer

theorem nextOk_execCtxsStop {s : State} {d a : SReg} (hm : s.memOk) : NextOk (execCtxsStop d a s) := by
  unfold execCtxsStop
  dsimp only
  refine nextOk_ctxOp hm fun p x => ?_
  split
  · exact hm.charge
  · exact hm

theorem nextOk_execCtxsSave {s : State} {d a : SReg} (hm : s.memOk) : NextOk (execCtxsSave d a s) :=
  nextOk_ctxOp hm fun _ _ => hm.saveCtx.saveShadows.awaitSaves

theorem nextOk_execCtxsEvict {s : State} {d a : SReg} (hm : s.memOk) : NextOk (execCtxsEvict d a s) :=
  nextOk_ctxOp hm fun _ _ => (hm.foldl _ fun _ _ ht => ht.preempt).saveShadows.awaitSaves

theorem nextOk_execCtxsTeam {s : State} {d a b : SReg} (hm : s.memOk) : NextOk (execCtxsTeam d a b s) := by
  unfold execCtxsTeam
  dsimp only
  refine nextOk_ctxOp hm fun p x => ?_
  split
  · exact hm.saveTeam.saveShadows.awaitSaves
  · exact hm.answer

theorem nextOk_execContextStopComplete {s : State} {part ctx : Nat} (hm : s.memOk) : NextOk (execContextStopComplete part ctx s) := by
  unfold execContextStopComplete
  dsimp only
  split
  · exact nextOk hm
  · split
    · exact nextOk hm
    · split
      · split
        · split <;> exact nextOk hm.saveCtx.saveShadows
        · exact nextOk hm.saveCtx.saveShadows
      · exact nextOk hm

theorem State.memOk.createCtx {s : State} {part ctx : Nat} {d : Vector Word 16} (hm : s.memOk) : (s.createCtx part ctx d).memOk := by
  unfold State.createCtx
  dsimp only
  split
  · exact (State.memOk.of_wf (Memory.words_wf hm.1 _ _) hm.2).pushWindow
  · exact hm

theorem nextOk_execCtxlCreate {s : State} {d a b : SReg} (hm : s.memOk) : NextOk (execCtxlCreate d a b s) := by
  unfold execCtxlCreate
  dsimp only
  refine nextOk_privileged hm ?_
  split
  · exact nextOk hm.answer
  · split
    · exact nextOk hm.answer
    · split
      · exact nextOk hm.answer
      · exact nextOk hm.answer
      · split
        · exact nextOk hm.createCtx.answer
        · exact nextOk hm.answer

theorem nextOk_execCtxlUpd {s : State} {d a b : SReg} (hm : s.memOk) : NextOk (execCtxlUpd d a b s) := by
  unfold execCtxlUpd
  dsimp only
  refine nextOk_ctxOp hm fun p x => ?_
  split
  · split
    · exact hm.setCtxLog.answer
    · exact hm.answer
  · exact hm.answer

theorem State.memOk.restart {s : State} {g : Group} (hm : s.memOk) : (s.restart g).memOk := by
  unfold State.restart
  dsimp only
  split
  · exact hm.setGroup
  · split <;> exact hm.setGroup
  · exact hm

theorem nextOk_execCtxlResume {s : State} {d a : SReg} (hm : s.memOk) : NextOk (execCtxlResume d a s) := by
  unfold execCtxlResume
  dsimp only
  refine nextOk_ctxOp hm fun p x => ?_
  split
  · exact hm.answer
  · exact ((hm.loadShadows.restartStreams.foldl _ fun _ _ ht => ht.restart).foldl _ fun _ _ ht => ht.thaw).answer

theorem State.memOk.killPackets {s : State} {n k : Nat} (hm : s.memOk) : (s.killPackets n k).memOk := by
  induction k generalizing s with
  | zero => exact hm
  | succ k ih =>
    unfold State.killPackets
    split
    · exact ih hm.takeDone
    · exact hm

theorem State.memOk.killTaken {s : State} {n : Nat} (hm : s.memOk) : (s.killTaken n).memOk := hm.foldl _ fun _ _ ht => ht

theorem State.memOk.dropReuse {s : State} {p : Nat → Nat → Nat → Bool} (hm : s.memOk) : (s.dropReuse p).memOk :=
  hm.foldl _ fun _ _ ht => ht

theorem State.memOk.killCtx {s : State} {part ctx cause seq : Nat} (hm : s.memOk) : (s.killCtx part ctx cause seq).memOk :=
  (hm.setStates.discardCtx.foldl _ fun _ _ ht => ht.killTaken.killPackets).dropReuse.frame.freeAll

theorem nextOk_execCtxlKill {s : State} {d a : SReg} (hm : s.memOk) : NextOk (execCtxlKill d a s) :=
  nextOk_ctxOp hm fun _ _ => hm.killCtx.answer

theorem nextOk_execCtxlEres {s : State} {d a : SReg} (hm : s.memOk) : NextOk (execCtxlEres d a s) :=
  nextOk_ctxOp hm fun _ _ => ((hm.foldl _ fun _ _ ht => ht.setCmd).mapMx.foldl _ fun _ _ ht => ht.mxRefresh).answer

theorem nextOk_execCtxlEfail {s : State} {d a : SReg} (hm : s.memOk) : NextOk (execCtxlEfail d a s) :=
  nextOk_ctxOp hm fun _ _ => ((hm.foldl _ fun _ _ ht => ht.finishCmd).foldl _ fun _ _ ht => ht.deferFault.freeEntry).mxRefreshAll.answer

theorem nextOk_execTret {s : State} (hm : s.memOk) : NextOk (execTret s) := nextOk_privileged hm (nextOk hm.trapReturn)

theorem nextOk_execPrack {s : State} {mat : Bool} {b : SReg} (hm : s.memOk) : NextOk (execPrack mat b s) := by
  unfold execPrack
  dsimp only
  split
  · exact nextOk hm.done
  · exact nextOk hm.faultExact

theorem State.memOk.moveBanks {s : State} {k part : Nat} {mask : Word} (hm : s.memOk) : (s.moveBanks k part mask).memOk := by
  unfold State.moveBanks
  dsimp only
  refine hm.foldl _ fun _ _ ht => ?_
  split
  · exact ht.leaveCache
  · exact ht

theorem State.memOk.change {s : State} {w v : Word} {t : State} (hm : s.memOk) (e : s.change w v = .ok t) : t.memOk := by
  unfold State.change at e
  dsimp only at e
  split at e
  · cases e
  split at e
  · cases e
  split at e
  · split at e
    · cases e
    split at e
    · cases e
    cases e
    split
    · exact State.memOk.dropReuse hm
    · exact hm
  split at e
  · split at e
    · cases e
    · cases e
      exact hm
  split at e
  · split at e
    · cases e
    · cases e
      exact hm.moveBanks
  · split at e
    · cases e
      exact hm.setCluster
    · cases e

theorem State.memOk.changes {s : State} {i : Nat} {xs : List (Word × Word)} {t : State} (hm : s.memOk) (e : s.changes i xs = .ok t) :
    t.memOk := by
  induction xs generalizing s i with
  | nil =>
    unfold State.changes at e
    split at e
    · cases e
    · cases e
      exact hm
  | cons x xs ih =>
    unfold State.changes at e
    split at e
    · cases e
    · exact ih (hm.change ‹_›) e

theorem nextOk_execPcfg {s : State} {d a b : SReg} (hm : s.memOk) : NextOk (execPcfg d a b s) := by
  unfold execPcfg
  dsimp only
  refine nextOk_privileged hm ?_
  split
  · exact nextOk hm.answer
  · split
    · exact nextOk hm.answer
    · split
      · exact nextOk hm.answer
      · exact nextOk (hm.changes ‹_›).answer

theorem nextOk_execHalt {s : State} (hm : s.memOk) : NextOk (execHalt s) := by
  unfold execHalt
  dsimp only
  refine nextOk_privileged hm ?_
  split
  · exact nextOk hm.faultExact
  · exact nextOk hm.charge

theorem nextOk_execHaltOff {s : State} {d a : SReg} (hm : s.memOk) : NextOk (execHaltOff d a s) := by
  unfold execHaltOff
  dsimp only
  refine nextOk_privileged hm ?_
  split
  · exact nextOk hm.answer
  · exact nextOk (hm.charge.setRun.setCore.foldl _ fun _ _ ht => ht.saveTeam)

theorem nextOk_execHaltOn {s : State} {d a : SReg} (hm : s.memOk) : NextOk (execHaltOn d a s) := by
  unfold execHaltOn
  dsimp only
  refine nextOk_privileged hm ?_
  split
  · exact nextOk hm.answer
  · exact nextOk hm.setCore.answer

theorem State.memOk.rollback {s : State} {part ctx : Nat} {t : Option (BitVec 16)} (hm : s.memOk) : (s.rollback part ctx t).memOk := by
  unfold State.rollback
  dsimp only
  split
  · exact hm
  · exact hm.killCtx
  · split
    · exact hm.killCtx
    · exact hm.beginRewind

theorem State.memOk.dropCopy {s : State} {x0 : CleanCopy} (hm : s.memOk) : (s.dropCopy x0).memOk := by
  unfold State.dropCopy
  dsimp only
  split
  · exact hm.dropLine
  · exact hm
  · exact hm
  · exact hm
  · exact hm
  · exact hm
  · exact hm

theorem nextOk_execUncorrectableError {s : State} {site : ErrSite} (hm : s.memOk) : NextOk (execUncorrectableError site s) := by
  unfold execUncorrectableError
  dsimp only
  split
  · exact nextOk hm.frame.snapTrigger.dropCopy
  · exact nextOk hm
  · exact nextOk hm.frame.snapTrigger.rollback
  · exact nextOk hm.frame.snapTrigger.rollback
  · exact nextOk hm.frame.snapTrigger.rollback
  · exact nextOk hm.frame.snapTrigger.deviceError

end Sys2Proof.Machine
end

section
/-! SUPPORT and CERTIFICATES. Every instruction, every event and every step keeps memory canonical (log 2). -/

set_option Elab.async false

namespace Sys2Proof.Machine

/-- Every instruction and every event keeps memory canonical. -/
theorem nextOk_exec {s : State} {i : Instr} (hm : s.memOk) : NextOk (exec i s) := by
  cases i with
  | nop | exit | exitLanes | emsav | mlog | yield | kclr | kmovCpy | kmovAdd | fsrGet | fsrSet | fsrClr | fsrOr | bankQuery | balBurn
    | balShunt | balMatch | dbrk => exact nextOk hm.done
  | bra | brx | ret => exact nextOk (hm.toTarget fun _ ht => ht.jump)
  | brc => exact nextOk_execBrc hm
  | bdv => exact nextOk_execBdv hm
  | join => exact nextOk_execJoin hm
  | call => exact nextOk (hm.toTarget fun _ ht => ht.done)
  | emset | vote | kadd | kmovSet =>
    dsimp only [exec, execEmset, execVote, execKadd, execKmovSet]
    exact nextOk_checked hm hm.done
  | tfence =>
    dsimp only [exec]
    exact nextOk_execTfence hm
  | trap => exact nextOk_execTrap hm
  | sadd | ssub | smul | slog | sshf | scmp | smin | sbit | sdiv | smov | smovi | ssel => exact nextOk hm.scalar
  | smovLane =>
    dsimp only [exec, execSmovLane]
    exact nextOk_checked hm hm.scalar
  | srd => exact nextOk_execSrd hm
  | swr => exact nextOk hm.writeCtl.done
  | sld =>
    dsimp only [exec]
    exact nextOk_execSld hm
  | sst => exact nextOk_execSst hm
  | vadd | vsub | vmul | vmad | vdot | vlog | vshf | vsel | vmin | vuni | vbit | vmovi | vnrw | vidx | fadd | fsub | fmul | ffma | fmin |
    frcp | frsq | fsqt | fex2 | flg2 | ftrg | fdiv | fcvt | icvt | dadd | dmul | dfma | scvn | scvw | kscn | kmovGet | shfl | slide |
    bcst | gscn | perm =>
    dsimp only [exec, execVadd, execVsub, execVmul, execVmad, execVdot, execVlog, execVshf, execVsel, execVmin, execVuni, execVbit,
      execVmovi, execVnrw, execVidx, execFadd, execFsub, execFmul, execFfma, execFmin, execFrcp, execFrsq, execFsqt, execFex2, execFlg2,
      execFtrg, execFdiv, execFcvt, execIcvt, execDadd, execDmul, execDfma, execScvn, execScvw, execKscn, execKmovGet, execShfl,
      execSlide, execBcst, execGscn, execPerm]
    exact nextOk_checked hm hm
  | vcmp => exact nextOk_execVcmp hm
  | vmov => exact nextOk_execVmov hm
  | fcmp => exact nextOk_execFcmp hm
  | fcls => exact nextOk_execFcls hm
  | krnd => exact nextOk_execKrnd hm
  | ixset | ixadd =>
    dsimp only [exec, execIxset, execIxadd]
    exact nextOk_checked hm hm.ixDone
  | gred => exact nextOk_execGred hm
  | ld => exact nextOk_execLd hm
  | st => exact nextOk_execSt hm
  | lds => exact nextOk_execLds hm
  | sts => exact nextOk_execSts hm
  | atom => exact nextOk_execAtom hm
  | atmf => exact nextOk_execAtmf hm
  | fence => exact nextOk hm.fenced.retire
  | fenceFlushx | barw | ecanSlot => exact nextOk hm.charge
  | prf =>
    dsimp only [exec, execPrf]
    exact nextOk_checked hm (hm.foldl _ fun _ _ ht => ht.prefetch).retire
  | cmnt =>
    dsimp only [exec, execCmnt]
    exact nextOk_checked hm (hm.foldl _ fun _ _ ht => ht.lineOp).retire
  | fqput => exact nextOk_execFqput hm
  | fqget => exact nextOk_execFqget hm
  | bankRequest =>
    dsimp only [exec]
    exact nextOk_execBankRequest hm
  | bar =>
    dsimp only [exec]
    exact nextOk_execBar hm
  | barv =>
    dsimp only [exec]
    exact nextOk_execBarv hm
  | evwt =>
    dsimp only [exec]
    exact nextOk_execEvwt hm
  | evps => exact nextOk_execEvps hm
  | nap => exact nextOk_execNap hm
  | balCeil => exact nextOk_execBalCeil hm
  | wmark =>
    dsimp only [exec]
    exact nextOk_execWmark hm
  | snap =>
    dsimp only [exec]
    exact nextOk_execSnap hm
  | mlda =>
    dsimp only [exec, execMlda]
    exact nextOk_checked hm (hm.granted hm.mxPost)
  | mma => exact nextOk_execMma hm
  | mmal => exact nextOk_execMmal hm
  | mdrn | mfil => exact nextOk hm.imageIssue
  | mzroGrant => exact nextOk_execMzroGrant hm
  | mzro | mrel => exact nextOk (hm.granted hm.mxPost)
  | msts => exact nextOk_execMsts hm
  | mscl => exact nextOk_execMscl hm
  | msta => exact nextOk_execMsta hm
  | cpy | gath | scat => exact nextOk hm.postHold
  | bin | ptch | rlse | coll | lnch => exact nextOk hm.post
  | ecan => exact nextOk hm.charge.cancel
  | eqrd =>
    dsimp only [exec]
    exact nextOk_execEqrd hm
  | eqrdWait =>
    dsimp only [exec]
    exact nextOk_execEqrdWait hm
  | tlbiRng | tlbiAsid | tlbiAll => exact nextOk_tlbi hm
  | ctxsStop => exact nextOk_execCtxsStop hm
  | ctxsSave => exact nextOk_execCtxsSave hm
  | ctxsEvict => exact nextOk_execCtxsEvict hm
  | ctxsTeam => exact nextOk_execCtxsTeam hm
  | ctxlCreate => exact nextOk_execCtxlCreate hm
  | ctxlResume => exact nextOk_execCtxlResume hm
  | ctxlKill => exact nextOk_execCtxlKill hm
  | ctxlUpd => exact nextOk_execCtxlUpd hm
  | ctxlEres => exact nextOk_execCtxlEres hm
  | ctxlEfail => exact nextOk_execCtxlEfail hm
  | tret => exact nextOk_execTret hm
  | prack => exact nextOk_execPrack hm
  | prackRet => exact nextOk hm.trapReturn
  | rwnd => exact nextOk_execRwnd hm
  | rwndChk => exact nextOk_execRwndChk hm
  | rwndCmt => exact nextOk_execRwndCmt hm
  | pcfg => exact nextOk_execPcfg hm
  | halt => exact nextOk_execHalt hm
  | haltOff => exact nextOk_execHaltOff hm
  | haltOn => exact nextOk_execHaltOn hm
  | clauseSelect => exact nextOk_execClauseSelect hm
  | loadComplete => exact nextOk_execLoadComplete hm
  | asyncCommandComplete => exact nextOk_execAsyncCommandComplete hm
  | compaction => exact nextOk_execCompaction hm
  | stackSpillComplete => exact nextOk_execStackSpillComplete hm
  | bufferEntryPerform => exact nextOk hm.bufPerform
  | logBurstWrite | logBurstTimeout => exact nextOk hm.drainLog
  | automaticWindowOpen => exact nextOk_execAutomaticWindowOpen hm
  | wmarkComplete => exact nextOk_execWmarkComplete hm
  | rewindFinish => exact nextOk_execRewindFinish hm
  | ordrTimeout | damperTick => exact nextOk (hm.foldl _ fun _ _ ht => ht)
  | promote => exact nextOk_execPromote hm
  | ownedLineRecall => exact nextOk hm.recallLine
  | flushxComplete => exact nextOk_execFlushxComplete hm
  | evwtWake | evwtPoll => exact nextOk hm.evwtReread
  | evwtTimeout => exact nextOk_execEvwtTimeout hm
  | napDeadline => exact nextOk_execNapDeadline hm
  | fqputRoom => exact nextOk_execFqputRoom hm
  | fqgetMatch => exact nextOk_execFqgetMatch hm
  | bankRelease => exact nextOk_execBankRelease hm
  | bankConvertEnd => exact nextOk_execBankConvertEnd hm
  | issueLimitAdjust | bodyBiasStep | frequencyInterval | peerAck | frequencyTransitionEnd | timerForwardStep | cxlReset =>
    exact nextOk hm
  | translationWalk => exact nextOk_execTranslationWalk hm
  | tlbiComplete => exact nextOk_execTlbiComplete hm
  | streamWake | streamSlotPoll => exact nextOk hm.rereadSlot
  | packetNop => exact nextOk_execPacketNop hm
  | packetLaunch => exact nextOk_execPacketLaunch hm
  | packetWait => exact nextOk_execPacketWait hm
  | waitSatisfied => exact nextOk_execWaitSatisfied hm
  | packetMark => exact nextOk_execPacketMark hm
  | packetBadpkt => exact nextOk_execPacketBadpkt hm
  | teamPlacement => exact nextOk_execTeamPlacement hm
  | halfActiveFlue => exact nextOk_execHalfActiveFlue hm
  | teamRetire => exact nextOk_execTeamRetire hm
  | gridComplete => exact nextOk_execGridComplete hm
  | completionRecordPost => exact nextOk_execCompletionRecordPost hm
  | eventQueuePost => exact nextOk_execEventQueuePost hm
  | engineCommandStart => exact nextOk_execEngineCommandStart hm
  | ecanAnswer => exact nextOk_execEcanAnswer hm
  | collJoinTimeout => exact nextOk_execCollJoinTimeout hm
  | matrixPass => exact nextOk_execMatrixPass hm
  | scaleFillReturn => exact nextOk_execScaleFillReturn hm
  | grantServed => exact nextOk_execGrantServed hm
  | balanceSample => exact nextOk_execBalanceSample hm
  | balRequestLapse => exact nextOk_execBalRequestLapse hm
  | frequencyStep => exact nextOk_execFrequencyStep hm
  | thermalStateChange => exact nextOk_execThermalStateChange hm
  | stallSample => exact nextOk (hm.foldl _ fun _ _ ht => ht.sampleNext)
  | timeSliceEnd => exact nextOk_execTimeSliceEnd hm
  | budgetExpiry => exact nextOk_execBudgetExpiry hm
  | teamSave => exact nextOk_execTeamSave hm
  | uncorrectableError => exact nextOk_execUncorrectableError hm
  | contextStopComplete => exact nextOk_execContextStopComplete hm
  | counterLowRead => exact nextOk (hm.hostReads hm.ctrLow)
  | counterHighRead => exact nextOk (hm.hostReads hm)
  | streamEntryWrite => exact nextOk_execStreamEntryWrite hm
  | statbaseWrite | mmioRegisterWrite => exact nextOk hm.mmioWrite8
  | fwctlGo => exact nextOk_execFwctlGo hm
  | hostCxlMemWrite => exact nextOk (hm.served (State.memOk.of_wf (Memory.write_wf hm.1 _ _) hm.2).send)
  | hostCxlMemRead => exact nextOk_execHostCxlMemRead hm
  | hostSnoop => exact nextOk (hm.served (State.memOk.of_wf (Memory.write_wf hm.1 _ _) hm.2))
  | peerRequest => exact nextOk_execPeerRequest hm
  | flitReplay => exact nextOk_execFlitReplay hm
  | challenge | getMeasurements | getDigests | getCertificate => exact nextOk_spdmSay hm
  | keyExchange => exact nextOk_spdmSay hm.frame
  | ideKm => exact nextOk_execIdeKm hm
  | hostSnapshotTrigger => exact nextOk_execHostSnapshotTrigger hm
  | snapshotStatusRead => exact nextOk (hm.hostReads hm.frame)
  | snapshotArm => exact nextOk_execSnapshotArm hm
  | liveUpdateHeartbeat => exact nextOk_execLiveUpdateHeartbeat hm
  | liveUpdateTimeout => exact nextOk_execLiveUpdateTimeout hm
  | heartbeat => exact nextOk_execHeartbeat hm
  | getVersion | getCapabilities | negotiateAlgorithms | endSession => exact nextOk_spdmSay hm.setSpdm
  | finish => exact nextOk_execFinish hm
  | deviceReset => exact nextOk_execDeviceReset hm

/-! ## Turns -/

/-- The device's turn. -/
theorem nextOk_device {s : State} (hm : s.memOk) : NextOk (s.device) := by
  unfold State.device
  dsimp only
  split
  · exact nextOk_exec hm
  · exact nextOk hm

theorem nextOk_idle {s : State} (hm : s.memOk) : NextOk (s.idle) := by
  unfold State.idle
  dsimp only
  split
  · exact nextOk_exec hm.frame
  · exact nextOk_device hm.frame

/-- The running agent's turn. -/
theorem nextOk_runs {s : State} (hm : s.memOk) : NextOk (s.runs) := by
  unfold State.runs
  split
  · exact nextOk hm.leave
  · split
    · exact nextOk hm.leave
    · split
      · split
        · exact nextOk_exec hm
        · exact nextOk hm.endClause.leave
      · split
        · exact nextOk hm.faultExact
        · split
          · exact nextOk_exec hm.begin
          · exact nextOk_exec hm.enterLanes
          · exact nextOk hm.enterLanes.fullStall
          · exact nextOk hm.enterLanes

/-- What the machine does where the world brings nothing. -/
theorem nextOk_act {s : State} (hm : s.memOk) : NextOk (s.act) := by
  unfold State.act
  split
  · exact nextOk hm
  · split
    · exact nextOk hm.bringUp
    · split
      · exact nextOk hm.syncLogs
      · split
        · exact nextOk_runs hm
        · exact nextOk_idle hm

end Sys2Proof.Machine

namespace Sys2Proof.Claims

open Sys2Proof.Machine

/-- Settles O60: every operation that a meaning composes keeps memory and scratchpad canonical (the lemmas `State.memOk.*`), so every
instruction and event does (`nextOk_exec`), and a step is one of them or a turn of the machine (`nextOk_act`). -/
theorem stepKeepsMemoryCanonical : Obligations.StepKeepsMemoryCanonical := by
  unfold Obligations.StepKeepsMemoryCanonical
  intro s t hm h
  unfold step at h
  split at h
  · split at h
    · exact nextOk_exec (State.memOk.frame hm) t h
    · cases h
  · exact nextOk_act hm t h

end Sys2Proof.Claims
end
section
/-! SUPPORT and CERTIFICATES. What reset leaves (R200, R334, R344, R405). -/

namespace Sys2Proof.Machine

theorem State.cluster_reset (k : Nat) : State.reset.cluster k = {} := rfl

theorem State.bank_reset (k b : Nat) : State.reset.bank k b = {} := by
  rw [State.bank, State.cluster_reset, Vector.toList_replicate]
  grind

theorem State.partDesc_reset {p : Nat} (hp : p ≠ 0) : State.reset.partDesc p = 0 := if_neg hp

theorem State.quotaWord_reset (n p : Nat) :
    State.reset.quotaWord n p = if p = 0 then 512#64 <<< 33 ||| 32#64 <<< 18 ||| 64#64 <<< 6 else 0 := rfl

end Sys2Proof.Machine

namespace Sys2Proof.Claims

open Sys2Proof.Machine

/-- Settles O59: the single fields are read off the state after reset; banks, clusters, partitions and quotas are what a table without
entries answers. -/
theorem resetHolds : Obligations.ResetHolds := by
  unfold Obligations.ResetHolds
  refine ⟨⟨rfl, rfl⟩, rfl, rfl, rfl, rfl, rfl, rfl, rfl, rfl, rfl, rfl, rfl, rfl, rfl, rfl, fun k b => ?_, fun k => ?_, rfl,
    fun p hp => State.partDesc_reset hp, fun n p _ _ => ?_⟩
  · rw [State.bank_reset]
    exact ⟨rfl, rfl⟩
  · rw [State.cluster_reset]
    decide
  · rw [State.quota, State.quotaWord_reset]
    split <;> decide

end Sys2Proof.Claims
end
section
/-! SUPPORT and CERTIFICATES. Lanes of a store that have taken their buffer entries do not store again (R211): why a store need not take the fault of
its lowest active lane. -/

namespace Sys2Proof.Machine

/-- A group whose one active lane has taken its buffer entry while the store at hand waited for room. -/
def takenStore : State where
  run := { em := 1, took := 1 }

/-- The store at hand, to the address -4, which no access may use (R194). -/
def storeBelowZero : Instr := .st .b4 .dflt .rlx .core 0 (.sca (.s 0) 0) (-4)

theorem takenStore_locate :
    takenStore.locate (takenStore.run.addr true (.sca (.s 0) 0) ((-4 : BitVec 16).signExtend 64) 0) Sz.b4.bytes .wr =
      (takenStore, .error ⟨cACCESS, 2 ^ 64 - 4, 0⟩) := by
  have hva : takenStore.run.addr true (.sca (.s 0) 0) ((-4 : BitVec 16).signExtend 64) 0 = -4 := by decide
  rw [hva]
  rfl

/-- The fault leaves the group at its instruction. -/
theorem takenStore_fault_word : (takenStore.faultExact cACCESS (2 ^ 64 - 4) 0).run.word = 0 := by decide

/-- The store performs no lane and retires. -/
theorem takenStore_goes_on : ∃ t, exec storeBelowZero takenStore = .next t ∧ t.run.word = 1 := ⟨_, rfl, by decide⟩

end Sys2Proof.Machine

namespace Sys2Proof.Claims

open Sys2Proof Sys2Proof.Machine

/-- Refutes O31: the clause for stores takes the lowest lane of `em`, and `execSt` passes over the lanes in `took`, which have their buffer entries
already (R211). In `takenStore` that lane is in `took`: the store retires, where the statement says that it takes the fault of the lane's address. -/
theorem not_failedAccessesFault : ¬ Obligations.FailedAccessesFault := by
  unfold Obligations.FailedAccessesFault
  intro h
  obtain ⟨-, -, -, -, hst, -, -⟩ := h takenStore takenStore .b4 .dflt false false false false .rlx .core 0 (.sca (.s 0) 0) (.sca (.s 0)) 0 (-4) 0
    0 (.s 0) .add 0 ⟨cACCESS, 2 ^ 64 - 4, 0⟩
  have hfault := hst ⟨by decide, by decide, fun k hk => absurd hk (Nat.not_lt_zero k)⟩ ⟨by decide, by decide⟩ takenStore_locate
  obtain ⟨t, ht, hword⟩ := takenStore_goes_on
  obtain rfl : takenStore.faultExact cACCESS (2 ^ 64 - 4) 0 = t := by
    have := hfault.symm.trans ht
    injection this
  rw [takenStore_fault_word] at hword
  cases hword

end Sys2Proof.Claims
end
section
/-! SUPPORT and CERTIFICATES. Banks and FIFOs: what a write to one bank leaves, the entry that FQPUT publishes, and what the look of the engines at
their tables changes (R201, R250-R253, R312). -/

namespace Sys2Proof.Machine

open Sys2Proof.Claims

/-! ## One bank of one cluster (R201) -/

theorem State.bank_setBank_same (s : State) (k : Nat) {n : Nat} (x : Bank) (hn : n < 48) : (s.setBank k n x).bank k n = x := by
  simp [State.bank, State.setBank, hn]

theorem State.bank_setBank_ne (s : State) {k n j m : Nat} (x : Bank) (h : j ≠ k ∨ m ≠ n) : (s.setBank k n x).bank j m = s.bank j m := by
  by_cases hj : j = k
  · subst hj
    have hm : n ≠ m := fun e => h.elim (fun h => h rfl) fun h => h e.symm
    simp [State.bank, State.setBank, List.getD_eq_getElem?_getD, List.getElem?_set_ne hm]
  · rw [State.bank, State.setBank, cluster_setCluster_ne _ _ hj]
    rfl

/-- Of a cluster, a write to a bank changes the banks alone. -/
theorem State.cluster_setBank (s : State) (k n : Nat) (x : Bank) (j : Nat) :
    (s.setBank k n x).cluster j = { s.cluster j with banks := ((s.setBank k n x).cluster j).banks } := by
  by_cases hj : j = k
  · subst hj
    rw [State.setBank, State.cluster_setCluster]
  · rw [State.setBank, cluster_setCluster_ne _ _ hj]

theorem State.setBank_only (s : State) (k n : Nat) (x : Bank) : s.setBank k n x = { s with clusters := (s.setBank k n x).clusters } := rfl

/-- What the tests of FQPUT and FQGET ask of a bank (R250). -/
theorem State.fifoOk_iff (s : State) (k part : Nat) (a : Word) : s.fifoOk k part a = true ↔
    a.toNat < 48 ∧ (s.bank k a.toNat).mode = .fifo ∧ (s.bank k a.toNat).st = .stable ∧ (s.bank k a.toNat).owner = part := by
  simp [State.fifoOk, and_assoc]

/-! ## The entry of FQPUT (R251) -/

/-- The sum of the data of the lanes below `n` that `p` names, each in its own 256 bits. -/
def laneSum (p : Nat → Bool) (f : Nat → Nat) (n : Nat) : Nat := (((List.range n).filter p).map fun t => f t * 2 ^ (256 * t)).sum

theorem laneSum_succ (p : Nat → Bool) (f : Nat → Nat) (n : Nat) :
    laneSum p f (n + 1) = 2 ^ (256 * n) * (if p n then f n else 0) + laneSum p f n := by
  rw [laneSum, List.range_succ, List.filter_append, List.map_append, List.sum_append, Nat.add_comm]
  cases h : p n <;> simp [h, laneSum, Nat.mul_comm]

theorem laneSum_lt (p : Nat → Bool) {f : Nat → Nat} (hf : ∀ t, f t < 2 ^ 256) (n : Nat) : laneSum p f n < 2 ^ (256 * n) := by
  induction n with
  | zero => exact Nat.zero_lt_one
  | succ n ih =>
    have hy : (if p n then f n else 0) < 2 ^ 256 := by
      split
      · exact hf n
      · exact Nat.two_pow_pos 256
    rw [laneSum_succ, Nat.mul_succ, Nat.pow_add]
    calc 2 ^ (256 * n) * (if p n then f n else 0) + laneSum p f n
        < 2 ^ (256 * n) * ((if p n then f n else 0) + 1) := by rw [Nat.mul_succ]; omega
      _ ≤ 2 ^ (256 * n) * 2 ^ 256 := Nat.mul_le_mul_left _ hy

/-- A bit of the sum is a bit of the lane in whose 256 bits it lies. -/
theorem laneSum_testBit (p : Nat → Bool) {f : Nat → Nat} (hf : ∀ t, f t < 2 ^ 256) {n l i : Nat} (hl : l < n) (hi : i < 256) :
    (laneSum p f n).testBit (256 * l + i) = (p l && (f l).testBit i) := by
  induction n with
  | zero => omega
  | succ n ih =>
    rw [laneSum_succ, Nat.testBit_two_pow_mul_add _ (laneSum_lt p hf n)]
    by_cases hn : l = n
    · subst hn
      rw [if_neg (by omega), Nat.add_sub_cancel_left]
      cases p l <;> simp
    · rw [if_pos (by omega), ih (by omega)]

/-- A byte of the entry is the byte of the lane's data, and zero for an inactive lane (R251). -/
theorem Group.fifoEntry_byte (g : Group) (d : RegNo) {l j : Nat} (hl : l < 32) (hj : j < 32) :
    (g.fifoEntry d).extractLsb' (256 * l + 8 * j) 8 = if g.em.getLsbD l then dataByte g d l j else 0 := by
  have hentry : g.fifoEntry d = BitVec.ofNat 8192 (laneSum (fun t => g.em.getLsbD t) (g.storeData d 8) 32) := rfl
  apply BitVec.eq_of_getLsbD_eq
  intro i hi
  rw [BitVec.getLsbD_extractLsb', hentry, BitVec.getLsbD_ofNat, Nat.add_assoc, laneSum_testBit _ (g.storeData_lt d 8) hl (by omega),
    g.storeData_testBit d 8 l _ (by omega)]
  cases g.em.getLsbD l
  · simp
  · have hword : (8 * j + i) / 32 = j / 4 := by omega
    have hbit : (8 * j + i) % 32 = 8 * (j % 4) + i := by omega
    simp [dataByte, hword, hbit, hi, show 256 * l + (8 * j + i) < 8192 by omega]

/-- The bytes of the lanes make the entry. -/
theorem fifoEntry_ext {x y : BitVec 8192}
    (h : ∀ l j, l < 32 → j < 32 → x.extractLsb' (256 * l + 8 * j) 8 = y.extractLsb' (256 * l + 8 * j) 8) : x = y := by
  apply BitVec.eq_of_getLsbD_eq
  intro i hi
  have hbyte := congrArg (BitVec.getLsbD · (i % 8)) (h (i / 256) (i % 256 / 8) (by omega) (by omega))
  have hplace : 256 * (i / 256) + 8 * (i % 256 / 8) + i % 8 = i := by omega
  simpa [BitVec.getLsbD_extractLsb', hplace, Nat.mod_lt] using hbyte

/-! ## The engines look at their tables (R312) -/

/-- The engines of `t` are those of `s` but for the ages of their requests. -/
def State.SameTables (s t : State) : Prop :=
  ∀ j, t.mx j = { s.mx j with table := (t.mx j).table, order := (t.mx j).order } ∧
    (t.mx j).table.map entryBare = (s.mx j).table.map entryBare

theorem State.sameTables_refl (s : State) : s.SameTables s := fun _ => ⟨rfl, rfl⟩

theorem State.SameTables.trans {s t u : State} (h : s.SameTables t) (k : t.SameTables u) : s.SameTables u := fun j => by
  obtain ⟨ht, hbt⟩ := h j
  obtain ⟨hu, hbu⟩ := k j
  refine ⟨?_, hbu.trans hbt⟩
  rw [hu, ht]

theorem State.sameTables_mxRefresh (s : State) (e : Nat) : s.SameTables (s.mxRefresh e) := by
  have hbare (xs : List MxEntry) (p : List MxEntry × Nat) :
      ((xs.foldl (fun (p : List MxEntry × Nat) x =>
        if !s.mxReady (s.mx e) x then (p.1 ++ [{ x with since := 0, aged := 0 }], p.2)
        else if x.since = 0 && s.shareOk (s.mx e) x.part then (p.1 ++ [{ x with since := p.2 + 1 }], p.2 + 1)
        else (p.1 ++ [x], p.2)) p).1).map entryBare = p.1.map entryBare ++ xs.map entryBare := by
    induction xs generalizing p with
    | nil => simp
    | cons x xs ih =>
      rw [List.foldl_cons, ih]
      split_ifs <;> simp [entryBare]
  intro j
  by_cases hj : j = e
  · subst hj
    refine ⟨by rw [State.mxRefresh, State.mx_setMx], ?_⟩
    rw [State.mxRefresh, State.mx_setMx]
    exact hbare _ _
  · rw [State.mxRefresh, State.mx_setMx_ne _ _ hj]
    exact ⟨rfl, rfl⟩

theorem State.sameTables_mxRefreshAll (s : State) : s.SameTables s.mxRefreshAll := by
  unfold State.mxRefreshAll
  generalize s.matrix = xs
  induction xs generalizing s with
  | nil => exact s.sameTables_refl
  | cons x xs ih => exact (s.sameTables_mxRefresh x.1).trans (ih _)

/-! ## What FQPUT and FQGET change beside the bank (R251, R252, R269) -/

theorem State.fifoUsed_only (s : State) (grid k n : Nat) : s.fifoUsed grid k n = { s with grids := (s.fifoUsed grid k n).grids } := by
  unfold State.fifoUsed
  split
  · split_ifs <;> rfl
  · rfl

/-- FQPUT marks the FIFO for its grid's snapshots, and raises the write generation of its team's window. -/
def State.fifoWritten (s : State) (n : Nat) : State := (s.fifoUsed s.run.grid s.run.cluster n).raiseGen s.run.teamKey

theorem State.fifoWritten_only (s : State) (n : Nat) : s.fifoWritten n = { s with
    grids := (s.fifoWritten n).grids, teams := (s.fifoWritten n).teams, cores := (s.fifoWritten n).cores, nextId := (s.fifoWritten n).nextId } := by
  unfold State.fifoWritten
  rw [State.raiseGen_only, State.fifoUsed_only]

theorem execFqput_room {s : State} {d : RegNo} {a : SPos} (h : Ready s (.fqput d a)) (hok : s.fifoOk s.run.cluster s.run.part (s.run.pos a) = true)
    (hroom : (s.bank s.run.cluster (s.run.pos a).toNat).entries.length < 128) :
    exec (.fqput d a) s = .next ((((s.fifoWritten (s.run.pos a).toNat).setBank s.run.cluster (s.run.pos a).toNat
      ((s.bank s.run.cluster (s.run.pos a).toNat).publish (s.run.fifoEntry d))).mxRefreshAll).retire 64) := by
  have hbank (j m : Nat) : (s.fifoWritten (s.run.pos a).toNat).bank j m = s.bank j m := by rw [State.fifoWritten_only]; rfl
  rw [exec, execFqput, State.checked_ok h.2]
  simp only [hok, Bool.not_true, Bool.false_eq_true, if_false]
  rw [← State.fifoWritten, hbank, if_pos hroom]

theorem execFqput_full {s : State} {d : RegNo} {a : SPos} (h : Ready s (.fqput d a)) (hok : s.fifoOk s.run.cluster s.run.part (s.run.pos a) = true)
    (hfull : 128 ≤ (s.bank s.run.cluster (s.run.pos a).toNat).entries.length) :
    exec (.fqput d a) s = .next (((s.fifoWritten (s.run.pos a).toNat).charge 64).setRun
      { s.run with wait := .fqput s.run.cluster (s.run.pos a).toNat (s.run.fifoEntry d) }) := by
  have hbank (j m : Nat) : (s.fifoWritten (s.run.pos a).toNat).bank j m = s.bank j m := by rw [State.fifoWritten_only]; rfl
  rw [exec, execFqput, State.checked_ok h.2]
  simp only [hok, Bool.not_true, Bool.false_eq_true, if_false]
  rw [← State.fifoWritten, hbank, if_neg (Nat.not_lt.2 hfull)]

/-- What a completed FQPUT leaves, whether its entry was published or waits: other banks, the rest of the clusters, and the requests of the
engines. -/
structure State.FifoPut (s t : State) (k n : Nat) : Prop where
  banks : ∀ j m, j ≠ k ∨ m ≠ n → t.bank j m = s.bank j m
  clusters : ∀ j, t.cluster j = { s.cluster j with banks := (t.cluster j).banks }
  tables : s.SameTables t
  only : t = { s with
    run := t.run, cores := t.cores, agentCyc := t.agentCyc, clusters := t.clusters, teams := t.teams, grids := t.grids
    matrix := t.matrix, nextId := t.nextId }

theorem State.fifoPut_room (s : State) {n : Nat} (x : Bank) (hn : n < 48) :
    let t := (((s.fifoWritten n).setBank s.run.cluster n x).mxRefreshAll).retire 64
    s.FifoPut t s.run.cluster n ∧ t.bank s.run.cluster n = x ∧ t.run = { s.run with word := s.run.word + 1 } := by
  intro t
  have hw := s.fifoWritten_only n
  have hm := ((s.fifoWritten n).setBank s.run.cluster n x).mxRefreshAll_matrix
  have ht : t = State.retire _ 64 := rfl
  rw [State.retire_only, hm] at ht
  have hclusters : ((s.fifoWritten n).setBank s.run.cluster n x).clusters = (s.setBank s.run.cluster n x).clusters := by rw [hw]; rfl
  have hcluster (j : Nat) : t.cluster j = (s.setBank s.run.cluster n x).cluster j := by
    rw [ht, State.cluster, State.cluster, hclusters, hw]
    rfl
  have hbank (j m : Nat) : t.bank j m = (s.setBank s.run.cluster n x).bank j m := by rw [State.bank, hcluster]; rfl
  have htables := ((s.fifoWritten n).setBank s.run.cluster n x).sameTables_mxRefreshAll
  have hmx (j : Nat) : ((s.fifoWritten n).setBank s.run.cluster n x).mx j = s.mx j := by rw [hw]; rfl
  have hmx' (j : Nat) : ((s.fifoWritten n).setBank s.run.cluster n x).mxRefreshAll.mx j = t.mx j := by rw [ht]; rfl
  have hrun : t.run = { s.run with word := s.run.word + 1 } := by rw [ht, hw]; rfl
  refine ⟨⟨fun j m h => ?_, fun j => ?_, fun j => ?_, ?_⟩, ?_, hrun⟩
  · rw [hbank, State.bank_setBank_ne _ _ h]
  · rw [hcluster]
    exact s.cluster_setBank _ _ _ j
  · have h := htables j
    rwa [hmx, hmx'] at h
  · rw [ht, hw]
    rfl
  · rw [hbank, State.bank_setBank_same _ _ _ hn]

theorem State.fifoPut_full (s : State) (n : Nat) (e : BitVec 8192) :
    let t := ((s.fifoWritten n).charge 64).setRun { s.run with wait := .fqput s.run.cluster n e }
    s.FifoPut t s.run.cluster n ∧ t.bank s.run.cluster n = s.bank s.run.cluster n ∧ t.run = { s.run with wait := .fqput s.run.cluster n e } := by
  intro t
  have ht : t = ((s.fifoWritten n).charge 64).setRun { s.run with wait := .fqput s.run.cluster n e } := rfl
  rw [State.charge_only, s.fifoWritten_only n] at ht
  rw [ht]
  exact ⟨⟨fun _ _ _ => rfl, fun _ => rfl, fun _ => ⟨rfl, rfl⟩, rfl⟩, rfl, rfl⟩

/-! ## FQGET (R252) -/

/-- A load-class operation that waits for a FIFO issues: the group alone goes on. -/
theorem State.issueLoad_fifo {s u : State} (hrun : u.run = s.run) (hid : u.nextId = s.nextId) (dst : LoadDst) (fifo : Option (Nat × Nat))
    (cyc : Nat) :
    let t := u.issueLoad dst fifo [] cyc
    issued s t ⟨s.nextId, dst, s.run.sets.1, s.run.sets.2, fifo, [], s.run.wordAddr⟩ ∧
      t = { u with run := t.run, cores := t.cores, agentCyc := t.agentCyc, nextId := s.nextId + 1 } := by
  intro t
  have hend : t.run = { s.run with
      loads := s.run.loads ++ [⟨s.nextId, dst, s.run.sets.1, s.run.sets.2, fifo, [], s.run.wordAddr⟩]
      cf := (s.run.countOp s.run.sets.1 s.run.sets.2).cf, doneMask := 0, word := s.run.word + 1 } := by
    rw [← hid, ← hrun]
    rfl
  have hcharge := u.charge_only cyc
  refine ⟨⟨?_, rfl, rfl, fun n hn => ?_⟩, ?_⟩
  · rw [hend]
  · rw [hend]
    exact s.run.countOp_flag _ _ hn
  · have ht : t = { u.charge cyc with run := t.run, nextId := u.nextId + 1 } := rfl
    rw [hcharge, hid] at ht
    exact ht

/-- FQGET's load, where the grid's mark on the FIFO is the grids' alone. -/
theorem State.issueLoad_fifoUsed (s : State) (grid k n : Nat) (dst : LoadDst) (cyc : Nat) :
    let t := (s.fifoUsed grid k n).issueLoad dst (some (k, n)) [] cyc
    issued s t ⟨s.nextId, dst, s.run.sets.1, s.run.sets.2, some (k, n), [], s.run.wordAddr⟩ ∧
      t = { s with run := t.run, cores := t.cores, agentCyc := t.agentCyc, grids := t.grids, nextId := s.nextId + 1 } := by
  obtain ⟨grids, hu⟩ : ∃ grids, s.fifoUsed grid k n = { s with grids := grids } := ⟨_, s.fifoUsed_only grid k n⟩
  rw [hu]
  obtain ⟨hissued, honly⟩ := State.issueLoad_fifo (s := s) (u := { s with grids := grids }) rfl rfl dst (some (k, n)) cyc
  exact ⟨hissued, honly.trans (by rw [show (State.issueLoad _ _ _ _ _).grids = grids from congrArg State.grids honly])⟩

theorem execFqget_waits {s : State} {d : RegNo} {a : SPos} (h : Ready s (.fqget d a)) (hok : s.fifoOk s.run.cluster s.run.part (s.run.pos a) = true)
    (hfree : s.fifoBound s.run.cluster (s.run.pos a).toNat = false) :
    exec (.fqget d a) s = .next ((s.fifoUsed s.run.grid s.run.cluster (s.run.pos a).toNat).issueLoad
      (.vec d s.run.em (List.replicate 8 0)) (some (s.run.cluster, (s.run.pos a).toNat)) [] 64) := by
  rw [exec, execFqget, State.checked_ok h.2]
  simp [hok, hfree]

/-! ## BANK and bank.q (R201, R202, R253) -/

/-- A scalar result beside a bank that has changed: the rest of the state is as `scalarStep` says. -/
theorem State.bankStep (s : State) (d : SReg) (v : Word) {n : Nat} (x : Bank) (hn : n < 48) :
    let t := (s.setBank s.run.cluster n x).done (s.run.setS d v) 1
    s.scalarStep { t with clusters := s.clusters } (.s d) v ∧ t.bank s.run.cluster n = x ∧
      (∀ j i, j ≠ s.run.cluster ∨ i ≠ n → t.bank j i = s.bank j i) ∧
      ∀ j, t.cluster j = { s.cluster j with banks := (t.cluster j).banks } := by
  intro t
  have hdone : ({ t with clusters := s.clusters } : State) = s.done (s.run.setS d v) 1 := by
    show ({ State.done _ _ _ with clusters := s.clusters } : State) = _
    unfold State.done State.charge
    rw [State.setBank_only]
    dsimp only
    split <;> rfl
  have hcluster (j : Nat) : t.cluster j = (s.setBank s.run.cluster n x).cluster j := by
    show State.cluster (State.done _ _ _) j = _
    rw [State.done, State.charge_only]
    rfl
  have hbank (j m : Nat) : t.bank j m = (s.setBank s.run.cluster n x).bank j m := by rw [State.bank, hcluster]; rfl
  refine ⟨?_, ?_, fun j i h => ?_, fun j => ?_⟩
  · rw [hdone]
    exact s.done_setPos (.s d) v 1
  · rw [hbank, State.bank_setBank_same _ _ _ hn]
  · rw [hbank, State.bank_setBank_ne _ _ h]
  · rw [hcluster]
    exact s.cluster_setBank _ _ _ j

/-- The same where no bank changes. -/
theorem State.bankStep_none (s : State) (d : SReg) (v : Word) (n : Nat) :
    let t := s.done (s.run.setS d v) 1
    s.scalarStep { t with clusters := s.clusters } (.s d) v ∧ t.bank s.run.cluster n = s.bank s.run.cluster n ∧
      (∀ j i, j ≠ s.run.cluster ∨ i ≠ n → t.bank j i = s.bank j i) ∧
      ∀ j, t.cluster j = { s.cluster j with banks := (t.cluster j).banks } := by
  intro t
  have ht : t = { s with run := t.run, cores := t.cores, agentCyc := t.agentCyc } := (s.done_only (s.run.setS d v) 1).1.1
  have hsame : ({ t with clusters := s.clusters } : State) = t := by
    rw [ht]
  refine ⟨?_, ?_, fun j i _ => ?_, fun j => ?_⟩
  · rw [hsame]
    exact s.done_setPos (.s d) v 1
  all_goals
    rw [ht]
    rfl

theorem execBankRequest_refused {s : State} {m : BankMode} {d : SReg} {b : SPos} {nr : Bool}
    (h : 48 ≤ (s.run.pos b).toNat ∨ (s.bank s.run.cluster (s.run.pos b).toNat).owner ≠ s.run.part) :
    exec (.bankRequest m d b nr) s = .next (s.done (s.run.setS d 3) 1) := if_pos h

theorem execBankRequest_asks {s : State} {m : BankMode} {d : SReg} {b : SPos} {nr : Bool} {x : Bank} {v : Nat} (hn : (s.run.pos b).toNat < 48)
    (howner : (s.bank s.run.cluster (s.run.pos b).toNat).owner = s.run.part)
    (hreq : (s.bank s.run.cluster (s.run.pos b).toNat).request m = (v, x)) :
    exec (.bankRequest m d b nr) s =
      .next ((s.setBank s.run.cluster (s.run.pos b).toNat x).done (s.run.setS d (BitVec.ofNat 64 v)) 1) := by
  show execBankRequest m d b nr s = _
  rw [execBankRequest, if_neg (not_or.2 ⟨Nat.not_le.2 hn, not_not.2 howner⟩)]
  dsimp only
  rw [hreq]

/-- The word that `bank.q` writes (R253). -/
def bankWord (m : BankMode) (st : BankSt) (own : Bool) : Word :=
  BitVec.ofNat 64 (modeNum m + 4 * bankStNum st + (if own then 16 else 0))

theorem modeNum_lt (m : BankMode) : modeNum m < 3 := by cases m <;> decide

theorem bankStNum_lt (st : BankSt) : bankStNum st < 3 := by cases st <;> simp [bankStNum]

/-- The fields of that word. -/
theorem bankWord_fields (m : BankMode) (st : BankSt) (own : Bool) :
    (bankWord m st own).extractLsb' 5 59 = 0 ∧ ((bankWord m st own).getLsbD 4 = true ↔ own = true) ∧
      (bankWord m st own).extractLsb' 0 2 = BitVec.ofNat 2 (modeNum m) ∧
      (bankWord m st own).extractLsb' 2 2 = BitVec.ofNat 2 (bankStNum st) := by
  have hfields : ∀ i j : Fin 3, ∀ own : Bool,
      let w : Word := BitVec.ofNat 64 (i.val + 4 * j.val + (if own then 16 else 0))
      w.extractLsb' 5 59 = 0 ∧ (w.getLsbD 4 = true ↔ own = true) ∧ w.extractLsb' 0 2 = BitVec.ofNat 2 i.val ∧
        w.extractLsb' 2 2 = BitVec.ofNat 2 j.val := by decide
  exact hfields ⟨modeNum m, modeNum_lt m⟩ ⟨bankStNum st, bankStNum_lt st⟩ own

theorem execBankQuery_none {s : State} {d : SReg} {b : SPos} {nr : Bool} (hn : 48 ≤ (s.run.pos b).toNat) :
    exec (.bankQuery d b nr) s = .next (s.done (s.run.setS d (BitVec.allOnes 64)) 1) := by
  show execBankQuery d b nr s = _
  rw [execBankQuery, if_pos hn]
  rfl

theorem execBankQuery_word {s : State} {d : SReg} {b : SPos} {nr : Bool} (hn : (s.run.pos b).toNat < 48) :
    let x := s.bank s.run.cluster (s.run.pos b).toNat
    exec (.bankQuery d b nr) s = .next (s.done (s.run.setS d (bankWord x.mode x.st (x.owner = s.run.part))) 1) := by
  show execBankQuery d b nr s = _
  rw [execBankQuery, if_neg (Nat.not_le.2 hn)]
  simp only [bankWord, decide_eq_true_eq]

end Sys2Proof.Machine

namespace Sys2Proof.Claims

open Sys2Proof Sys2Proof.Machine

/-- Settles O33: FQPUT publishes the entry that its lanes' bytes make (`Group.fifoEntry_byte`, `fifoEntry_ext`) or waits with it
(`State.fifoPut_room`, `State.fifoPut_full`), FQGET issues a load that waits for the FIFO (`State.issueLoad_fifo`), BANK does what `Bank.request`
says to the one bank (`State.bankStep`), and the word of `bank.q` reads back (`bankWord_fields`). -/
theorem fifosAndBanks : Obligations.FifosAndBanks := by
  unfold Obligations.FifosAndBanks
  refine ⟨fun s d a n e hn => ?_, fun s m d b nr => ?_⟩
  · subst hn
    intro k x ok hbytes
    have hok : ok ↔ s.fifoOk s.run.cluster s.run.part (s.run.pos a) = true := (s.fifoOk_iff ..).symm
    have he : e = s.run.fifoEntry d := fifoEntry_ext fun l j hl hj => (hbytes l j hl hj).trans (s.run.fifoEntry_byte d hl hj).symm
    subst he
    refine ⟨fun hr hk => ?_, fun hr hk => ?_, fun hr hk hb => ?_, fun hr hk => ?_⟩
    · rcases Nat.lt_or_ge x.entries.length 128 with hlen | hlen
      · obtain ⟨⟨hbanks, hclusters, htables, honly⟩, hbank, hrun⟩ := s.fifoPut_room (x.publish (s.run.fifoEntry d)) hk.1
        exact ⟨_, execFqput_room hr (hok.1 hk) hlen, fun _ => ⟨hbank, hrun⟩, fun h => absurd hlen (Nat.not_lt.2 h),
          hbanks, hclusters, htables, honly⟩
      · obtain ⟨⟨hbanks, hclusters, htables, honly⟩, hbank, hrun⟩ := s.fifoPut_full (s.run.pos a).toNat (s.run.fifoEntry d)
        exact ⟨_, execFqput_full hr (hok.1 hk) hlen, fun h => absurd h (Nat.not_lt.2 hlen), fun _ => ⟨hbank, hrun⟩,
          hbanks, hclusters, htables, honly⟩
    · have hno : s.fifoOk s.run.cluster s.run.part (s.run.pos a) = false := Bool.eq_false_iff.2 (mt hok.2 hk)
      rw [exec, execFqput, State.checked_ok hr.2]
      simp only [hno, Bool.not_false, if_true]
    · exact ⟨_, execFqget_waits hr (hok.1 hk) hb, s.issueLoad_fifoUsed ..⟩
    · have hno : (!s.fifoOk s.run.cluster s.run.part (s.run.pos a) || s.fifoBound s.run.cluster (s.run.pos a).toNat) = true := by
        rw [Bool.or_eq_true, Bool.not_eq_true', ← Bool.not_eq_true, ← hok]
        exact hk
      rw [exec, execFqget, State.checked_ok hr.2]
      simp only [hno, if_true]
  · intro k n x asks
    refine ⟨fun h => ⟨_, execBankRequest_refused h, s.bankStep_none d 3 n⟩, fun hn howner => ⟨fun hst hm => ?_, fun hst hm => ?_,
      fun u v hst => ?_, fun u v hst => ?_⟩, fun hn => ⟨_, execBankQuery_none hn, s.done_setPos (.s d) _ 1⟩, fun hn => ?_⟩
    · have hreq : x.request m = (1, x) := by simp [Bank.request, hst, hm]
      have hx : x = { x with st := .stable } := by rw [← hst]
      exact ⟨_, execBankRequest_asks hn howner (hreq.trans (congrArg (Prod.mk 1) hx)), s.bankStep d 1 _ hn⟩
    · have hreq : x.request m = (0, { x with st := .pending m false }) := by simp [Bank.request, hst, hm]
      exact ⟨_, execBankRequest_asks hn howner hreq, s.bankStep d 0 _ hn⟩
    · refine ⟨fun hm => ?_, fun hm => ?_⟩
      · have hreq : x.request m = (0, { x with st := .stable }) := by simp [Bank.request, hst, hm]
        exact ⟨_, execBankRequest_asks hn howner hreq, s.bankStep d 0 _ hn⟩
      · have hreq : x.request m = (0, { x with st := .pending m false }) := by simp [Bank.request, hst, hm]
        exact ⟨_, execBankRequest_asks hn howner hreq, s.bankStep d 0 _ hn⟩
    · have hreq : x.request m = (2, { x with st := .convert u (some m) }) := by simp [Bank.request, hst]
      exact ⟨_, execBankRequest_asks hn howner hreq, s.bankStep d 2 _ hn⟩
    · obtain ⟨hhigh, hown, hmode, hst⟩ := bankWord_fields x.mode x.st (x.owner = s.run.part)
      refine ⟨_, execBankQuery_word hn, _, s.done_setPos (.s d) _ 1, hhigh, hown.trans decide_eq_true_iff, hmode.trans ?_, hst.trans ?_⟩
      · cases x.mode <;> rfl
      · cases x.st <;> rfl

end Sys2Proof.Claims
end
section
/-! SUPPORT and CERTIFICATES. A core's number may stand twice in the table: why a buffer entry need not perform as O45 states (R211, R263). -/

namespace Sys2Proof.Machine

open Sys2Proof.Claims

/-- A buffered write of one byte of slice 0, which has not arrived there. -/
def freshWrite : BufEntry := { sector := 0, mask := 1, data := 0, part := 0, ctx := 0, grid := 0 }

/-- Core 0 stands twice in the table. The buffer that `core 0` finds holds a write that has not arrived, and the entry behind it an earlier
write of the same context that is held at the slice. -/
def shadowedWrite : State where
  cores := [(0, { buf := [freshWrite] }), (0, { buf := [{ freshWrite with held := 1 }] })]

theorem shadowedWrite_core : shadowedWrite.core 0 = { buf := [freshWrite] } := rfl

theorem shadowedWrite_core_ne {n : Nat} (hn : n ≠ 0) : shadowedWrite.core n = {} := by
  simp [State.core, shadowedWrite, Tbl.get, Ne.symm hn]

/-- No command and no matrix request owns a line, and no entry of a buffer that a core finds is held. -/
theorem nothingWaits_shadowedWrite : nothingWaits shadowedWrite := by
  refine ⟨fun e c line he => ?_, fun m x hm => ?_, fun n b hb => ?_⟩
  · cases he
  · cases hm
  · by_cases hn : n = 0
    · subst hn
      rw [shadowedWrite_core, List.mem_singleton] at hb
      rw [hb]
      rfl
    · rw [shadowedWrite_core_ne hn] at hb
      cases hb

/-- The write would overtake the held one, so it is held behind it. -/
theorem shadowedWrite_holds : exec (.bufferEntryPerform 0 0) shadowedWrite = .next (shadowedWrite.holdEntry 0 0) := by
  have hover : shadowedWrite.overtakes (homeSlice 0) 0 0 0 = true := by decide
  have howned : shadowedWrite.ownedAhead freshWrite = false := by decide
  show Host.Outcome.next (shadowedWrite.bufPerform 0 0) = _
  unfold State.bufPerform
  simp only [shadowedWrite_core, List.getElem?_cons_zero, List.take_zero, List.any_nil, howned, Bool.or_self, Bool.false_eq_true, if_false]
  exact congrArg Host.Outcome.next (if_pos hover)

theorem shadowedWrite_stays : ((shadowedWrite.holdEntry 0 0).core 0).buf = [{ freshWrite with held := 2 }] := by
  rw [State.holdEntry, State.core_setCore]
  rfl

end Sys2Proof.Machine

namespace Sys2Proof.Claims

open Sys2Proof Sys2Proof.Machine

/-- Refutes O45: its first clause has a buffer entry leave the buffer when `nothingWaits`, which asks that no write is held in the buffer that
`core n` finds, the first entry of number `n`; `bufPerform` looks at every entry of the table. In `shadowedWrite` a second entry of core 0 holds an earlier
write of the context at the slice (R263), so the entry stays, held behind it. No run puts a number twice into a table. -/
theorem not_unitsWork : ¬ Obligations.UnitsWork := by
  unfold Obligations.UnitsWork
  intro h
  obtain ⟨hperform, -⟩ := h shadowedWrite shadowedWrite shadowedWrite 0 0 0 0 0 ⟨rfl, rfl⟩
  obtain ⟨t, ht, hbuf, -⟩ := hperform freshWrite rfl (fun y hy => by cases hy) nothingWaits_shadowedWrite (fun c hc => by cases hc) rfl
    (fun k c hc => by cases hc)
  rw [shadowedWrite_holds] at ht
  obtain rfl : shadowedWrite.holdEntry 0 0 = t := by injection ht
  rw [shadowedWrite_stays] at hbuf
  cases hbuf

end Sys2Proof.Claims
end
